-- ==== Sys2Proof/Word.lean ====
section
/-! DEFINITION. The words of the VX-2: 64-bit registers, bytes, and the plainest arithmetic on them (spec 00_scope R1-R3). -/

namespace Sys2Proof

/-- A 64-bit register or memory word (R95). -/
abbrev Word := BitVec 64
/-- A byte of memory (R3: multi-byte values are little-endian). -/
abbrev Byte := BitVec 8
/-- A register number as the encodings carry it (R49). -/
abbrev Reg := BitVec 5

end Sys2Proof
end

