-- ==== Sys2Proof/Config.lean ====
section
/-! DEFINITION. What one module fixes and the spec leaves open: the free values (opaque, so that nothing can be proved of them), and the constants of the module (R8, R11, R13, R205, R245, R257, R369). -/

namespace Sys2Proof.Config

/-- A free choice, applied to the counter `State.free`: which value a fetch sees before FENCE (R48), whether an
access uses a translation that a changed page table no longer gives (R366). See notes/assumptions/3.md. -/
opaque freeChoice : Nat → Nat

/-- The sequence number in the source word of a trap message of a strand and of a TRAP's request, which the spec leaves open (R104, R406, R409), applied to the
counter `State.free` (notes/assumptions/17.md). -/
opaque freeSeq : Nat → Nat

/-- What a byte of a view aperture outside every enabled format window reads as (R237, notes/assumptions/3.md). -/
opaque apertureByte : Nat → BitVec 8

/-- A byte of the scratch image that cannot be read (R274), applied to its virtual address (notes/assumptions/3.md). -/
opaque imageByte : Nat → BitVec 8

/-- How the components of a cut minimum after its VRT stand in the manifest's next 8 bytes (R423, notes/assumptions/3.md). -/
opaque cutMinTail : Nat → Nat → Nat → Nat → BitVec 64

/-- What the security block derives from its physically-unclonable function at every boot, from which comes the private identity key, and the secret number of the signature of a
report, applied to the number of reports (R454, notes/assumptions/130.md). -/
opaque pufValue : Nat
opaque signNonce : Nat → Nat

/-- The key that the security block generates for a partition, applied to its number and to how many keys have been made for it (R457). -/
opaque xtsKey : Nat → Nat → BitVec 512

/-- The digests of the image's two public keys that boot ROM holds (R452, notes/assumptions/130.md). -/
opaque romDigest : Bool → BitVec 384

/-- The 16-byte serial number in the identity registers (R454). -/
opaque serialNumber : Nat → BitVec 128

/-- The entry-specific value and the version of the capability list entries whose values the spec leaves open, and what stands between an entry and the next (R455,
notes/assumptions/3.md). -/
opaque capData : Nat → BitVec 64
opaque capVersion : Nat → BitVec 8
opaque capGap : Nat → BitVec 8

/-- Tiles of a module (R8). -/
def tileCount : Nat := 1024
/-- Physical tiles along one side of the mesh (R8). -/
def meshSide : Nat := 32
/-- Bytes of scratchpad of a tile (R10). -/
def scratchBytes : Nat := 1048576
/-- Bytes of a coherence line (R165). -/
def lineBytes : Nat := 128
/-- Lines of a core's data cache (R165). -/
def coreCopies : Nat := 128
/-- Lines of a die's remote-data cache, 32 MiB (R13). -/
def rdcLines : Nat := 262144
/-- Sets of a die's L2, 128 MiB of 16 ways, and of an RDC (R13; the RDC's ways are PRESUMED as the L2's, log entry 23). -/
def l2Sets : Nat := 65536
def rdcSets : Nat := 16384
/-- Entries of a core's ITLB and DTLB and of a tile's second-level TLB (R365). -/
def itlbEntries : Nat := 16
def dtlbEntries : Nat := 32
def tileTlbEntries : Nat := 1024
/-- The lease of a copy in ticks (R165). -/
def leaseTicks : Nat := 6
/-- Entries of an SFU's request queue (R148). -/
def sfuEntries : Nat := 16
/-- Copy slots of a logical core (R205). -/
def copySlots : Nat := 64
/-- Collectives in flight of a logical core (R381). -/
def collSlots : Nat := 16
/-- Items held on channels 0 to 14 of a logical core (R245). -/
def heldItems : Nat := 64
/-- Tasks of a ready ring (R257). -/
def ringTasks : Nat := 1024
/-- Words of a port (R249). -/
def portWords : Nat := 8
/-- Entries of an MU's command queue (R213). -/
def muEntries : Nat := 16
/-- Entries of a retransmit buffer (R436) and of a reorder buffer (R435). -/
def retransmitEntries : Nat := 64
def reorderEntries : Nat := 16
/-- Entries of a commit queue (R298). -/
def commitEntries : Nat := 256
/-- Page-request records of a die, and those reserved to each partition (R369). -/
def pageRecords : Nat := 256
def reservedRecords : Nat := 8
/-- Beats of a port's replay buffer (R439). -/
def replayBeats : Nat := 64

end Sys2Proof.Config
end

