-- ==== Sys2Proof/Syntax.lean ====
section
/-! DEFINITION. The instruction set: operand codes (R53) and `Instr`, one constructor per row of spec/opcode_table.json. -/

namespace Sys2Proof

/-- Access size, the SZ code of R53. -/
inductive Sz where
  | b | h | w | d | q
  deriving DecidableEq, Repr

/-- Floating-point element type, the ET code of R53. -/
inductive ET where
  | f32 | bf16 | f16 | e4m3 | e5m2
  deriving DecidableEq, Repr

/-- Integer element type, the IT code of R53. -/
inductive IT where
  | i8 | i16 | i32 | i64
  deriving DecidableEq, Repr

/-- Collective data type, the DT code of R53. -/
inductive DT where
  | f32 | i32 | i64
  deriving DecidableEq, Repr

/-- Rounding qualifier, the RM code of R53: five static modes (R73) and DYN, the mode in FRM. -/
inductive RM where
  | rne | rtz | rdn | rup | rna | dyn
  deriving DecidableEq, Repr

/-- Access path, the PC code of R53 (R174). -/
inductive Path where
  | core | put | copy | matrix | coll
  deriving DecidableEq, Repr

/-- The instructions and steps of the VX-2, one constructor per row of the opcode table. A row that the
table gives no instruction word (a matrix-unit command or a machine event) is a constructor without fields: what its
environment chooses stands in the state's field `ev`. -/
inductive Instr where
  -- Integer register operations (R107-R112)
  /-- ADD (R107): Writes the 64-bit wrapped sum of gA and gB to gD. -/
  | add (d : Reg) (a : Reg) (b : Reg)
  /-- ADD_L (R107): ADD with a 64-bit literal in place of gB. -/
  | addL (d : Reg) (a : Reg) (lit : Word)
  /-- SUB (R107): Writes the 64-bit wrapped difference gA minus gB to gD. -/
  | sub (d : Reg) (a : Reg) (b : Reg)
  /-- SUB_L (R107): SUB with a 64-bit literal in place of gB. -/
  | subL (d : Reg) (a : Reg) (lit : Word)
  /-- AND (R107): Writes the bitwise AND of gA and gB to gD. -/
  | and (d : Reg) (a : Reg) (b : Reg)
  /-- AND_L (R107): AND with a 64-bit literal in place of gB. -/
  | andL (d : Reg) (a : Reg) (lit : Word)
  /-- OR (R107): Writes the bitwise OR of gA and gB to gD. -/
  | or (d : Reg) (a : Reg) (b : Reg)
  /-- OR_L (R107): OR with a 64-bit literal in place of gB. -/
  | orL (d : Reg) (a : Reg) (lit : Word)
  /-- XOR (R107): Writes the bitwise exclusive OR of gA and gB to gD. -/
  | xor (d : Reg) (a : Reg) (b : Reg)
  /-- XOR_L (R107): XOR with a 64-bit literal in place of gB. -/
  | xorL (d : Reg) (a : Reg) (lit : Word)
  /-- ANDN (R107): Writes gA AND NOT gB to gD. -/
  | andn (d : Reg) (a : Reg) (b : Reg)
  /-- ANDN_L (R107): ANDN with a 64-bit literal in place of gB. -/
  | andnL (d : Reg) (a : Reg) (lit : Word)
  /-- ORN (R107): Writes gA OR NOT gB to gD. -/
  | orn (d : Reg) (a : Reg) (b : Reg)
  /-- ORN_L (R107): ORN with a 64-bit literal in place of gB. -/
  | ornL (d : Reg) (a : Reg) (lit : Word)
  /-- SEL (R107): Writes gA to gD when the old gD is non-zero, otherwise gB. -/
  | sel (d : Reg) (a : Reg) (b : Reg)
  /-- SEL_L (R107): SEL with a 64-bit literal in place of gB. -/
  | selL (d : Reg) (a : Reg) (lit : Word)
  /-- SHL (R108): Shifts gA left by gB[5:0], filling with zeros. -/
  | shl (d : Reg) (a : Reg) (b : Reg)
  /-- SHR (R108): Shifts gA right by gB[5:0], filling with zeros. -/
  | shr (d : Reg) (a : Reg) (b : Reg)
  /-- SRA (R108): Shifts gA right arithmetically by gB[5:0]. -/
  | sra (d : Reg) (a : Reg) (b : Reg)
  /-- ROTR (R108): Rotates gA right by gB[5:0]. -/
  | rotr (d : Reg) (a : Reg) (b : Reg)
  /-- MUL (R109): Writes the low 64 bits of gA times gB. -/
  | mul (d : Reg) (a : Reg) (b : Reg)
  /-- MUL_L (R109): MUL with a 64-bit literal in place of gB. -/
  | mulL (d : Reg) (a : Reg) (lit : Word)
  /-- MULH (R109): Writes the high 64 bits of the signed product of gA and gB. -/
  | mulh (d : Reg) (a : Reg) (b : Reg)
  /-- MULH_L (R109): MULH with a 64-bit literal in place of gB. -/
  | mulhL (d : Reg) (a : Reg) (lit : Word)
  /-- MULHU (R109): Writes the high 64 bits of the unsigned product of gA and gB. -/
  | mulhu (d : Reg) (a : Reg) (b : Reg)
  /-- MULHU_L (R109): MULHU with a 64-bit literal in place of gB. -/
  | mulhuL (d : Reg) (a : Reg) (lit : Word)
  /-- DIV (R110): Writes the signed quotient of gA by gB, never trapping. -/
  | div (d : Reg) (a : Reg) (b : Reg)
  /-- DIV_L (R110): DIV with a 64-bit literal divisor. -/
  | divL (d : Reg) (a : Reg) (lit : Word)
  /-- DIVU (R110): Writes the unsigned quotient of gA by gB. -/
  | divu (d : Reg) (a : Reg) (b : Reg)
  /-- DIVU_L (R110): DIVU with a 64-bit literal divisor. -/
  | divuL (d : Reg) (a : Reg) (lit : Word)
  /-- REM (R110): Writes the signed remainder of gA by gB. -/
  | rem (d : Reg) (a : Reg) (b : Reg)
  /-- REM_L (R110): REM with a 64-bit literal divisor. -/
  | remL (d : Reg) (a : Reg) (lit : Word)
  /-- REMU (R110): Writes the unsigned remainder of gA by gB. -/
  | remu (d : Reg) (a : Reg) (b : Reg)
  /-- REMU_L (R110): REMU with a 64-bit literal divisor. -/
  | remuL (d : Reg) (a : Reg) (lit : Word)
  /-- MIN (R107): Writes the smaller of gA and gB as INT64. -/
  | min (d : Reg) (a : Reg) (b : Reg)
  /-- MIN_L (R107): MIN with a 64-bit literal in place of gB. -/
  | minL (d : Reg) (a : Reg) (lit : Word)
  /-- MAX (R107): Writes the larger of gA and gB as INT64. -/
  | max (d : Reg) (a : Reg) (b : Reg)
  /-- MAX_L (R107): MAX with a 64-bit literal in place of gB. -/
  | maxL (d : Reg) (a : Reg) (lit : Word)
  /-- MINU (R107): Writes the smaller of gA and gB as UINT64. -/
  | minu (d : Reg) (a : Reg) (b : Reg)
  /-- MINU_L (R107): MINU with a 64-bit literal in place of gB. -/
  | minuL (d : Reg) (a : Reg) (lit : Word)
  /-- MAXU (R107): Writes the larger of gA and gB as UINT64. -/
  | maxu (d : Reg) (a : Reg) (b : Reg)
  /-- MAXU_L (R107): MAXU with a 64-bit literal in place of gB. -/
  | maxuL (d : Reg) (a : Reg) (lit : Word)
  /-- SLT (R107): Writes 1 when gA is less than gB as INT64, else 0. -/
  | slt (d : Reg) (a : Reg) (b : Reg)
  /-- SLT_L (R107): SLT with a 64-bit literal in place of gB. -/
  | sltL (d : Reg) (a : Reg) (lit : Word)
  /-- SLTU (R107): Writes 1 when gA is less than gB as UINT64, else 0. -/
  | sltu (d : Reg) (a : Reg) (b : Reg)
  /-- SLTU_L (R107): SLTU with a 64-bit literal in place of gB. -/
  | sltuL (d : Reg) (a : Reg) (lit : Word)
  /-- SEQ (R107): Writes 1 when gA equals gB, else 0. -/
  | seq (d : Reg) (a : Reg) (b : Reg)
  /-- SEQ_L (R107): SEQ with a 64-bit literal in place of gB. -/
  | seqL (d : Reg) (a : Reg) (lit : Word)
  /-- CLZ (R111): Writes the count of leading zero bits of gA. -/
  | clz (d : Reg) (a : Reg)
  /-- CTZ (R111): Writes the count of trailing zero bits of gA. -/
  | ctz (d : Reg) (a : Reg)
  /-- POPC (R111): Writes the number of set bits of gA. -/
  | popc (d : Reg) (a : Reg)
  /-- BREV (R111): Writes gA with its bit order reversed. -/
  | brev (d : Reg) (a : Reg)
  /-- BSWAP (R111): Writes gA with its byte order reversed. -/
  | bswap (d : Reg) (a : Reg)
  /-- SEXT (R112): Sign-extends the low n bits of gA, n from gB[5:0]. -/
  | sext (d : Reg) (a : Reg) (b : Reg)
  /-- ZEXT (R112): Zero-extends the low n bits of gA, n from gB[5:0]. -/
  | zext (d : Reg) (a : Reg) (b : Reg)
  /-- BFX (R112): Extracts a bit field of gA at the position and length in gB. -/
  | bfx (d : Reg) (a : Reg) (b : Reg)
  /-- BFI (R112): Inserts the low bits of gA into a field of gD given by gB. -/
  | bfi (d : Reg) (a : Reg) (b : Reg)
  -- Immediate and address instructions (R113-R115)
  /-- ADDI (R113): Adds the sign-extended IMM14 to gA. -/
  | addi (d : Reg) (a : Reg) (imm14 : BitVec 14)
  /-- ADDI_L (R113): ADDI with a 64-bit literal immediate. -/
  | addiL (d : Reg) (a : Reg) (lit : Word)
  /-- ANDI (R113): ANDs gA with the zero-extended IMM14. -/
  | andi (d : Reg) (a : Reg) (imm14 : BitVec 14)
  /-- ANDI_L (R113): ANDI with a 64-bit literal immediate. -/
  | andiL (d : Reg) (a : Reg) (lit : Word)
  /-- ORI (R113): ORs gA with the zero-extended IMM14. -/
  | ori (d : Reg) (a : Reg) (imm14 : BitVec 14)
  /-- ORI_L (R113): ORI with a 64-bit literal immediate. -/
  | oriL (d : Reg) (a : Reg) (lit : Word)
  /-- XORI (R113): Exclusive-ORs gA with the zero-extended IMM14. -/
  | xori (d : Reg) (a : Reg) (imm14 : BitVec 14)
  /-- XORI_L (R113): XORI with a 64-bit literal immediate. -/
  | xoriL (d : Reg) (a : Reg) (lit : Word)
  /-- SLTI (R113): Writes 1 when gA is below the signed immediate. -/
  | slti (d : Reg) (a : Reg) (imm14 : BitVec 14)
  /-- SLTI_L (R113): SLTI with a 64-bit literal immediate. -/
  | sltiL (d : Reg) (a : Reg) (lit : Word)
  /-- SLTIU (R113): Writes 1 when gA is below the sign-extended immediate as UINT64. -/
  | sltiu (d : Reg) (a : Reg) (imm14 : BitVec 14)
  /-- SLTIU_L (R113): SLTIU with a 64-bit literal immediate. -/
  | sltiuL (d : Reg) (a : Reg) (lit : Word)
  /-- SHLI (R113): Shifts gA left by an immediate count of 0 to 63. -/
  | shli (d : Reg) (a : Reg) (imm14 : BitVec 14)
  /-- SHRI (R113): Shifts gA right logically by an immediate count. -/
  | shri (d : Reg) (a : Reg) (imm14 : BitVec 14)
  /-- SRAI (R113): Shifts gA right arithmetically by an immediate count. -/
  | srai (d : Reg) (a : Reg) (imm14 : BitVec 14)
  /-- LIM (R114): Writes the sign-extended IMM19 to gD. -/
  | lim (d : Reg) (imm19 : BitVec 19)
  /-- LIM_L (R114): Writes a 64-bit literal to gD. -/
  | limL (d : Reg) (lit : Word)
  /-- ADDPC (R115): Writes the address of the instruction plus four times IMM19 to gD. -/
  | addpc (d : Reg) (imm19 : BitVec 19)
  -- Branches, jumps, REP (R116-R120)
  /-- BEQ (R116): Branches when gA equals gB; BZ when B is 0. -/
  | beq (a : Reg) (b : Reg) (off14 : BitVec 14)
  /-- BNE (R116): Branches when gA differs from gB; BNZ when B is 0. -/
  | bne (a : Reg) (b : Reg) (off14 : BitVec 14)
  /-- BLT (R116): Branches when gA is below gB as INT64. -/
  | blt (a : Reg) (b : Reg) (off14 : BitVec 14)
  /-- BGE (R116): Branches when gA is at least gB as INT64. -/
  | bge (a : Reg) (b : Reg) (off14 : BitVec 14)
  /-- BLTU (R116): Branches when gA is below gB as UINT64. -/
  | bltu (a : Reg) (b : Reg) (off14 : BitVec 14)
  /-- BGEU (R116): Branches when gA is at least gB as UINT64. -/
  | bgeu (a : Reg) (b : Reg) (off14 : BitVec 14)
  /-- JAL (R117): Writes the return address to gD and jumps by IMM19 words; JMP when D is 0. -/
  | jal (d : Reg) (imm19 : BitVec 19)
  /-- JALR (R118): Writes the return address to gD and jumps to gA. -/
  | jalr (d : Reg) (a : Reg)
  /-- REP (R120): Repeats the following body of n words gA times. -/
  | rep (a : Reg) (n : BitVec 5)
  -- Loads and stores (R121-R129)
  /-- LD (R121): Loads and zero-extends 1 to 8 bytes into gD, or 16 bytes into an f pair. -/
  | ld (d : Reg) (a : Reg) (off10 : BitVec 10) (ef : Bool) (sz : Sz)
  /-- LD_L (R121): LD with a 64-bit literal byte offset. -/
  | ldL (d : Reg) (a : Reg) (ef : Bool) (sz : Sz) (lit : Word)
  /-- ST (R121): Stores 1 to 8 bytes of gB, or an f pair, at the effective address. -/
  | st (a : Reg) (b : Reg) (off10 : BitVec 10) (ef : Bool) (sz : Sz)
  /-- ST_L (R121): ST with a 64-bit literal byte offset. -/
  | stL (a : Reg) (b : Reg) (ef : Bool) (sz : Sz) (lit : Word)
  /-- LDP (R121): Loads 16 bytes into the register pair gD, gD+1. -/
  | ldp (d : Reg) (a : Reg) (off10 : BitVec 10) (ef : Bool) (sz : Sz)
  /-- LDP_L (R121): LDP with a 64-bit literal byte offset. -/
  | ldpL (d : Reg) (a : Reg) (ef : Bool) (sz : Sz) (lit : Word)
  /-- STP (R121): Stores the register pair gB, gB+1 as 16 bytes. -/
  | stp (a : Reg) (b : Reg) (off10 : BitVec 10) (ef : Bool) (sz : Sz)
  /-- STP_L (R121): STP with a 64-bit literal byte offset. -/
  | stpL (a : Reg) (b : Reg) (ef : Bool) (sz : Sz) (lit : Word)
  /-- LDV (R123): Loads from gA plus gB into gD. -/
  | ldv (d : Reg) (a : Reg) (b : Reg) (ef : Bool) (sz : Sz)
  /-- STV (R123): Stores gD at gA plus gB. -/
  | stv (d : Reg) (a : Reg) (b : Reg) (ef : Bool) (sz : Sz)
  /-- STQ (R128): Hands eight f registers to the MU queue as one command record. -/
  | stq (a : Reg) (b : Reg)
  /-- PREF_RD (R129): Announces an intent to read the line at gA plus gB, without visible effect. -/
  | prefRd (a : Reg) (b : Reg)
  /-- PREF_WR (R129): Announces an intent to write the line at gA plus gB, without visible effect. -/
  | prefWr (a : Reg) (b : Reg)
  -- Atomics (R182-R186)
  /-- AMOADD (R183): Atomically adds gB to memory at gA and returns the old value. -/
  | amoadd (d : Reg) (a : Reg) (b : Reg) (sz : Sz)
  /-- AMOSWAP (R183): Atomically swaps gB with memory at gA. -/
  | amoswap (d : Reg) (a : Reg) (b : Reg) (sz : Sz)
  /-- AMOAND (R183): Atomically ANDs gB into memory at gA. -/
  | amoand (d : Reg) (a : Reg) (b : Reg) (sz : Sz)
  /-- AMOOR (R183): Atomically ORs gB into memory at gA. -/
  | amoor (d : Reg) (a : Reg) (b : Reg) (sz : Sz)
  /-- AMOXOR (R183): Atomically exclusive-ORs gB into memory at gA. -/
  | amoxor (d : Reg) (a : Reg) (b : Reg) (sz : Sz)
  /-- AMOMIN (R183): Atomically keeps the signed minimum of memory and gB. -/
  | amomin (d : Reg) (a : Reg) (b : Reg) (sz : Sz)
  /-- AMOMAX (R183): Atomically keeps the signed maximum of memory and gB. -/
  | amomax (d : Reg) (a : Reg) (b : Reg) (sz : Sz)
  /-- AMOMINU (R183): Atomically keeps the unsigned minimum of memory and gB. -/
  | amominu (d : Reg) (a : Reg) (b : Reg) (sz : Sz)
  /-- AMOMAXU (R183): Atomically keeps the unsigned maximum of memory and gB. -/
  | amomaxu (d : Reg) (a : Reg) (b : Reg) (sz : Sz)
  /-- CAS (R184): Atomically replaces memory with gB when it equals gD and returns the old value. -/
  | cas (d : Reg) (a : Reg) (b : Reg) (sz : Sz)
  /-- FAMOADD (R186): Atomically adds a float in gB to memory at gA with one rounding. -/
  | famoadd (d : Reg) (a : Reg) (b : Reg) (rm : RM) (et : ET)
  -- Packed floating point (R130-R146)
  /-- FADD (R135): Lane-wise float addition rounded once. -/
  | fadd (d : Reg) (a : Reg) (b : Reg) (rm : RM) (et : ET)
  /-- FSUB (R135): Lane-wise float subtraction rounded once. -/
  | fsub (d : Reg) (a : Reg) (b : Reg) (rm : RM) (et : ET)
  /-- FMUL (R135): Lane-wise float multiplication rounded once. -/
  | fmul (d : Reg) (a : Reg) (b : Reg) (rm : RM) (et : ET)
  /-- FDIV (R135): Lane-wise correctly rounded float division. -/
  | fdiv (d : Reg) (a : Reg) (b : Reg) (rm : RM) (et : ET)
  /-- FMA (R135): Lane-wise fused a times b plus d. -/
  | fma (d : Reg) (a : Reg) (b : Reg) (rm : RM) (et : ET)
  /-- FMS (R135): Lane-wise fused a times b minus d. -/
  | fms (d : Reg) (a : Reg) (b : Reg) (rm : RM) (et : ET)
  /-- FNMA (R135): Lane-wise fused minus a times b plus d. -/
  | fnma (d : Reg) (a : Reg) (b : Reg) (rm : RM) (et : ET)
  /-- FNMS (R135): Lane-wise fused minus a times b minus d. -/
  | fnms (d : Reg) (a : Reg) (b : Reg) (rm : RM) (et : ET)
  /-- FSQRT (R137): Lane-wise square root rounded once. -/
  | fsqrt (d : Reg) (a : Reg) (rm : RM) (et : ET)
  /-- FSUM (R137): Sums every lane of fA exactly and rounds once into lane 0. -/
  | fsum (d : Reg) (a : Reg) (rm : RM) (et : ET)
  /-- FMIN (R138): Lane-wise float minimum. -/
  | fmin (d : Reg) (a : Reg) (b : Reg) (et : ET)
  /-- FMAX (R138): Lane-wise float maximum. -/
  | fmax (d : Reg) (a : Reg) (b : Reg) (et : ET)
  /-- FABS (R138): Clears the sign bit of each lane. -/
  | fabs (d : Reg) (a : Reg) (et : ET)
  /-- FNEG (R138): Inverts the sign bit of each lane. -/
  | fneg (d : Reg) (a : Reg) (et : ET)
  /-- FSGNJ (R138): Gives each lane of fA the sign of fB. -/
  | fsgnj (d : Reg) (a : Reg) (b : Reg) (et : ET)
  /-- FCMPEQ (R138): Lane-wise equality mask. -/
  | fcmpeq (d : Reg) (a : Reg) (b : Reg) (et : ET)
  /-- FCMPLT (R138): Lane-wise less-than mask, NV on NaN. -/
  | fcmplt (d : Reg) (a : Reg) (b : Reg) (et : ET)
  /-- FCMPLE (R138): Lane-wise less-or-equal mask, NV on NaN. -/
  | fcmple (d : Reg) (a : Reg) (b : Reg) (et : ET)
  /-- FCLASS (R138): Writes the class code of each lane. -/
  | fclass (d : Reg) (a : Reg) (et : ET)
  /-- FMV_FF (R139): Copies fA to fD unchanged. -/
  | fmvFF (d : Reg) (a : Reg)
  /-- FMV_FG (R139): Copies gA to fD unchanged. -/
  | fmvFG (d : Reg) (a : Reg)
  /-- FMV_GF (R139): Copies fA to gD unchanged. -/
  | fmvGF (d : Reg) (a : Reg)
  /-- FPACK (R140): Narrows the lanes of fA and fB into fD under FRM. -/
  | fpack (d : Reg) (a : Reg) (b : Reg) (dst : ET) (et : ET)
  /-- FUNPK (R140): Widens one half of the lanes of fA exactly into fD. -/
  | funpk (d : Reg) (a : Reg) (hi : Bool) (dst : ET) (et : ET)
  /-- FSHUF (R141): Permutes the lanes of fA by the indexes in gB. -/
  | fshuf (d : Reg) (a : Reg) (b : Reg) (et : ET)
  /-- FCVT (R143): Converts float lanes between element types. -/
  | fcvt (d : Reg) (a : Reg) (sat : Bool) (rm : RM) (dst : ET) (et : ET)
  /-- FCVTI (R144): Converts float lanes to integer lanes with wrap or saturation. -/
  | fcvti (d : Reg) (a : Reg) (sat : Bool) (rm : RM) (idst : IT) (et : ET)
  /-- FCVTF (R145): Converts integer lanes to float lanes. -/
  | fcvtf (d : Reg) (a : Reg) (sat : Bool) (rm : RM) (dst : ET) (isrc : IT)
  /-- FADD_IMM (R146): Adds a broadcast immediate to each lane of fD under FRM. -/
  | faddImm (d : Reg) (et : ET) (imm16 : BitVec 16)
  /-- FMUL_IMM (R146): Multiplies each lane of fD by a broadcast immediate under FRM. -/
  | fmulImm (d : Reg) (et : ET) (imm16 : BitVec 16)
  /-- FMV_IMM (R146): Writes a broadcast immediate into every lane of fD. -/
  | fmvImm (d : Reg) (et : ET) (imm16 : BitVec 16)
  -- Special-function unit (R147-R150)
  /-- FEXP2 (R147): Sends a 2^a request for both F32 lanes to the SFU. -/
  | fexp2 (d : Reg) (a : Reg) (rm : RM)
  /-- FLOG2 (R147): Sends a log2 request to the SFU. -/
  | flog2 (d : Reg) (a : Reg) (rm : RM)
  /-- FRCP (R147): Sends a reciprocal request to the SFU. -/
  | frcp (d : Reg) (a : Reg) (rm : RM)
  /-- FRSQ (R147): Sends a reciprocal square root request to the SFU. -/
  | frsq (d : Reg) (a : Reg) (rm : RM)
  /-- FSIN (R147): Sends a sine request to the SFU. -/
  | fsin (d : Reg) (a : Reg) (rm : RM)
  /-- FCOS (R147): Sends a cosine request to the SFU. -/
  | fcos (d : Reg) (a : Reg) (rm : RM)
  /-- FTANH (R147): Sends a tanh request to the SFU. -/
  | ftanh (d : Reg) (a : Reg) (rm : RM)
  /-- FLGST (R147): Sends a logistic request to the SFU. -/
  | flgst (d : Reg) (a : Reg) (rm : RM)
  -- Streams (R151-R157)
  /-- SCFG (R154): Configures a stream register's base, strides, direction and dimensions. -/
  | scfg (d : Reg) (a : Reg) (b : Reg) (dir : Bool) (ndim : BitVec 2) (imm32 : BitVec 32)
  /-- SDIM (R155): Sets a stream's bounds and clears its indexes. -/
  | sdim (d : Reg) (a : Reg)
  /-- SEN (R156): Enables a stream register. -/
  | sen (d : Reg)
  /-- SDIS (R156): Disables a stream register, restoring its ordinary value. -/
  | sdis (d : Reg)
  /-- SSTAT (R156): Reads the upper stream state into gD. -/
  | sstat (d : Reg) (a : Reg)
  -- Queue registers (R249-R256)
  /-- QGET (R251): Takes and removes the oldest word of a read end, parking while empty. -/
  | qget (d : Reg) (q : BitVec 3)
  /-- QPUT (R252): Sends gB to a write end, parking while the port lacks space. -/
  | qput (q : BitVec 3) (b : Reg)
  /-- QPEEK (R251): Reads the oldest word of a read end without removing it. -/
  | qpeek (d : Reg) (q : BitVec 3)
  /-- QTRY (R251): Takes a word if present, reporting success in gD+1. -/
  | qtry (d : Reg) (q : BitVec 3)
  /-- QTPUT (R252): Sends gB only if the port has space, reporting success. -/
  | qtput (d : Reg) (q : BitVec 3) (b : Reg)
  /-- QCFG (R250): Binds or unbinds a queue register to a port end. -/
  | qcfg (d : Reg) (q : BitVec 3) (b : Reg)
  /-- QSTAT (R254): Reads a queue register's binding word and count. -/
  | qstat (d : Reg) (q : BitVec 3)
  -- Messages and warp (R288-R314)
  /-- SEND (R291): Sends a four-word message to a destination channel. -/
  | send (d : Reg) (a : Reg) (b : Reg)
  /-- SENDT (R291): Sends a message with an explicit virtual receive time. -/
  | sendt (d : Reg) (a : Reg) (b : Reg) (c : Reg) (imm32 : BitVec 32)
  /-- KEEP (R295): Declares a keep region in the lowest free slot. -/
  | keep (d : Reg) (a : Reg) (b : Reg)
  /-- UNKEEP (R295): Frees the keep slot whose region begins at gA. -/
  | unkeep (a : Reg)
  /-- GVTR (R308): Reads GVT, optionally parking until it passes gA. -/
  | gvtr (d : Reg) (a : Reg)
  /-- ANTI (R305): Cancels a message that the activation sent. -/
  | anti (d : Reg) (a : Reg)
  -- Kernel (R270-R285)
  /-- LAUNCH (R275): Launches a kernel from a header, or releases a held child. -/
  | launch (d : Reg) (a : Reg) (b : Reg)
  /-- WID (R283): Extracts a field or prefix of a work identifier. -/
  | wid (d : Reg) (a : Reg) (n : BitVec 5)
  /-- KSTAT (R284): Reads the status of a kernel. -/
  | kstat (d : Reg) (a : Reg)
  /-- KEND (R285): Ends the issuing kernel or a child of it. -/
  | kend (d : Reg) (a : Reg)
  -- Codelets and tasks (R257-R267)
  /-- CLNEW (R264): Makes a scratch record a fresh codelet and returns its handle. -/
  | clnew (d : Reg) (a : Reg) (b : Reg)
  /-- CLPUB (R265): Sends a publish update with an event count to a codelet. -/
  | clpub (a : Reg) (b : Reg)
  /-- CLDEC (R265): Sends a decrement update to a codelet. -/
  | cldec (a : Reg)
  /-- SPAWN (R260): Pushes a task onto the issuing logical core's ready ring. -/
  | spawn (a : Reg)
  /-- CALLAT (R261): Sends a call task to another core's ready ring. -/
  | callat (d : Reg) (a : Reg) (b : Reg)
  /-- RETV (R262): Returns a value to the caller of the running call activation. -/
  | retv (a : Reg)
  -- Channel binding and dispatch (R242-R248, R279)
  /-- BIND (R246): Sets or removes an input channel's binding. -/
  | bind (d : Reg) (a : Reg) (b : Reg)
  /-- CHPRI (R247): Sets an input channel's priority. -/
  | chpri (a : Reg) (b : Reg)
  /-- CHMASK (R248): Sets the channel mask of the logical core. -/
  | chmask (d : Reg) (a : Reg)
  -- Chains (R341-R361)
  /-- CHAIN (R354): Creates a chain from a descriptor and starts its stages. -/
  | chain (d : Reg) (a : Reg) (b : Reg)
  /-- RECOIL (R355): Requests a switch of a chain to coil form. -/
  | recoil (d : Reg) (a : Reg)
  /-- UNCOIL (R355): Requests a switch of a chain to stake form. -/
  | uncoil (d : Reg) (a : Reg)
  /-- CFORM (R357): Reads the status of a chain. -/
  | cform (d : Reg) (a : Reg)
  -- Puts, remote loads, copies (R187, R196-R198, R205-R211)
  /-- PUT (R196): Writes gB to a remote address on the PUT path. -/
  | put (a : Reg) (b : Reg) (sz : Sz)
  /-- PUT_L (R196): PUT with its data as a 64-bit literal. -/
  | putL (a : Reg) (sz : Sz) (lit : Word)
  /-- PUTV (R196): Writes gB to a remote address plus gD. -/
  | putv (d : Reg) (a : Reg) (b : Reg) (sz : Sz)
  /-- RLD (R196): Issues a remote load whose value becomes pending in gD. -/
  | rld (d : Reg) (a : Reg) (sz : Sz)
  /-- RADD (R187): Atomically adds gB at a remote address without a return. -/
  | radd (a : Reg) (b : Reg) (sz : Sz)
  /-- RADD_L (R187): RADD with its addend as a 64-bit literal. -/
  | raddL (a : Reg) (sz : Sz) (lit : Word)
  /-- CPY (R207): Starts a linear copy from a descriptor. -/
  | cpy (d : Reg) (a : Reg)
  /-- CPYS (R207): Starts a strided copy, optionally converting elements. -/
  | cpys (d : Reg) (a : Reg) (imm32 : BitVec 32)
  /-- CPYG (R207): Starts an indexed gather copy. -/
  | cpyg (d : Reg) (a : Reg) (imm32 : BitVec 32)
  /-- CPYX (R207): Starts an indexed scatter copy. -/
  | cpyx (d : Reg) (a : Reg) (imm32 : BitVec 32)
  /-- CPYQ (R211): Reads the status of a copy by id. -/
  | cpyq (d : Reg) (a : Reg)
  /-- CPYC (R211): Cancels a copy and parks until the engine stops writing it. -/
  | cpyc (d : Reg) (a : Reg)
  -- Retention, cache maintenance, windows (R192-R204)
  /-- PIN (R202): Takes a retention register for a page's range. -/
  | pin (d : Reg) (a : Reg) (b : Reg)
  /-- UNPIN (R203): Releases a retention register. -/
  | unpin (a : Reg)
  /-- FLSH (R204): Writes back the dirty L2 lines of a range. -/
  | flsh (a : Reg) (b : Reg)
  /-- INVL (R204): Writes back and drops the cached lines of a range. -/
  | invl (a : Reg) (b : Reg)
  /-- WINSET (R195): Sets a window register of the logical tile. -/
  | winset (a : Reg) (b : Reg) (win : BitVec 3) (imm32 : BitVec 32)
  -- Matrix unit (R213-R241)
  /-- MXSTAT (R230): Reads the MU status, optionally clearing FL. -/
  | mxstat (d : Reg) (clr : Bool)
  /-- MXGANG (R234): Forms or dissolves a gang of matrix units. -/
  | mxgang (d : Reg) (a : Reg) (dis : Bool) (cm1 : BitVec 4) (rm1 : BitVec 3) (imm32 : BitVec 32)
  -- Groups and collectives (R376-R390)
  /-- GJOIN (R389): Joins or creates a group, opening a new generation. -/
  | gjoin (d : Reg) (a : Reg) (b : Reg)
  /-- GLEAVE (R389): Leaves a group, opening a new generation. -/
  | gleave (d : Reg) (a : Reg)
  /-- GGEN (R389): Moves the member's view to the latest generation. -/
  | ggen (d : Reg) (a : Reg)
  /-- CSTAT (R386): Reads the status of a collective. -/
  | cstat (d : Reg) (a : Reg)
  /-- CRED (R383): Starts a sum reduction collective. -/
  | cred (d : Reg) (a : Reg) (b : Reg) (rm : RM) (mode : Bool) (dt : DT)
  /-- CREDMIN (R383): Starts a minimum reduction collective. -/
  | credmin (d : Reg) (a : Reg) (b : Reg) (rm : RM) (mode : Bool) (dt : DT)
  /-- CREDMAX (R383): Starts a maximum reduction collective. -/
  | credmax (d : Reg) (a : Reg) (b : Reg) (rm : RM) (mode : Bool) (dt : DT)
  /-- CREDAND (R383): Starts an AND reduction collective. -/
  | credand (d : Reg) (a : Reg) (b : Reg) (rm : RM) (mode : Bool) (dt : DT)
  /-- CREDOR (R383): Starts an OR reduction collective. -/
  | credor (d : Reg) (a : Reg) (b : Reg) (rm : RM) (mode : Bool) (dt : DT)
  /-- CBCST (R383): Starts a broadcast collective from a root rank. -/
  | cbcst (d : Reg) (a : Reg) (b : Reg) (rm : RM) (dt : DT)
  /-- CAGTH (R383): Starts an all-gather collective. -/
  | cagth (d : Reg) (a : Reg) (b : Reg) (rm : RM) (dt : DT)
  /-- CRSCT (R383): Starts a reduce-scatter collective. -/
  | crsct (d : Reg) (a : Reg) (b : Reg) (rm : RM) (mode : Bool) (dt : DT)
  -- Barriers and waits (R391-R403, R212)
  /-- BINIT (R395): Creates a barrier record and participant table. -/
  | binit (d : Reg) (a : Reg) (b : Reg) (lo : BitVec 12) (n1 : BitVec 12)
  /-- BARV (R396): Arrives at a barrier in the current or next phase. -/
  | barv (d : Reg) (a : Reg)
  /-- BWAIT (R397): Parks until a barrier phase has completed. -/
  | bwait (d : Reg) (a : Reg) (b : Reg)
  /-- BTEST (R397): Tests whether a barrier phase has completed. -/
  | btest (d : Reg) (a : Reg) (b : Reg)
  /-- BCNT (R398): Adds to a barrier's pending byte count. -/
  | bcnt (a : Reg) (b : Reg)
  /-- BWDRAW (R399): Withdraws the logical tile from a barrier. -/
  | bwdraw (d : Reg) (a : Reg)
  /-- WAITA (R212): Loads a word and parks until it equals gB. -/
  | waita (a : Reg) (b : Reg)
  -- Territory (R316-R339)
  /-- TSHAPE (R333): Reads the territory's shape summary or a row bitmap. -/
  | tshape (d : Reg) (a : Reg)
  /-- TUPC (R336): Sets the territory's upcall target. -/
  | tupc (d : Reg) (a : Reg)
  /-- TPRESS (R335): Reads a latched pressure or load value. -/
  | tpress (d : Reg) (a : Reg)
  /-- TMAP (R334): Reads where a logical tile is hosted. -/
  | tmap (d : Reg) (a : Reg)
  /-- TPIN (R337): Pins or unpins a logical tile against moves. -/
  | tpin (d : Reg) (a : Reg) (b : Reg)
  -- Fences and pages (R188-R190, R362-R375)
  /-- CFENCE (R189): Orders one path's earlier accesses before another path's later ones. -/
  | cfence (px : Path) (py : Path)
  /-- TLBI (R374): Drops translations of a range across the device. -/
  | tlbi (a : Reg) (b : Reg)
  /-- PMIG (R374): Asks for a page to migrate to a controller. -/
  | pmig (d : Reg) (a : Reg) (b : Reg)
  /-- PDIRTY (R374): Reads and clears 64 granule dirty bits. -/
  | pdirty (d : Reg) (a : Reg)
  /-- PSHIP (R374): Ships the strand to a page's cluster or back home. -/
  | pship (a : Reg)
  /-- PHOME (R374): Reads a page's state, flags, size and controller. -/
  | phome (d : Reg) (a : Reg)
  -- System, traps, contexts (R404-R426)
  /-- TRAP (R409): Sends a service request to the resident kernel and parks for the answer. -/
  | trap (d : Reg) (a : Reg)
  /-- ERET (R408): Resumes or ends a trapped strand by its handle. -/
  | eret (d : Reg) (a : Reg) (b : Reg)
  /-- CRR (R411): Reads a control register. -/
  | crr (d : Reg) (cr : BitVec 5)
  /-- CRW (R411): Writes a control register and returns its old value. -/
  | crw (d : Reg) (a : Reg) (cr : BitVec 5)
  /-- CRS (R411): Sets bits of a control register. -/
  | crs (d : Reg) (a : Reg) (cr : BitVec 5)
  /-- CRC (R411): Clears bits of a control register. -/
  | crc (d : Reg) (a : Reg) (cr : BitVec 5)
  /-- BRK (R410): Traps BRK with its immediate in EINFO. -/
  | brk (n : BitVec 5)
  /-- MARK (R424): Asks for a cut of the kernel and parks until it completes. -/
  | mark (d : Reg) (a : Reg)
  /-- SWSET (R420): Asks firmware to switch the partition out at a time T. -/
  | swset (d : Reg) (a : Reg) (imm32 : BitVec 32)
  /-- HINT (R64): A hint-space word executes as a no-op of its length. -/
  | hint (hlen : BitVec 2) (hraw : BitVec 21)
  -- Link (R430-R441)
  -- Watch (R442-R450)
  /-- TSTAMP (R450): Reads TBASE or the clock-event count after earlier instructions complete. -/
  | tstamp (d : Reg) (sel5 : BitVec 5)
  /-- PCNTR (R450): Reads a counter of the issuing context. -/
  | pcntr (d : Reg) (a : Reg)
  /-- TRACE (R450): Writes a USER trace record. -/
  | trace (a : Reg) (b : Reg)
  -- Clocks (R165-R168, R444, R460)
  -- Bring-up and firmware (R451-R458, R4)
  -- Instructions without operand fields (their rules are in the sections above)
  /-- DONE (R292): Ends the activation after its parks and frees the slot. -/
  | done
  /-- IRREV (R302): Parks until two deliveries carry the activation's key, then makes it irrevocable. -/
  | irrev
  /-- EQPT (R356): Marks an equivalence point where a stage halts if a switch is pending. -/
  | eqpt
  /-- MXSWAP (R228): Exchanges the working and visible banks after earlier records complete. -/
  | mxswap
  /-- MXWAIT (R229): Parks until every earlier record has completed. -/
  | mxwait
  /-- MXRST (R231): Discards queued records, stops the unit and zeroes banks and status. -/
  | mxrst
  /-- FENCE (R188): Parks until earlier CORE stores are performed and refetches later words. -/
  | fence
  /-- PFENCE (R190): Parks until every earlier put-path access is acknowledged. -/
  | pfence
  /-- HALT (R410): Stops the strand for a debug agent, or traps BRK without one. -/
  | halt
  -- Steps without a word: Special-function unit (R147-R150)
  /-- SFU_RESULT (R148): The SFU returns a result, writing fD and FFLAGS and unparking the strand. -/
  | sfuResult
  -- Steps without a word: Queue registers (R249-R256)
  /-- QUEUE_WORD_ARRIVAL (R252): A queue word arrives at its destination port. -/
  | queueWordArrival
  -- Steps without a word: Messages and warp (R288-R314)
  /-- MESSAGE_ARRIVAL (R245): A message arrives at a core's input channel and is accepted or held. -/
  | messageArrival
  /-- ANTIMESSAGE_ARRIVAL (R304): An antimessage annihilates, rolls back or parks against its twin. -/
  | antimessageArrival
  /-- CALL_ARRIVAL (R261): A call or spawned task arrives on a ready ring. -/
  | callArrival
  /-- RETURN_ARRIVAL (R261): A return writes the caller's pending register or arrives on its channel. -/
  | returnArrival
  /-- GVT_DELIVERY (R307): A key minimum is delivered to a core, setting GVT. -/
  | gvtDelivery
  -- Steps without a word: Kernel (R270-R285)
  /-- FIRMWARE_LAUNCH (R275): Firmware launches a kernel from a header. -/
  | firmwareLaunch
  /-- SWEEP (R281): Every 5 µs the sweep tree sums counts and idleness over the territory. -/
  | sweep
  /-- KERNEL_STOP_COMPLETE (R276): Every core reports stopped and an ENDING kernel becomes ENDED. -/
  | kernelStopComplete
  -- Steps without a word: Codelets and tasks (R257-R267)
  /-- STEAL_ATTEMPT (R259): Every 2 µs an idle core tries to steal a task from a victim ring. -/
  | stealAttempt
  /-- CODELET_UPDATE (R265): A publish or decrement update is applied at the codelet record. -/
  | codeletUpdate
  -- Steps without a word: Channel binding and dispatch (R242-R248, R279)
  /-- DISPATCH (R243): A free strand slot starts one activation from the chosen item. -/
  | dispatch
  /-- PRIORITY_PROMOTION (R244): Each full 1 ms of waiting lowers an item's effective priority. -/
  | priorityPromotion
  /-- SLICE_EXPIRY (R279): A record that held a slot for SLICE ns yields it at the next DONE. -/
  | sliceExpiry
  /-- BIND_RECORD_WRITE (R279): Firmware writes or invalidates a bind record in a tile's slot table, changing which teams dispatch may fill. -/
  | bindRecordWrite
  -- Steps without a word: Chains (R341-R361)
  /-- CHAIN_SWITCH (R349): At an equivalence point the chain moves its link words and state to the other form. -/
  | chainSwitch
  -- Steps without a word: Puts, remote loads, copies (R187, R196-R198, R205-R211)
  /-- COPY_COMPLETE (R209): A copy writes its last unit and ends done. -/
  | copyComplete
  /-- COPY_ERROR (R209): A copy meets a refusal, uncorrectable read or log overflow and ends with error. -/
  | copyError
  /-- REMOTE_ACCESS_ARRIVAL (R194): A put-path access or copy unit is checked against the window and performed or refused. -/
  | remoteAccessArrival
  /-- PUT_ACKNOWLEDGEMENT (R177): An acknowledgement of a put-path access reaches its issuer. -/
  | putAcknowledgement
  /-- NEGATIVE_ACKNOWLEDGEMENT (R197): A refusal reaches its issuer and is held for reporting as WINDOW_NACK. -/
  | negativeAcknowledgement
  /-- RLD_RETURN (R197): A remote load's value returns to its pending register. -/
  | rldReturn
  -- Steps without a word: Matrix unit (R213-R241)
  /-- MNOP (R226): MU command with no effect. -/
  | mnop
  /-- MMA (R220): MU command multiplying plane blocks over K blocks into the working bank. -/
  | mma
  /-- MMAS (R221): MU command multiplying with an N-of-16 sparse B. -/
  | mmas
  /-- MZERO (R222): MU command zeroing the working bank. -/
  | mzero
  /-- MLDB (R222): MU command loading the working bank from scratchpad. -/
  | mldb
  /-- MSTB (R223): MU command storing the visible bank to scratchpad with conversion. -/
  | mstb
  /-- MPACK (R224): MU command converting elements to plane form. -/
  | mpack
  /-- MUNPK (R225): MU command unpacking a plane block to elements. -/
  | munpk
  /-- MSIG (R226): MU command writing a signal word after earlier commands. -/
  | msig
  /-- MBAR (R226): MU command holding later commands until earlier accesses are performed. -/
  | mbar
  /-- FORMAT_WINDOW_FILL (R239): A view line fill converts the whole view block to plane form. -/
  | formatWindowFill
  /-- FORMAT_WINDOW_CTL_WRITE (R237): A CTL write to a format window, leaving EN 0 when invalid. -/
  | formatWindowCtlWrite
  -- Steps without a word: Groups and collectives (R376-R390)
  /-- COLLECTIVE_COMPLETE (R383): A collective instance completes and writes its results at each member. -/
  | collectiveComplete
  /-- GROUP_TIMEOUT (R379): An instance waits TMO for a member and a timeout record goes to the resident kernel. -/
  | groupTimeout
  /-- MEMBER_WITHDRAWAL (R379): The resident kernel removes a member from a group as GLEAVE does. -/
  | memberWithdrawal
  -- Steps without a word: Territory (R316-R339)
  /-- NOVENA_LATCH (R319): At a cycle's first phase each tile latches LOAD and the tree sums pressure. -/
  | novenaLatch
  /-- BORDER_PROPOSAL (R321): At a phase start qualifying candidates send proposals to both anchors. -/
  | borderProposal
  /-- BORDER_GRANT (R321): Both anchors grant a proposal and the move begins. -/
  | borderGrant
  /-- PROPOSAL_DROP (R321): A proposal not granted within 5 µs is dropped. -/
  | proposalDrop
  /-- CEDE_COMPLETE (R325): After its activations end the tile rehomes, clears and passes to the taker. -/
  | cedeComplete
  /-- TREE_PARENT_CHANGE (R320): A member tile adopts a lower-depth neighbour as its sweep-tree parent. -/
  | treeParentChange
  /-- LEVELLING_CHECK (R328): Every 2 µs a tile compares levelling loads and may start a move. -/
  | levellingCheck
  /-- LEVELLING_MOVE_COMPLETE (R339): A levelled logical tile arrives at its target. -/
  | levellingMoveComplete
  /-- FORCED_CEDE (R329): A tile with a lasting fault is retired to the free region. -/
  | forcedCede
  /-- CORRECTED_ERROR (R459): A corrected error is counted in the 60 s window. -/
  | correctedError
  /-- TILE_RETURN_AFTER_REPAIR (R331): Firmware returns a RETIRED tile to the free region after repair. -/
  | tileReturnAfterRepair
  -- Steps without a word: Fences and pages (R188-R190, R362-R375)
  /-- SHIP_ARRIVAL (R367): A shipped strand starts on a free near-memory strand slot. -/
  | shipArrival
  /-- SHIP_BACK_COUNT (R368): 4,096 instructions without a local access ship the strand home. -/
  | shipBackCount
  /-- PAGE_REQUEST_FLUSH (R370): Firmware's flush write applies answers, frees records and makes waiters walk again. -/
  | pageRequestFlush
  /-- MIGRATION_COMPLETE (R371): A page move finishes, changing the frame and releasing parked writes. -/
  | migrationComplete
  /-- MIGRATION_ABANDON (R371): A target error abandons a page move. -/
  | migrationAbandon
  /-- PAGE_TABLE_ENTRY_WRITE (R371): The resident kernel writes a page-table leaf, mapping or unmapping a page or setting PIN or DT, and DT set clears the page's dirty bits. -/
  | pageTableEntryWrite
  -- Steps without a word: System, traps, contexts (R404-R426)
  /-- ILLEGAL_WORD (R65): An unassigned or malformed word traps ILLEGAL. -/
  | illegalWord
  /-- PARK_RESUME (R102): A parked instruction's awaited condition holds and the strand becomes ready. -/
  | parkResume
  /-- TEAM_SPILL (R102): A park longer than WAITLIM writes the team to memory and frees its slots. -/
  | teamSpill
  /-- TEAM_RESUME (R102): A spilled team is given slots again. -/
  | teamResume
  /-- GANG_STOP (R412): Firmware halts every core of a partition and stop records are written. -/
  | gangStop
  /-- STOP_RELEASE (R412): A stopped gang continues every unit. -/
  | stopRelease
  /-- DEBUG_STOP (R413): Named strands stop between activations. -/
  | debugStop
  /-- DEBUG_STEP (R413): One instruction of a stopped strand is released. -/
  | debugStep
  /-- DEBUG_DRAIN (R413): The MU queue runs to empty while the strand stays stopped. -/
  | debugDrain
  /-- GANG_SWITCH_SET (R414): A gang switch is set for a time T. -/
  | gangSwitchSet
  /-- GANG_SWITCH_WITHDRAW (R414): Firmware withdraws a set switch before T minus 10 µs. -/
  | gangSwitchWithdraw
  /-- GANG_SWITCH (R415): At T the partition stops and its work is saved, replayed or fallen out. -/
  | gangSwitch
  /-- SAVE_COMPLETE (R419): The last record is written and the tiles are released. -/
  | saveComplete
  /-- GANG_RESUME (R417): Firmware resumes a partition, reloading images and reissuing replay entries. -/
  | gangResume
  /-- PARTITION_FREEZE (R407): The monitor freezes a partition's cores. -/
  | partitionFreeze
  /-- PARTITION_POWER_CYCLE (R458): A partition is discarded, power cycled, rekeyed and scrubbed. -/
  | partitionPowerCycle
  /-- CUT_START (R421): Firmware injects a cut marker at every logical core. -/
  | cutStart
  /-- CUT_RECORD (R421): A logical core records its state at the marker or a flagged item. -/
  | cutRecord
  /-- KERNEL_RESTORE (R425): A kernel is restored from its latest usable cut after a lasting fault. -/
  | kernelRestore
  -- Steps without a word: Link (R430-R441)
  /-- FLIT_ROUTING (R431): A router receives a flit, checks it and forwards or discards it. -/
  | flitRouting
  /-- FLIT_ACCEPTANCE (R435): A destination accepts, reorders, drops or re-acknowledges a stream flit. -/
  | flitAcceptance
  /-- MAP_HINT (R434): A map hint updates a sending router's map cache. -/
  | mapHint
  /-- MAP_UPDATE (R434): A map update reaches a router, which acknowledges when drained. -/
  | mapUpdate
  /-- RETRANSMIT (R436): An unacknowledged flit is sent again after 2 µs. -/
  | retransmit
  /-- ROUTER_RESET (R437): A single router is reset or faults, losing the flits inside it, which their senders then retransmit. -/
  | routerReset
  /-- BEAT_RECEIVE (R439): A device port receives a beat of four flit slots. -/
  | beatReceive
  /-- BEAT_REFUSAL (R439): A refused beat makes the sender replay from it. -/
  | beatRefusal
  /-- PORT_ENABLE (R440): Firmware enables a device port, which starts training. -/
  | portEnable
  /-- LANE_TRAINING_DONE (R440): Training ends with the port UP, DEGRADED or FAILED. -/
  | laneTrainingDone
  /-- TRAINING_TIMEOUT (R440): Training lasting 100 ms fails the port. -/
  | trainingTimeout
  /-- REPLAY_STORM (R440): More than 16 replays in 1 ms retrains the port. -/
  | replayStorm
  /-- LANE_LOST (R440): A lost lane retrains an UP port. -/
  | laneLost
  /-- PORT_DISABLE (R440): Firmware disables a device port. -/
  | portDisable
  /-- D2D_MODULE_FAILURE (R438): A failed die-to-die module is taken out of service. -/
  | d2dModuleFailure
  /-- CXL_MEM_READ (R441): A host CXL.mem read is served at the DRAM. -/
  | cxlMemRead
  /-- CXL_MEM_WRITE (R441): A host CXL.mem write is performed at the DRAM. -/
  | cxlMemWrite
  -- Steps without a word: Watch (R442-R450)
  /-- PROFILING_LEASE (R449): Firmware grants a partition exclusive use of tiles for profiling. -/
  | profilingLease
  /-- PROFILING_LEASE_EXPIRY (R449): A profiling lease reaches the end of its set time and the tiles' shared units serve other partitions again. -/
  | profilingLeaseExpiry
  -- Steps without a word: Clocks (R165-R168, R444, R460)
  /-- LOGICAL_CLOCK_TICK (R165): A core's logical clock rises by one every 256 ns of running clock. -/
  | logicalClockTick
  /-- HOME_TIME_RAISE (R168): A background pass raises stale line times at a home. -/
  | homeTimeRaise
  /-- CORE_CLOCK_STOP (R166): A core's clock stops, halting its logical clock and the expiry of its leases. -/
  | coreClockStop
  /-- CORE_CLOCK_RESTART (R444): A stopped core clock restarts, which writes a RESYNC record and raises the tile's clock-event count. -/
  | coreClockRestart
  /-- DIE_CLOCK_STEP (R460): Firmware lowers a hot die's core clock by 100 MHz. -/
  | dieClockStep
  -- Steps without a word: Bring-up and firmware (R451-R458, R4)
  /-- BOOT (R451): Power-on or host reset fetches, verifies and applies the image. -/
  | boot
  /-- ATTESTATION_REQUEST (R454): The security block returns a signed attestation report. -/
  | attestationRequest
  /-- RESIDENT_KERNEL_REQUEST (R456): A message to KID 63 is served by the partition's resident kernel. -/
  | residentKernelRequest
  /-- REGISTER_WRITE (R4): A firmware write to a register without behaviour of its own. -/
  | registerWrite
  deriving DecidableEq, Repr

end Sys2Proof
end

