-- ==== Sys2Proof/WellFormed.lean ====
section
/-! DEFINITION. Which instructions the encodings admit: the operand limits of R50, R53, R56, R59, R61 and R62 that the types of `Instr` do not already carry. -/

namespace Sys2Proof

/-- An even register number, as a pair needs (R56, R122, R182, R251). -/
def evenReg (r : Reg) : Bool := !r.getLsbD 0
/-- A stream register's number (R56). -/
def streamReg (r : Reg) : Bool := decide (28 ≤ r.toNat)
/-- The data register of an access of size Q names an f pair (R122). -/
def pairIfQ (sz : Sz) (r : Reg) : Bool := sz ≠ .q || evenReg r
/-- LDP and STP take D and Q, and an even register (R56, R59). -/
def pairMem (sz : Sz) (r : Reg) : Bool := (sz = .d || sz = .q) && evenReg r
/-- Atomics take W, D and Q; Q names register pairs (R59, R182). -/
def atomicOk (sz : Sz) (d b : Reg) : Bool :=
  match sz with
  | .b => false
  | .h => false
  | .w => true
  | .d => true
  | .q => evenReg d && evenReg b
/-- The width in bits of a lane of an element type (R69). -/
def ET.width : ET → Nat
  | .f32 => 32 | .bf16 => 16 | .f16 => 16 | .e4m3 => 8 | .e5m2 => 8
/-- A shift count of 0 to 63 in IMM14 (R50). -/
def shiftOk (i : BitVec 14) : Bool := decide (i.toNat < 64)
/-- A control-register number of R96's map (R62). -/
def crOk (n : BitVec 5) : Bool := decide (n.toNat ≤ 0x12)

/-- The well-formed instructions. -/
def WellFormed (i : Instr) : Bool :=
  match i with
  | .shli _ _ n => shiftOk n
  | .shri _ _ n => shiftOk n
  | .srai _ _ n => shiftOk n
  | .rep _ n => n ≠ 0#5
  | .ld d _ _ _ sz => pairIfQ sz d
  | .ldL d _ _ sz _ => pairIfQ sz d
  | .st _ b _ _ sz => pairIfQ sz b
  | .stL _ b _ sz _ => pairIfQ sz b
  | .ldp d _ _ _ sz => pairMem sz d
  | .ldpL d _ _ sz _ => pairMem sz d
  | .stp _ b _ _ sz => pairMem sz b
  | .stpL _ b _ sz _ => pairMem sz b
  | .ldv d _ _ _ sz => pairIfQ sz d
  | .stv d _ _ _ sz => pairIfQ sz d
  | .stq _ b => b.setWidth 3 = 0#3
  | .amoadd d _ b sz => atomicOk sz d b
  | .amoswap d _ b sz => atomicOk sz d b
  | .amoand d _ b sz => atomicOk sz d b
  | .amoor d _ b sz => atomicOk sz d b
  | .amoxor d _ b sz => atomicOk sz d b
  | .amomin d _ b sz => atomicOk sz d b
  | .amomax d _ b sz => atomicOk sz d b
  | .amominu d _ b sz => atomicOk sz d b
  | .amomaxu d _ b sz => atomicOk sz d b
  | .cas d _ b sz => atomicOk sz d b
  | .famoadd _ _ _ _ et => et = .f32 || et = .bf16 || et = .f16
  | .fpack _ _ _ dst et => 2 * dst.width = et.width
  | .funpk _ _ _ dst et => dst.width = 2 * et.width
  | .fcvt _ _ _ _ dst et => dst ≠ et
  | .scfg d _ _ _ _ _ => streamReg d
  | .sdim d _ => streamReg d
  | .sen d => streamReg d
  | .sdis d => streamReg d
  | .sstat _ a => streamReg a
  | .qtry d _ => evenReg d
  | .put _ _ sz => sz ≠ .q
  | .putL _ sz _ => sz ≠ .q
  | .putv _ _ _ sz => sz ≠ .q
  | .rld _ _ sz => sz ≠ .q
  | .radd _ _ sz => sz ≠ .q
  | .raddL _ sz _ => sz ≠ .q
  | .winset _ _ _ imm => imm.extractLsb' 12 20 = 0#20
  | .mxgang _ _ _ cm1 _ _ => decide (cm1.toNat ≤ 11)
  | .credand _ _ _ _ _ dt => dt ≠ .f32
  | .credor _ _ _ _ _ dt => dt ≠ .f32
  | .crr _ n => crOk n
  | .crw _ _ n => crOk n
  | .crs _ _ n => crOk n
  | .crc _ _ n => crOk n
  | _ => true

end Sys2Proof
end

