-- ==== Sys2Proof/Decode.lean ====
section
/-! DEFINITION. From instruction words to `Instr` (R45-R65) and back: `decode` is total on any five words and rejects by name; `encode` writes the words of an instruction from the same tables. -/

namespace Sys2Proof

/-- Why a word is not an instruction (the cases of R65). -/
inductive Reject where
  | unassignedOp      -- its OP is unassigned
  | unassignedFn      -- its FN or sub-code is unassigned
  | reservedField     -- a reserved field or bit is non-zero
  | lenMismatch       -- its LEN disagrees with the map, or it carries a literal that is not admitted
  | displacedField    -- a literal-displaced field is non-zero
  | codeLimit         -- a code lies outside R53
  | registerLimit     -- a register field lies outside R56
  deriving DecidableEq, Repr

/-- The five words an instruction can have (R45); those beyond its length are not looked at. -/
structure Words where
  w0 : BitVec 32
  w1 : BitVec 32
  w2 : BitVec 32
  w3 : BitVec 32
  w4 : BitVec 32
  deriving DecidableEq, Repr

/-- LEN, bits 1:0 of word 0 (R45). -/
def fLen (w : BitVec 32) : BitVec 2 := w.extractLsb' 0 2
/-- OP, bits 7:2 (R49). -/
def fOp (w : BitVec 32) : BitVec 6 := w.extractLsb' 2 6
/-- The D field, bits 12:8 (R49). -/
def fD (w : BitVec 32) : BitVec 5 := w.extractLsb' 8 5
/-- The A field, bits 17:13 (R49). -/
def fA (w : BitVec 32) : BitVec 5 := w.extractLsb' 13 5
/-- The B field, bits 22:18 (R49). -/
def fB (w : BitVec 32) : BitVec 5 := w.extractLsb' 18 5
/-- FN, bits 31:23 (R49). -/
def fFn (w : BitVec 32) : BitVec 9 := w.extractLsb' 23 9
/-- IMM14 of the I format (R49). -/
def fImm14 (w : BitVec 32) : BitVec 14 := w.extractLsb' 18 14
/-- IMM14 of the S and B formats: bits 13:5 at 31:23, bits 4:0 at 12:8 (R49). -/
def fImm14S (w : BitVec 32) : BitVec 14 := w.extractLsb' 23 9 ++ w.extractLsb' 8 5
/-- IMM19 of the J format (R49). -/
def fImm19 (w : BitVec 32) : BitVec 19 := w.extractLsb' 13 19
/-- IMM16 of the H format (R49). -/
def fImm16 (w : BitVec 32) : BitVec 16 := w.extractLsb' 16 16
/-- The ET field of the H format (R49). -/
def fEtH (w : BitVec 32) : BitVec 3 := w.extractLsb' 13 3

/-- How many words LEN gives (R45). -/
def wordCount (len : BitVec 2) : Nat :=
  if len = 0#2 then 1 else if len = 3#2 then 5 else 3

/-- Word 0 in R format (R49). -/
def mkR (fn : BitVec 9) (b a d : BitVec 5) (op : BitVec 6) (len : BitVec 2) : BitVec 32 :=
  fn ++ b ++ a ++ d ++ op ++ len
/-- Word 0 in I format (R49). -/
def mkI (imm : BitVec 14) (a d : BitVec 5) (op : BitVec 6) (len : BitVec 2) : BitVec 32 :=
  imm ++ a ++ d ++ op ++ len
/-- Word 0 in S or B format (R49). -/
def mkS (imm : BitVec 14) (b a : BitVec 5) (op : BitVec 6) (len : BitVec 2) : BitVec 32 :=
  imm.extractLsb' 5 9 ++ b ++ a ++ imm.extractLsb' 0 5 ++ op ++ len
/-- Word 0 in J format (R49). -/
def mkJ (imm : BitVec 19) (d : BitVec 5) (op : BitVec 6) (len : BitVec 2) : BitVec 32 :=
  imm ++ d ++ op ++ len
/-- Word 0 in H format (R49). -/
def mkH (imm : BitVec 16) (et : BitVec 3) (d : BitVec 5) (op : BitVec 6) (len : BitVec 2) : BitVec 32 :=
  imm ++ et ++ d ++ op ++ len
/-- Word 0 as everything above OP, OP and LEN (the hint space, R64). -/
def mkRaw (top : BitVec 24) (op : BitVec 6) (len : BitVec 2) : BitVec 32 := top ++ op ++ len
/-- Word 1 of an X form: XF, E, C (R49). -/
def mkX (xf : BitVec 22) (e c : BitVec 5) : BitVec 32 := xf ++ e ++ c

/-- The short form with literal: word 0 and the literal's low and high words (R45). -/
def litWords (w0 : BitVec 32) (lit : Word) : List (BitVec 32) :=
  [w0, lit.extractLsb' 0 32, lit.extractLsb' 32 32]
/-- The literal of a three-word instruction (LEN 01). -/
def lit01 (w : Words) : Word := w.w2 ++ w.w1
/-- A hint word with the further words its LEN asks for, zero (R64). -/
def hintWords (w0 : BitVec 32) : List (BitVec 32) := w0 :: List.replicate (wordCount (fLen w0) - 1) 0#32

/-- SZ codes (R53). -/
def szCode : Sz → BitVec 3
  | .b => 0#3 | .h => 1#3 | .w => 2#3 | .d => 3#3 | .q => 4#3
/-- The size an SZ code names, if any (R53). -/
def szOf (c : BitVec 3) : Option Sz :=
  match c.toNat with
  | 0 => some .b | 1 => some .h | 2 => some .w | 3 => some .d | 4 => some .q | _ => none
/-- ET codes (R53). -/
def etCode : ET → BitVec 3
  | .f32 => 0#3 | .bf16 => 1#3 | .f16 => 2#3 | .e4m3 => 3#3 | .e5m2 => 4#3
/-- The element type an ET code names, if any (R53). -/
def etOf (c : BitVec 3) : Option ET :=
  match c.toNat with
  | 0 => some .f32 | 1 => some .bf16 | 2 => some .f16 | 3 => some .e4m3 | 4 => some .e5m2 | _ => none
/-- IT codes (R53). -/
def itCode : IT → BitVec 3
  | .i8 => 0#3 | .i16 => 1#3 | .i32 => 2#3 | .i64 => 3#3
/-- The integer type an IT code names, if any (R53). -/
def itOf (c : BitVec 3) : Option IT :=
  match c.toNat with
  | 0 => some .i8 | 1 => some .i16 | 2 => some .i32 | 3 => some .i64 | _ => none
/-- DT codes (R53). -/
def dtCode : DT → BitVec 3
  | .f32 => 0#3 | .i32 => 6#3 | .i64 => 7#3
/-- The collective type a DT code names, if any (R53). -/
def dtOf (c : BitVec 3) : Option DT :=
  match c.toNat with
  | 0 => some .f32 | 6 => some .i32 | 7 => some .i64 | _ => none
/-- RM codes (R53). -/
def rmCode : RM → BitVec 3
  | .rne => 0#3 | .rtz => 1#3 | .rdn => 2#3 | .rup => 3#3 | .rna => 4#3 | .dyn => 7#3
/-- The rounding an RM code names, if any (R53). -/
def rmOf (c : BitVec 3) : Option RM :=
  match c.toNat with
  | 0 => some .rne | 1 => some .rtz | 2 => some .rdn | 3 => some .rup | 4 => some .rna | 7 => some .dyn | _ => none
/-- PC codes, in a five-bit field (R53, R62). -/
def pathCode : Path → BitVec 5
  | .core => 0#5 | .put => 1#5 | .copy => 2#5 | .matrix => 3#5 | .coll => 4#5
/-- The path a PC code names, if any (R53). -/
def pathOf (c : BitVec 5) : Option Path :=
  match c.toNat with
  | 0 => some .core | 1 => some .put | 2 => some .copy | 3 => some .matrix | 4 => some .coll | _ => none

/-- A one-bit operand in bit 0 of a five-bit field, bits 4:1 reserved (R59, R140, R230). -/
def bit0 (v : Bool) : BitVec 5 := 0#4 ++ BitVec.ofBool v
/-- The memory immediate OFF10 | EF | SZ (R51). -/
def memImm (off : BitVec 10) (ef : Bool) (sz : Sz) : BitVec 14 := off ++ BitVec.ofBool ef ++ szCode sz
/-- FN of major 0x1C: EF | OPX | SZ (R59). -/
def fnEfOpxSz (ef : Bool) (opx : BitVec 5) (sz : BitVec 3) : BitVec 9 := BitVec.ofBool ef ++ opx ++ sz
/-- XF of the collectives: 0:12 | ROP:3 | RM:3 | MODE:1 | DT:3 (R61). -/
def collXf (rop : BitVec 3) (rm : RM) (mode : Bool) (dt : DT) : BitVec 22 :=
  0#12 ++ rop ++ rmCode rm ++ BitVec.ofBool mode ++ dtCode dt

/-- A code that R53 must admit. -/
def needCode {α : Type} (o : Option α) (k : α → Except Reject Instr) : Except Reject Instr :=
  match o with
  | some a => k a
  | none => .error .codeLimit

/-- Keep an instruction only if its operand limits hold (R53, R56 and the maps of R59). -/
def needWf (i : Instr) : Except Reject Instr := if WellFormed i then .ok i else .error .registerLimit

/-- Only LEN 00 (R59: no literal admitted, not an X form). -/
def shortOnly (w0 : BitVec 32) (k : Except Reject Instr) : Except Reject Instr :=
  if fLen w0 = 0#2 then k else .error .lenMismatch

/-- Only LEN 10: an X form that admits no literal (R59, R60). -/
def extOnly (w0 : BitVec 32) (k : Except Reject Instr) : Except Reject Instr :=
  if fLen w0 = 2#2 then k else .error .lenMismatch

/-- A reserved field that must be zero (R65). -/
def needZero (ok : Bool) (k : Except Reject Instr) : Except Reject Instr :=
  if ok then k else .error .reservedField

/-- The decoder for integer register operations that admit a literal (major 0x01, R59). -/
def litOp (fn : Nat) : Option ((Reg → Reg → Reg → Instr) × (Reg → Reg → Word → Instr)) :=
  match fn with
  | 0x000 => some (.add, .addL)
  | 0x001 => some (.sub, .subL)
  | 0x002 => some (.and, .andL)
  | 0x003 => some (.or, .orL)
  | 0x004 => some (.xor, .xorL)
  | 0x005 => some (.andn, .andnL)
  | 0x006 => some (.orn, .ornL)
  | 0x007 => some (.sel, .selL)
  | 0x010 => some (.mul, .mulL)
  | 0x011 => some (.mulh, .mulhL)
  | 0x012 => some (.mulhu, .mulhuL)
  | 0x014 => some (.div, .divL)
  | 0x015 => some (.divu, .divuL)
  | 0x016 => some (.rem, .remL)
  | 0x017 => some (.remu, .remuL)
  | 0x018 => some (.min, .minL)
  | 0x019 => some (.max, .maxL)
  | 0x01a => some (.minu, .minuL)
  | 0x01b => some (.maxu, .maxuL)
  | 0x01c => some (.slt, .sltL)
  | 0x01d => some (.sltu, .sltuL)
  | 0x01e => some (.seq, .seqL)
  | _ => none

/-- Three-register integer operations without a literal (major 0x01, R59). -/
def regOp3 (fn : Nat) : Option (Reg → Reg → Reg → Instr) :=
  match fn with
  | 0x008 => some .shl
  | 0x009 => some .shr
  | 0x00a => some .sra
  | 0x00b => some .rotr
  | 0x028 => some .sext
  | 0x029 => some .zext
  | 0x02c => some .bfx
  | 0x02d => some .bfi
  | _ => none

/-- Two-register integer operations (major 0x01, R59). -/
def regOp2 (fn : Nat) : Option (Reg → Reg → Instr) :=
  match fn with
  | 0x020 => some .clz
  | 0x021 => some .ctz
  | 0x022 => some .popc
  | 0x023 => some .brev
  | 0x024 => some .bswap
  | _ => none

/-- Major 0x01 (R59). -/
def decInt (w : Words) : Except Reject Instr :=
  let w0 := w.w0
  match litOp (fFn w0).toNat with
  | some (r, l) =>
    if fLen w0 = 0#2 then .ok (r (fD w0) (fA w0) (fB w0))
    else if fLen w0 = 1#2 then (if fB w0 = 0#5 then .ok (l (fD w0) (fA w0) (lit01 w)) else .error .displacedField)
    else .error .lenMismatch
  | none =>
    if fLen w0 ≠ 0#2 then .error .lenMismatch else
    match regOp3 (fFn w0).toNat with
    | some r => .ok (r (fD w0) (fA w0) (fB w0))
    | none =>
      match regOp2 (fFn w0).toNat with
      | some r => if fB w0 = 0#5 then .ok (r (fD w0) (fA w0)) else .error .reservedField
      | none => .error .unassignedFn

/-- The immediate majors that admit a literal, 0x02 to 0x07 (R57, R113). -/
def immOp (op : Nat) : Option ((Reg → Reg → BitVec 14 → Instr) × (Reg → Reg → Word → Instr)) :=
  match op with
  | 0x02 => some (.addi, .addiL)
  | 0x03 => some (.andi, .andiL)
  | 0x04 => some (.ori, .oriL)
  | 0x05 => some (.xori, .xoriL)
  | 0x06 => some (.slti, .sltiL)
  | 0x07 => some (.sltiu, .sltiuL)
  | _ => none

/-- The shift-immediate majors 0x08 to 0x0A (R57, R113). -/
def shiftImmOp (op : Nat) : Option (Reg → Reg → BitVec 14 → Instr) :=
  match op with
  | 0x08 => some .shli
  | 0x09 => some .shri
  | 0x0a => some .srai
  | _ => none

/-- The branch majors 0x10 to 0x15 (R57, R116). -/
def branchOp (op : Nat) : Option (Reg → Reg → BitVec 14 → Instr) :=
  match op with
  | 0x10 => some .beq
  | 0x11 => some .bne
  | 0x12 => some .blt
  | 0x13 => some .bge
  | 0x14 => some .bltu
  | 0x15 => some .bgeu
  | _ => none

/-- Integer atomics by OPX (major 0x1D, R59). -/
def amoOp (opx : Nat) : Option (Reg → Reg → Reg → Sz → Instr) :=
  match opx with
  | 0 => some .amoadd
  | 1 => some .amoswap
  | 2 => some .amoand
  | 3 => some .amoor
  | 4 => some .amoxor
  | 5 => some .amomin
  | 6 => some .amomax
  | 7 => some .amominu
  | 8 => some .amomaxu
  | 9 => some .cas
  | _ => none

/-- Rounded arithmetic by OPX (major 0x20, R59, R135). -/
def arithOp (opx : Nat) : Option (Reg → Reg → Reg → RM → ET → Instr) :=
  match opx with
  | 0 => some .fadd
  | 1 => some .fsub
  | 2 => some .fmul
  | 3 => some .fdiv
  | 4 => some .fma
  | 5 => some .fms
  | 6 => some .fnma
  | 7 => some .fnms
  | _ => none

/-- Two-source lane operations that do not round (major 0x22, R59, R138). -/
def laneOp3 (opx : Nat) : Option (Reg → Reg → Reg → ET → Instr) :=
  match opx with
  | 0 => some .fmin
  | 1 => some .fmax
  | 4 => some .fsgnj
  | 5 => some .fcmpeq
  | 6 => some .fcmplt
  | 7 => some .fcmple
  | _ => none

/-- SFU functions by FUNC (major 0x2A, R59). -/
def sfuOp (func : Nat) : Option (Reg → Reg → RM → Instr) :=
  match func with
  | 0 => some .fexp2
  | 1 => some .flog2
  | 2 => some .frcp
  | 3 => some .frsq
  | 4 => some .fsin
  | 5 => some .fcos
  | 6 => some .ftanh
  | 7 => some .flgst
  | _ => none

/-- The R-format function codes of major 0x17 (R59, R60) that take LEN 00 and no packed code. -/
def plain17 (w0 : BitVec 32) : Except Reject Instr :=
  match (fFn w0).toNat with
  | 0x000 => if fB w0 = 0#5 then .ok (.jalr (fD w0) (fA w0)) else .error .reservedField
  | _ => .error .unassignedFn

/-- The R-format function codes of major 0x2C (R59, R60) that take LEN 00 and no packed code. -/
def plain2C (w0 : BitVec 32) : Except Reject Instr :=
  match (fFn w0).toNat with
  | 0x001 => if fB w0 = 0#5 then if 28 ≤ (fD w0).toNat then .ok (.sdim (fD w0) (fA w0)) else .error .registerLimit else .error .reservedField
  | 0x002 => if fA w0 = 0#5 ∧ fB w0 = 0#5 then if 28 ≤ (fD w0).toNat then .ok (.sen (fD w0)) else .error .registerLimit else .error .reservedField
  | 0x003 => if fA w0 = 0#5 ∧ fB w0 = 0#5 then if 28 ≤ (fD w0).toNat then .ok (.sdis (fD w0)) else .error .registerLimit else .error .reservedField
  | 0x004 => if fB w0 = 0#5 then if 28 ≤ (fA w0).toNat then .ok (.sstat (fD w0) (fA w0)) else .error .registerLimit else .error .reservedField
  | _ => .error .unassignedFn

/-- The R-format function codes of major 0x2D (R59, R60) that take LEN 00 and no packed code. -/
def plain2D (w0 : BitVec 32) : Except Reject Instr :=
  match (fFn w0).toNat with
  | 0x000 => if fB w0 = 0#5 then if (fA w0).toNat < 8 then .ok (.qget (fD w0) ((fA w0).setWidth 3)) else .error .registerLimit else .error .reservedField
  | 0x001 => if fD w0 = 0#5 then if (fA w0).toNat < 8 then .ok (.qput ((fA w0).setWidth 3) (fB w0)) else .error .registerLimit else .error .reservedField
  | 0x002 => if fB w0 = 0#5 then if (fA w0).toNat < 8 then .ok (.qpeek (fD w0) ((fA w0).setWidth 3)) else .error .registerLimit else .error .reservedField
  | 0x003 => if fB w0 = 0#5 then if (fD w0).getLsbD 0 = false then if (fA w0).toNat < 8 then .ok (.qtry (fD w0) ((fA w0).setWidth 3)) else .error .registerLimit else .error .registerLimit else .error .reservedField
  | 0x004 => if (fA w0).toNat < 8 then .ok (.qtput (fD w0) ((fA w0).setWidth 3) (fB w0)) else .error .registerLimit
  | 0x005 => if (fA w0).toNat < 8 then .ok (.qcfg (fD w0) ((fA w0).setWidth 3) (fB w0)) else .error .registerLimit
  | 0x006 => if fB w0 = 0#5 then if (fA w0).toNat < 8 then .ok (.qstat (fD w0) ((fA w0).setWidth 3)) else .error .registerLimit else .error .reservedField
  | _ => .error .unassignedFn

/-- The R-format function codes of major 0x30 (R59, R60) that take LEN 00 and no packed code. -/
def plain30 (w0 : BitVec 32) : Except Reject Instr :=
  match (fFn w0).toNat with
  | 0x000 => .ok (.send (fD w0) (fA w0) (fB w0))
  | 0x002 => if fD w0 = 0#5 ∧ fA w0 = 0#5 ∧ fB w0 = 0#5 then .ok .done else .error .reservedField
  | 0x003 => .ok (.keep (fD w0) (fA w0) (fB w0))
  | 0x004 => if fD w0 = 0#5 ∧ fB w0 = 0#5 then .ok (.unkeep (fA w0)) else .error .reservedField
  | 0x005 => if fD w0 = 0#5 ∧ fA w0 = 0#5 ∧ fB w0 = 0#5 then .ok .irrev else .error .reservedField
  | 0x006 => if fB w0 = 0#5 then .ok (.gvtr (fD w0) (fA w0)) else .error .reservedField
  | 0x007 => if fB w0 = 0#5 then .ok (.anti (fD w0) (fA w0)) else .error .reservedField
  | _ => .error .unassignedFn

/-- The R-format function codes of major 0x31 (R59, R60) that take LEN 00 and no packed code. -/
def plain31 (w0 : BitVec 32) : Except Reject Instr :=
  match (fFn w0).toNat with
  | 0x000 => .ok (.launch (fD w0) (fA w0) (fB w0))
  | 0x001 => .ok (.wid (fD w0) (fA w0) (fB w0))
  | 0x002 => if fB w0 = 0#5 then .ok (.kstat (fD w0) (fA w0)) else .error .reservedField
  | 0x003 => if fB w0 = 0#5 then .ok (.kend (fD w0) (fA w0)) else .error .reservedField
  | _ => .error .unassignedFn

/-- The R-format function codes of major 0x34 (R59, R60) that take LEN 00 and no packed code. -/
def plain34 (w0 : BitVec 32) : Except Reject Instr :=
  match (fFn w0).toNat with
  | 0x000 => .ok (.clnew (fD w0) (fA w0) (fB w0))
  | 0x001 => if fD w0 = 0#5 then .ok (.clpub (fA w0) (fB w0)) else .error .reservedField
  | 0x002 => if fD w0 = 0#5 ∧ fB w0 = 0#5 then .ok (.cldec (fA w0)) else .error .reservedField
  | 0x003 => if fD w0 = 0#5 ∧ fB w0 = 0#5 then .ok (.spawn (fA w0)) else .error .reservedField
  | 0x004 => .ok (.callat (fD w0) (fA w0) (fB w0))
  | 0x005 => if fD w0 = 0#5 ∧ fB w0 = 0#5 then .ok (.retv (fA w0)) else .error .reservedField
  | _ => .error .unassignedFn

/-- The R-format function codes of major 0x35 (R59, R60) that take LEN 00 and no packed code. -/
def plain35 (w0 : BitVec 32) : Except Reject Instr :=
  match (fFn w0).toNat with
  | 0x000 => .ok (.bind (fD w0) (fA w0) (fB w0))
  | 0x001 => if fD w0 = 0#5 then .ok (.chpri (fA w0) (fB w0)) else .error .reservedField
  | 0x002 => if fB w0 = 0#5 then .ok (.chmask (fD w0) (fA w0)) else .error .reservedField
  | _ => .error .unassignedFn

/-- The R-format function codes of major 0x36 (R59, R60) that take LEN 00 and no packed code. -/
def plain36 (w0 : BitVec 32) : Except Reject Instr :=
  match (fFn w0).toNat with
  | 0x000 => .ok (.chain (fD w0) (fA w0) (fB w0))
  | 0x001 => if fD w0 = 0#5 ∧ fA w0 = 0#5 ∧ fB w0 = 0#5 then .ok .eqpt else .error .reservedField
  | 0x002 => if fB w0 = 0#5 then .ok (.recoil (fD w0) (fA w0)) else .error .reservedField
  | 0x003 => if fB w0 = 0#5 then .ok (.uncoil (fD w0) (fA w0)) else .error .reservedField
  | 0x004 => if fB w0 = 0#5 then .ok (.cform (fD w0) (fA w0)) else .error .reservedField
  | _ => .error .unassignedFn

/-- The R-format function codes of major 0x38 (R59, R60) that take LEN 00 and no packed code. -/
def plain38 (w0 : BitVec 32) : Except Reject Instr :=
  match (fFn w0).toNat with
  | 0x020 => if fB w0 = 0#5 then .ok (.cpy (fD w0) (fA w0)) else .error .reservedField
  | 0x024 => if fB w0 = 0#5 then .ok (.cpyq (fD w0) (fA w0)) else .error .reservedField
  | 0x025 => if fB w0 = 0#5 then .ok (.cpyc (fD w0) (fA w0)) else .error .reservedField
  | _ => .error .unassignedFn

/-- The R-format function codes of major 0x39 (R59, R60) that take LEN 00 and no packed code. -/
def plain39 (w0 : BitVec 32) : Except Reject Instr :=
  match (fFn w0).toNat with
  | 0x000 => .ok (.pin (fD w0) (fA w0) (fB w0))
  | 0x001 => if fD w0 = 0#5 ∧ fB w0 = 0#5 then .ok (.unpin (fA w0)) else .error .reservedField
  | 0x002 => if fD w0 = 0#5 then .ok (.flsh (fA w0) (fB w0)) else .error .reservedField
  | 0x003 => if fD w0 = 0#5 then .ok (.invl (fA w0) (fB w0)) else .error .reservedField
  | _ => .error .unassignedFn

/-- The R-format function codes of major 0x3A (R59, R60) that take LEN 00 and no packed code. -/
def plain3A (w0 : BitVec 32) : Except Reject Instr :=
  match (fFn w0).toNat with
  | 0x000 => if fD w0 = 0#5 ∧ fA w0 = 0#5 ∧ fB w0 = 0#5 then .ok .mxswap else .error .reservedField
  | 0x001 => if fD w0 = 0#5 ∧ fA w0 = 0#5 ∧ fB w0 = 0#5 then .ok .mxwait else .error .reservedField
  | 0x003 => if fD w0 = 0#5 ∧ fA w0 = 0#5 ∧ fB w0 = 0#5 then .ok .mxrst else .error .reservedField
  | _ => .error .unassignedFn

/-- The R-format function codes of major 0x3B (R59, R60) that take LEN 00 and no packed code. -/
def plain3B (w0 : BitVec 32) : Except Reject Instr :=
  match (fFn w0).toNat with
  | 0x000 => .ok (.gjoin (fD w0) (fA w0) (fB w0))
  | 0x001 => if fB w0 = 0#5 then .ok (.gleave (fD w0) (fA w0)) else .error .reservedField
  | 0x002 => if fB w0 = 0#5 then .ok (.ggen (fD w0) (fA w0)) else .error .reservedField
  | 0x003 => if fB w0 = 0#5 then .ok (.cstat (fD w0) (fA w0)) else .error .reservedField
  | 0x011 => if fB w0 = 0#5 then .ok (.barv (fD w0) (fA w0)) else .error .reservedField
  | 0x012 => .ok (.bwait (fD w0) (fA w0) (fB w0))
  | 0x013 => .ok (.btest (fD w0) (fA w0) (fB w0))
  | 0x014 => if fD w0 = 0#5 then .ok (.bcnt (fA w0) (fB w0)) else .error .reservedField
  | 0x015 => if fB w0 = 0#5 then .ok (.bwdraw (fD w0) (fA w0)) else .error .reservedField
  | 0x018 => if fD w0 = 0#5 then .ok (.waita (fA w0) (fB w0)) else .error .reservedField
  | _ => .error .unassignedFn

/-- The R-format function codes of major 0x3C (R59, R60) that take LEN 00 and no packed code. -/
def plain3C (w0 : BitVec 32) : Except Reject Instr :=
  match (fFn w0).toNat with
  | 0x000 => if fB w0 = 0#5 then .ok (.tshape (fD w0) (fA w0)) else .error .reservedField
  | 0x001 => if fB w0 = 0#5 then .ok (.tupc (fD w0) (fA w0)) else .error .reservedField
  | 0x002 => if fB w0 = 0#5 then .ok (.tpress (fD w0) (fA w0)) else .error .reservedField
  | 0x003 => if fB w0 = 0#5 then .ok (.tmap (fD w0) (fA w0)) else .error .reservedField
  | 0x004 => .ok (.tpin (fD w0) (fA w0) (fB w0))
  | _ => .error .unassignedFn

/-- The R-format function codes of major 0x3D (R59, R60) that take LEN 00 and no packed code. -/
def plain3D (w0 : BitVec 32) : Except Reject Instr :=
  match (fFn w0).toNat with
  | 0x000 => if fD w0 = 0#5 ∧ fA w0 = 0#5 ∧ fB w0 = 0#5 then .ok .fence else .error .reservedField
  | 0x002 => if fD w0 = 0#5 ∧ fA w0 = 0#5 ∧ fB w0 = 0#5 then .ok .pfence else .error .reservedField
  | 0x008 => if fD w0 = 0#5 then .ok (.tlbi (fA w0) (fB w0)) else .error .reservedField
  | 0x009 => .ok (.pmig (fD w0) (fA w0) (fB w0))
  | 0x00a => if fB w0 = 0#5 then .ok (.pdirty (fD w0) (fA w0)) else .error .reservedField
  | 0x00b => if fD w0 = 0#5 ∧ fB w0 = 0#5 then .ok (.pship (fA w0)) else .error .reservedField
  | 0x00c => if fB w0 = 0#5 then .ok (.phome (fD w0) (fA w0)) else .error .reservedField
  | _ => .error .unassignedFn

/-- The R-format function codes of major 0x3E (R59, R60) that take LEN 00 and no packed code. -/
def plain3E (w0 : BitVec 32) : Except Reject Instr :=
  match (fFn w0).toNat with
  | 0x000 => if fB w0 = 0#5 then .ok (.trap (fD w0) (fA w0)) else .error .reservedField
  | 0x001 => .ok (.eret (fD w0) (fA w0) (fB w0))
  | 0x006 => if fD w0 = 0#5 ∧ fA w0 = 0#5 ∧ fB w0 = 0#5 then .ok .halt else .error .reservedField
  | 0x007 => if fD w0 = 0#5 ∧ fA w0 = 0#5 then .ok (.brk (fB w0)) else .error .reservedField
  | 0x008 => if fB w0 = 0#5 then .ok (.mark (fD w0) (fA w0)) else .error .reservedField
  | 0x010 => if fA w0 = 0#5 then .ok (.tstamp (fD w0) (fB w0)) else .error .reservedField
  | 0x011 => if fB w0 = 0#5 then .ok (.pcntr (fD w0) (fA w0)) else .error .reservedField
  | 0x012 => if fD w0 = 0#5 then .ok (.trace (fA w0) (fB w0)) else .error .reservedField
  | _ => .error .unassignedFn


/-- Majors 0x18 to 0x1B: LD, ST, LDP, STP with the memory immediate (R51, R59). -/
def decMem (w : Words) : Except Reject Instr :=
  let w0 := w.w0
  let op := fOp w0
  let storing := op = 0x19#6 ∨ op = 0x1b#6
  let imm := if storing then fImm14S w0 else fImm14 w0
  needCode (szOf (imm.extractLsb' 0 3)) fun sz =>
  let ef := imm.getLsbD 3
  let off := imm.extractLsb' 4 10
  if fLen w0 = 0#2 then
    if op = 0x18#6 then needWf (.ld (fD w0) (fA w0) off ef sz)
    else if op = 0x19#6 then needWf (.st (fA w0) (fB w0) off ef sz)
    else if op = 0x1a#6 then needWf (.ldp (fD w0) (fA w0) off ef sz)
    else needWf (.stp (fA w0) (fB w0) off ef sz)
  else if fLen w0 = 1#2 then
    if off ≠ 0#10 then .error .displacedField
    else if op = 0x18#6 then needWf (.ldL (fD w0) (fA w0) ef sz (lit01 w))
    else if op = 0x19#6 then needWf (.stL (fA w0) (fB w0) ef sz (lit01 w))
    else if op = 0x1a#6 then needWf (.ldpL (fD w0) (fA w0) ef sz (lit01 w))
    else needWf (.stpL (fA w0) (fB w0) ef sz (lit01 w))
  else .error .lenMismatch

/-- Major 0x1C: LDV, STV, STQ, PREF, with FN = EF | OPX | SZ (R59). -/
def dec1C (w0 : BitVec 32) : Except Reject Instr :=
  let fn := fFn w0
  let sz := fn.extractLsb' 0 3
  let ef := fn.getLsbD 8
  match (fn.extractLsb' 3 5).toNat with
  | 0 => needCode (szOf sz) fun z => needWf (.ldv (fD w0) (fA w0) (fB w0) ef z)
  | 1 => needCode (szOf sz) fun z => needWf (.stv (fD w0) (fA w0) (fB w0) ef z)
  | 2 => needZero (fD w0 = 0#5 ∧ ef = false ∧ sz = 0#3) (needWf (.stq (fA w0) (fB w0)))
  | 3 =>
    needZero (fD w0 = 0#5 ∧ ef = false) <|
      if sz = 0#3 then .ok (.prefRd (fA w0) (fB w0))
      else if sz = 1#3 then .ok (.prefWr (fA w0) (fB w0)) else .error .codeLimit
  | _ => .error .unassignedFn

/-- Major 0x1D: integer atomics and CAS, FN = OPX:5 | 0:1 | SZ:3 (R59). -/
def dec1D (w0 : BitVec 32) : Except Reject Instr :=
  let fn := fFn w0
  match amoOp (fn.extractLsb' 4 5).toNat with
  | none => .error .unassignedFn
  | some c => needZero (fn.getLsbD 3 = false) <|
      needCode (szOf (fn.extractLsb' 0 3)) fun z => needWf (c (fD w0) (fA w0) (fB w0) z)

/-- Major 0x1E: FAMOADD, FN = 000 | RM:3 | ET:3 (R59). -/
def dec1E (w0 : BitVec 32) : Except Reject Instr :=
  let fn := fFn w0
  if fn.extractLsb' 6 3 ≠ 0#3 then .error .unassignedFn else
  needCode (rmOf (fn.extractLsb' 3 3)) fun rm =>
  needCode (etOf (fn.extractLsb' 0 3)) fun et => needWf (.famoadd (fD w0) (fA w0) (fB w0) rm et)

/-- Majors 0x20 and 0x21: rounded packed float arithmetic, FN = OPX:3 | RM:3 | ET:3 (R59). -/
def decArith (w0 : BitVec 32) : Except Reject Instr :=
  let fn := fFn w0
  needCode (rmOf (fn.extractLsb' 3 3)) fun rm =>
  needCode (etOf (fn.extractLsb' 0 3)) fun et =>
  if fOp w0 = 0x20#6 then
    match arithOp (fn.extractLsb' 6 3).toNat with
    | some c => .ok (c (fD w0) (fA w0) (fB w0) rm et)
    | none => .error .unassignedFn
  else
    match (fn.extractLsb' 6 3).toNat with
    | 0 => needZero (fB w0 = 0#5) (.ok (.fsqrt (fD w0) (fA w0) rm et))
    | 1 => needZero (fB w0 = 0#5) (.ok (.fsum (fD w0) (fA w0) rm et))
    | _ => .error .unassignedFn

/-- Major 0x22: lane operations that do not round; RM is 000 (R59). -/
def decLane (w0 : BitVec 32) : Except Reject Instr :=
  let fn := fFn w0
  needCode (etOf (fn.extractLsb' 0 3)) fun et =>
  if fn.extractLsb' 3 3 ≠ 0#3 then .error .codeLimit else
  match (fn.extractLsb' 6 3).toNat with
  | 2 => needZero (fB w0 = 0#5) (.ok (.fabs (fD w0) (fA w0) et))
  | 3 => needZero (fB w0 = 0#5) (.ok (.fneg (fD w0) (fA w0) et))
  | opx =>
    match laneOp3 opx with
    | some c => .ok (c (fD w0) (fA w0) (fB w0) et)
    | none => .error .unassignedFn

/-- Major 0x23: FCLASS, FMV, FPACK, FUNPK, FSHUF, with a sub-code in the RM bits (R59, R139, R140). DEDUCED (log entry
88): FMV uses no B, so its B field is reserved and zero (R49, R139). -/
def dec23 (w0 : BitVec 32) : Except Reject Instr :=
  let fn := fFn w0
  let sub := fn.extractLsb' 3 3
  needCode (etOf (fn.extractLsb' 0 3)) fun et =>
  match (fn.extractLsb' 6 3).toNat with
  | 0 => if sub ≠ 0#3 then .error .unassignedFn else needZero (fB w0 = 0#5) (.ok (.fclass (fD w0) (fA w0) et))
  | 1 =>
    if et ≠ .f32 then .error .codeLimit else
    needZero (fB w0 = 0#5) <|
      if sub = 0#3 then .ok (.fmvFF (fD w0) (fA w0))
      else if sub = 1#3 then .ok (.fmvFG (fD w0) (fA w0))
      else if sub = 2#3 then .ok (.fmvGF (fD w0) (fA w0)) else .error .unassignedFn
  | 2 => needCode (etOf sub) fun dst => needWf (.fpack (fD w0) (fA w0) (fB w0) dst et)
  | 3 => needCode (etOf sub) fun dst =>
      needZero ((fB w0).extractLsb' 1 4 = 0#4) (needWf (.funpk (fD w0) (fA w0) ((fB w0).getLsbD 0) dst et))
  | 4 => if sub ≠ 0#3 then .error .unassignedFn else .ok (.fshuf (fD w0) (fA w0) (fB w0) et)
  | _ => .error .unassignedFn

/-- Majors 0x24 to 0x26: conversions, FN = RM:3 | DST:3 | SRC:3, B[0] SAT (R59, R142). -/
def decCvt (w0 : BitVec 32) : Except Reject Instr :=
  let fn := fFn w0
  let dst := fn.extractLsb' 3 3
  let src := fn.extractLsb' 0 3
  let sat := (fB w0).getLsbD 0
  needCode (rmOf (fn.extractLsb' 6 3)) fun rm =>
  needZero ((fB w0).extractLsb' 1 4 = 0#4) <|
    if fOp w0 = 0x24#6 then
      needCode (etOf dst) fun de => needCode (etOf src) fun se => needWf (.fcvt (fD w0) (fA w0) sat rm de se)
    else if fOp w0 = 0x25#6 then
      needCode (itOf dst) fun de => needCode (etOf src) fun se => .ok (.fcvti (fD w0) (fA w0) sat rm de se)
    else
      needCode (etOf dst) fun de => needCode (itOf src) fun se => .ok (.fcvtf (fD w0) (fA w0) sat rm de se)

/-- Majors 0x27 to 0x29: the immediate forms of FADD, FMUL and FMV (R54, R146). -/
def decH (w0 : BitVec 32) : Except Reject Instr :=
  needCode (etOf (fEtH w0)) fun et =>
  if fOp w0 = 0x27#6 then .ok (.faddImm (fD w0) et (fImm16 w0))
  else if fOp w0 = 0x28#6 then .ok (.fmulImm (fD w0) et (fImm16 w0))
  else .ok (.fmvImm (fD w0) et (fImm16 w0))

/-- Major 0x2A: SFU functions, FN = FUNC:3 | RM:3 | 000 (R59). -/
def decSfu (w0 : BitVec 32) : Except Reject Instr :=
  let fn := fFn w0
  if fn.extractLsb' 0 3 ≠ 0#3 then .error .unassignedFn else
  needCode (rmOf (fn.extractLsb' 3 3)) fun rm =>
  match sfuOp (fn.extractLsb' 6 3).toNat with
  | some c => needZero (fB w0 = 0#5) (.ok (c (fD w0) (fA w0) rm))
  | none => .error .unassignedFn

/-- Word 1 with C and E reserved, and the low `n` bits of XF in use (R60). -/
def xfOnly (w1 : BitVec 32) (n : Nat) : Bool := (w1.setWidth 10 = 0#10) && (w1.toNat >>> (10 + n) = 0)

/-- Major 0x38: puts, remote loads and copies (R60). -/
def dec38 (w : Words) : Except Reject Instr :=
  let w0 := w.w0
  let fn := fFn w0
  let sz := fn.extractLsb' 0 3
  match (fn.extractLsb' 3 6).toNat with
  | 0 => needZero (fD w0 = 0#5) <| needCode (szOf sz) fun z =>
      if fLen w0 = 0#2 then needWf (.put (fA w0) (fB w0) z)
      else if fLen w0 = 1#2 then (if fB w0 = 0#5 then needWf (.putL (fA w0) z (lit01 w)) else .error .displacedField)
      else .error .lenMismatch
  | 1 => shortOnly w0 <| needCode (szOf sz) fun z => needWf (.putv (fD w0) (fA w0) (fB w0) z)
  | 2 => shortOnly w0 <| needZero (fB w0 = 0#5) <| needCode (szOf sz) fun z => needWf (.rld (fD w0) (fA w0) z)
  | 3 => needZero (fD w0 = 0#5) <| needCode (szOf sz) fun z =>
      if fLen w0 = 0#2 then needWf (.radd (fA w0) (fB w0) z)
      else if fLen w0 = 1#2 then (if fB w0 = 0#5 then needWf (.raddL (fA w0) z (lit01 w)) else .error .displacedField)
      else .error .lenMismatch
  | 4 =>
    match sz.toNat with
    | 1 => extOnly w0 <| needZero (fB w0 = 0#5 ∧ w.w1 = 0#32) (.ok (.cpys (fD w0) (fA w0) w.w2))
    | 2 => extOnly w0 <| needZero (fB w0 = 0#5 ∧ w.w1 = 0#32) (.ok (.cpyg (fD w0) (fA w0) w.w2))
    | 3 => extOnly w0 <| needZero (fB w0 = 0#5 ∧ w.w1 = 0#32) (.ok (.cpyx (fD w0) (fA w0) w.w2))
    | _ => shortOnly w0 (plain38 w0)
  | _ => .error .unassignedFn

/-- Major 0x39: retention, cache maintenance and windows (R60, R195). -/
def dec39 (w : Words) : Except Reject Instr :=
  let w0 := w.w0
  if fFn w0 = 4#9 then
    extOnly w0 <| needZero (fD w0 = 0#5 ∧ xfOnly w.w1 3 ∧ w.w2.extractLsb' 12 20 = 0#20)
      (.ok (.winset (fA w0) (fB w0) (w.w1.extractLsb' 10 3) w.w2))
  else shortOnly w0 (plain39 w0)

/-- Major 0x3A: the matrix unit (R60, R230, R234). -/
def dec3A (w : Words) : Except Reject Instr :=
  let w0 := w.w0
  if fFn w0 = 4#9 then
    extOnly w0 <| needZero (fB w0 = 0#5 ∧ xfOnly w.w1 8)
      (needWf (.mxgang (fD w0) (fA w0) (w.w1.getLsbD 17) (w.w1.extractLsb' 13 4) (w.w1.extractLsb' 10 3) w.w2))
  else if fFn w0 = 2#9 then
    shortOnly w0 <| needZero (fA w0 = 0#5 ∧ (fB w0).extractLsb' 1 4 = 0#4) (.ok (.mxstat (fD w0) ((fB w0).getLsbD 0)))
  else shortOnly w0 (plain3A w0)

/-- The collectives of major 0x3B (R61, R381, R382): RM and DT from XF; CBCST and CAGTH take MODE 0, and only
CRED takes a reduction operator. -/
def decColl (w : Words) : Except Reject Instr :=
  let w0 := w.w0
  let xf := w.w1.extractLsb' 10 22
  let mode := xf.getLsbD 3
  let rop := (xf.extractLsb' 7 3).toNat
  needZero (w.w1.setWidth 10 = 0#10 ∧ xf.extractLsb' 10 12 = 0#12 ∧ w.w2 = 0#32) <|
    needCode (rmOf (xf.extractLsb' 4 3)) fun rm =>
    needCode (dtOf (xf.extractLsb' 0 3)) fun dt =>
    match (fFn w0).toNat with
    | 0x008 =>
      match rop with
      | 0 => .ok (.cred (fD w0) (fA w0) (fB w0) rm mode dt)
      | 1 => .ok (.credmin (fD w0) (fA w0) (fB w0) rm mode dt)
      | 2 => .ok (.credmax (fD w0) (fA w0) (fB w0) rm mode dt)
      | 3 => needWf (.credand (fD w0) (fA w0) (fB w0) rm mode dt)
      | 4 => needWf (.credor (fD w0) (fA w0) (fB w0) rm mode dt)
      | _ => .error .codeLimit
    | 0x009 => if rop = 0 ∧ mode = false then .ok (.cbcst (fD w0) (fA w0) (fB w0) rm dt) else .error .codeLimit
    | 0x00a => if rop = 0 ∧ mode = false then .ok (.cagth (fD w0) (fA w0) (fB w0) rm dt) else .error .codeLimit
    | _ => if rop = 0 then .ok (.crsct (fD w0) (fA w0) (fB w0) rm mode dt) else .error .codeLimit

/-- Major 0x3B: groups, collectives, barriers and WAITA (R60). -/
def dec3B (w : Words) : Except Reject Instr :=
  let w0 := w.w0
  match (fFn w0).toNat with
  | 0x008 => extOnly w0 (decColl w)
  | 0x009 => extOnly w0 (decColl w)
  | 0x00a => extOnly w0 (decColl w)
  | 0x00b => extOnly w0 (decColl w)
  | 0x010 =>
    extOnly w0 <| needZero (w.w1 = 0#32 ∧ w.w2.extractLsb' 12 4 = 0#4 ∧ w.w2.extractLsb' 28 4 = 0#4)
      (.ok (.binit (fD w0) (fA w0) (fB w0) (w.w2.extractLsb' 0 12) (w.w2.extractLsb' 16 12)))
  | _ => shortOnly w0 (plain3B w0)

/-- Major 0x3D: fences and pages (R60, R62). -/
def dec3D (w0 : BitVec 32) : Except Reject Instr :=
  if fFn w0 = 1#9 then
    needZero (fD w0 = 0#5) <|
      needCode (pathOf (fA w0)) fun px => needCode (pathOf (fB w0)) fun py => .ok (.cfence px py)
  else plain3D w0

/-- Major 0x3E: system, traps, watch and the hint space (R60, R62, R64). -/
def dec3E (w : Words) : Except Reject Instr :=
  let w0 := w.w0
  if (fFn w0).extractLsb' 6 3 = 7#3 then .ok (.hint (fLen w0) (w0.extractLsb' 8 21)) else
  match (fFn w0).toNat with
  | 0x002 => shortOnly w0 <| needZero (fA w0 = 0#5) (needWf (.crr (fD w0) (fB w0)))
  | 0x003 => shortOnly w0 (needWf (.crw (fD w0) (fA w0) (fB w0)))
  | 0x004 => shortOnly w0 (needWf (.crs (fD w0) (fA w0) (fB w0)))
  | 0x005 => shortOnly w0 (needWf (.crc (fD w0) (fA w0) (fB w0)))
  | 0x009 => extOnly w0 <| needZero (fB w0 = 0#5 ∧ w.w1 = 0#32) (.ok (.swset (fD w0) (fA w0) w.w2))
  | _ => shortOnly w0 (plain3E w0)

/-- Major 0x2C: streams (R60, R154). -/
def dec2C (w : Words) : Except Reject Instr :=
  let w0 := w.w0
  if fFn w0 = 0#9 then
    extOnly w0 <| needZero (xfOnly w.w1 3)
      (needWf (.scfg (fD w0) (fA w0) (fB w0) (w.w1.getLsbD 12) (w.w1.extractLsb' 10 2) w.w2))
  else shortOnly w0 (plain2C w0)

/-- Major 0x30: messages and warp (R60, R291). -/
def dec30 (w : Words) : Except Reject Instr :=
  let w0 := w.w0
  if fFn w0 = 1#9 then
    extOnly w0 <| needZero (w.w1.extractLsb' 5 27 = 0#27)
      (.ok (.sendt (fD w0) (fA w0) (fB w0) (w.w1.extractLsb' 0 5) w.w2))
  else shortOnly w0 (plain30 w0)

/-- The instruction that five words begin with, or why they begin with none (R57, R65). -/
def decode (w : Words) : Except Reject Instr :=
  let w0 := w.w0
  match (fOp w0).toNat with
  | 0x01 => decInt w
  | 0x0b =>
    if fLen w0 = 0#2 then .ok (.lim (fD w0) (fImm19 w0))
    else if fLen w0 = 1#2 then (if fImm19 w0 = 0#19 then .ok (.limL (fD w0) (lit01 w)) else .error .displacedField)
    else .error .lenMismatch
  | 0x0c => shortOnly w0 (.ok (.addpc (fD w0) (fImm19 w0)))
  | 0x16 => shortOnly w0 (.ok (.jal (fD w0) (fImm19 w0)))
  | 0x17 =>
    shortOnly w0 <|
      if fFn w0 = 1#9 then needZero (fD w0 = 0#5) (needWf (.rep (fA w0) (fB w0))) else plain17 w0
  | 0x18 => decMem w
  | 0x19 => decMem w
  | 0x1a => decMem w
  | 0x1b => decMem w
  | 0x1c => shortOnly w0 (dec1C w0)
  | 0x1d => shortOnly w0 (dec1D w0)
  | 0x1e => shortOnly w0 (dec1E w0)
  | 0x20 => shortOnly w0 (decArith w0)
  | 0x21 => shortOnly w0 (decArith w0)
  | 0x22 => shortOnly w0 (decLane w0)
  | 0x23 => shortOnly w0 (dec23 w0)
  | 0x24 => shortOnly w0 (decCvt w0)
  | 0x25 => shortOnly w0 (decCvt w0)
  | 0x26 => shortOnly w0 (decCvt w0)
  | 0x27 => shortOnly w0 (decH w0)
  | 0x28 => shortOnly w0 (decH w0)
  | 0x29 => shortOnly w0 (decH w0)
  | 0x2a => shortOnly w0 (decSfu w0)
  | 0x2c => dec2C w
  | 0x2d => shortOnly w0 (plain2D w0)
  | 0x30 => dec30 w
  | 0x31 => shortOnly w0 (plain31 w0)
  | 0x34 => shortOnly w0 (plain34 w0)
  | 0x35 => shortOnly w0 (plain35 w0)
  | 0x36 => shortOnly w0 (plain36 w0)
  | 0x38 => dec38 w
  | 0x39 => dec39 w
  | 0x3a => dec3A w
  | 0x3b => dec3B w
  | 0x3c => shortOnly w0 (plain3C w0)
  | 0x3d => shortOnly w0 (dec3D w0)
  | 0x3e => dec3E w
  | op =>
    match immOp op with
    | some (r, l) =>
      if fLen w0 = 0#2 then .ok (r (fD w0) (fA w0) (fImm14 w0))
      else if fLen w0 = 1#2 then
        (if fImm14 w0 = 0#14 then .ok (l (fD w0) (fA w0) (lit01 w)) else .error .displacedField)
      else .error .lenMismatch
    | none =>
      match shiftImmOp op with
      | some r => shortOnly w0 (needWf (r (fD w0) (fA w0) (fImm14 w0)))
      | none =>
        match branchOp op with
        | some r => shortOnly w0 (.ok (r (fA w0) (fB w0) (fImm14S w0)))
        | none => .error .unassignedOp

/-- The words of an instruction, from the encoding tables R49 to R61. A step that the table gives no word encodes to none. -/
def encode : Instr → List (BitVec 32)
  | .add d a b => [mkR 0x0#9 b a d 0x01#6 0#2]
  | .addL d a lit => litWords (mkR 0x0#9 0#5 a d 0x01#6 1#2) lit
  | .sub d a b => [mkR 0x1#9 b a d 0x01#6 0#2]
  | .subL d a lit => litWords (mkR 0x1#9 0#5 a d 0x01#6 1#2) lit
  | .and d a b => [mkR 0x2#9 b a d 0x01#6 0#2]
  | .andL d a lit => litWords (mkR 0x2#9 0#5 a d 0x01#6 1#2) lit
  | .or d a b => [mkR 0x3#9 b a d 0x01#6 0#2]
  | .orL d a lit => litWords (mkR 0x3#9 0#5 a d 0x01#6 1#2) lit
  | .xor d a b => [mkR 0x4#9 b a d 0x01#6 0#2]
  | .xorL d a lit => litWords (mkR 0x4#9 0#5 a d 0x01#6 1#2) lit
  | .andn d a b => [mkR 0x5#9 b a d 0x01#6 0#2]
  | .andnL d a lit => litWords (mkR 0x5#9 0#5 a d 0x01#6 1#2) lit
  | .orn d a b => [mkR 0x6#9 b a d 0x01#6 0#2]
  | .ornL d a lit => litWords (mkR 0x6#9 0#5 a d 0x01#6 1#2) lit
  | .sel d a b => [mkR 0x7#9 b a d 0x01#6 0#2]
  | .selL d a lit => litWords (mkR 0x7#9 0#5 a d 0x01#6 1#2) lit
  | .shl d a b => [mkR 0x8#9 b a d 0x01#6 0#2]
  | .shr d a b => [mkR 0x9#9 b a d 0x01#6 0#2]
  | .sra d a b => [mkR 0xa#9 b a d 0x01#6 0#2]
  | .rotr d a b => [mkR 0xb#9 b a d 0x01#6 0#2]
  | .mul d a b => [mkR 0x10#9 b a d 0x01#6 0#2]
  | .mulL d a lit => litWords (mkR 0x10#9 0#5 a d 0x01#6 1#2) lit
  | .mulh d a b => [mkR 0x11#9 b a d 0x01#6 0#2]
  | .mulhL d a lit => litWords (mkR 0x11#9 0#5 a d 0x01#6 1#2) lit
  | .mulhu d a b => [mkR 0x12#9 b a d 0x01#6 0#2]
  | .mulhuL d a lit => litWords (mkR 0x12#9 0#5 a d 0x01#6 1#2) lit
  | .div d a b => [mkR 0x14#9 b a d 0x01#6 0#2]
  | .divL d a lit => litWords (mkR 0x14#9 0#5 a d 0x01#6 1#2) lit
  | .divu d a b => [mkR 0x15#9 b a d 0x01#6 0#2]
  | .divuL d a lit => litWords (mkR 0x15#9 0#5 a d 0x01#6 1#2) lit
  | .rem d a b => [mkR 0x16#9 b a d 0x01#6 0#2]
  | .remL d a lit => litWords (mkR 0x16#9 0#5 a d 0x01#6 1#2) lit
  | .remu d a b => [mkR 0x17#9 b a d 0x01#6 0#2]
  | .remuL d a lit => litWords (mkR 0x17#9 0#5 a d 0x01#6 1#2) lit
  | .min d a b => [mkR 0x18#9 b a d 0x01#6 0#2]
  | .minL d a lit => litWords (mkR 0x18#9 0#5 a d 0x01#6 1#2) lit
  | .max d a b => [mkR 0x19#9 b a d 0x01#6 0#2]
  | .maxL d a lit => litWords (mkR 0x19#9 0#5 a d 0x01#6 1#2) lit
  | .minu d a b => [mkR 0x1a#9 b a d 0x01#6 0#2]
  | .minuL d a lit => litWords (mkR 0x1a#9 0#5 a d 0x01#6 1#2) lit
  | .maxu d a b => [mkR 0x1b#9 b a d 0x01#6 0#2]
  | .maxuL d a lit => litWords (mkR 0x1b#9 0#5 a d 0x01#6 1#2) lit
  | .slt d a b => [mkR 0x1c#9 b a d 0x01#6 0#2]
  | .sltL d a lit => litWords (mkR 0x1c#9 0#5 a d 0x01#6 1#2) lit
  | .sltu d a b => [mkR 0x1d#9 b a d 0x01#6 0#2]
  | .sltuL d a lit => litWords (mkR 0x1d#9 0#5 a d 0x01#6 1#2) lit
  | .seq d a b => [mkR 0x1e#9 b a d 0x01#6 0#2]
  | .seqL d a lit => litWords (mkR 0x1e#9 0#5 a d 0x01#6 1#2) lit
  | .clz d a => [mkR 0x20#9 0#5 a d 0x01#6 0#2]
  | .ctz d a => [mkR 0x21#9 0#5 a d 0x01#6 0#2]
  | .popc d a => [mkR 0x22#9 0#5 a d 0x01#6 0#2]
  | .brev d a => [mkR 0x23#9 0#5 a d 0x01#6 0#2]
  | .bswap d a => [mkR 0x24#9 0#5 a d 0x01#6 0#2]
  | .sext d a b => [mkR 0x28#9 b a d 0x01#6 0#2]
  | .zext d a b => [mkR 0x29#9 b a d 0x01#6 0#2]
  | .bfx d a b => [mkR 0x2c#9 b a d 0x01#6 0#2]
  | .bfi d a b => [mkR 0x2d#9 b a d 0x01#6 0#2]
  | .addi d a imm14 => [mkI imm14 a d 0x02#6 0#2]
  | .addiL d a lit => litWords (mkI 0#14 a d 0x02#6 1#2) lit
  | .andi d a imm14 => [mkI imm14 a d 0x03#6 0#2]
  | .andiL d a lit => litWords (mkI 0#14 a d 0x03#6 1#2) lit
  | .ori d a imm14 => [mkI imm14 a d 0x04#6 0#2]
  | .oriL d a lit => litWords (mkI 0#14 a d 0x04#6 1#2) lit
  | .xori d a imm14 => [mkI imm14 a d 0x05#6 0#2]
  | .xoriL d a lit => litWords (mkI 0#14 a d 0x05#6 1#2) lit
  | .slti d a imm14 => [mkI imm14 a d 0x06#6 0#2]
  | .sltiL d a lit => litWords (mkI 0#14 a d 0x06#6 1#2) lit
  | .sltiu d a imm14 => [mkI imm14 a d 0x07#6 0#2]
  | .sltiuL d a lit => litWords (mkI 0#14 a d 0x07#6 1#2) lit
  | .shli d a imm14 => [mkI imm14 a d 0x08#6 0#2]
  | .shri d a imm14 => [mkI imm14 a d 0x09#6 0#2]
  | .srai d a imm14 => [mkI imm14 a d 0x0a#6 0#2]
  | .lim d imm19 => [mkJ imm19 d 0x0b#6 0#2]
  | .limL d lit => litWords (mkJ 0#19 d 0x0b#6 1#2) lit
  | .addpc d imm19 => [mkJ imm19 d 0x0c#6 0#2]
  | .beq a b off14 => [mkS off14 b a 0x10#6 0#2]
  | .bne a b off14 => [mkS off14 b a 0x11#6 0#2]
  | .blt a b off14 => [mkS off14 b a 0x12#6 0#2]
  | .bge a b off14 => [mkS off14 b a 0x13#6 0#2]
  | .bltu a b off14 => [mkS off14 b a 0x14#6 0#2]
  | .bgeu a b off14 => [mkS off14 b a 0x15#6 0#2]
  | .jal d imm19 => [mkJ imm19 d 0x16#6 0#2]
  | .jalr d a => [mkR 0x0#9 0#5 a d 0x17#6 0#2]
  | .rep a n => [mkR 0x001#9 n a 0#5 0x17#6 0#2]
  | .ld d a off10 ef sz => [mkI (memImm off10 ef sz) a d 0x18#6 0#2]
  | .ldL d a ef sz lit => litWords (mkI (memImm 0#10 ef sz) a d 0x18#6 1#2) lit
  | .st a b off10 ef sz => [mkS (memImm off10 ef sz) b a 0x19#6 0#2]
  | .stL a b ef sz lit => litWords (mkS (memImm 0#10 ef sz) b a 0x19#6 1#2) lit
  | .ldp d a off10 ef sz => [mkI (memImm off10 ef sz) a d 0x1a#6 0#2]
  | .ldpL d a ef sz lit => litWords (mkI (memImm 0#10 ef sz) a d 0x1a#6 1#2) lit
  | .stp a b off10 ef sz => [mkS (memImm off10 ef sz) b a 0x1b#6 0#2]
  | .stpL a b ef sz lit => litWords (mkS (memImm 0#10 ef sz) b a 0x1b#6 1#2) lit
  | .ldv d a b ef sz => [mkR (fnEfOpxSz ef 0#5 (szCode sz)) b a d 0x1c#6 0#2]
  | .stv d a b ef sz => [mkR (fnEfOpxSz ef 1#5 (szCode sz)) b a d 0x1c#6 0#2]
  | .stq a b => [mkR (fnEfOpxSz false 2#5 0#3) b a 0#5 0x1c#6 0#2]
  | .prefRd a b => [mkR (fnEfOpxSz false 3#5 0#3) b a 0#5 0x1c#6 0#2]
  | .prefWr a b => [mkR (fnEfOpxSz false 3#5 1#3) b a 0#5 0x1c#6 0#2]
  | .amoadd d a b sz => [mkR (0#5 ++ 0#1 ++ szCode sz) b a d 0x1d#6 0#2]
  | .amoswap d a b sz => [mkR (1#5 ++ 0#1 ++ szCode sz) b a d 0x1d#6 0#2]
  | .amoand d a b sz => [mkR (2#5 ++ 0#1 ++ szCode sz) b a d 0x1d#6 0#2]
  | .amoor d a b sz => [mkR (3#5 ++ 0#1 ++ szCode sz) b a d 0x1d#6 0#2]
  | .amoxor d a b sz => [mkR (4#5 ++ 0#1 ++ szCode sz) b a d 0x1d#6 0#2]
  | .amomin d a b sz => [mkR (5#5 ++ 0#1 ++ szCode sz) b a d 0x1d#6 0#2]
  | .amomax d a b sz => [mkR (6#5 ++ 0#1 ++ szCode sz) b a d 0x1d#6 0#2]
  | .amominu d a b sz => [mkR (7#5 ++ 0#1 ++ szCode sz) b a d 0x1d#6 0#2]
  | .amomaxu d a b sz => [mkR (8#5 ++ 0#1 ++ szCode sz) b a d 0x1d#6 0#2]
  | .cas d a b sz => [mkR (9#5 ++ 0#1 ++ szCode sz) b a d 0x1d#6 0#2]
  | .famoadd d a b rm et => [mkR (0#3 ++ rmCode rm ++ etCode et) b a d 0x1e#6 0#2]
  | .fadd d a b rm et => [mkR (0#3 ++ rmCode rm ++ etCode et) b a d 0x20#6 0#2]
  | .fsub d a b rm et => [mkR (1#3 ++ rmCode rm ++ etCode et) b a d 0x20#6 0#2]
  | .fmul d a b rm et => [mkR (2#3 ++ rmCode rm ++ etCode et) b a d 0x20#6 0#2]
  | .fdiv d a b rm et => [mkR (3#3 ++ rmCode rm ++ etCode et) b a d 0x20#6 0#2]
  | .fma d a b rm et => [mkR (4#3 ++ rmCode rm ++ etCode et) b a d 0x20#6 0#2]
  | .fms d a b rm et => [mkR (5#3 ++ rmCode rm ++ etCode et) b a d 0x20#6 0#2]
  | .fnma d a b rm et => [mkR (6#3 ++ rmCode rm ++ etCode et) b a d 0x20#6 0#2]
  | .fnms d a b rm et => [mkR (7#3 ++ rmCode rm ++ etCode et) b a d 0x20#6 0#2]
  | .fsqrt d a rm et => [mkR (0#3 ++ rmCode rm ++ etCode et) 0#5 a d 0x21#6 0#2]
  | .fsum d a rm et => [mkR (1#3 ++ rmCode rm ++ etCode et) 0#5 a d 0x21#6 0#2]
  | .fmin d a b et => [mkR (0#3 ++ 0#3 ++ etCode et) b a d 0x22#6 0#2]
  | .fmax d a b et => [mkR (1#3 ++ 0#3 ++ etCode et) b a d 0x22#6 0#2]
  | .fabs d a et => [mkR (2#3 ++ 0#3 ++ etCode et) 0#5 a d 0x22#6 0#2]
  | .fneg d a et => [mkR (3#3 ++ 0#3 ++ etCode et) 0#5 a d 0x22#6 0#2]
  | .fsgnj d a b et => [mkR (4#3 ++ 0#3 ++ etCode et) b a d 0x22#6 0#2]
  | .fcmpeq d a b et => [mkR (5#3 ++ 0#3 ++ etCode et) b a d 0x22#6 0#2]
  | .fcmplt d a b et => [mkR (6#3 ++ 0#3 ++ etCode et) b a d 0x22#6 0#2]
  | .fcmple d a b et => [mkR (7#3 ++ 0#3 ++ etCode et) b a d 0x22#6 0#2]
  | .fclass d a et => [mkR (0#3 ++ 0#3 ++ etCode et) 0#5 a d 0x23#6 0#2]
  | .fmvFF d a => [mkR (1#3 ++ 0#3 ++ 0#3) 0#5 a d 0x23#6 0#2]
  | .fmvFG d a => [mkR (1#3 ++ 1#3 ++ 0#3) 0#5 a d 0x23#6 0#2]
  | .fmvGF d a => [mkR (1#3 ++ 2#3 ++ 0#3) 0#5 a d 0x23#6 0#2]
  | .fpack d a b dst et => [mkR (2#3 ++ etCode dst ++ etCode et) b a d 0x23#6 0#2]
  | .funpk d a hi dst et => [mkR (3#3 ++ etCode dst ++ etCode et) (bit0 hi) a d 0x23#6 0#2]
  | .fshuf d a b et => [mkR (4#3 ++ 0#3 ++ etCode et) b a d 0x23#6 0#2]
  | .fcvt d a sat rm dst et => [mkR (rmCode rm ++ etCode dst ++ etCode et) (bit0 sat) a d 0x24#6 0#2]
  | .fcvti d a sat rm idst et => [mkR (rmCode rm ++ itCode idst ++ etCode et) (bit0 sat) a d 0x25#6 0#2]
  | .fcvtf d a sat rm dst isrc => [mkR (rmCode rm ++ etCode dst ++ itCode isrc) (bit0 sat) a d 0x26#6 0#2]
  | .faddImm d et imm16 => [mkH imm16 (etCode et) d 0x27#6 0#2]
  | .fmulImm d et imm16 => [mkH imm16 (etCode et) d 0x28#6 0#2]
  | .fmvImm d et imm16 => [mkH imm16 (etCode et) d 0x29#6 0#2]
  | .fexp2 d a rm => [mkR (0#3 ++ rmCode rm ++ 0#3) 0#5 a d 0x2a#6 0#2]
  | .flog2 d a rm => [mkR (1#3 ++ rmCode rm ++ 0#3) 0#5 a d 0x2a#6 0#2]
  | .frcp d a rm => [mkR (2#3 ++ rmCode rm ++ 0#3) 0#5 a d 0x2a#6 0#2]
  | .frsq d a rm => [mkR (3#3 ++ rmCode rm ++ 0#3) 0#5 a d 0x2a#6 0#2]
  | .fsin d a rm => [mkR (4#3 ++ rmCode rm ++ 0#3) 0#5 a d 0x2a#6 0#2]
  | .fcos d a rm => [mkR (5#3 ++ rmCode rm ++ 0#3) 0#5 a d 0x2a#6 0#2]
  | .ftanh d a rm => [mkR (6#3 ++ rmCode rm ++ 0#3) 0#5 a d 0x2a#6 0#2]
  | .flgst d a rm => [mkR (7#3 ++ rmCode rm ++ 0#3) 0#5 a d 0x2a#6 0#2]
  | .scfg d a b dir ndim imm32 => [mkR 0x000#9 b a d 0x2c#6 2#2, mkX (0#19 ++ BitVec.ofBool dir ++ ndim) 0#5 0#5, imm32]
  | .sdim d a => [mkR 0x1#9 0#5 a d 0x2c#6 0#2]
  | .sen d => [mkR 0x2#9 0#5 0#5 d 0x2c#6 0#2]
  | .sdis d => [mkR 0x3#9 0#5 0#5 d 0x2c#6 0#2]
  | .sstat d a => [mkR 0x4#9 0#5 a d 0x2c#6 0#2]
  | .qget d q => [mkR 0x0#9 0#5 (q.setWidth 5) d 0x2d#6 0#2]
  | .qput q b => [mkR 0x1#9 b (q.setWidth 5) 0#5 0x2d#6 0#2]
  | .qpeek d q => [mkR 0x2#9 0#5 (q.setWidth 5) d 0x2d#6 0#2]
  | .qtry d q => [mkR 0x3#9 0#5 (q.setWidth 5) d 0x2d#6 0#2]
  | .qtput d q b => [mkR 0x4#9 b (q.setWidth 5) d 0x2d#6 0#2]
  | .qcfg d q b => [mkR 0x5#9 b (q.setWidth 5) d 0x2d#6 0#2]
  | .qstat d q => [mkR 0x6#9 0#5 (q.setWidth 5) d 0x2d#6 0#2]
  | .send d a b => [mkR 0x0#9 b a d 0x30#6 0#2]
  | .sendt d a b c imm32 => [mkR 0x001#9 b a d 0x30#6 2#2, mkX 0#22 0#5 c, imm32]
  | .keep d a b => [mkR 0x3#9 b a d 0x30#6 0#2]
  | .unkeep a => [mkR 0x4#9 0#5 a 0#5 0x30#6 0#2]
  | .gvtr d a => [mkR 0x6#9 0#5 a d 0x30#6 0#2]
  | .anti d a => [mkR 0x7#9 0#5 a d 0x30#6 0#2]
  | .launch d a b => [mkR 0x0#9 b a d 0x31#6 0#2]
  | .wid d a n => [mkR 0x1#9 n a d 0x31#6 0#2]
  | .kstat d a => [mkR 0x2#9 0#5 a d 0x31#6 0#2]
  | .kend d a => [mkR 0x3#9 0#5 a d 0x31#6 0#2]
  | .clnew d a b => [mkR 0x0#9 b a d 0x34#6 0#2]
  | .clpub a b => [mkR 0x1#9 b a 0#5 0x34#6 0#2]
  | .cldec a => [mkR 0x2#9 0#5 a 0#5 0x34#6 0#2]
  | .spawn a => [mkR 0x3#9 0#5 a 0#5 0x34#6 0#2]
  | .callat d a b => [mkR 0x4#9 b a d 0x34#6 0#2]
  | .retv a => [mkR 0x5#9 0#5 a 0#5 0x34#6 0#2]
  | .bind d a b => [mkR 0x0#9 b a d 0x35#6 0#2]
  | .chpri a b => [mkR 0x1#9 b a 0#5 0x35#6 0#2]
  | .chmask d a => [mkR 0x2#9 0#5 a d 0x35#6 0#2]
  | .chain d a b => [mkR 0x0#9 b a d 0x36#6 0#2]
  | .recoil d a => [mkR 0x2#9 0#5 a d 0x36#6 0#2]
  | .uncoil d a => [mkR 0x3#9 0#5 a d 0x36#6 0#2]
  | .cform d a => [mkR 0x4#9 0#5 a d 0x36#6 0#2]
  | .put a b sz => [mkR (0#6 ++ szCode sz) b a 0#5 0x38#6 0#2]
  | .putL a sz lit => litWords (mkR (0#6 ++ szCode sz) 0#5 a 0#5 0x38#6 1#2) lit
  | .putv d a b sz => [mkR (1#6 ++ szCode sz) b a d 0x38#6 0#2]
  | .rld d a sz => [mkR (2#6 ++ szCode sz) 0#5 a d 0x38#6 0#2]
  | .radd a b sz => [mkR (3#6 ++ szCode sz) b a 0#5 0x38#6 0#2]
  | .raddL a sz lit => litWords (mkR (3#6 ++ szCode sz) 0#5 a 0#5 0x38#6 1#2) lit
  | .cpy d a => [mkR 0x20#9 0#5 a d 0x38#6 0#2]
  | .cpys d a imm32 => [mkR 0x021#9 0#5 a d 0x38#6 2#2, 0#32, imm32]
  | .cpyg d a imm32 => [mkR 0x022#9 0#5 a d 0x38#6 2#2, 0#32, imm32]
  | .cpyx d a imm32 => [mkR 0x023#9 0#5 a d 0x38#6 2#2, 0#32, imm32]
  | .cpyq d a => [mkR 0x24#9 0#5 a d 0x38#6 0#2]
  | .cpyc d a => [mkR 0x25#9 0#5 a d 0x38#6 0#2]
  | .pin d a b => [mkR 0x0#9 b a d 0x39#6 0#2]
  | .unpin a => [mkR 0x1#9 0#5 a 0#5 0x39#6 0#2]
  | .flsh a b => [mkR 0x2#9 b a 0#5 0x39#6 0#2]
  | .invl a b => [mkR 0x3#9 b a 0#5 0x39#6 0#2]
  | .winset a b win imm32 => [mkR 0x004#9 b a 0#5 0x39#6 2#2, mkX (0#19 ++ win) 0#5 0#5, imm32]
  | .mxstat d clr => [mkR 0x002#9 (bit0 clr) 0#5 d 0x3a#6 0#2]
  | .mxgang d a dis cm1 rm1 imm32 => [mkR 0x004#9 0#5 a d 0x3a#6 2#2, mkX (0#14 ++ BitVec.ofBool dis ++ cm1 ++ rm1) 0#5 0#5, imm32]
  | .gjoin d a b => [mkR 0x0#9 b a d 0x3b#6 0#2]
  | .gleave d a => [mkR 0x1#9 0#5 a d 0x3b#6 0#2]
  | .ggen d a => [mkR 0x2#9 0#5 a d 0x3b#6 0#2]
  | .cstat d a => [mkR 0x3#9 0#5 a d 0x3b#6 0#2]
  | .cred d a b rm mode dt => [mkR 0x008#9 b a d 0x3b#6 2#2, mkX (collXf 0#3 rm mode dt) 0#5 0#5, 0#32]
  | .credmin d a b rm mode dt => [mkR 0x008#9 b a d 0x3b#6 2#2, mkX (collXf 1#3 rm mode dt) 0#5 0#5, 0#32]
  | .credmax d a b rm mode dt => [mkR 0x008#9 b a d 0x3b#6 2#2, mkX (collXf 2#3 rm mode dt) 0#5 0#5, 0#32]
  | .credand d a b rm mode dt => [mkR 0x008#9 b a d 0x3b#6 2#2, mkX (collXf 3#3 rm mode dt) 0#5 0#5, 0#32]
  | .credor d a b rm mode dt => [mkR 0x008#9 b a d 0x3b#6 2#2, mkX (collXf 4#3 rm mode dt) 0#5 0#5, 0#32]
  | .cbcst d a b rm dt => [mkR 0x009#9 b a d 0x3b#6 2#2, mkX (collXf 0#3 rm false dt) 0#5 0#5, 0#32]
  | .cagth d a b rm dt => [mkR 0x00a#9 b a d 0x3b#6 2#2, mkX (collXf 0#3 rm false dt) 0#5 0#5, 0#32]
  | .crsct d a b rm mode dt => [mkR 0x00b#9 b a d 0x3b#6 2#2, mkX (collXf 0#3 rm mode dt) 0#5 0#5, 0#32]
  | .binit d a b lo n1 => [mkR 0x010#9 b a d 0x3b#6 2#2, 0#32, 0#4 ++ n1 ++ 0#4 ++ lo]
  | .barv d a => [mkR 0x11#9 0#5 a d 0x3b#6 0#2]
  | .bwait d a b => [mkR 0x12#9 b a d 0x3b#6 0#2]
  | .btest d a b => [mkR 0x13#9 b a d 0x3b#6 0#2]
  | .bcnt a b => [mkR 0x14#9 b a 0#5 0x3b#6 0#2]
  | .bwdraw d a => [mkR 0x15#9 0#5 a d 0x3b#6 0#2]
  | .waita a b => [mkR 0x18#9 b a 0#5 0x3b#6 0#2]
  | .tshape d a => [mkR 0x0#9 0#5 a d 0x3c#6 0#2]
  | .tupc d a => [mkR 0x1#9 0#5 a d 0x3c#6 0#2]
  | .tpress d a => [mkR 0x2#9 0#5 a d 0x3c#6 0#2]
  | .tmap d a => [mkR 0x3#9 0#5 a d 0x3c#6 0#2]
  | .tpin d a b => [mkR 0x4#9 b a d 0x3c#6 0#2]
  | .cfence px py => [mkR 0x001#9 (pathCode py) (pathCode px) 0#5 0x3d#6 0#2]
  | .tlbi a b => [mkR 0x8#9 b a 0#5 0x3d#6 0#2]
  | .pmig d a b => [mkR 0x9#9 b a d 0x3d#6 0#2]
  | .pdirty d a => [mkR 0xa#9 0#5 a d 0x3d#6 0#2]
  | .pship a => [mkR 0xb#9 0#5 a 0#5 0x3d#6 0#2]
  | .phome d a => [mkR 0xc#9 0#5 a d 0x3d#6 0#2]
  | .trap d a => [mkR 0x0#9 0#5 a d 0x3e#6 0#2]
  | .eret d a b => [mkR 0x1#9 b a d 0x3e#6 0#2]
  | .crr d cr => [mkR 0x002#9 cr 0#5 d 0x3e#6 0#2]
  | .crw d a cr => [mkR 0x003#9 cr a d 0x3e#6 0#2]
  | .crs d a cr => [mkR 0x004#9 cr a d 0x3e#6 0#2]
  | .crc d a cr => [mkR 0x005#9 cr a d 0x3e#6 0#2]
  | .brk n => [mkR 0x7#9 n 0#5 0#5 0x3e#6 0#2]
  | .mark d a => [mkR 0x8#9 0#5 a d 0x3e#6 0#2]
  | .swset d a imm32 => [mkR 0x009#9 0#5 a d 0x3e#6 2#2, 0#32, imm32]
  | .hint hlen hraw => hintWords (mkRaw (7#3 ++ hraw) 0x3e#6 hlen)
  | .tstamp d sel5 => [mkR 0x10#9 sel5 0#5 d 0x3e#6 0#2]
  | .pcntr d a => [mkR 0x11#9 0#5 a d 0x3e#6 0#2]
  | .trace a b => [mkR 0x12#9 b a 0#5 0x3e#6 0#2]
  | .done => [mkR 0x2#9 0#5 0#5 0#5 0x30#6 0#2]
  | .irrev => [mkR 0x5#9 0#5 0#5 0#5 0x30#6 0#2]
  | .eqpt => [mkR 0x1#9 0#5 0#5 0#5 0x36#6 0#2]
  | .mxswap => [mkR 0x0#9 0#5 0#5 0#5 0x3a#6 0#2]
  | .mxwait => [mkR 0x1#9 0#5 0#5 0#5 0x3a#6 0#2]
  | .mxrst => [mkR 0x3#9 0#5 0#5 0#5 0x3a#6 0#2]
  | .fence => [mkR 0x0#9 0#5 0#5 0#5 0x3d#6 0#2]
  | .pfence => [mkR 0x2#9 0#5 0#5 0#5 0x3d#6 0#2]
  | .halt => [mkR 0x6#9 0#5 0#5 0#5 0x3e#6 0#2]
  | .sfuResult => []
  | .queueWordArrival => []
  | .messageArrival => []
  | .antimessageArrival => []
  | .callArrival => []
  | .returnArrival => []
  | .gvtDelivery => []
  | .firmwareLaunch => []
  | .sweep => []
  | .kernelStopComplete => []
  | .stealAttempt => []
  | .codeletUpdate => []
  | .dispatch => []
  | .priorityPromotion => []
  | .sliceExpiry => []
  | .bindRecordWrite => []
  | .chainSwitch => []
  | .copyComplete => []
  | .copyError => []
  | .remoteAccessArrival => []
  | .putAcknowledgement => []
  | .negativeAcknowledgement => []
  | .rldReturn => []
  | .mnop => []
  | .mma => []
  | .mmas => []
  | .mzero => []
  | .mldb => []
  | .mstb => []
  | .mpack => []
  | .munpk => []
  | .msig => []
  | .mbar => []
  | .formatWindowFill => []
  | .formatWindowCtlWrite => []
  | .collectiveComplete => []
  | .groupTimeout => []
  | .memberWithdrawal => []
  | .novenaLatch => []
  | .borderProposal => []
  | .borderGrant => []
  | .proposalDrop => []
  | .cedeComplete => []
  | .treeParentChange => []
  | .levellingCheck => []
  | .levellingMoveComplete => []
  | .forcedCede => []
  | .correctedError => []
  | .tileReturnAfterRepair => []
  | .shipArrival => []
  | .shipBackCount => []
  | .pageRequestFlush => []
  | .migrationComplete => []
  | .migrationAbandon => []
  | .pageTableEntryWrite => []
  | .illegalWord => []
  | .parkResume => []
  | .teamSpill => []
  | .teamResume => []
  | .gangStop => []
  | .stopRelease => []
  | .debugStop => []
  | .debugStep => []
  | .debugDrain => []
  | .gangSwitchSet => []
  | .gangSwitchWithdraw => []
  | .gangSwitch => []
  | .saveComplete => []
  | .gangResume => []
  | .partitionFreeze => []
  | .partitionPowerCycle => []
  | .cutStart => []
  | .cutRecord => []
  | .kernelRestore => []
  | .flitRouting => []
  | .flitAcceptance => []
  | .mapHint => []
  | .mapUpdate => []
  | .retransmit => []
  | .routerReset => []
  | .beatReceive => []
  | .beatRefusal => []
  | .portEnable => []
  | .laneTrainingDone => []
  | .trainingTimeout => []
  | .replayStorm => []
  | .laneLost => []
  | .portDisable => []
  | .d2dModuleFailure => []
  | .cxlMemRead => []
  | .cxlMemWrite => []
  | .profilingLease => []
  | .profilingLeaseExpiry => []
  | .logicalClockTick => []
  | .homeTimeRaise => []
  | .coreClockStop => []
  | .coreClockRestart => []
  | .dieClockStep => []
  | .boot => []
  | .attestationRequest => []
  | .residentKernelRequest => []
  | .registerWrite => []

/-- The first five of a list of words, zeros after its end. -/
def Words.ofList (ws : List (BitVec 32)) : Words :=
  { w0 := ws.getD 0 0#32, w1 := ws.getD 1 0#32, w2 := ws.getD 2 0#32, w3 := ws.getD 3 0#32, w4 := ws.getD 4 0#32 }

/-- The bytes of a 32-bit word, lowest address first (R3, R45). -/
def wordBytes (w : BitVec 32) : List Byte :=
  [w.extractLsb' 0 8, w.extractLsb' 8 8, w.extractLsb' 16 8, w.extractLsb' 24 8]

/-- The bytes of an instruction as the module stores them (R45). -/
def encodeBytes (i : Instr) : List Byte := (encode i).flatMap wordBytes

/-- Four bytes as a word, lowest address first (R3). -/
def wordOfBytes (b0 b1 b2 b3 : Byte) : BitVec 32 := b3 ++ b2 ++ b1 ++ b0

/-- The five words at the start of a list of bytes, zeros after its end. -/
def Words.ofBytes (bs : List Byte) : Words :=
  let word (k : Nat) : BitVec 32 :=
    wordOfBytes (bs.getD (4 * k) 0#8) (bs.getD (4 * k + 1) 0#8) (bs.getD (4 * k + 2) 0#8) (bs.getD (4 * k + 3) 0#8)
  { w0 := word 0, w1 := word 1, w2 := word 2, w3 := word 3, w4 := word 4 }

/-- The twenty bytes, in memory order, of the instruction whose first `nbits` bits are `w`, the bits above them zero. -/
def tableBytes (nbits w : Nat) : List Byte :=
  (List.range 20).map fun k => BitVec.ofNat 8 ((w % 2 ^ nbits) >>> (8 * k))

/-- The instruction that the decoder reads from the bits of an opcode-table row. -/
def decodeTableWord (nbits w : Nat) : Option Instr :=
  match decode (Words.ofBytes (tableBytes nbits w)) with
  | .ok i => some i
  | .error _ => none

/-- An instruction's length in bytes (R45). A step without words has length 0. -/
def Instr.bytes (i : Instr) : Nat := 4 * (encode i).length

end Sys2Proof
end

