-- ==== Sys2Proof/Machine/State.lean ====
section
/-! DEFINITION. The state of the module as plain data, with everything the spec gives it, and the state right after reset. -/

namespace Sys2Proof.Machine

open Sys2Proof

/-- A 64-byte matrix-unit command record: its eight words and the FRM sample of its STQ (R128, R213, R217). -/
structure MuRec where
  w0 : Word
  w1 : Word
  w2 : Word
  w3 : Word
  w4 : Word
  w5 : Word
  w6 : Word
  w7 : Word
  frm : BitVec 4
  deriving DecidableEq, Repr

/-- The five components of a message's order key, compared in this order (R288). -/
structure Key where
  vrt : Nat := 0
  slt : Nat := 0
  score : Nat := 0
  sstrand : Nat := 0
  seq : Nat := 0
  deriving DecidableEq, Repr

/-- Where the return of a call goes (R261, R133). -/
inductive RetTo where
  | pendReg (ctx : Nat) (d : Reg) (seqno : Nat)   -- CALLAT with D ≠ 0: a pending register of the caller's context
  | channel (lc : Nat) (ch : Nat) (vrt : Word)   -- CALLAT with D = 0: a message on the caller's channel
  | exception (ctx : Nat) (seqno : Nat)          -- R133: the strand parked on its exception message
  deriving DecidableEq, Repr

/-- Who waits for the acknowledgement of a put-path access or copy unit (R177, R197, R198, R209). -/
inductive Issuer where
  | none
  | strandPut (ctx : Nat)
  | strandRld (ctx : Nat) (d : Reg)
  | commit (lc : Nat) (entry : Nat) (vrt : Word)   -- a commit-queue entry, with its activation's VRT (R298)
  | copyUnit (lc : Nat) (slot : Nat) (unit : Nat)
  | codelet (ctx : Nat)
  | remote (dev : Nat)
  | endOf (kid : Nat)                            -- the end message of a kernel, whose id is free once it is accepted (R276)
  deriving DecidableEq, Repr

/-- What a put-path access does at its destination (R187, R194, R196). -/
inductive AccOp where
  | write (bytes : List Byte)
  | read (size : Nat)
  | add (size : Nat) (v : Word)
  | copyWrite (bytes : List Byte)
  | copyRead (size : Nat)
  deriving DecidableEq, Repr

/-- A group member: kernel id and logical tile on a device (R377). -/
structure Member where
  dev : Nat := 0
  kid : Nat := 0
  lt : Nat := 0
  deriving DecidableEq, Repr

/-- What a collective is: its group and instance, its operation and its operands (R381, R382). -/
structure Coll where
  name : Word := 0#64
  gen : BitVec 32 := 0#32
  k : Nat := 0
  kind : Nat := 0        -- 0 CRED, 1 CBCST, 2 CAGTH, 3 CRSCT
  rop : Nat := 0
  mode : Bool := false
  dt : DT := .i32
  rm : RM := .rne
  frm : BitVec 4 := 0#4
  count : Nat := 0
  root : Nat := 0
  deriving DecidableEq, Repr

/-- How an instance of a collective ended at its contributors (R383, R386). -/
structure CollEnd where
  err : Nat := 0
  fl : BitVec 5 := 0#5
  nc1 : Nat := 0
  wdr : Bool := false
  stamp : BitVec 48 := 0#48     -- above the reads of every contribution (R387)
  deriving DecidableEq, Repr

/-- A view as a member gets it: generation, rank and the members in rank order (R378). -/
structure ViewOf where
  gen : BitVec 32
  rank : Nat
  members : List Member
  deriving DecidableEq, Repr

/-- What a flit of kind 10 carries between a member's device and a group's home (R376, R389): the layout is the model's. A member's device tells the final count of
a generation once its view has left it, and which instances of the group it will not contribute to (R378, R388). -/
inductive GroupOp where
  | join (name : Word) (key : BitVec 32) (tmo : Nat) (who : Member) (ctx : Nat)
  | leave (name : Word) (who : Member) (ctx : Nat)
  | gen (name : Word) (who : Member) (ctx : Nat)
  | final (name : Word) (who : Member) (gen : BitVec 32) (count : Nat) (missing : List (BitVec 32 × Nat))
  | withdraw (name : Word) (who : Member) (gen : BitVec 32) (count : Nat) (missing : List (BitVec 32 × Nat))
  | answer (name : Word) (who : Member) (ctx : Nat) (gd : Word) (view : Option ViewOf) (left : Bool)
  | unview (name : Word) (who : Member)
  | contribute (c : Coll) (who : Member) (data : List Byte) (memErr : Bool)
  | result (name : Word) (gen : BitVec 32) (k : Nat) (who : Member) (fin : CollEnd) (blocks : List (Nat × List Byte))
  deriving DecidableEq, Repr

/-- What a flit carries beyond its header: the content of R430's body, by KIND (R431). -/
inductive Carry where
  | message (key : Key) (ret : Option RetTo)
  | call (key : Key) (entry : Word) (ret : Option RetTo) (stage : Option (Nat × Nat × Bool))   -- a chain's stage task: chain, stage, coil (R345)
  | retval (key : Key) (rto : RetTo)
  | anti (key : Key)
  | antiReturn (key : Key) (rto : RetTo)
  | queueWord (writer : Nat)
  | access (op : AccOp) (addr : Word) (kid : Nat) (dev : Nat)
  | ack (ofFid : Nat) (value : Option Word)
  | nack (ofFid : Nat) (addr : Word)
  | codelet (handle : Word) (publish : Option Word)
  | mapHint (lt : Nat)
  | group (op : GroupOp)
  | idle
  deriving DecidableEq, Repr

/-- A 64-byte flit (R430): its raw header and words, its integrity check, and its content. `fid` is the model's
name for the flit; `at_` is the tile whose router holds it; `dst` is its translation, once made (R433). -/
structure Flit where
  fid : Nat
  hdr : Word
  vrt : Word
  src : Word
  p0 : Word
  p1 : Word
  p2 : Word
  p3 : Word
  crc : Word
  carry : Carry
  issuer : Issuer
  sender : Nat
  at_ : Nat
  dst : Option (Nat × Nat)
  router : Nat            -- the router that translated it
  sentAt : Nat
  stamp : BitVec 48        -- the sending core's clock, which the receiving core's clock is raised to (R180, R253)
  deriving DecidableEq, Repr

/-- Answers of the management agents that a parked instruction waits for: firmware for LAUNCH and SWSET (R275, R420),
the resident kernel for TRAP and PMIG (R409, R374). They come from outside the compute dies, so the event brings them. -/
structure FwAns where
  accept : Bool := false
  value : Word := 0#64
  place : List (Nat × Nat) := []   -- physical tile and slot of each logical tile, in order
  extra : List Nat := []   -- further tiles of the territory
  anchor : Nat := 0
  frame : Nat := 0   -- PMIG: the frame chosen at the target controller
  deriving DecidableEq, Repr

/-- One partition as the boot image defines it (R456, R461). -/
structure PartCfg where
  quota : Nat
  root : Nat
  qbase : Nat
  memory : List (Nat × Nat)
  l2Quota : List Nat                          -- for each die
  rdcQuota : List Nat
  area : Nat := 0
  deriving DecidableEq, Repr

/-- The image that BOOT fetches: its body with two public keys and two signatures (R452), what the body says, in a format that the spec does not give, and what the self-test, the
fetch and the format check find (R451). `rsa` and `slhDsa` say whether the signatures verify over the body's digest under the keys. DESIGN CHOICE (log entry 130): the two verifications
are not computed. -/
structure Image where
  selfTest : Bool := false
  fetched : Bool := false
  format : Bool := false
  body : List Byte := []
  rsaKey : List Byte := []
  slhKey : List Byte := []
  rsaSig : List Byte := []
  slhSig : List Byte := []
  rsa : Bool := false
  slhDsa : Bool := false
  version : BitVec 16 := 0#16
  parts : List PartCfg := []
  border : Word := 0#64
  routes : List (Nat × BitVec 16) := []
  device : Nat := 0
  tempLimit : Nat := 0                        -- a die's temperature limit (R460), in a unit that the spec does not give
  deriving DecidableEq, Repr

/-- Registers that firmware writes and that have no behaviour of their own (REGISTER_WRITE, R4). -/
inductive FwReg where
  | borderConfig (die : Nat)                 -- R318
  | phaseLength                              -- R318
  | claim (kid : Nat)                        -- R318
  | winEbase (ctrl idx : Nat)                -- R237
  | winElimit (ctrl idx : Nat)
  | winVbase (ctrl idx : Nat)
  | winSbase (ctrl idx : Nat)
  | winErr (ctrl idx : Nat)                  -- W1C
  | qbase (part : Nat)                       -- R461
  | root (part : Nat)                        -- R363
  | l2Quota (part die : Nat)                 -- R201, R456
  | rdcQuota (part die : Nat)
  | route (dev : Nat)                        -- R439
  | traceEnable (kid tile : Nat)             -- R443
  | bankOwner (tile bank : Nat)              -- R446: bit 63 assigned, bits 9:6 partition, bits 5:0 kernel
  | eventCode (tile ctr : Nat)               -- R446
  | debugAgent (part : Nat)                  -- R410
  | checkpointSpace (kid : Nat)              -- R424
  | tileQuota (part : Nat)                   -- R456
  | traceRing (tile : Nat)                   -- R443: where the tile's trace records stand
  | launchRecord (kid : Nat)                 -- R447: where the kernel's per-launch record stands
  | area (part : Nat)                        -- R457: where the partition's encrypted area stands
  | hdmRange (which : Nat)                   -- R441: 0 base, 1 limit of the HDM decoder range
  | doorbell (n : Nat)                       -- R441: the host writes a doorbell of the firmware
  | hostConfig (off : Nat)                   -- R441: the host writes a word of configuration space
  | hostMessage                              -- R441: firmware sends the host's message, of the words `ev.answers`, to the core and channel that the destination word names (R290)
  deriving DecidableEq, Repr

/-- The parameters of a step that no instruction word carries: what the module's environment chooses when the step
happens. Each meaning says which fields it reads (notes/assumptions/1.md). -/
structure EvArgs where
  id : Nat := 0
  idx : Nat := 0
  slot : Nat := 0
  w0 : Word := 0#64
  w1 : Word := 0#64
  flag : Bool := false
  fetchErr : Option Nat := none
  picks : List Nat := []
  answers : List (Nat × Word) := []
  fw : FwAns := {}
  fws : List (Nat × FwAns) := []
  flits : List Flit := []
  bytes : List Byte := []
  image : Image := {}
  member : Member := {}
  fwreg : FwReg := .phaseLength
  deriving DecidableEq, Repr

/-- Which agent moves next: a strand's context issues, an MU's sequencer runs its next record, or a step happens. -/
inductive Agent where
  | strand (ctx : Nat) (memErr : Bool) (fetchErr : Option Nat)   -- the data that the instruction reads, or this word of it, holds an uncorrectable error (R126)
  | unit (lc : Nat) (memErr : Bool)
  | event (i : Instr) (args : EvArgs)
  deriving DecidableEq, Repr

/-- One entry of the schedule: the nanoseconds that pass first, and who moves (notes/assumptions/1.md). -/
structure Turn where
  dt : Nat
  who : Agent
  deriving DecidableEq, Repr

/-- REP state (R95, R120): the count left, the first address of the body and the address after it. -/
structure Rep where
  count : Word
  start : Word
  stop : Word
  deriving DecidableEq, Repr

/-- The 192 bits of a stream register's state (R151). All zero is a valid configuration. -/
structure Stream where
  ended : Bool := false
  en : Bool := false
  dir : Bool := false
  ndim : BitVec 2 := 0#2
  idx : Vector (BitVec 12) 4 := Vector.replicate 4 0#12
  base16 : BitVec 16 := 0#16
  bound : Vector (BitVec 12) 4 := Vector.replicate 4 0#12
  stride : Vector (BitVec 16) 4 := Vector.replicate 4 0#16
  deriving DecidableEq, Repr

/-- What a parked instruction waits for (R7, R102): each rule that parks a strand has its case. -/
inductive Wait where
  | none
  | page (va : Word) (kind : Nat)          -- a page-request record, or fault-retry without one (R369, R370)
  | migrating (va : Word)                  -- a store to a page that moves (R372)
  | muOwner                                -- the unit is another logical core's, a gang member's, or held (R214, R215, R236)
  | muSpace                                -- a full command queue (R128)
  | muDone (mark : Nat)                    -- the records accepted before a place (R228, R229, R189)
  | gangIdle                               -- MXGANG: every member's queue empty (R234)
  | sfuEntry                               -- a full SFU queue (R148)
  | sfuResult                              -- the SFU's result (R148)
  | copySlot                               -- 64 copies in flight (R205)
  | copyStop (slot : Nat)                  -- CPYC until the engine stops (R211)
  | portWord (port : Nat)                  -- an empty port (R251)
  | portSpace (q : BitVec 3)               -- a full port (R252)
  | portDrain                              -- words in flight (R250, R255)
  | ringSpace                              -- a full ready ring (R260)
  | sendSpace                              -- a full retransmit buffer (R291)
  | sendOld                                -- a message 2^29 sends older that is not accepted or released (R432)
  | pathDone (p : Path)                    -- CFENCE (R189)
  | puts                                   -- PFENCE and DONE (R190, R292)
  | word (ea : Word) (v : Word)            -- WAITA (R212)
  | answer                                 -- firmware or the resident kernel (R275, R374, R409, R420)
  | arrival (addr : Word) (phase : BitVec 32)    -- BARV (R396)
  | phase (addr : Word) (phase : BitVec 32)      -- BWAIT (R397)
  | collSlot                               -- 16 collectives in flight (R381)
  | group                                  -- GJOIN, GLEAVE, GGEN at their home (R389)
  | excReturn                              -- the return of an exception message (R133)
  | irrev                                  -- IRREV (R302)
  | gvt (v : Word)                         -- GVTR (R308)
  | logRoom                                -- a full keep log, output log or commit queue (R296)
  | pendReg (d : Reg)                      -- a pending register (R197, R261)
  | muRecords                              -- DONE of a WARP activation that holds the MU (R215)
  | cut                                    -- MARK (R424)
  | stall                                  -- a switch to an ended stage (R347)
  | chainHalt                              -- a stage halted for a pending switch (R348)
  | xlates (lo n : Word)                   -- TLBI: stores that hold a dropped translation (R298, R374)
  | walker                                 -- the tile's walker serves another partition under a profiling lease (R449)
  deriving DecidableEq, Repr

/-- A held instruction (R102): the instruction parked, its FRM sample (R80), how far it has come, and what it has
read or been answered. -/
structure Held where
  instr : Instr
  sample : BitVec 4
  stage : Nat := 0
  mark : Nat := 0
  vals : List Word := []
  answered : Bool := false
  ans : FwAns := {}
  far : Option (Nat × Bool) := none   -- the translated place of the half of a pair that the strand ships to make, and whether its page is dirty-tracked (R126, R368)
  deriving DecidableEq, Repr

/-- A pending register (R197, R261) and what will write it: the context that issued it, and the flit of its RLD or the number of its call. -/
structure Pend where
  ctx : Nat
  d : Reg
  isCall : Bool
  ref : Nat
  refused : Bool := false
  deriving DecidableEq, Repr

/-- The registers that an instruction names: g registers read and written, f registers written (R56, R197, R344). -/
structure Regs where
  gr : List Reg := []
  gw : List Reg := []
  fw : List Reg := []
  deriving DecidableEq, Repr

/-- The strand's place in its life cycle apart from the states that lie over it (R102): SPILLED, SHIPPED, STOPPED,
and SWITCHED are flags beside it, and FROZEN follows from the gang, so that the state before them is kept. -/
inductive Run where
  | ready | running | parked | trapped
  deriving DecidableEq, Repr

/-- One message, task or other item that starts an activation (R104, R242, R257, R288), with what its queue keeps. -/
structure Item where
  chan : Nat := 0
  p0 : Word := 0#64
  p1 : Word := 0#64
  p2 : Word := 0#64
  p3 : Word := 0#64
  vrt : Word := 0#64
  src : Word := 0#64
  key : Key := {}
  entry : Option Word := none
  ret : Option RetTo := none
  isCall : Bool := false
  colour : Bool := false
  arrived : Nat := 0
  agedNs : Nat := 0
  agedAt : Nat := 0
  promo : Nat := 0
  stamp : BitVec 48 := 0#48    -- the clock that its flit carried: the activation's accesses follow the message on any tile (R180)
  admitted : Bool := false
  reported : Bool := false      -- its key holds the VRT that it has reported, and takes at the next delivery (R314)
  stage : Option (Nat × Nat) := none
  coil : Bool := false
  deriving DecidableEq, Repr

/-- A strand context (R95, R96, R100, R102, R405): the strand's registers, its life-cycle state and what the module
keeps of its activation. Registers at reset: notes/assumptions/4.md. -/
structure Ctx where
  id : Nat := 0
  kid : Nat := 0
  lt : Nat := 0
  core : Nat := 0
  homeLt : Nat := 0      -- the logical core that the activation belongs to; a coil strand's stage stands in lt and core (R346)
  homeCore : Nat := 0
  strand : BitVec 2 := 0#2
  -- R95
  pc : Word := 0#64
  g : Vector Word 32 := Vector.replicate 32 0#64
  f : Vector Word 32 := Vector.replicate 32 0#64
  q : Vector Word 8 := Vector.replicate 8 0#64
  rep : Option Rep := none
  -- R96
  frm : BitVec 4 := 0#4
  fflags : BitVec 5 := 0#5
  fen : BitVec 5 := 0#5
  fsup : Word := 0xE0000#64
  waitlim : Word := 20000#64
  epc : Word := 0#64
  ecause : BitVec 8 := 0#8
  einfo : Word := 0#64
  scratchReg : Word := 0#64
  -- R151
  streams : Vector Stream 4 := Vector.replicate 4 {}
  -- the activation (R103, R104, R405)
  item : Item := {}
  prio : BitVec 2 := 0#2
  workId : Word := 0#64
  entryAt : Word := 0#64  -- the entry address that it started at
  startedAt : Nat := 0
  instrs : Nat := 0
  -- life cycle (R102)
  run : Run := .ready
  parkedAt : Nat := 0
  wait : Wait := .none
  held : Option Held := none
  spilled : Bool := false
  shipped : Option Nat := none
  shipWait : Bool := false
  awayCount : Nat := 0
  touched : Bool := false
  stopped : Bool := false
  stepping : Bool := false
  switched : Bool := false
  trapHandle : Word := 0#64
  trapWaits : Bool := false
  -- outstanding work (R177, R189, R197, R261)
  pend : List Pend := []
  puts : Nat := 0
  ackd : BitVec 48 := 0#48      -- the latest place of its acknowledged puts, which PFENCE and CFENCE PUT order (R177, R189)
  nacks : List Word := []
  muMark : Nat := 0
  calls : Nat := 0
  returned : Bool := false
  -- ordering (R48, R167)
  stamp : BitVec 48 := 0#48
  acq : BitVec 48 := 0#48                     -- what the work that the strand hands to engines follows: its message, acquires and fences (R176, R179, R180)
  oldWords : List (Nat × BitVec 32) := []
  -- warp (R302)
  irrevocable : Bool := false
  irrevHits : Nat := 0
  -- chains (R344)
  stage : Option (Nat × Nat) := none
  coil : Bool := false
  stageSeq : Nat := 0
  halted : Bool := false
  deriving DecidableEq, Repr

/-- A channel binding (R246). -/
structure Binding where
  bound : Bool := false
  prio : BitVec 2 := 0#2
  entry : BitVec 4 := 0#4
  deriving DecidableEq, Repr

/-- A port: its words, oldest first, the strands bound to its ends, and the words sent to it and not yet arrived (R249). -/
structure Port where
  words : List Word := []
  reader : Option Nat := none
  writer : Option Nat := none
  inflight : Nat := 0
  stamp : BitVec 48 := 0#48    -- the latest clock that a word brought, which the taker's is raised to (R253)
  deriving DecidableEq, Repr

/-- A copy of a logical core's slot (R205-R211): the descriptor as read at issue, the FRM sample, and how far it is. -/
structure CopyRec where
  slot : Nat
  seqno : Nat
  kind : Nat              -- 0 CPY, 1 CPYS, 2 CPYG, 3 CPYX
  desc : List Byte
  descAt : Word
  frm : BitVec 4
  early : List (Nat × List Byte) := []   -- an overlapping CPY's source bytes by offset, as they stood at issue where they could be read then (R207)
  told : Bool := false    -- the supervisor has had a trap message of its error (R298)
  ctx : Nat
  strand : Nat := 0       -- the strand that issued it, whose CFENCE awaits it also in a later activation (R189)
  act : Nat := 0          -- the logical core of its activation, whose logs it uses (R210, R346)
  state : Nat             -- STATE of R211
  progress : Nat := 0
  ahead : List Nat := []
  snap : Option (List Byte) := none
  fl : BitVec 5 := 0#5
  err : Nat := 0
  order : Nat := 0        -- its place in the issue order of its core (R416)
  byKey : Option Key := none
  logged : Bool := false
  pageVa : Word := 0#64
  waitFid : List Nat := []
  pos : Nat := 0          -- units of the enumeration's written prefix
  stopAt : Option Nat := none   -- where in the enumeration it is to stop, at a cancellation or a switch (R207)
  ending : Nat := 0       -- the state that the copy ends in, once its last accesses or its signal write are made
  vrt : Word := 0#64
  deriving DecidableEq, Repr

/-- A keep-log entry: a block's old 64 bytes, or a change of one keep-region slot (its number, what it held and what it was given), by an activation (R293, R295). -/
structure KeepEntry where
  by_ : Key
  lt : Nat                -- the logical tile whose scratchpad it is of: in coil form a stage's, not always the log's own (R346)
  off : Nat
  old : List Byte
  slot : Option (Nat × Option (Nat × Nat) × Option (Nat × Nat))
  deriving DecidableEq, Repr

/-- An output-log entry: the destination and key of a message that an activation sent (R297). -/
structure OutEntry where
  by_ : Key
  hdr : Word
  key : Key
  rto : Option RetTo
  deriving DecidableEq, Repr

/-- What a commit-queue entry does when it is issued (R298). -/
inductive CommitOp where
  | store (pa : Nat) (bytes : List Byte) (ea : Word) (dt ef : Bool)
  | put (addr : Word) (op : AccOp)
  | copy (lc slot : Nat)
  | message (flit : Flit)
  deriving DecidableEq, Repr

/-- A commit-queue entry (R298): `due` once a delivery has passed its key, `sent` while it is performed (R299). -/
structure CommitEntry where
  by_ : Key
  seqno : Nat
  op : CommitOp
  due : Bool := false
  sent : Bool := false
  deriving DecidableEq, Repr

/-- The key minimum of a kernel or as last delivered to a core (R306, R307): not delivered yet, none, or a key. -/
inductive KMin where
  | notYet
  | noKey
  | key (k : Key)
  deriving DecidableEq, Repr

/-- An MU context (R213, R214): both banks (cells unlisted are zero), the queue, the status and the progress of a
command that has begun. -/
structure MuCtx where
  work : List (Nat × BitVec 32) := []
  vis : List (Nat × BitVec 32) := []
  queue : List MuRec := []
  fl : BitVec 5 := 0#5
  fcause : BitVec 4 := 0#4
  fcmd : BitVec 4 := 0#4
  faulted : Bool := false
  fInfo : Word := 0#64
  acc : Nat := 0
  done : Nat := 0
  accBase : Nat := 0
  kdone : Nat := 0
  memberOf : Option (Nat × Nat × Nat) := none     -- leader's logical core, r, c
  leads : List (Nat × Nat × Nat) := []            -- members as (logical core, r, c), leader first
  hold : Option Key := none
  drain : Bool := false     -- a debug drain runs the queue to empty while its strand is stopped (R413)
  swaps : List (Nat × Nat) := []                  -- places of waiting MXSWAPs and their contexts
  marks : Vector Nat 4 := Vector.replicate 4 0    -- the records accepted when each strand last handed one over (R189)
  part16 : Nat := 0                               -- sixteenths of a plane-pair cycle not yet counted (R19, R446)
  deriving DecidableEq, Repr

/-- A stream of flits at its receiver: one more than the highest CHSEQ accepted, and a bitmap of the 64 below the highest,
bit 0 the nearest (R435). -/
structure RxStream where
  next : BitVec 16 := 0#16
  seen : BitVec 64 := 0xFFFFFFFFFFFFFFFF#64
  deriving DecidableEq, Repr

/-- What an accepted put-path access was answered: its stream and number, and whether it was refused or what it read. A copy of it is
answered the same (R194, R435). -/
structure Answer where
  stream : Nat
  num : BitVec 16
  refused : Bool
  value : Option Word
  deriving DecidableEq, Repr

/-- A handled and not yet released activation of a WARP kernel (R292, R303), with what a ROLLBACK record shows of it (R443, R445). -/
structure Handled where
  item : Item
  workId : Word
  strand : BitVec 2
  entryAt : Word
  eff : Nat
  deriving DecidableEq, Repr

/-- A collective in flight of a logical core (R381, R386): its slot and sequence, what it is, and its status; `result` holds what its group
buffer keeps for a member that cannot take it yet (R388). -/
structure CollRec where
  slot : Nat
  seqno : Nat
  ctx : Nat
  strand : Nat := 0
  op : Coll
  src : Nat
  dst : Nat
  rank : Nat
  total : Nat             -- members of the generation
  state : Nat             -- STATE of R386
  gone : Bool := false    -- its member has been withdrawn from its instance (R388)
  fin : CollEnd := {}
  result : Option (CollEnd × List (Nat × List Byte)) := none
  order : Nat := 0
  deriving DecidableEq, Repr

/-- A logical core (R214, R242, R249, R257, R280, R288, R293-R307): its channels, ring, ports, copies, MU context,
logs, counts and streams. All of it moves with its logical tile (R326). -/
structure LCore where
  bindings : Vector Binding 15 := Vector.replicate 15 {}
  chan15Prio : BitVec 2 := 3#2
  mask : BitVec 16 := 0#16
  unboundTold : BitVec 16 := 0#16
  items : List Item := []
  ring : List Item := []
  depthFirst : Bool := false
  stealFrom : Nat := 0
  ports : Vector Port 16 := Vector.replicate 16 {}
  sendSeq : Vector Nat 4 := Vector.replicate 4 0
  admissions : Nat := 0
  traps : Nat := 0
  copySeq : Nat := 0
  copies : List CopyRec := []
  collSeq : Nat := 0
  colls : List CollRec := []
  mu : MuCtx := {}
  -- R280
  sent : Nat := 0
  received : Nat := 0
  awaiting : Nat := 0
  -- warp (R293-R307)
  keepLog : List KeepEntry := []
  outLog : List OutEntry := []
  commitQ : List CommitEntry := []
  commitSeq : Nat := 0
  blockKeys : List (Nat × Key) := []          -- 64-byte blocks of scratchpads, and the activations that have touched them (R294)
  handled : List Handled := []
  antis : List Flit := []
  heldIn : List (Flit × Nat) := []            -- arrivals accepted while the gang is stopped, held in input buffers, with the times of their acceptance (R412)
  returns : List (Key × Key) := []            -- keys of returns that activations here have consumed, and the activations' keys (R261)
  lost : List Key := []                       -- keys of returns that were discarded here, until they are fossil (R261)
  colour : Bool := false
  sentC : Vector Nat 2 := Vector.replicate 2 0
  recvC : Vector Nat 2 := Vector.replicate 2 0
  leastSent : Option Key := none
  gvt : Nat := 0
  kmin : KMin := .notYet
  deliveries : Nat := 0
  owed : Bool := false
  maxHandled : Option Nat := none
  -- links (R435, R436)
  tx : List (Nat × BitVec 16) := []
  rx : List (Nat × RxStream) := []
  reorder : List Flit := []
  answers : List Answer := []
  retx : List Flit := []
  -- cuts (R421, R422)
  cutFlag : Bool := false
  cutSent : Nat := 0
  cutRecv : Nat := 0
  chanLog : List Flit := []
  afterCut : List Flit := []
  -- the latest SEQ received of each sending strand, by bits 32:0 of the source word without CHAN (R432)
  seen : List (Nat × Nat) := []
  -- R448
  idle : List (Nat × Nat) := []               -- strand slot (its number on the core) and the ns of its search so far
  deriving DecidableEq, Repr

/-- A window register (R192). -/
structure Window where
  kida : BitVec 6 := 0#6
  anyk : Bool := false
  devok : Bool := false
  rights : BitVec 4 := 0#4
  size64 : BitVec 15 := 0#15
  base64 : BitVec 15 := 0#15
  deriving DecidableEq, Repr

/-- A replay entry other than a copy (R416): kinds 2 to 5, with the access to issue again. -/
structure Replay where
  kind : Nat
  core : Nat
  order : Nat
  flit : Flit
  deriving DecidableEq, Repr

/-- Memory as bytes by address in one canonical form: addresses strictly rising, no entry zero, since an unlisted
address reads as zero (notes/assumptions/5.md). -/
abbrev Mem := List Host.Cell

/-- A logical tile (R191-R192, R271, R274, R326): its place, scratchpad, windows, keep regions, pin state, fallout and
replay entries. -/
structure LTile where
  tile : Nat := 0
  j : Nat := 0
  scratch : Mem := []
  windows : Vector Window 8 := Vector.replicate 8 {}
  keeps : Vector (Option (Nat × Nat)) 12 := Vector.replicate 12 none
  pinned : Bool := false
  moving : Option Nat := none
  moveJ : Nat := 0
  mapGen : BitVec 32 := 0#32
  fallout : List Flit := []
  replays : List Replay := []
  replayArea : List (List Byte) := []   -- the 192-byte replay entries of its saved image (R416)
  saved : Bool := false
  clocks : List (BitVec 48) := []       -- the logical clocks of its tile's cores when it was saved: what ran there stays before what resumes (R181)
  codelets : List Nat := []             -- the offsets of its codelet records, whose reserved bytes no store changes (R4, R263)
  deriving DecidableEq, Repr

/-- KSTAT's kernel states (R276, R284). -/
inductive KState where
  | held | running | switched | ending | ended | frozen
  deriving DecidableEq, Repr

/-- The states of a chain (R353, R357). -/
inductive ChainForm where
  | stake | coil | toCoil | toStake
  deriving DecidableEq, Repr

/-- A chain (R341-R357): its descriptor, form, and the word CFORM reads. -/
structure Chain where
  num : Nat
  nst : Nat
  ca : Nat
  entries : Vector Word 8
  places : Vector (Nat × Nat) 8        -- logical tile and core of each stage
  form : ChainForm
  origin : Bool := false
  reqOrigin : Bool := false
  cur : Nat := 0
  acqs : Vector (BitVec 48) 8 := Vector.replicate 8 0#48    -- what the engine work of each stage follows, and the latest place of its acknowledged puts, while it
  ackds : Vector (BitVec 48) 8 := Vector.replicate 8 0#48   -- stands in its frame (R176, R177, R189, R350)
  single : BitVec 8 := 0#8               -- stages that halt alone because their logical tile moves (R351)
  switches : BitVec 8 := 0#8
  stalled : Bool := false
  commonG : Vector Word 16 := Vector.replicate 16 0#64   -- g16 to g31 and f16 to f31 of every stage (R344)
  commonF : Vector Word 16 := Vector.replicate 16 0#64
  vrt : Word := 0#64
  src : Word := 0#64
  nacks : List (Nat × Word) := []        -- refusals that a stage saved in its frame has not reported (R197)
  last : List (Nat × Nat) := []          -- the contexts that have run each stage and are gone, whose copies, collectives and puts may still run (R350)
  pends : List (Nat × Pend) := []        -- pending registers of stages that stand in their frames (R344)
  muMarks : Vector Nat 8 := Vector.replicate 8 0   -- the place of the last record that each stage handed to its unit (R189, R350)
  owed : Nat := 0                        -- puts not yet acknowledged of contexts that are gone (R177, R350)
  madeBy : Option Key := none            -- in a WARP kernel, the activation that made it and the one that ended it (R352)
  overBy : Option Key := none
  deriving DecidableEq, Repr

/-- A barrier that a kernel has made: where its record lies, and the stamps of the latest credit that no completed phase has counted and of the latest that one
has, which BWAIT acquires (R179, R400, R401). -/
structure Barrier where
  kid : Nat
  place : Nat
  credit : Option (BitVec 48) := none
  counted : Option (BitVec 48) := none
  deriving DecidableEq, Repr

/-- What a cut has recorded of the kernel's logical tiles (R421-R423). -/
structure Shard where
  lts : List (Nat × LTile) := []
  lcs : List (Nat × LCore) := []
  ctxs : List Ctx := []
  chains : List Chain := []
  bars : List Barrier := []
  deriving DecidableEq, Repr

/-- A cut: its id, who asked, what is recorded, and its minimum once complete (R421-R424). -/
structure Cut where
  id : BitVec 32
  by_ : Option Nat
  recorded : List Nat := []
  shard : Shard := {}
  minKey : KMin := .notYet
  complete : Bool := false
  completedAt : Nat := 0
  tilesThen : List Nat := []
  deriving DecidableEq, Repr

/-- A kernel's per-launch record (R447). -/
structure LaunchRec where
  sums : Vector Word 16 := Vector.replicate 16 0#64
  codes : Vector (BitVec 8) 16 := Vector.replicate 16 0#8
  excl : Bool := true
  tiles : List Nat := []                      -- that have contributed
  deriving DecidableEq, Repr

/-- A kernel and its territory (R270-R284, R306, R319-R339). -/
structure Kernel where
  part : Nat := 0
  state : KState := .held
  heldBefore : Bool := false
  warp : Bool := false
  tiles : Nat := 1
  s : Nat := 16384
  header : List Byte := []               -- the launch header, from which a logical tile can start again (R271, R425)
  entries : Vector Word 16 := Vector.replicate 16 0#64
  keeplog : Nat := 0
  widths : Vector Nat 6 := Vector.replicate 6 0
  frozenRanges : List (Nat × Nat) := []
  slt : Nat := 0
  score : Nat := 0
  prio : BitVec 2 := 1#2
  parent : Nat := 63
  orphan : Bool := false                 -- the launching kernel has ended, and its id may name another one
  launcher : Option Nat := none          -- the launching logical core; none for firmware
  launchSrc : Word := 0#64
  nch : Nat := 15
  arg : Word := 0#64
  allTiles : Bool := false
  cause : Nat := 0
  -- territory (R317-R338)
  anchor : Nat := 0
  claim : Nat := 1
  gen : BitVec 16 := 0#16
  upcall : Word := 0#64
  movedPhase : Option Nat := none        -- the phase in which it last took part in a move (R321)
  restoring : Bool := false              -- stopped by firmware since a tile of it was retired (R425)
  failed : List Nat := []                -- the logical tiles that stood there
  loadSum : Nat := 0
  pressure : Nat := 0
  claimLatched : Nat := 1
  -- sweeps (R281, R306)
  swAgree : Bool := false
  swSent : Nat := 0
  swRecv : Nat := 0
  swVoid : Bool := false
  swColour : Bool := false
  kmin : KMin := .notYet
  maxVrt : Nat := 0
  -- chains, cuts, record
  chains : List Chain := []
  cut : Option Cut := none
  lastCut : Option Cut := none
  cutSpace : Bool := false
  cutBase : Nat := 0                          -- where its checkpoint space begins, and its per-launch record stands, in physical memory; 0 where the model does not hold the place
  recordAt : Nat := 0
  cutNum : BitVec 32 := 0#32
  record : LaunchRec := {}
  deriving DecidableEq, Repr

/-- The states of a gang (R419). -/
inductive GangState where
  | running | armed | stopped | saving | switched | restoring | frozen
  deriving DecidableEq, Repr

/-- A partition (R404, R414, R419, R449, R456-R458, R461). DESIGN CHOICE (log entry 80): QBASE, for which the spec states no reset value, is 0x200000
until the boot image or firmware sets it, the lowest value that R461 admits. -/
structure Partition where
  present : Bool := false
  quota : Nat := 0
  root : Nat := 0
  qbase : Nat := 0x200000
  memory : List (Nat × Nat) := []
  l2Quota : List (Nat × Nat) := []
  rdcQuota : List (Nat × Nat) := []
  xtsKey : Nat := 0
  gang : GangState := .running
  gangBefore : GangState := .running
  switchAt : Nat := 0
  debugAgent : Bool := false
  leases : List (List Nat × Nat) := []        -- the tiles of its profiling leases, and until when
  cycled : Nat := 0
  area : Nat := 0                             -- the physical address of its encrypted area; 0 where the model does not hold the place (R457)
  deriving DecidableEq, Repr

/-- A forwarding stub for a logical tile that has moved (R434): the routers whose map-update acknowledgement it awaits, when
the last came, whether it has forwarded since, and the routers that have had a hint. -/
structure Stub where
  lt : Nat
  pending : List Nat := []
  ackedAt : Nat := 0
  fwd : Bool := false
  hinted : List Nat := []
  deriving DecidableEq, Repr

/-- Tile states (R317). -/
inductive TS where
  | free | member | ceding | retired
  deriving DecidableEq, Repr

/-- A bind record (R279), with when it was last given a slot and since when it holds one. -/
structure BindRec where
  kid : Nat := 0
  j : Nat := 0
  lt : Nat := 0
  prio : BitVec 2 := 0#2
  valid : Bool := false
  strands : BitVec 32 := 0#32
  slice : BitVec 32 := 0#32
  lastGiven : List (Nat × Nat) := []
  heldSince : List (Nat × Nat) := []
  yields : List Nat := []
  deriving DecidableEq, Repr

/-- A cached translation (R365). DESIGN CHOICE (log entry 72): one entry covers a 64 KiB granule, also of a larger page. -/
structure Tlb where
  part : Nat
  vpn : Nat            -- VA bits 55:16
  frame : Nat          -- PA of the 64 KiB granule
  w : Bool
  x : Bool
  dt : Bool
  kind : Nat
  deriving DecidableEq, Repr

/-- A trace record of 64 bytes as eight words (R443). -/
structure TraceRec where
  words : Vector Word 8
  deriving DecidableEq, Repr

/-- A physical tile (R10, R279, R317, R319, R365, R433, R443-R447, R459). A tile that no map lists is as at reset. -/
structure Tile where
  -- border state (R317)
  owner : BitVec 6 := 63#6
  ts : TS := .free
  anchor : Bool := false
  parent : BitVec 3 := 0#3
  depth : Nat := 0
  load : Nat := 0
  levLoad : Nat := 0
  -- what a novena cycle measures (R319)
  ringNs : Nat := 0
  waitSum : Nat := 0
  waitCount : Nat := 0
  spills : Nat := 0
  -- border moves (R321, R325, R328)
  proposal : Option (Nat × Nat × Nat) := none -- taker's kernel id, annexing neighbour, phase
  ceding : Option Nat := none                 -- the annexing neighbour of a cede
  cedeTo : Nat := 63
  forced : Option Bool := none                -- a forced cede: of a tile with a lasting fault, or of one that it cuts off (R329)
  levSource : Bool := false
  levTarget : Bool := false
  levAt : Nat := 0                            -- its latest levelling check
  levUsed : Nat := 0                          -- one more than the number of the 2 us in which it last took part in a levelling move (R328)
  stubs : List Stub := []
  -- cores
  binds : Vector BindRec 16 := Vector.replicate 16 {}
  sfu : List Nat := []
  muOwner : List (Nat × Nat) := []            -- core to the logical core whose MU context it holds
  mapCache : List (Nat × Nat × Nat × Nat) := []     -- logical tile key, tile, slot, map generation
  -- watch (R443-R447)
  counters : Vector Word 16 := Vector.replicate 16 0#64
  banks : Vector (Option (Nat × Nat)) 4 := Vector.replicate 4 none
  codes : Vector (BitVec 8) 16 := Vector.replicate 16 0#8
  trace : List TraceRec := []
  traceRoom : Nat := 0
  traceLost : Nat := 0
  traceKids : List Nat := []
  traceAt : Option Nat := none
  traceBase : Nat := 0                        -- the physical address of its ring of trace records; 0 where the model does not hold the place
  clockEvents : Nat := 0
  errors : List Nat := []
  leased : Option (Nat × Nat) := none
  debugStops : BitVec 32 := 0#32              -- strand slots that a debug stop holds (R413)
  deriving DecidableEq, Repr

/-- A page-request record (R369). -/
structure PageRec where
  slot : Nat
  reserved : Bool
  va : Word
  part : Nat
  kid : Nat
  kind : Nat
  level : Nat
  waiters : Nat
  gen : BitVec 16
  answer : BitVec 2 := 0#2
  ansGen : BitVec 16 := 0#16
  deriving DecidableEq, Repr

/-- A retention register (R200). -/
structure Retain where
  base : Nat
  limit : Nat
  ways : Nat
  part : Nat
  kid : Nat
  deriving DecidableEq, Repr

/-- A die (R200, R318, R335, R369, R460). -/
structure Die where
  en : Bool := false
  lvt : BitVec 10 := 64#10
  h : BitVec 16 := 256#16
  hLatched : BitVec 16 := 256#16            -- h as it stood when the cycle's values were latched (R335)
  ws : BitVec 8 := 16#8
  ww : BitVec 8 := 1#8
  wr : BitVec 8 := 4#8
  pages : List PageRec := []
  pageGen : BitVec 16 := 0#16
  retain : Vector (Option Retain) 8 := Vector.replicate 8 none
  mhz : Nat := 1000
  deriving DecidableEq, Repr

/-- A format window (R237). -/
structure FmtWin where
  ebase : Word := 0#64
  elimit : Word := 0#64
  vbase : Word := 0#64
  sbase : Word := 0#64
  ctl : Word := 0#64
  err : BitVec 3 := 0#3
  deriving DecidableEq, Repr

/-- A memory controller with its format windows and near-memory cluster (R15, R148, R237, R367). -/
structure Ctrl where
  wins : Vector FmtWin 16 := Vector.replicate 16 {}
  waiting : List Nat := []
  slots : Vector (Option Nat) 16 := Vector.replicate 16 none
  sfu : List Nat := []
  clockEvents : Nat := 0
  deriving DecidableEq, Repr

/-- A leased copy of a global line, in a core's data cache or a die's RDC (R165, R170). -/
structure Lease where
  line : Nat
  part : Nat := 0         -- the partition it counts for, and the evict-first mark (R127, R201)
  ef : Bool := false
  data : List Byte
  wts : BitVec 48
  lease : BitVec 48
  oldAt : Option Nat := none    -- when a write at the home first replaced what it holds: 2 us later it serves no load (R166)
  deriving DecidableEq, Repr

/-- A line that a die's L2 holds, with the partition it counts for and the evict-first mark (R13, R127, R201). -/
structure CLine where
  line : Nat
  part : Nat
  ef : Bool
  deriving DecidableEq, Repr

/-- What a line held before a write replaced it: an engine access whose place may lie before that write may still read it, for 2 us (R166, R176). -/
structure Past where
  line : Nat
  data : List Byte
  wts : BitVec 48
  till : BitVec 48
  at_ : Nat
  deriving DecidableEq, Repr

/-- A byte of a signal write: its line, its place in it and the write's stamp, and once another write has replaced it, that write's stamp and
time. A load that returns the byte is an acquire (R178, R179). -/
structure Signal where
  line : Nat
  off : Nat
  wts : BitVec 48
  gone : Option (BitVec 48 × Nat) := none
  deriving DecidableEq, Repr

/-- A core's logical clock and whether its clock runs (R165, R166). `tickAt` is the time of its latest tick; while the clock is stopped, the
nanoseconds that had passed since it, and `stopAt` is when it stopped. -/
structure Clock where
  t : BitVec 48 := 0#48
  tickAt : Nat := 0
  stopped : Bool := false
  stopAt : Nat := 0
  deriving DecidableEq, Repr

/-- A page move (R371, R372, R374). -/
structure Move where
  part : Nat
  pteAt : Nat
  src : Nat
  dst : Nat
  size : Nat
  deriving DecidableEq, Repr

/-- A device port's states (R440). -/
inductive PortState where
  | down | train | up | degraded | failed
  deriving DecidableEq, Repr

/-- A device link port (R439, R440). -/
structure LinkPort where
  state : PortState := .down
  lanes : Nat := 4
  trainAt : Nat := 0
  replay : List (List Flit) := []
  replays : List Nat := []
  refused : Nat := 0                          -- beats that it has refused
  deriving DecidableEq, Repr

/-- A group of the module's group engine (R376-R380). -/
structure Group where
  name : Word
  part : Nat
  tmo : Nat
  latest : BitVec 32
  members : List (Member × BitVec 32)                       -- of the latest generation, in rank order, with KEY
  history : List (BitVec 32 × List Member)                  -- members of each generation in rank order
  views : List (Member × BitVec 32)                         -- the generation that each member uses
  finals : List (Member × BitVec 32 × Nat)                  -- final counts (R378)
  leaving : List (Member × BitVec 32) := []                 -- generations that a member of another device has left, whose final count has not come
  gone : List (Member × BitVec 32 × Nat) := []              -- instances that a member was withdrawn from though it had issued its collective (R388)
  deriving DecidableEq, Repr

/-- A member's view of a group (R378), held at the member's device, with the number of collectives that the logical tile has issued in it. -/
structure View where
  name : Word
  kid : Nat
  lt : Nat
  view : ViewOf
  count : Nat
  deriving DecidableEq, Repr

/-- One member's contribution to an instance (R382, R383). -/
structure Contrib where
  stamp : BitVec 48 := 0#48     -- the clock of the engine that read it (R387)
  who : Member
  op : Coll
  data : List Byte
  memErr : Bool
  deriving DecidableEq, Repr

/-- An instance of a collective at its home (R382-R388): its group, partition, generation and number, and the contributions so far. -/
structure Inst where
  name : Word
  part : Nat
  gen : BitVec 32
  k : Nat
  firstAt : Nat
  contribs : List Contrib
  deriving DecidableEq, Repr

/-- The latest place of a read for an instance whose home is on another device (R387). -/
structure CollRead where
  name : Word
  part : Nat
  gen : BitVec 32
  k : Nat
  stamp : BitVec 48
  deriving DecidableEq, Repr

/-- A trap message or other message at the resident kernel, and a request that a parked strand made (R407, R409, R456). -/
structure ResMsg where
  part : Nat
  item : Item
  ctx : Option Nat
  notice : Bool := false     -- a trap message or a notice of the module, which names no channel for an answer
  deriving DecidableEq, Repr

/-- What the module shows the outside: the status register, the host's reads, records for the debug agent and the
firmware (R410, R412, R423, R441, R453, R454). -/
structure HostSide where
  stage : BitVec 8 := 0#8
  err : BitVec 8 := 0#8
  version : BitVec 16 := 0#16
  ready : Bool := false
  imageDigest : BitVec 384 := 0#384
  boots : Nat := 0
  reads : List (Nat × List Byte) := []
  cxlErrors : List Nat := []                          -- addresses of CXL.mem requests that completed with an error (R453)
  config : List (Nat × Word) := []                    -- PCIe configuration space, by offset (R441)
  doorbells : List (Nat × Word) := []                 -- what the host last wrote to each doorbell of the firmware (R441)
  reports : List (List Byte) := []
  halts : List Nat := []
  frames : List (Nat × List Byte) := []               -- a frozen partition's faulting frame, as the monitor keeps it (R407)
  stops : List (Nat × List Byte) := []                -- stop records, by module core (R412)
  firmware : List Item := []
  manifests : List (List Byte) := []
  records : List (Nat × LaunchRec) := []              -- per-launch records of kernels that have ended (R447)
  launches : List Word := []                          -- answers of firmware launches and gang-switch settings
  hdmBase : Nat := 0
  hdmLimit : Nat := 0
  deriving DecidableEq, Repr

/-- The state of the module. Maps are lists of keys and values; a tile, die, controller, core clock, logical core or
partition that none lists is as at reset. Keys: kernel id; `kid * 4096 + lt` for a logical tile; `(kid * 4096 + lt) * 8
+ core` for a logical core; physical tile number; module core number (R11, R163). -/
structure State where
  -- the model's own (notes/assumptions/1.md, 2.md, 3.md)
  sched : List Turn := []
  cur : Option Nat := none
  ev : EvArgs := {}
  free : Nat := 0
  nextId : Nat := 0
  -- time (R18, R444)
  tbase : Nat := 0
  bootAt : Nat := 0                           -- when the module last booted: every logical clock stood at 0 then (R165)
  -- objects
  ctxs : List (Nat × Ctx) := []
  kernels : List (Nat × Kernel) := []
  ltiles : List (Nat × LTile) := []
  lcores : List (Nat × LCore) := []
  parts : List (Nat × Partition) := []
  tiles : List (Nat × Tile) := []
  dies : List (Nat × Die) := []
  ctrls : List (Nat × Ctrl) := []
  -- memory and coherence (R12-R14, R165, R170, R204, R373)
  glob : Mem := []
  dram : Mem := []
  dirty : List Nat := []
  viewLines : List (Nat × List Byte) := []
  clocks : List (Nat × Clock) := []
  times : List (Nat × BitVec 48 × BitVec 48) := []
  homes : List (Nat × BitVec 48 × BitVec 48) := []   -- a home's latest stamp, and the times of its lines that `times` does not list (R168)
  past : List Past := []
  signals : List Signal := []                 -- signal writes whose bytes a load may return (R179)
  l2s : List (Nat × List CLine) := []         -- the lines of each die's L2, the latest used first
  copies : List (Nat × List Lease) := []
  rdcs : List (Nat × List Lease) := []
  tlbs : List (Nat × List Tlb) := []
  moves : List Move := []
  dirtyGranules : List Nat := []
  bars : List Barrier := []                   -- the barriers of the module's kernels, in the directories of the dies that home them (R400)
  saves : List (Nat × List Byte) := []        -- strand records of the save areas, by context (R405)
  -- fabric and links (R430-R440)
  flits : List Flit := []
  arrivals : List Flit := []
  taken : List (Flit × Nat) := []             -- accepted put-path accesses that have not taken their places, with their scratch offsets (R177)
  outbox : List (Nat × List Flit) := []       -- beats sent out on the device ports, with their ports
  device : BitVec 6 := 0#6
  routes : List (Nat × BitVec 16) := []
  ports : Vector LinkPort 16 := Vector.replicate 16 {}
  deadLinks : List (Nat × Nat) := []
  -- groups (R376-R388)
  groups : List Group := []
  views : List View := []
  insts : List Inst := []
  collReads : List CollRead := []             -- of instances whose homes are on other devices (R387)
  -- border (R318, R319)
  phaseLen : Nat := 100
  novenaCycle : Nat := 0
  latchedAt : Nat := 0           -- the time from which the measures of the running cycle are taken
  -- management side (R16, R451-R458)
  resident : List ResMsg := []
  hostSide : HostSide := {}
  rom : BitVec 384 × BitVec 384 := (Config.romDigest false, Config.romDigest true)     -- the digests of the image's two public keys, in boot ROM (R452)
  tempLimit : Nat := 0                        -- R460
  deriving DecidableEq, Repr

/-- The module right after power-on or reset, before BOOT (R451, R453): every tile FREE, no partition, no kernel, the
status register at zero, memory with nothing listed. -/
def State.reset : State := {}

/-- Why a step stops. -/
inductive Fault where
  /-- Raised when `exec` is asked for an instruction of a strand while no strand's context issues (`State.cur` names
  none). `step` never asks for that: an idle module lets time pass. Safe: no instruction of the manual ends so. -/
  | noIssuingStrand
  deriving DecidableEq, Repr

/-- Why a step has no meaning. -/
inductive Refusal where
  /-- Raised by an arm of `exec` for an instruction that has no meaning yet. Safe. -/
  | notModelled (mnemonic : String)
  deriving DecidableEq, Repr

end Sys2Proof.Machine
end

