-- ==== Sys2Proof/Machine/Ops.lean ====
section
/-! DEFINITION. The shared operations of the machine: keyed lists and byte memory, the objects of the state, registers, completing an instruction, parking, taking a trap and returning from one, keys, and putting a flit into the fabric. -/

namespace Sys2Proof.Machine

open Sys2Proof

/-! ## Keyed lists -/

/-- The value that a keyed list holds for `k`. -/
def mget {α : Type} (k : Nat) : List (Nat × α) → Option α
  | [] => none
  | (i, a) :: t => if i = k then some a else mget k t

/-- The value for `k`, or `d` when none is listed. -/
def mgetD {α : Type} (d : α) (k : Nat) (m : List (Nat × α)) : α := (mget k m).getD d

/-- Lists `a` for `k`, in rising order of keys. -/
def mset {α : Type} (k : Nat) (a : α) : List (Nat × α) → List (Nat × α)
  | [] => [(k, a)]
  | (i, b) :: t => if i = k then (k, a) :: t else if k < i then (k, a) :: (i, b) :: t else (i, b) :: mset k a t

/-- Takes `k` off the list. -/
def mdel {α : Type} (k : Nat) (m : List (Nat × α)) : List (Nat × α) := m.filter fun e => e.1 ≠ k

/-! ## Byte memory (R3) -/

/-- The byte at an address; an unlisted address reads as zero (notes/assumptions/5.md). -/
def memGet (m : Mem) (a : Nat) : Byte :=
  match m with
  | [] => 0#8
  | (i, b) :: t => if i = a then b else memGet t a

/-- Lists a non-zero byte at its place. -/
def memIns (m : Mem) (a : Nat) (b : Byte) : Mem :=
  match m with
  | [] => [(a, b)]
  | (i, c) :: t => if i = a then (a, b) :: t else if a < i then (a, b) :: (i, c) :: t else (i, c) :: memIns t a b

/-- Writes one byte and keeps the canonical form. -/
def memSet (m : Mem) (a : Nat) (b : Byte) : Mem :=
  if b = 0#8 then m.filter fun c => c.1 ≠ a else memIns m a b

/-- The canonical form: addresses strictly rising and no entry zero. -/
def Memory.wf : Mem → Bool
  | [] => true
  | [c] => c.2 ≠ 0#8
  | c :: d :: t => c.2 ≠ 0#8 && decide (c.1 < d.1) && Memory.wf (d :: t)

/-- The `n` bytes from an address. -/
def memBytes (m : Mem) (a : Nat) : Nat → List Byte
  | 0 => []
  | n + 1 => memGet m a :: memBytes m (a + 1) n

/-- Writes the bytes from an address upward. -/
def memPut (m : Mem) (a : Nat) : List Byte → Mem
  | [] => m
  | b :: t => memPut (memSet m a b) (a + 1) t

/-- The value of bytes, the first lowest (R3). -/
def leNat : List Byte → Nat
  | [] => 0
  | b :: t => b.toNat + 256 * leNat t

/-- The low `n` bytes of a value, the lowest first (R3). -/
def leBytes : Nat → Nat → List Byte
  | 0, _ => []
  | n + 1, v => BitVec.ofNat 8 v :: leBytes n (v / 256)

/-- The `n`-byte value at an address. -/
def memLoad (m : Mem) (a n : Nat) : Nat := leNat (memBytes m a n)
/-- Writes the low `n` bytes of a value. -/
def memStore (m : Mem) (a n v : Nat) : Mem := memPut m a (leBytes n v)

/-- The entries whose addresses lie in [lo, hi). -/
def memRange (m : Mem) (lo hi : Nat) : Mem := m.filter fun c => decide (lo ≤ c.1) && decide (c.1 < hi)
/-- Memory with [lo, hi) as another memory has it. -/
def memCopyRange (dst src : Mem) (lo hi : Nat) : Mem :=
  (memRange src lo hi).foldl (fun m c => memSet m c.1 c.2) (dst.filter fun c => !(decide (lo ≤ c.1) && decide (c.1 < hi)))
/-- Memory in which the bytes of a range stand at another place as well (R372). -/
def memMove (m : Mem) (lo len to_ : Nat) : Mem :=
  (memRange m lo (lo + len)).foldl (fun r c => memSet r (to_ + (c.1 - lo)) c.2) (m.filter fun c => !(decide (to_ ≤ c.1) && decide (c.1 < to_ + len)))

/-- The bits `[lo, lo + n)` of a word as a number. -/
def bits (w : Word) (lo n : Nat) : Nat := w.toNat / 2 ^ lo % 2 ^ n
/-- A number as a word. -/
def w64 (n : Nat) : Word := BitVec.ofNat 64 n
/-- One bit as a number. -/
def bit (b : Bool) : Nat := if b then 1 else 0

/-! ## Objects -/

/-- The key of a logical tile. -/
def ltKey (kid lt : Nat) : Nat := kid * 4096 + lt
/-- The key of a logical core. -/
def lcKey (kid lt core : Nat) : Nat := (kid * 4096 + lt) * 8 + core
/-- The kernel, logical tile and core of a logical core's key. -/
def lcKid (k : Nat) : Nat := k / 32768
def lcLt (k : Nat) : Nat := k / 8 % 4096
def lcCore (k : Nat) : Nat := k % 8
/-- The logical tile and the logical core of a context. -/
def Ctx.ltk (c : Ctx) : Nat := ltKey c.kid c.lt
def Ctx.lck (c : Ctx) : Nat := lcKey c.kid c.lt c.core
/-- The logical core that the activation belongs to; it differs from `lck` in coil form only (R346). -/
def Ctx.alck (c : Ctx) : Nat := lcKey c.kid c.homeLt c.homeCore

def State.ctx? (s : State) (id : Nat) : Option Ctx := mget id s.ctxs
def State.ctxD (s : State) (id : Nat) : Ctx := mgetD {} id s.ctxs
def State.kernel? (s : State) (k : Nat) : Option Kernel := mget k s.kernels
def State.kernelD (s : State) (k : Nat) : Kernel := mgetD { state := .ended } k s.kernels
def State.ltile (s : State) (k : Nat) : LTile := mgetD {} k s.ltiles
def State.lcore (s : State) (k : Nat) : LCore := mgetD {} k s.lcores
def State.tile (s : State) (t : Nat) : Tile := mgetD {} t s.tiles
def State.part (s : State) (p : Nat) : Partition := mgetD {} p s.parts
def State.die (s : State) (d : Nat) : Die := mgetD {} d s.dies
def State.ctrl (s : State) (j : Nat) : Ctrl := mgetD {} j s.ctrls

/-- The engine is not halted: its partition's gang runs (R412). -/
def State.gangRuns (s : State) (part : Nat) : Bool :=
  decide ((s.part part).gang = .running) || (decide ((s.part part).gang = .armed) && decide (s.tbase < (s.part part).switchAt))
/-- A kernel's own work may go on: its gang runs, and the kernel is not SWITCHED, ENDED or FROZEN, nor stopped to be restored. -/
def State.kernelRuns (s : State) (kid : Nat) : Bool :=
  match s.kernel? kid with
  | some k => s.gangRuns k.part && decide (k.state ≠ .switched) && decide (k.state ≠ .ended) && decide (k.state ≠ .frozen) && !k.restoring
  | none => false
/-- A tile's shared units serve no work of the partition: another one has it under a profiling lease (R449). -/
def State.leasedOut (s : State) (t part : Nat) : Bool :=
  match (s.tile t).leased with
  | some (p, till) => decide (p ≠ part) && decide (s.tbase < till)
  | none => false
/-- Changes one context; no effect when it does not exist. -/
def State.upd (s : State) (id : Nat) (f : Ctx → Ctx) : State :=
  match s.ctx? id with
  | some c => { s with ctxs := mset id (f c) s.ctxs }
  | none => s
def State.updK (s : State) (k : Nat) (f : Kernel → Kernel) : State :=
  match s.kernel? k with
  | some x => { s with kernels := mset k (f x) s.kernels }
  | none => s
def State.updLt (s : State) (k : Nat) (f : LTile → LTile) : State := { s with ltiles := mset k (f (s.ltile k)) s.ltiles }
def State.updLc (s : State) (k : Nat) (f : LCore → LCore) : State := { s with lcores := mset k (f (s.lcore k)) s.lcores }
def State.updTile (s : State) (t : Nat) (f : Tile → Tile) : State := { s with tiles := mset t (f (s.tile t)) s.tiles }
def State.updPart (s : State) (p : Nat) (f : Partition → Partition) : State := { s with parts := mset p (f (s.part p)) s.parts }
def State.updDie (s : State) (d : Nat) (f : Die → Die) : State := { s with dies := mset d (f (s.die d)) s.dies }
def State.updCtrl (s : State) (j : Nat) (f : Ctrl → Ctrl) : State := { s with ctrls := mset j (f (s.ctrl j)) s.ctrls }
/-- Changes every context that a test picks. -/
def State.updAll (s : State) (p : Ctx → Bool) (f : Ctx → Ctx) : State :=
  { s with ctxs := s.ctxs.map fun e => if p e.2 then (e.1, f e.2) else e }

/-- The partition of a kernel, and whether it runs in WARP mode. -/
def State.partOf (s : State) (kid : Nat) : Nat := (s.kernelD kid).part
def State.isWarp (s : State) (kid : Nat) : Bool := (s.kernelD kid).warp
/-- The physical tile that hosts a context's logical tile. -/
def State.tileOf (s : State) (c : Ctx) : Nat := (s.ltile c.ltk).tile
/-- The die of a physical tile (R8). -/
def dieOfTile (t : Nat) : Nat := bit (decide (16 ≤ t % 32)) + 2 * bit (decide (16 ≤ t / 32))
/-- Near-memory slot numbers: `16 * j + slot`, four strands to each of the cluster's four cores (R15, R163, R367). -/
def nearCtrl (n : Nat) : Nat := n / 16
/-- The module core number that runs a context (R11, R163). -/
def State.coreNo (s : State) (c : Ctx) : Nat :=
  match c.shipped with
  | some n => 8192 + n / 4
  | none => 8 * s.tileOf c + c.homeCore
/-- The die of a module core number, or of a tile's engines, numbered 8,240 on (log entry 9). -/
def dieOfCore (n : Nat) : Nat := if n < 8192 then dieOfTile (n / 8) else if n < 8240 then (n - 8192) / 4 / 3 else dieOfTile (n - 8240)
/-- A WARP activation that is not irrevocable (R302). -/
def State.spec (s : State) (c : Ctx) : Bool := s.isWarp c.kid && !c.irrevocable
/-- The scratchpad size S of a context's kernel (R271). -/
def State.sOf (s : State) (c : Ctx) : Nat := (s.kernelD c.kid).s
/-- The doubling limit of a kernel (R274). -/
def Kernel.k (x : Kernel) : Nat := Nat.min 4 (1048576 / Nat.max 1 x.s)

/-- A fresh number, and the state that has used it. -/
def State.fresh (s : State) : Nat × State := (s.nextId, { s with nextId := s.nextId + 1 })
/-- A free choice among two (notes/assumptions/3.md). -/
def State.choose (s : State) : Bool × State :=
  (decide (Config.freeChoice s.free % 2 = 1), { s with free := s.free + 1 })

/-! ## Counters and trace (R443-R447) -/

/-- Counts `n` events of a code on a tile for a kernel's context; a counter saturates (R446). -/
def State.count (s : State) (t kid code n : Nat) : State :=
  let x := s.tile t
  if x.banks.toList.all Option.isNone then s
  else
    let own (i : Nat) : Bool := match x.banks.toList.getD (i / 4) none with
      | some (p, k) => decide (p = s.partOf kid) && decide (k = kid)
      | none => false
    let cs := x.counters.mapFinIdx fun i v _ =>
      if own i && decide ((x.codes.toList.getD i 0#8).toNat = code) then w64 (Nat.min (v.toNat + n) (2 ^ 64 - 1)) else v
    s.updTile t fun x => { x with counters := cs }

/-- Whether some counter of the context on the tile counts a code (R446). -/
def State.counts (s : State) (t kid code : Nat) : Bool :=
  let x := s.tile t
  (List.range 16).any fun i =>
    decide (x.banks.toList.getD (i / 4) none = some (s.partOf kid, kid)) && decide ((x.codes.toList.getD i 0#8).toNat = code)

/-- A trace record's header (R443). -/
def traceHdr (kind strand core chan kid ptile delta : Nat) : Word :=
  w64 (kind * 2 ^ 60 + strand % 4 * 2 ^ 58 + core % 8 * 2 ^ 55 + chan % 16 * 2 ^ 48 + kid % 64 * 2 ^ 42 + ptile % 1024 * 2 ^ 32 + delta % 2 ^ 32)

/-- The time since a tile's latest record: the next record's DELTA (R443, R444). -/
def Tile.traceDelta (x : Tile) (now : Nat) : Nat := now - x.traceAt.getD now
/-- Puts a record into a tile's ring, where a later record's DELTA counts from it; a full ring drops and counts it (R443, R444). -/
def Tile.tracePut (x : Tile) (now : Nat) (r : Vector Word 8) : Tile :=
  if x.traceRoom = 0 then { x with traceLost := x.traceLost + 1 }
  else { x with trace := x.trace ++ [⟨r⟩], traceRoom := x.traceRoom - 1, traceAt := some now }
/-- Puts the LOST record that is due once room has returned. DESIGN CHOICE (log entry 128): it is the first record even where its DELTA no longer fits, of which it then
holds the low 32 bits (R443, R444). -/
def Tile.traceLostDue (x : Tile) (now t kid : Nat) : Tile :=
  if x.traceLost ≠ 0 ∧ x.traceRoom ≠ 0 then
    { x with traceLost := 0 }.tracePut now #v[traceHdr 6 0 0 0 kid t (x.traceDelta now), 0#64, 0#64, 0#64, 0#64, w64 x.traceLost, 0#64, 0#64]
  else x

/-- Writes a RESYNC record for a kernel on a tile (R444). -/
def State.traceResync (s : State) (t kid : Nat) : State :=
  let mhz := (s.die (dieOfTile t)).mhz
  s.updTile t fun x => (x.traceLostDue s.tbase t kid).tracePut s.tbase #v[traceHdr 4 0 0 0 kid t 0, 0#64, 0#64, 0#64, w64 s.tbase, w64 mhz, 0#64, 0#64]

/-- Writes a trace record of a kernel on a tile when tracing is enabled for both, after the RESYNC that R444 asks for. -/
def State.traceRecord (s : State) (t kid kind strand core chan : Nat) (workId tag src entry vrt e0 e1 : Word) : State :=
  if (s.tile t).traceKids.contains kid then
    let stale := match (s.tile t).traceAt with
      | none => true
      | some a => decide (2 ^ 32 - 1 < s.tbase - a)
    let s1 := if stale then s.traceResync t kid else s
    s1.updTile t fun x =>
      let x1 := x.traceLostDue s1.tbase t kid
      x1.tracePut s1.tbase #v[traceHdr kind strand core chan kid t (x1.traceDelta s1.tbase), workId, tag, src, entry, vrt, e0, e1]
  else s

/-! ## Registers (R56, R95) -/

/-- Reads a g register; g0 reads as 0 (R95). -/
def Ctx.getG (c : Ctx) (r : Reg) : Word := if r = 0#5 then 0#64 else c.g[r.toNat]
/-- Writes a g register; a write to g0 is discarded (R56). -/
def Ctx.setG (c : Ctx) (r : Reg) (v : Word) : Ctx := if r = 0#5 then c else { c with g := c.g.set r.toNat v }
/-- Reads and writes an f register as plain data, without its stream (R95). -/
def Ctx.getF (c : Ctx) (r : Reg) : Word := c.f[r.toNat]
def Ctx.setF (c : Ctx) (r : Reg) (v : Word) : Ctx := { c with f := c.f.set r.toNat v }

/-! ## Completing an instruction (R120) -/

/-- REP's step after an instruction whose next PC is `np` (R120). -/
def repNext (r : Option Rep) (np : Word) : Word × Option Rep :=
  match r with
  | none => (np, none)
  | some r =>
    if np = r.stop ∧ 1 < r.count.toNat then (r.start, some { r with count := r.count - 1#64 })
    else if np = r.stop ∨ np.toNat < r.start.toNat ∨ r.stop.toNat < np.toNat then (np, none)
    else (np, some r)

/-- The context after its instruction has completed, apart from the PC and REP. -/
def Ctx.completed (c : Ctx) : Ctx :=
  { c with run := .ready, wait := .none, held := none, instrs := c.instrs + 1,
           awayCount := if c.touched then 0 else c.awayCount + 1, touched := false,
           stepping := false }

/-- The context after its instruction has completed with next PC `np`. -/
def Ctx.retired (c : Ctx) (np : Word) : Ctx :=
  { c.completed with pc := (repNext c.rep np).1, rep := (repNext c.rep np).2 }

/-- The instruction of a context completes with next PC `np`. -/
def State.retire (s : State) (id : Nat) (np : Word) : State := s.upd id fun c => c.retired np

/-- The instruction, of `len` bytes, completes at the next address. -/
def State.advance (s : State) (id : Nat) (len : Nat) : State := s.upd id fun c => c.retired (c.pc + w64 len)

/-- The instruction writes gD and completes. -/
def State.finishG (s : State) (id : Nat) (d : Reg) (v : Word) (len : Nat) : State :=
  s.upd id fun c => (c.setG d v).retired (c.pc + w64 len)

/-- A refusal word: bit 63, WHY in bits 62:56, and low bits as given (R250, R275, R374). -/
def refusal (why : Nat) (low : Nat := 0) : Word := w64 (2 ^ 63 + why * 2 ^ 56 + low)

/-! ## Parking (R7, R80, R102) -/

/-- The FRM sample of the instruction that issues: the held one's, or FRM now (R80). -/
def Ctx.sample (c : Ctx) : BitVec 4 :=
  match c.held with
  | some h => h.sample
  | none => c.frm

/-- The stage, mark, and values that a held instruction has come to; 0 and none at its first issue. -/
def Ctx.stageOf (c : Ctx) : Nat := match c.held with | some h => h.stage | none => 0
def Ctx.markOf (c : Ctx) : Nat := match c.held with | some h => h.mark | none => 0
def Ctx.valsOf (c : Ctx) : List Word := match c.held with | some h => h.vals | none => []
/-- The answer that a parked instruction has received (R275, R374, R409, R420). -/
def Ctx.answer? (c : Ctx) : Option FwAns :=
  match c.held with
  | some h => if h.answered then some h.ans else none
  | none => none

/-- The instruction parks until `w` holds, and is held with its sample and what it has come to (R102). -/
def State.parkAt (s : State) (id : Nat) (i : Instr) (w : Wait) (stage : Nat) (mark : Nat) (vals : List Word) : State :=
  s.upd id fun c =>
    { c with run := .parked, wait := w, parkedAt := s.tbase,
             held := some { instr := i, sample := c.sample, stage := stage, mark := mark, vals := vals },
             stepping := false }
/-- The instruction parks with nothing of it done. -/
def State.park (s : State) (id : Nat) (i : Instr) (w : Wait) : State :=
  s.parkAt id i w (s.ctxD id).stageOf (s.ctxD id).markOf (s.ctxD id).valsOf

/-! ## Keys (R288) -/

/-- The order of keys (R288). -/
def Key.lt (a b : Key) : Bool :=
  if a.vrt ≠ b.vrt then decide (a.vrt < b.vrt)
  else if a.slt ≠ b.slt then decide (a.slt < b.slt)
  else if a.score ≠ b.score then decide (a.score < b.score)
  else if a.sstrand ≠ b.sstrand then decide (a.sstrand < b.sstrand)
  else decide (a.seq < b.seq)
/-- The lesser of two keys, none above every key. -/
def Key.least (a b : Option Key) : Option Key :=
  match a, b with
  | none, y => y
  | x, none => x
  | some x, some y => if x.lt y then some x else some y
/-- The key lies below a key minimum that is a key (R307). -/
def KMin.above (m : KMin) (k : Key) : Bool :=
  match m with
  | .key x => k.lt x
  | _ => false
/-- The key is the delivered key minimum (R301, R302). -/
def KMin.is (m : KMin) (k : Key) : Bool :=
  match m with
  | .key x => x = k
  | _ => false

/-! ## Logical clocks (R165-R168) -/

/-- The later of two times, compared as serial numbers (R168). -/
def serialMax (a b : BitVec 48) : BitVec 48 := if (b - a).msb then a else b
/-- A clock brought up to the time: one tick for every 256 ns that it has run, none while it stands still (R165, R166). -/
def Clock.upTo (c : Clock) (now : Nat) : Clock :=
  if c.stopped then c else { c with t := c.t + BitVec.ofNat 48 ((now - c.tickAt) / 256), tickAt := c.tickAt + (now - c.tickAt) / 256 * 256 }
/-- The logical clock of a module core now. -/
def State.clock (s : State) (n : Nat) : Clock := (mgetD { tickAt := s.bootAt } n s.clocks).upTo s.tbase
/-- Sets the clock of a module core; the time to its next tick stays. -/
def State.setT (s : State) (n : Nat) (t : BitVec 48) : State :=
  { s with clocks := mset n { s.clock n with t := t } s.clocks }
/-- Raises the clock of a module core to a carried stamp (R167). -/
def State.raiseT (s : State) (n : Nat) (t : BitVec 48) : State := s.setT n (serialMax (s.clock n).t t)

/-! ## Flits (R430, R431, R435, R436) -/

/-- One bit of the CRC-64 with the ECMA-182 polynomial (R430). -/
def crcBits (c : Word) : Nat → Word
  | 0 => c
  | n + 1 => crcBits (if c.msb then (c <<< 1) ^^^ 0x42F0E1EBA9EA3693#64 else c <<< 1) n
/-- The CRC-64 of bytes, first byte first (R430). -/
def crc64 (c : Word) : List Byte → Word
  | [] => c
  | b :: t => crc64 (crcBits (c ^^^ (b.setWidth 64 <<< 56)) 8) t
/-- Bytes 0 to 55 of a flit (R430). -/
def flitBytes (f : Flit) : List Byte :=
  [f.hdr, f.vrt, f.src, f.p0, f.p1, f.p2, f.p3].flatMap fun w => leBytes 8 w.toNat
/-- The integrity check of a flit (R430). -/
def Flit.check (f : Flit) : Word := crc64 0#64 (flitBytes f)

/-- A flit's header (R431). -/
def mkHdr (dev part kid lt core chan kind : Nat) (colour cut : Bool) (chseq : Nat) : Word :=
  w64 (dev % 64 * 2 ^ 58 + part % 16 * 2 ^ 54 + kid % 64 * 2 ^ 48 + lt % 4096 * 2 ^ 36 + core % 8 * 2 ^ 33 + chan % 16 * 2 ^ 29
    + kind % 16 * 2 ^ 25 + bit colour * 2 ^ 24 + bit cut * 2 ^ 23 + chseq % 65536)
def Flit.dev (f : Flit) : Nat := bits f.hdr 58 6
def Flit.part (f : Flit) : Nat := bits f.hdr 54 4
def Flit.kid (f : Flit) : Nat := bits f.hdr 48 6
def Flit.lt (f : Flit) : Nat := bits f.hdr 36 12
def Flit.core (f : Flit) : Nat := bits f.hdr 33 3
def Flit.chan (f : Flit) : Nat := bits f.hdr 29 4
def Flit.kind (f : Flit) : Nat := bits f.hdr 25 4
def Flit.colour (f : Flit) : Bool := f.hdr.getLsbD 24
def Flit.cut (f : Flit) : Bool := f.hdr.getLsbD 23
def Flit.chseq (f : Flit) : BitVec 16 := f.hdr.extractLsb' 0 16
/-- The logical core that a flit is addressed to. -/
def Flit.lck (f : Flit) : Nat := lcKey f.kid f.lt f.core

/-- A source word (R104). -/
def srcWord (seq dev kid chan strand core lt : Nat) : Word :=
  w64 (seq % 2 ^ 31 * 2 ^ 33 + dev % 64 * 2 ^ 27 + kid % 64 * 2 ^ 21 + chan % 16 * 2 ^ 17 + strand % 4 * 2 ^ 15
    + core % 8 * 2 ^ 12 + lt % 4096)
def srcSeq (w : Word) : Nat := bits w 33 31
def srcDev (w : Word) : Nat := bits w 27 6
def srcKid (w : Word) : Nat := bits w 21 6
def srcChan (w : Word) : Nat := bits w 17 4
def srcStrand (w : Word) : Nat := bits w 15 2
def srcCore (w : Word) : Nat := bits w 12 3
def srcLt (w : Word) : Nat := bits w 0 12

/-- Which stream a flit belongs to at its sender: its destination and channel or port (R435). -/
def streamTo (f : Flit) : Nat :=
  ((((f.dev * 64 + f.kid) * 4096 + f.lt) * 8 + f.core) * 16 + f.chan) * 2 + bit (decide (f.kind = 2))
/-- Which stream a flit belongs to at its receiver: the sending logical core and the channel or port (R435). -/
def streamFrom (f : Flit) : Nat :=
  ((((srcDev f.src * 64 + srcKid f.src) * 4096 + srcLt f.src) * 8 + srcCore f.src) * 16 + f.chan) * 2 + bit (decide (f.kind = 2))
/-- The kinds that a stream numbers (R435). -/
def streamKind (k : Nat) : Bool := k ≤ 3 || k = 6 || k = 7 || k = 10

/-- A flit stands at a tile's router, to be translated there. -/
def Flit.fresh (f : Flit) (t now : Nat) : Flit := { f with at_ := t, dst := none, sentAt := now }
/-- Puts a flit of logical core `lc` into the fabric at its tile, numbered in its stream and kept in the core's
retransmit buffer until it is acknowledged (R435, R436). DESIGN CHOICE (log entry 28): what nothing parks for and finds the 64 entries taken waits behind them, outside the fabric. It carries the clock `stamp`, which what it does at its destination follows. -/
def State.launchFlitAt (s : State) (lc : Nat) (f : Flit) (stamp : BitVec 48) : State :=
  let c := s.lcore lc
  let n := mgetD 0#16 (streamTo f) c.tx
  let num := streamKind f.kind
  let hdr := if num then (f.hdr &&& ~~~0xFFFF#64) ||| n.setWidth 64 else f.hdr
  let f1 : Flit := { f with fid := s.nextId, hdr := hdr, sender := lc, at_ := (s.ltile (lc / 8)).tile, dst := none, sentAt := s.tbase, stamp := stamp }
  let f2 : Flit := { f1 with crc := f1.check }
  let s1 := s.updLc lc fun c => { c with tx := if num then mset (streamTo f) (n + 1#16) c.tx else c.tx, retx := if num then c.retx ++ [f2] else c.retx }
  { s1 with nextId := s.nextId + 1, flits := if num && decide (Config.retransmitEntries ≤ c.retx.length) then s1.flits else s1.flits ++ [f2] }
/-- The same with the clock of the core on whose behalf it is sent, the logical core's own or the one that a coil strand's stage runs on: what the flit
starts follows every CORE access made before (R180, R346). -/
def State.launchFlit (s : State) (lc : Nat) (f : Flit) (cn : Option Nat := none) : State :=
  s.launchFlitAt lc f (s.clock (cn.getD (8 * (s.ltile (lc / 8)).tile + lcCore lc))).t

/-- A flit with its header and carry, before it is launched. -/
def mkFlit (hdr vrt src p0 p1 p2 p3 : Word) (carry : Carry) (issuer : Issuer) : Flit :=
  { fid := 0, hdr := hdr, vrt := vrt, src := src, p0 := p0, p1 := p1, p2 := p2, p3 := p3, crc := 0#64, carry := carry,
    issuer := issuer, sender := 0, at_ := 0, dst := none, router := 0, sentAt := 0, stamp := 0#48 }

/-- The counts of an item sent: R280's for messages, calls, returns, tasks, codelet updates and queue words, R306's colour
counts and least key in a WARP kernel, and R422's for a cut. -/
def LCore.countSent (c : LCore) (within warp : Bool) (key : Option Key) : LCore :=
  { c with
      sent := if within then c.sent + 1 else c.sent,
      awaiting := if within then c.awaiting else c.awaiting + 1,
      sentC := if within && warp then c.sentC.set (bit c.colour % 2) (c.sentC[bit c.colour % 2]'(Nat.mod_lt _ (by decide)) + 1) (Nat.mod_lt _ (by decide)) else c.sentC,
      leastSent := if within && warp then Key.least c.leastSent key else c.leastSent }
/-- The count of a cut at the sender of an item (R421, R422). -/
def LCore.countCut (c : LCore) : LCore := { c with cutSent := if c.cutFlag then c.cutSent else c.cutSent + 1 }

/-- The message counts as one within its kernel: its kernel sends it to itself, and a WARP kernel does not take it as one from outside,
which it does with what the module sends on behalf of its strands, whose keys have SEQ 0 (R280, R309, R314). -/
def State.countsWithin (s : State) (from_ dev kid : Nat) (key : Key) : Bool :=
  decide (kid = from_) && decide (dev = s.device.toNat) && !(s.isWarp from_ && decide (key.seq = 0))
/-- Sends a message flit (kinds 0 and 1) of logical core `lc`: a message, call, return or antimessage, to (device, kernel,
logical tile, core, channel). -/
def State.sendMsg (s : State) (lc : Nat) (kind dev kid lt core chan : Nat) (vrt src p0 p1 p2 p3 : Word) (carry : Carry) (key : Key) (cn : Option Nat := none) : State :=
  let c := s.lcore lc
  let within := s.countsWithin (lcKid lc) dev kid key
  let part := match s.kernel? kid with
    | some k => if dev = s.device.toNat then k.part else (s.kernelD (lcKid lc)).part
    | none => (s.kernelD (lcKid lc)).part
  let f := mkFlit (mkHdr dev part kid lt core chan kind c.colour c.cutFlag 0) vrt src p0 p1 p2 p3 carry .none
  let s1 := s.updLc lc fun c => let c1 := c.countSent within (s.isWarp (lcKid lc)) (some key)
    if within then c1.countCut else c1
  (s1.launchFlit lc f cn).count (s.ltile (lc / 8)).tile (lcKid lc) (if kind = 1 then 7 else 4) 1

/-! ## Taking a trap, and the return from one (R99, R406-R408) -/

/-- The trap handle of a logical core's trap number `tseq` (R406). -/
def trapHandleOf (c : Ctx) (tseq : Nat) : Word :=
  w64 (c.lt + c.core * 2 ^ 12 + c.strand.toNat * 2 ^ 15 + 2 ^ 31 + tseq % 65536 * 2 ^ 32)

/-- The item of a trap message, as it arrives (R406). -/
def trapItem (epc : Word) (cause : BitVec 8) (einfo handle vrt src : Word) (now : Nat) : Item :=
  { chan := 14, p0 := epc, p1 := w64 (2 ^ 63 + cause.toNat), p2 := einfo, p3 := handle, vrt := vrt, src := src,
    arrived := now, agedAt := now }

/-- Sends a trap message on behalf of logical core `lc` to channel 14 of the kernel's supervisor logical core, or to the
resident kernel, which takes it also when that channel is unbound (R245, R406, R407). -/
def State.trapMessage (s : State) (lc : Nat) (toResident : Bool) (epc : Word) (cause : BitVec 8) (einfo handle vrt src : Word) (ctx : Option Nat) : State :=
  let k := s.kernelD (lcKid lc)
  if toResident || !(s.lcore (lcKey (lcKid lc) k.slt k.score)).bindings[14].bound then
    { s with resident := s.resident ++ [{ part := k.part, item := trapItem epc cause einfo handle vrt src s.tbase, ctx := ctx, notice := true }] }
  else
    s.sendMsg lc 0 s.device.toNat (lcKid lc) k.slt k.score 14 vrt src epc (w64 (2 ^ 63 + cause.toNat)) einfo handle
      (.message { vrt := vrt.toNat, slt := lcLt lc, score := lcCore lc } none) { vrt := vrt.toNat, slt := lcLt lc, score := lcCore lc } (ctx.map fun id => s.coreNo (s.ctxD id))

/-- A trap message that no strand waits on, with EPC and handle 0 (R406). -/
def State.unitTrap (s : State) (lc : Nat) (cause : BitVec 8) (einfo vrt : Word) : State :=
  s.trapMessage lc false 0#64 cause einfo 0#64 vrt (srcWord 0 s.device.toNat (lcKid lc) 14 0 (lcCore lc) (lcLt lc)) none

/-- The strand number that a message of the context bears: 0 from a chain's stage (R344). -/
def Ctx.sendStrand (c : Ctx) : Nat := if c.stage.isSome then 0 else c.strand.toNat
/-- The sends that it has made: a chain's stage counts its own (R288, R344). -/
def State.seqNow (s : State) (c : Ctx) : Nat := if c.stage.isSome then c.stageSeq else (s.lcore c.lck).sendSeq[c.strand.toNat]
/-- Sends the trap message of a TRAPPED context (R301, R406). The SEQ of its source word is a free value (log entry 17). -/
def State.sendTrap (s : State) (id : Nat) : State :=
  let c := s.ctxD id
  let s1 : State := { s with free := s.free + 1 }
  (s1.upd id fun c => { c with trapWaits := false }).trapMessage c.lck (decide (c.item.chan = 14)) c.epc c.ecause c.einfo c.trapHandle
    c.item.vrt (srcWord (Config.freeSeq s.free) s.device.toNat c.kid 14 c.sendStrand c.core c.lt) (some id)

/-- Takes a context off its near-memory slot: it stands at its home core again (R368, R406). -/
def State.leaveNear (s : State) (id : Nat) : State :=
  match (s.ctxD id).shipped with
  | none => s
  | some n =>
    (s.upd id fun c => { c with shipped := none, awayCount := 0 }).updCtrl (nearCtrl n) fun x =>
      { x with slots := x.slots.set (n % 16) none (Nat.mod_lt _ (by decide)) }

/-- Ships a context home: its clock stamp travels with it (R167, R368). -/
def State.shipHome (s : State) (id : Nat) : State :=
  let s1 := s.leaveNear id
  s1.raiseT (s1.coreNo (s1.ctxD id)) (s1.ctxD id).stamp

/-- Takes a synchronous trap (R46, R99, R406): EPC, ECAUSE and EINFO are written, a shipped strand stands at home first,
the strand is TRAPPED, and the trap message is sent, or waits in a WARP activation until its key is the delivered
minimum (R301). -/
def State.trap (s : State) (id : Nat) (cause : BitVec 8) (einfo : Word) : State :=
  let s0 := if (s.ctxD id).shipped.isSome then s.shipHome id else s
  let c := s0.ctxD id
  let lc := s0.lcore c.lck
  let h := trapHandleOf c lc.traps
  let waits := s0.spec c && !lc.kmin.is c.item.key
  let s1 := s0.upd id fun c =>
    { c with run := .trapped, wait := .none, held := none, parkedAt := s.tbase, epc := c.pc, ecause := cause, einfo := einfo,
             trapHandle := h, trapWaits := waits, touched := false, stepping := false }
  let s2 := s1.updLc c.lck fun l => { l with traps := l.traps + 1 }
  if waits then s2 else s2.sendTrap id

/-- The codes of the trap causes (R99). -/
def cIllegal : BitVec 8 := 0x01#8
def cMisalign : BitVec 8 := 0x02#8
def cWindowNack : BitVec 8 := 0x03#8
def cPageFault : BitVec 8 := 0x04#8
def cPagePerm : BitVec 8 := 0x05#8
def cFrozenLoad : BitVec 8 := 0x06#8
def cWindowWrite : BitVec 8 := 0x07#8
def cMemError : BitVec 8 := 0x08#8
def cPriv : BitVec 8 := 0x09#8
def cBrk : BitVec 8 := 0x0A#8
def cGroupRefused : BitVec 8 := 0x0B#8
def cChainForm : BitVec 8 := 0x0C#8
def cQueueUnbound : BitVec 8 := 0x0D#8
def cCommitOverflow : BitVec 8 := 0x0E#8
def cSfuError : BitVec 8 := 0x0F#8

/-- The return from a trap: the strand becomes READY at `pc` (R408). -/
def State.resumeTrapped (s : State) (id : Nat) (pc : Word) : State :=
  s.upd id fun c => { c with run := .ready, pc := pc, trapWaits := false, trapHandle := 0#64 }

/-- The issuing logical core is the supervisor logical core (R408, R420). -/
def State.isSupervisor (s : State) (c : Ctx) : Bool :=
  let k := s.kernelD c.kid
  decide (c.lt = k.slt) && decide (c.core = k.score)

end Sys2Proof.Machine
end

