-- ==== Sys2Proof/Machine/Crypto.lean ====
section
/-! DEFINITION. The algorithms that the spec names by their standards: SHA-384, AES-256 in XTS mode, and signing with ECDSA on the curve P-384 (R423, R452, R454, R457). PRESUMED (notes/assumptions/130.md): the standards are outside the spec. -/

namespace Sys2Proof.Machine

open Sys2Proof

/-! ## SHA-384 -/

/-- The whole part of the `k`-th root of `n`, of at most `bits` bits. -/
def rootOf (k n : Nat) : (bits : Nat) → (r : Nat) → Nat
  | 0, r => r
  | b + 1, r => rootOf k n b (if (r + 2 ^ b) ^ k ≤ n then r + 2 ^ b else r)
/-- The first 80 primes. -/
def primes80 : List Nat :=
  [2, 3, 5, 7, 11, 13, 17, 19, 23, 29, 31, 37, 41, 43, 47, 53, 59, 61, 67, 71, 73, 79, 83, 89, 97, 101, 103, 107, 109, 113, 127, 131, 137, 139, 149, 151, 157, 163, 167, 173]
  ++ [179, 181, 191, 193, 197, 199, 211, 223, 227, 229, 233, 239, 241, 251, 257, 263, 269, 271, 277, 281, 283, 293, 307, 311, 313, 317, 331, 337, 347, 349, 353, 359, 367, 373, 379, 383, 389, 397, 401, 409]
/-- The round constants, 64 bits of the primes' cube roots, and the initial hash value, 64 bits of the square roots of the ninth to the sixteenth prime. -/
def shaRounds : List Word := primes80.map fun p => w64 (rootOf 3 (p * 2 ^ 192) 67 0)
def shaStart : List Word := ((primes80.drop 8).take 8).map fun p => w64 (rootOf 2 (p * 2 ^ 128) 67 0)
/-- The words that bytes hold, the first byte highest, and the bytes of a number so. -/
def beNat (bs : List Byte) : Nat := bs.foldl (fun n b => n * 256 + b.toNat) 0
def beBytes (n v : Nat) : List Byte := (leBytes n v).reverse
/-- A rotation and a shift to the right. -/
def shaMix (x : Word) (a b c : Nat) (rot : Bool) : Word := x.rotateRight a ^^^ x.rotateRight b ^^^ (if rot then x.rotateRight c else x >>> c)
/-- One round: the eight working words and the sixteen words of the schedule that come next. -/
def shaRound (h w : List Word) (k : Word) : List Word × List Word :=
  let g (i : Nat) : Word := h.getD i 0#64
  let m (i : Nat) : Word := w.getD i 0#64
  let t1 := g 7 + shaMix (g 4) 14 18 41 true + ((g 4 &&& g 5) ^^^ (~~~(g 4) &&& g 6)) + k + m 0
  let t2 := shaMix (g 0) 28 34 39 true + ((g 0 &&& g 1) ^^^ (g 0 &&& g 2) ^^^ (g 1 &&& g 2))
  ([t1 + t2, g 0, g 1, g 2, g 3 + t1, g 4, g 5, g 6], w.drop 1 ++ [shaMix (m 14) 19 61 6 false + m 9 + shaMix (m 1) 1 8 7 false + m 0])
/-- A block of 128 bytes is taken into the hash value. -/
def shaBlock (h : List Word) (b : List Byte) : List Word :=
  let w := (List.range 16).map fun i => w64 (beNat ((b.drop (8 * i)).take 8))
  List.zipWith (· + ·) h (shaRounds.foldl (fun x k => shaRound x.1 x.2 k) (h, w)).1
/-- The digest of bytes, as its 48 bytes and as a bit string. -/
def sha384Bytes (m : List Byte) : List Byte :=
  let p := m ++ 0x80#8 :: List.replicate ((111 + 128 - m.length % 128) % 128) 0#8 ++ beBytes 16 (8 * m.length)
  (((List.range (p.length / 128)).foldl (fun h i => shaBlock h ((p.drop (128 * i)).take 128)) shaStart).take 6).flatMap fun x => beBytes 8 x.toNat
def sha384 (m : List Byte) : BitVec 384 := BitVec.ofNat 384 (beNat (sha384Bytes m))

/-! ## AES-256 in XTS mode -/

/-- Multiplication in the field of 256 elements of AES. -/
def gfDouble (a : Byte) : Byte := if a.msb then (a <<< 1) ^^^ 0x1B#8 else a <<< 1
def gfMul (a b : Byte) : Byte := ((List.range 8).foldl (fun (x : Byte × Byte) i => (if b.getLsbD i then x.1 ^^^ x.2 else x.1, gfDouble x.2)) (0#8, a)).1
/-- The substitution of a byte: its inverse, which is its 254th power, and an affine map. -/
def aesSubOf (a : Byte) : Byte :=
  let i := (List.range 7).foldl (fun (x : Byte × Byte) _ => let sq := gfMul x.2 x.2; (gfMul x.1 sq, sq)) (1#8, a) |>.1
  i ^^^ i.rotateLeft 1 ^^^ i.rotateLeft 2 ^^^ i.rotateLeft 3 ^^^ i.rotateLeft 4 ^^^ 0x63#8
def aesBox : Array Byte := (Array.range 256).map fun n => aesSubOf (BitVec.ofNat 8 n)
def aesSub (a : Byte) : Byte := aesBox.getD a.toNat 0#8
def xorBytes (a b : List Byte) : List Byte := List.zipWith (· ^^^ ·) a b
/-- The 60 words of a 32-byte key's schedule; `rc` is the round constant that comes next. -/
def aesExpand : Nat → Nat → Byte → List (List Byte) → List (List Byte)
  | 0, _, _, ws => ws
  | n + 1, i, rc, ws =>
    let last := ws.getD (i - 1) []
    let t := if i % 8 = 0 then xorBytes ((last.drop 1 ++ last.take 1).map aesSub) [rc, 0#8, 0#8, 0#8] else if i % 8 = 4 then last.map aesSub else last
    aesExpand n (i + 1) (if i % 8 = 0 then gfDouble rc else rc) (ws ++ [xorBytes (ws.getD (i - 8) []) t])
def aesKeys (key : List Byte) : List (List Byte) :=
  let ws := aesExpand 52 8 1#8 ((List.range 8).map fun i => (key.drop (4 * i)).take 4)
  (List.range 15).map fun r => ((ws.drop (4 * r)).take 4).flatten
/-- The rows of the state are rotated, and its columns mixed. -/
def aesShift (b : List Byte) : List Byte := (List.range 16).map fun i => b.getD ((i + 4 * (i % 4)) % 16) 0#8
def aesMix (b : List Byte) : List Byte :=
  (List.range 16).map fun i =>
    let x (j : Nat) : Byte := b.getD (i / 4 * 4 + (i + j) % 4) 0#8
    gfDouble (x 0) ^^^ (gfDouble (x 1) ^^^ x 1) ^^^ x 2 ^^^ x 3
/-- One block of 16 bytes is encrypted with the round keys. -/
def aesBlock (ks : List (List Byte)) (b : List Byte) : List Byte :=
  let x := ((ks.drop 1).take 13).foldl (fun b k => xorBytes (aesMix (aesShift (b.map aesSub))) k) (xorBytes b (ks.headD []))
  xorBytes (aesShift (x.map aesSub)) (ks.getD 14 [])
/-- A data unit is encrypted block by block under a key of 64 bytes, with its tweak. -/
def xtsBlocks (ks : List (List Byte)) : Nat → Nat → List Byte → List Byte
  | 0, _, _ => []
  | n + 1, t, bs =>
    let tb := leBytes 16 t
    xorBytes (aesBlock ks (xorBytes (bs.take 16) tb)) tb ++ xtsBlocks ks n (if 2 ^ 127 ≤ t then (2 * t % 2 ^ 128) ^^^ 0x87 else 2 * t) (bs.drop 16)
def xtsEncrypt (key : List Byte) (tweak : Nat) (bs : List Byte) : List Byte :=
  xtsBlocks (aesKeys (key.take 32)) (bs.length / 16) (leNat (aesBlock (aesKeys (key.drop 32)) (leBytes 16 tweak))) bs

/-! ## ECDSA on P-384 -/

/-- The field, the order of the group, and its generator. -/
def p384 : Nat := 2 ^ 384 - 2 ^ 128 - 2 ^ 96 + 2 ^ 32 - 1
def n384 : Nat := 0xFFFFFFFFFFFFFFFFFFFFFFFFFFFFFFFFFFFFFFFFFFFFFFFFC7634D81F4372DDF581A0DB248B0A77AECEC196ACCC52973
def g384 : Nat × Nat :=
  (0xAA87CA22BE8B05378EB1C71EF320AD746E1D3B628BA79B9859F741E082542A385502F25DBF55296C3A545E3872760AB7,
   0x3617DE4A96262C6F5D9E98BF9292DC29F8F41DBD289A147CE9DA3113B5F0B8C00A60B1CE1D7E819D7A431D7C90EA0E5F)
/-- A power and an inverse modulo a prime. -/
def powMod (m a : Nat) : (bits : Nat) → (e : Nat) → Nat
  | 0, _ => 1
  | b + 1, e => let h := powMod m a b (e / 2); if e % 2 = 1 then h * h % m * a % m else h * h % m
def invMod (m a : Nat) : Nat := powMod m (a % m) 384 (m - 2)
/-- The sum of two points, none for the point at infinity. -/
def addPoint (a b : Option (Nat × Nat)) : Option (Nat × Nat) :=
  match a, b with
  | none, y => y
  | x, none => x
  | some (x1, y1), some (x2, y2) =>
    if x1 = x2 ∧ (y1 + y2) % p384 = 0 then none
    else
      let l := if x1 = x2 then (3 * x1 * x1 + (p384 - 3)) * invMod p384 (2 * y1) % p384 else (y2 + (p384 - y1)) * invMod p384 (x2 + (p384 - x1)) % p384
      let x3 := (l * l + (p384 - x1) + (p384 - x2)) % p384
      some (x3, (l * (x1 + (p384 - x3)) + (p384 - y1)) % p384)
/-- A multiple of a point. -/
def mulPoint (a : Nat × Nat) : (bits : Nat) → (k : Nat) → Option (Nat × Nat)
  | 0, _ => none
  | b + 1, k => let h := mulPoint a b (k / 2); let d := addPoint h h; if k % 2 = 1 then addPoint d (some a) else d
/-- The public key of a private one, as the 96 bytes of its coordinates, the higher bytes first. -/
def publicKey (d : Nat) : List Byte := match mulPoint g384 384 d with | some (x, y) => beBytes 48 x ++ beBytes 48 y | none => []
/-- The signature of bytes under a private key with the secret number `k`: r and s. -/
def ecdsaSign (d k : Nat) (m : List Byte) : List Byte :=
  let r := match mulPoint g384 384 k with | some (x, _) => x % n384 | none => 0
  let s := invMod n384 k * (beNat (sha384Bytes m) + r * d) % n384
  beBytes 48 r ++ beBytes 48 s

end Sys2Proof.Machine
end

