-- ==== Sys2Proof/Machine/Numbers.lean ====
section
/-! DEFINITION. Number formats and rounding: WRAP and SAT, the floating-point formats, exact arithmetic on them and ROUND_F with its flags (R67-R76, R135-R145), and the special functions (R147). -/

namespace Sys2Proof.Machine

open Sys2Proof

/-! ## Integers (R67, R68) -/

/-- The INTn value of n bits (R67). -/
def intOf (n v : Nat) : Int := if v % 2 ^ n < 2 ^ (n - 1) then (v % 2 ^ n : Int) else (v % 2 ^ n : Int) - 2 ^ n
/-- The bits of WRAPn(x) (R68). -/
def wrapBits (n : Nat) (x : Int) : Nat := (x % (2 ^ n : Int)).toNat
/-- SATn(x) (R68). -/
def satInt (n : Nat) (x : Int) : Int :=
  if x < -(2 ^ (n - 1) : Int) then -(2 ^ (n - 1) : Int) else if (2 ^ (n - 1) : Int) - 1 < x then (2 ^ (n - 1) : Int) - 1 else x

/-! ## Flags (R98): NV 16, DZ 8, OF 4, UF 2, NX 1 -/

def fNV : BitVec 5 := 16#5
def fDZ : BitVec 5 := 8#5
def fOF : BitVec 5 := 4#5
def fUF : BitVec 5 := 2#5
def fNX : BitVec 5 := 1#5
/-- A flag when its condition holds. -/
def flagIf (b : Bool) (f : BitVec 5) : BitVec 5 := if b then f else 0#5

/-! ## Formats (R69, R70) -/

/-- A value: NaN, an infinity, or an exact number of a sign and a fraction, which may be zero. -/
inductive Num where
  | nan
  | inf (neg : Bool)
  | fin (neg : Bool) (n d : Nat)
  deriving DecidableEq, Repr

/-- Fraction width of a format (R69). -/
def fracW (t : ET) : Nat := match t with | .f32 => 23 | .bf16 => 7 | .f16 => 10 | .e4m3 => 3 | .e5m2 => 2
/-- Exponent bias (R69). -/
def biasOf (t : ET) : Nat := match t with | .f32 => 127 | .bf16 => 127 | .f16 => 15 | .e4m3 => 7 | .e5m2 => 15
/-- Bits of the largest finite value (R69). -/
def maxFin (t : ET) : Nat := match t with | .f32 => 0x7F7FFFFF | .bf16 => 0x7F7F | .f16 => 0x7BFF | .e4m3 => 0x7E | .e5m2 => 0x7B
/-- Bits of +infinity; E4M3 has none (R69). -/
def infBits (t : ET) : Nat := match t with | .f32 => 0x7F800000 | .bf16 => 0x7F80 | .f16 => 0x7C00 | .e4m3 => 0x7F | .e5m2 => 0x7C
/-- Bits of the canonical NaN (R69, R71). -/
def nanBits (t : ET) : Nat := match t with | .f32 => 0x7FC00000 | .bf16 => 0x7FC0 | .f16 => 0x7E00 | .e4m3 => 0x7F | .e5m2 => 0x7E
/-- The sign bit of a format as a number. -/
def signBit (t : ET) : Nat := 2 ^ (t.width - 1)
/-- Adds the sign bit. -/
def withSign (t : ET) (neg : Bool) (v : Nat) : Nat := if neg then signBit t + v else v

/-- The value that bits of a format denote (R70). -/
def numOf (t : ET) (v : Nat) : Num :=
  let neg := decide (signBit t ≤ v % (2 * signBit t))
  let m := v % signBit t
  let e := m / 2 ^ fracW t
  let f := m % 2 ^ fracW t
  if t = .e4m3 ∧ m = 0x7F then .nan
  else if t ≠ .e4m3 ∧ infBits t ≤ m then (if m = infBits t then .inf neg else .nan)
  else if e = 0 then .fin neg f (2 ^ (biasOf t + fracW t - 1))
  else .fin neg ((2 ^ fracW t + f) * 2 ^ (e - (biasOf t + fracW t))) (2 ^ (biasOf t + fracW t - e))

/-! ## Rounding (R73-R76) -/

/-- Rounds n/d to an integer under a static mode (R73); `neg` is the sign of the value. -/
def roundMag (md : RM) (neg : Bool) (n d : Nat) : Nat :=
  let q := n / d
  let r := n % d
  let up := match md with
    | .rne => decide (d < 2 * r) || (decide (2 * r = d) && decide (q % 2 = 1))
    | .rtz => false
    | .rdn => neg && decide (r ≠ 0)
    | .rup => !neg && decide (r ≠ 0)
    | .rna => decide (d ≤ 2 * r)
    | .dyn => false
  if up then q + 1 else q

/-- ⌊log2(n/d)⌋ for n, d > 0. -/
def log2Frac (n d : Nat) : Int :=
  let l : Int := (n.log2 : Int) - (d.log2 : Int)
  if l < 0 then (if n * 2 ^ (-l).toNat < d then l - 1 else l) else (if n < d * 2 ^ l.toNat then l - 1 else l)

/-- Rounds n/d to M × 2^q, and gives M. -/
def roundAt (md : RM) (neg : Bool) (n d : Nat) (q : Int) : Nat :=
  if q < 0 then roundMag md neg (n * 2 ^ (-q).toNat) d else roundMag md neg n (d * 2 ^ q.toNat)
/-- M × 2^q = n/d. -/
def exactAt (m n d : Nat) (q : Int) : Bool :=
  if q < 0 then decide (m * d = n * 2 ^ (-q).toNat) else decide (m * d * 2 ^ q.toNat = n)

/-- The overflow result of R75; `satE` is FRM.SAT for E4M3, `satAll` the SAT of a conversion (R143). -/
def overflowBits (t : ET) (md : RM) (satE satAll neg : Bool) : Nat :=
  if t = .e4m3 then (if satE || satAll then withSign t neg (maxFin t) else nanBits t)
  else if satAll then withSign t neg (maxFin t)
  else
    let big := match md with
      | .rne => true
      | .rna => true
      | .rtz => false
      | .rdn => neg
      | .rup => !neg
      | .dyn => true
    withSign t neg (if big then infBits t else maxFin t)

/-- ROUND_F of a non-zero or zero fraction with its sign, and the flags of R76 (R74). -/
def roundFrac (t : ET) (md : RM) (satE satAll neg : Bool) (n d : Nat) : Nat × BitVec 5 :=
  if n = 0 then (withSign t neg 0, 0#5)
  else
    let p := fracW t + 1
    let emin : Int := 1 - (biasOf t : Int)
    let l := log2Frac n d
    let q := max l emin - (p : Int) + 1
    let m := roundAt md neg n d q
    let mag := m + (q - (emin - (p : Int) + 1)).toNat * 2 ^ fracW t
    if maxFin t < mag then (overflowBits t md satE satAll neg, fOF ||| fNX)
    else
      let exact := exactAt m n d q
      let tiny := if l < emin then
          let qu := l - (p : Int) + 1
          -- rounded without a lower bound on the exponent, is it below the smallest normal?
          decide (l + 1 < emin) || decide (roundAt md neg n d qu < 2 ^ p)
        else false
      (withSign t neg mag, flagIf (!exact) fNX ||| flagIf (tiny && !exact) fUF)

/-- ROUND_F of a value, with an infinite value rounded to E4M3 raising NV (R75). -/
def roundNum (t : ET) (md : RM) (satE satAll : Bool) (x : Num) : Nat × BitVec 5 :=
  match x with
  | .nan => (nanBits t, 0#5)
  | .inf neg => if t = .e4m3 then (overflowBits t md satE satAll neg, fNV) else (withSign t neg (infBits t), 0#5)
  | .fin neg n d => roundFrac t md satE satAll neg n d

/-- The static mode of a rounding qualifier under an FRM sample (R53, R77, R79). -/
def modeOf (rm : RM) (frm : BitVec 4) : RM :=
  match rm with
  | .dyn =>
    match (frm.extractLsb' 0 3).toNat with
    | 0 => .rne
    | 1 => .rtz
    | 2 => .rdn
    | 3 => .rup
    | _ => .rna
  | m => m
/-- SAT of an FRM sample (R77). -/
def satOf (frm : BitVec 4) : Bool := frm.getLsbD 3

/-- ROUNDINT of a finite value: an integer with its sign (R87). -/
def roundInt (md : RM) (neg : Bool) (n d : Nat) : Int :=
  if neg then -(roundMag md neg n d : Int) else (roundMag md neg n d : Int)

/-! ## Exact arithmetic (R135, R136) -/

/-- A signed fraction as an integer over its denominator. -/
def signedN (neg : Bool) (n : Nat) : Int := if neg then -(n : Int) else n
/-- The value of an integer over a denominator; zero takes the sign given. -/
def ofInt (z : Int) (d : Nat) (zeroNeg : Bool) : Num := .fin (if z = 0 then zeroNeg else decide (z < 0)) z.natAbs d

/-- a + b, with NV for ∞ − ∞ and R136's zero signs. -/
def addNum (md : RM) (a b : Num) : Num × BitVec 5 :=
  match a, b with
  | .nan, _ => (.nan, 0#5)
  | _, .nan => (.nan, 0#5)
  | .inf s, .inf t => if s = t then (.inf s, 0#5) else (.nan, fNV)
  | .inf s, .fin _ _ _ => (.inf s, 0#5)
  | .fin _ _ _, .inf t => (.inf t, 0#5)
  | .fin s n d, .fin t m e =>
    (ofInt (signedN s n * e + signedN t m * d) (d * e) (if n = 0 ∧ m = 0 ∧ s = t then s else decide (md = .rdn)), 0#5)

/-- a × b, with NV for 0 × ∞. -/
def mulNum (a b : Num) : Num × BitVec 5 :=
  match a, b with
  | .nan, _ => (.nan, 0#5)
  | _, .nan => (.nan, 0#5)
  | .inf s, .inf t => (.inf (s ^^ t), 0#5)
  | .inf s, .fin t m _ => if m = 0 then (.nan, fNV) else (.inf (s ^^ t), 0#5)
  | .fin s n _, .inf t => if n = 0 then (.nan, fNV) else (.inf (s ^^ t), 0#5)
  | .fin s n d, .fin t m e => (.fin (s ^^ t) (n * m) (d * e), 0#5)

/-- a / b, with NV for 0/0 and ∞/∞ and DZ for a finite non-zero a over zero. -/
def divNum (a b : Num) : Num × BitVec 5 :=
  match a, b with
  | .nan, _ => (.nan, 0#5)
  | _, .nan => (.nan, 0#5)
  | .inf _, .inf _ => (.nan, fNV)
  | .inf s, .fin t _ _ => (.inf (s ^^ t), 0#5)
  | .fin s _ _, .inf t => (.fin (s ^^ t) 0 1, 0#5)
  | .fin s n d, .fin t m e =>
    if m = 0 then (if n = 0 then (.nan, fNV) else (.inf (s ^^ t), fDZ)) else (.fin (s ^^ t) (n * e) (d * m), 0#5)

/-- The value with its sign inverted. -/
def negNum (a : Num) : Num :=
  match a with
  | .nan => .nan
  | .inf s => .inf (!s)
  | .fin s n d => .fin (!s) n d

/-- ±(a × b) ± d, rounded once by its caller (R135). -/
def fmaNum (md : RM) (negProd negAdd : Bool) (a b d : Num) : Num × BitVec 5 :=
  let (p, f1) := mulNum a b
  let p' := if negProd then negNum p else p
  let d' := if negAdd then negNum d else d
  let (r, f2) := addNum md p' d'
  (r, f1 ||| f2)

/-- The integer square root, by bits from the highest. -/
def isqrtGo (n : Nat) : Nat → Nat → Nat
  | 0, r => r
  | b + 1, r => isqrtGo n b (if (r + 2 ^ b) * (r + 2 ^ b) ≤ n then r + 2 ^ b else r)
/-- ⌊√n⌋. -/
def isqrt (n : Nat) : Nat := isqrtGo n (n.log2 / 2 + 1) 0

/-- √(n/d) as a fraction that rounds as the exact root does: exact where the root is rational with this denominator,
and otherwise the middle of the open interval, of relative width below 2^−200, that holds it. -/
def sqrtFrac (n d : Nat) : Nat × Nat :=
  let k := 256
  let v := n * d * 4 ^ k
  let s := isqrt v
  if s * s = v then (s, d * 2 ^ k) else (2 * s + 1, 2 * d * 2 ^ k)

/-- √a (R137). -/
def sqrtNum (a : Num) : Num × BitVec 5 :=
  match a with
  | .nan => (.nan, 0#5)
  | .inf false => (.inf false, 0#5)
  | .inf true => (.nan, fNV)
  | .fin s n d =>
    if n = 0 then (.fin s 0 1, 0#5)
    else if s then (.nan, fNV)
    else let (m, e) := sqrtFrac n d
      (.fin false m e, 0#5)

/-- a < b, for values that are not NaN. -/
def ltNum (a b : Num) : Bool :=
  match a, b with
  | .nan, _ => false
  | _, .nan => false
  | .inf s, .inf t => s && !t
  | .inf s, .fin _ _ _ => s
  | .fin _ _ _, .inf t => !t
  | .fin s n d, .fin t m e => decide (signedN s n * e < signedN t m * d)
/-- a = b, with +0 = −0; a NaN is unequal to everything. -/
def eqNum (a b : Num) : Bool :=
  match a, b with
  | .inf s, .inf t => s = t
  | .fin s n d, .fin t m e => decide (signedN s n * e = signedN t m * d)
  | _, _ => false

/-! ## Packed lanes (R130) -/

/-- Lane `i` of width `w` of a register. -/
def lane (w : Nat) (v : Word) (i : Nat) : Nat := v.toNat / 2 ^ (w * i) % 2 ^ w
/-- The register of `n` lanes that a function gives, lane 0 lowest. -/
def packLanes (w : Nat) (f : Nat → Nat) : Nat → Nat
  | 0 => 0
  | n + 1 => packLanes w f n + f n % 2 ^ w * 2 ^ (w * n)
/-- The OR of the flags of `n` lanes (R132). -/
def laneFlags (f : Nat → BitVec 5) : Nat → BitVec 5
  | 0 => 0#5
  | n + 1 => laneFlags f n ||| f n
/-- The number of lanes of a type. -/
def lanesOf (w : Nat) : Nat := 64 / w
/-- A lane-wise result: the packed lanes and the flags of all (R131, R132). -/
def mapLanes (w n : Nat) (f : Nat → Nat × BitVec 5) : Word × BitVec 5 :=
  (w64 (packLanes w (fun i => (f i).1) n), laneFlags (fun i => (f i).2) n)

/-! ## The special functions (R147): fixed-point with `spP` fraction bits (notes/assumptions/7.md) -/

/-- Fraction bits of the fixed-point values. -/
def spP : Nat := 704
def spOne : Nat := 2 ^ spP

/-- Σ x^k / k! from term k on, with even and odd terms apart: (sum of terms k, k+2, …; sum of terms k+1, …). -/
def expTerms (x : Nat) : Nat → Nat → Nat → Nat × Nat
  | 0, _, _ => (0, 0)
  | fuel + 1, k, term =>
    let (a, b) := expTerms x fuel (k + 1) (term * x / (spOne * (k + 1)))
    (term + b, a)
/-- e^x for a fixed-point x of at most 4. -/
def expPos (x : Nat) : Nat := let (a, b) := expTerms x 230 0 spOne
  a + b
/-- Terms of the sine and cosine series with signs: x^k/k! for k ≡ 0, 1, 2, 3 modulo 4. -/
def trigTerms (x : Nat) : Nat → Nat → Nat → Nat × Nat × Nat × Nat
  | 0, _, _ => (0, 0, 0, 0)
  | fuel + 1, k, term =>
    let (a, b, c, d) := trigTerms x fuel (k + 1) (term * x / (spOne * (k + 1)))
    (term + d, a, b, c)
/-- sin x and cos x for a fixed-point x of at most 4, as signed fixed-point values. -/
def sinCosPos (x : Nat) : Int × Int :=
  let (a, b, c, d) := trigTerms x 230 0 spOne
  ((b : Int) - (d : Int), (a : Int) - (c : Int))
/-- Σ z^(2k+1)/(2k+1), the inverse hyperbolic tangent of z ≤ 1/3. -/
def atanhTerms (z2 : Nat) : Nat → Nat → Nat → Nat
  | 0, _, _ => 0
  | fuel + 1, k, term => term / (2 * k + 1) + atanhTerms z2 fuel (k + 1) (term * z2 / spOne)
/-- ln m for a fraction m = n/d in [1, 2]. -/
def lnFrac (n d : Nat) : Nat := let z := (n - d) * spOne / (n + d)
  2 * atanhTerms (z * z / spOne) 230 0 z
/-- ln 2. -/
def ln2 : Nat := lnFrac 2 1
/-- Σ (−1)^k / ((2k+1) m^(2k+1)) in `2^e` units: the positive and the negative terms. -/
def atanInv (m : Nat) : Nat → Nat → Nat → Nat × Nat
  | 0, _, _ => (0, 0)
  | fuel + 1, k, term =>
    let (a, b) := atanInv m fuel (k + 1) (term / (m * m))
    (term / (2 * k + 1) + b, a)
/-- Fraction bits of π, enough to reduce an argument of 2^128. -/
def piP : Nat := 960
/-- π by Machin's formula. -/
def piFix : Nat :=
  let (a, b) := atanInv 5 220 0 (2 ^ piP / 5)
  let (c, d) := atanInv 239 70 0 (2 ^ piP / 239)
  16 * (a - b) - 4 * (c - d)

/-- A fixed-point value as an exact fraction, never taken for a representable one: the odd half-unit above it. -/
def inexactFix (neg : Bool) (v : Nat) : Num := .fin neg (2 * v + 1) (2 * spOne)

/-- 2^a. -/
def exp2Num (neg : Bool) (n d : Nat) : Num :=
  if n = 0 then .fin false 1 1
  else if n % d = 0 then
    let e := Nat.min (n / d) 300
    if neg then .fin false 1 (2 ^ e) else .fin false (2 ^ e) 1
  else if 200 * d < n then (if neg then .fin false 1 (2 ^ 300) else .fin false (2 ^ 300) 1)
  else
    -- a = e + f with 0 < f < 1
    let fl := n / d
    let fr := n % d
    let f := if neg then d - fr else fr
    let m := expPos (f * ln2 / d)
    if neg then .fin false (2 * m + 1) (2 * spOne * 2 ^ (fl + 1)) else .fin false ((2 * m + 1) * 2 ^ fl) (2 * spOne)

/-- log2 a for a > 0. -/
def log2Num (n d : Nat) : Num :=
  let l := log2Frac n d
  let (n', d') := if l < 0 then (n * 2 ^ (-l).toNat, d) else (n, d * 2 ^ l.toNat)
  if n' = d' then .fin (decide (l < 0)) l.natAbs 1
  else
    let fr := lnFrac n' d' * spOne / ln2
    let v : Int := l * spOne + fr
    if 0 ≤ v then inexactFix false v.natAbs else .fin true (2 * v.natAbs - 1) (2 * spOne)

/-- sin a and cos a of a finite non-zero magnitude n/d, as signed fixed-point values. -/
def sinCosFrac (n d : Nat) : Int × Int :=
  let x := n * 2 ^ piP / d                    -- magnitude in 2^piP units
  let r := x % (2 * piFix)                     -- in [0, 2π)
  let (flip, r1) := if piFix < r then (true, 2 * piFix - r) else (false, r)
  let (s, c) := sinCosPos (r1 / 2 ^ (piP - spP))
  (if flip then -s else s, c)

/-- e^(n/d) as a fraction, for n/d of at most 400: e^x = 2^k × e^r with r = x − k ln 2. -/
def expFrac (n d : Nat) : Nat × Nat :=
  let x := n * spOne / d
  let k := x / ln2
  (expPos (x - k * ln2) * 2 ^ k, spOne)

/-- tanh of a finite non-zero magnitude: (e^2x − 1)/(e^2x + 1), or x − x³/3 where x is small. -/
def tanhFrac (n d : Nat) : Nat × Nat :=
  if 200 * d < n then (2 ^ 500 - 1, 2 ^ 500)
  else if n * 2 ^ 100 < d then (n * (3 * d * d) - n * n * n, 3 * d * d * d)
  else let (e, o) := expFrac (2 * n) d
    (2 * (e - o) + 1, 2 * (e + o))

/-- 1 / (1 + e^−a). -/
def lgstNum (neg : Bool) (n d : Nat) : Num :=
  if n = 0 then .fin false 1 2
  else if neg then (if 300 * d < n then .fin false 1 (2 ^ 400) else let (e, o) := expFrac n d
    .fin false (2 * o + 1) (2 * (o + e)))
  else if 300 * d < n then .fin false (2 ^ 400 - 1) (2 ^ 400)
  else let (e, o) := expFrac n d
    .fin false (2 * e + 1) (2 * (e + o))

/-- The exact value of SFU function `func` (FUNC of R147), with DZ and NV. -/
def sfuNum (func : Nat) (a : Num) : Num × BitVec 5 :=
  match a with
  | .nan => (.nan, 0#5)
  | .inf s =>
    match func with
    | 0 => if s then (.fin false 0 1, 0#5) else (.inf false, 0#5)
    | 1 => if s then (.nan, fNV) else (.inf false, 0#5)
    | 2 => (.fin s 0 1, 0#5)
    | 3 => if s then (.nan, fNV) else (.fin false 0 1, 0#5)
    | 4 => (.nan, fNV)
    | 5 => (.nan, fNV)
    | 6 => (.fin s 1 1, 0#5)
    | _ => if s then (.fin false 0 1, 0#5) else (.fin false 1 1, 0#5)
  | .fin s n d =>
    match func with
    | 0 => (exp2Num s n d, 0#5)
    | 1 => if n = 0 then (.inf true, fDZ) else if s then (.nan, fNV) else (log2Num n d, 0#5)
    | 2 => if n = 0 then (.inf s, fDZ) else (.fin s d n, 0#5)
    | 3 => if n = 0 then (.inf s, fDZ) else if s then (.nan, fNV) else
        let (m, e) := sqrtFrac d n
        (.fin false m e, 0#5)
    | 4 =>
      if n = 0 then (.fin s 0 1, 0#5)
      else if n * 2 ^ 100 < d then (.fin s (n * (6 * d * d) - n * n * n) (6 * d * d * d), 0#5)
      else
        let v := (sinCosFrac n d).1
        (inexactFix (s ^^ decide (v < 0)) v.natAbs, 0#5)
    | 5 =>
      if n = 0 then (.fin false 1 1, 0#5)
      else if n * 2 ^ 100 < d then (.fin false (2 * d * d - n * n) (2 * d * d), 0#5)
      else
        let v := (sinCosFrac n d).2
        (inexactFix (decide (v < 0)) v.natAbs, 0#5)
    | 6 => if n = 0 then (.fin s 0 1, 0#5) else
        let (m, e) := tanhFrac n d
        (.fin s m e, 0#5)
    | _ => (lgstNum s n d, 0#5)

/-- One lane of an SFU function: ROUND32 of the exact value (R147). -/
def sfuLane (func : Nat) (md : RM) (v : Nat) : Nat × BitVec 5 :=
  let (x, f) := sfuNum func (numOf .f32 v)
  let (r, g) := roundNum .f32 md false false x
  (r, f ||| g)

end Sys2Proof.Machine
end

