-- ==== Sys2Proof/Machine/Planes.lean ====
section
/-! DEFINITION. Plane form: element types, conversion of rows and tiles to planes, block layouts, unpacking, and the views of the format windows (R83-R90, R237-R239). -/

namespace Sys2Proof.Machine

open Sys2Proof

/-! ## Element types (R53, R217): `tk` false an ET code, true an IT code -/

/-- The float type of an ET code. -/
def etOfNat (n : Nat) : Option ET :=
  match n with | 0 => some .f32 | 1 => some .bf16 | 2 => some .f16 | 3 => some .e4m3 | 4 => some .e5m2 | _ => none
/-- The width in bits of an IT code, or none for an illegal one. -/
def itWidth (n : Nat) : Option Nat := match n with | 0 => some 8 | 1 => some 16 | 2 => some 32 | 3 => some 64 | _ => none
/-- Bytes of an element; 0 for an illegal code. -/
def elemSize (tk : Bool) (ty : Nat) : Nat :=
  if tk then (itWidth ty).getD 0 / 8 else match etOfNat ty with | some t => t.width / 8 | none => 0
/-- The exact value of an integer. -/
def numOfInt (z : Int) : Num := .fin (decide (z < 0)) z.natAbs 1
/-- The value of an element's bits. -/
def elemNum (tk : Bool) (ty v : Nat) : Num :=
  if tk then numOfInt (intOf (8 * elemSize true ty) v) else match etOfNat ty with | some t => numOf t v | none => .nan

/-! ## Conversion (R87) -/

/-- The greater of two magnitudes. -/
def maxMag (a : Nat × Nat) (b : Num) : Nat × Nat :=
  match b with
  | .fin _ n d => if a.1 * d < n * a.2 then (n, d) else a
  | _ => a

/-- The block exponent of a row or tile (R87). DEDUCED (log entry 93): where E is clamped the conversion is still what R87's steps give, exact values among them
that the second condition of R88 does not name. -/
def blockExp (p : Nat) (xs : List Num) : Int :=
  let (n, d) := xs.foldl maxMag (0, 1)
  let e : Int := if n = 0 then 0 else log2Frac n d - p + 2
  min (max e (-128)) 127

/-- n/d over 2^e as a fraction. -/
def scaleFrac (n d : Nat) (e : Int) : Nat × Nat := if e < 0 then (n * 2 ^ (-e).toNat, d) else (n, d * 2 ^ e.toNat)

/-- The mantissa of one element and its status bits NV, OF, NX (R87). -/
def mantissa (md : RM) (p : Nat) (e : Int) (x : Num) : Int × BitVec 5 :=
  match x with
  | .nan => (0, fNV)
  | .inf false => ((2 : Int) ^ (p - 1) - 1, fNV)
  | .inf true => (-(2 : Int) ^ (p - 1), fNV)
  | .fin neg n d =>
    let (n', d') := scaleFrac n d e
    let y := roundInt md neg n' d'
    let m := satInt p y
    (m, flagIf (m ≠ y) fOF ||| flagIf (m.natAbs * d' ≠ n' || (m ≠ 0 && decide (m < 0) ≠ neg)) fNX)

/-- A row or tile at P planes: its exponent, mantissas and status. -/
def convertUnit (md : RM) (p : Nat) (xs : List Num) : Int × List Int × BitVec 5 :=
  let e := blockExp p xs
  let r := xs.map (mantissa md p e)
  (e, r.map (·.1), r.foldl (fun f x => f ||| x.2) 0#5)

/-! ## Layout (R84, R85) -/

/-- One byte of a plane: bit `i` of the first eight mantissas' P-bit patterns. -/
def planeByte (p i : Nat) (ms : List Int) : Byte :=
  BitVec.ofNat 8 ((ms.take 8).foldr (fun m a => (wrapBits p m / 2 ^ i % 2) + 2 * a) 0)
/-- The 16 plane bytes of one row's or column's 128 mantissas. -/
def vectorBytes (p i : Nat) : Nat → List Int → List Byte
  | 0, _ => []
  | n + 1, ms => planeByte p i ms :: vectorBytes p i n (ms.drop 8)
/-- The planes of a block: `vecs` are its 32 vectors over K. -/
def planesBytes (p : Nat) (vecs : List (List Int)) : List Byte :=
  (List.range p).flatMap fun i => vecs.flatMap (vectorBytes p i 16)
/-- An A block: planes, 32 scales, 32 exponents, 32 reserved bytes of zero. -/
def aBlock (p : Nat) (rows : List (Int × List Int)) (scales : List Nat) : List Byte :=
  planesBytes p (rows.map (·.2)) ++ scales.flatMap (leBytes 4) ++ rows.map (fun r => BitVec.ofInt 8 r.1) ++ List.replicate 32 0#8
/-- A B block: planes, the scale, the exponent, 59 reserved bytes of zero. -/
def bBlock (p : Nat) (e : Int) (cols : List (List Int)) (scale : Nat) : List Byte :=
  planesBytes p cols ++ leBytes 4 scale ++ [BitVec.ofInt 8 e] ++ List.replicate 59 0#8
/-- Bytes of an A and of a B block. -/
def aBytes (p : Nat) : Nat := 512 * p + 192
def bBytes (p : Nat) : Nat := 512 * p + 64

/-- Cuts a list into parts of `k`. -/
def chunks {α : Type} (k : Nat) : Nat → List α → List (List α)
  | 0, _ => []
  | n + 1, l => l.take k :: chunks k n (l.drop k)

/-- The mantissa of vector `v`, element `k` in planes read through `rd` (plane offset to byte); `stride` is a plane's bytes
and `vb` a vector's bytes (R84). -/
def readMantissa (rd : Nat → Byte) (p stride vb v k : Nat) : Int :=
  (List.range p).foldl (fun (a : Int) i =>
    let b := (rd (stride * i + vb * v + k / 8)).toNat / 2 ^ (k % 8) % 2
    if i + 1 = p then a - b * 2 ^ i else a + b * 2 ^ i) 0

/-- m × 2^e as a fraction with its sign. -/
def scaled (m e : Int) : Num := .fin (decide (m < 0)) (m.natAbs * 2 ^ e.toNat) (2 ^ (-e).toNat)

/-- Unpacking one element (R90): the bits of its type and its flags. DEDUCED (log entry 94): a zero result has the exclusive-or of the signs of m × 2^E and of the scale, as
an FMUL of the two has it. -/
def unpackElem (md : RM) (satE tk sat : Bool) (ty : Nat) (m e : Int) (scale : Nat) : Nat × BitVec 5 :=
  if tk then
    let w := 8 * elemSize true ty
    match scaled m e with
    | .fin neg n d =>
      let y := roundInt md neg n d
      let z := if sat then satInt w y else y
      (wrapBits w z, flagIf (roundMag .rtz neg n d * d ≠ n) fNX ||| flagIf (intOf w (wrapBits w z) ≠ y) fOF)
    | _ => (0, 0#5)
  else
    match etOfNat ty with
    | some t =>
      let (x, f) := mulNum (scaled m e) (numOf .f32 scale)
      let (r, g) := roundNum t md satE false x
      (r, f ||| g)
    | none => (0, 0#5)

/-! ## Format windows (R237-R239) -/

def FmtWin.en (w : FmtWin) : Bool := w.ctl.getLsbD 63
def FmtWin.len (w : FmtWin) : Nat := bits w.ctl 32 16
def FmtWin.planes (w : FmtWin) : Nat := bits w.ctl 8 4 + 1
def FmtWin.roleB (w : FmtWin) : Bool := w.ctl.getLsbD 7
def FmtWin.tk (w : FmtWin) : Bool := w.ctl.getLsbD 6
def FmtWin.ty (w : FmtWin) : Nat := bits w.ctl 3 3
/-- TY is E4M3, E5M2, F16 or BF16, or I8, I16 or I32 (R237). -/
def FmtWin.tyOk (w : FmtWin) : Bool := if w.tk then decide (w.ty ≤ 2) else decide (1 ≤ w.ty) && decide (w.ty ≤ 4)
/-- Bytes from one view block to the next (R238). -/
def FmtWin.stride (w : FmtWin) : Nat := 512 * w.planes + 512
/-- Rows of the element matrix, the last one perhaps partial (R238). -/
def FmtWin.rows (w : FmtWin) : Nat :=
  let row := 128 * w.len * Nat.max 1 (elemSize w.tk w.ty)
  (w.elimit.toNat - w.ebase.toNat + row - 1) / row
/-- Number of view blocks (R238). -/
def FmtWin.blocks (w : FmtWin) : Nat :=
  if w.roleB then (w.rows + 127) / 128 * (4 * w.len) else (w.rows + 31) / 32 * w.len
/-- A physical address lies in the window's view range. -/
def FmtWin.holds (w : FmtWin) (pa : Nat) : Bool :=
  w.en && decide (w.vbase.toNat ≤ pa) && decide (pa < w.vbase.toNat + w.blocks * w.stride)

/-- Element (row, col) of a window's matrix in memory; at or above ELIMIT it reads as zero (R238). -/
def FmtWin.elem (w : FmtWin) (m : Mem) (row col : Nat) : Num :=
  let e := elemSize w.tk w.ty
  let a := w.ebase.toNat + (row * (128 * w.len) + col) * e
  if w.elimit.toNat ≤ a then .fin false 0 1 else elemNum w.tk w.ty (memLoad m a e)
/-- A scale of the window's table; every scale is 1.0 with SBASE 0 (R237). -/
def FmtWin.scale (w : FmtWin) (m : Mem) (i : Nat) : Nat :=
  if w.sbase = 0#64 then 0x3F800000 else memLoad m (w.sbase.toNat + 4 * i) 4

/-- View block `n` as bytes, and the status bits of its conversion (R238, R239). -/
def FmtWin.block (w : FmtWin) (m : Mem) (n : Nat) : List Byte × BitVec 5 :=
  let p := w.planes
  if w.roleB then
    let kb := n / (4 * w.len)
    let cb := n % (4 * w.len)
    let tb := cb / 4
    -- the B tile's elements, column by column, so that a column's 128 elements stand together
    let tile := (List.range 128).flatMap fun c => (List.range 128).map fun k => w.elem m (128 * kb + k) (128 * tb + c)
    let (e, ms, f) := convertUnit .rne p tile
    (bBlock p e ((chunks 128 128 ms).drop (32 * (cb % 4)) |>.take 32) (w.scale m (kb * w.len + tb)), f)
  else
    let rb := n / w.len
    let kb := n % w.len
    let rows := (List.range 32).map fun i => convertUnit .rne p ((List.range 128).map fun k => w.elem m (32 * rb + i) (128 * kb + k))
    (aBlock p (rows.map fun r => (r.1, r.2.1)) ((List.range 32).map fun i => w.scale m ((32 * rb + i) * w.len + kb)),
      rows.foldl (fun f r => f ||| r.2.2) 0#5)

/-- The sticky bits NV, OF, NX of a window's ERR from flags (R237). -/
def errBits (f : BitVec 5) : BitVec 3 := BitVec.ofBool (f.getLsbD 4) ++ BitVec.ofBool (f.getLsbD 2) ++ BitVec.ofBool (f.getLsbD 0)

/-- The window of a controller that shows a physical address, by number. -/
def Ctrl.viewOf (x : Ctrl) (pa : Nat) : Option (Nat × FmtWin) :=
  (List.range 16).findSome? fun i => let w := x.wins.toList.getD i {}
    if w.holds pa then some (i, w) else none
/-- The controller of a view aperture (R362). -/
def apertureCtrl (pa : Nat) : Option Nat :=
  if 2 ^ 48 ≤ pa ∧ pa < 2 ^ 48 + 12 * 2 ^ 40 then some ((pa - 2 ^ 48) / 2 ^ 40) else none
/-- A physical address lies in the view range of an enabled window (R239). -/
def State.inView (s : State) (pa : Nat) : Bool :=
  match apertureCtrl pa with
  | some j => ((s.ctrl j).viewOf pa).isSome
  | none => false

/-- Fills the lines of one view block into the home L2 (R239). -/
def State.fillView (s : State) (j i : Nat) (n : Nat) : State :=
  let w := (s.ctrl j).wins.toList.getD i {}
  let (b, f) := w.block s.glob n
  let base := w.vbase.toNat + n * w.stride
  let padded := b ++ List.replicate (w.stride - b.length) 0#8
  let lines := (chunks 128 (w.stride / 128) padded).zipIdx
  { (s.updCtrl j fun x => { x with wins := x.wins.set (i % 16) { w with err := w.err ||| errBits f } (Nat.mod_lt _ (by decide)) }) with
    viewLines := lines.foldl (fun v l => mset (base / 128 + l.2) l.1 v) s.viewLines }

/-- Fills the view block of an address unless its line is in the L2 (R239). -/
def State.ensureView (s : State) (pa : Nat) : State :=
  match apertureCtrl pa with
  | none => s
  | some j =>
    match (s.ctrl j).viewOf pa with
    | none => s
    | some (i, w) =>
      match mget (pa / 128) s.viewLines with
      | some _ => s
      | none => s.fillView j i ((pa - w.vbase.toNat) / w.stride)

/-- A byte of physical memory as a coherent access reads it; a view aperture outside every window reads open values. -/
def State.paByte (s : State) (pa : Nat) : Byte :=
  match apertureCtrl pa with
  | none => memGet s.glob pa
  | some _ =>
    match mget (pa / 128) s.viewLines with
    | some l => l.getD (pa % 128) 0#8
    | none => Config.apertureByte pa
/-- Bytes of physical memory. -/
def State.paBytes (s : State) (pa : Nat) : Nat → List Byte
  | 0 => []
  | n + 1 => s.paByte pa :: s.paBytes (pa + 1) n

end Sys2Proof.Machine
end

