-- ==== Sys2Proof/Machine/Order.lean ====
section
/-! DEFINITION. How an access takes its place in the module's order: logical clocks, line times, leased copies in cores and RDCs (R163-R170, R175), and what performing a write to memory does (R48, R204, R373). -/

namespace Sys2Proof.Machine

open Sys2Proof

/-! ## The physical map (R362) -/

/-- The controller that homes a physical address, or none when it is unpopulated. -/
def homeOf (pa : Nat) : Option Nat :=
  if pa < 8 * 2 ^ 36 then (if pa % 2 ^ 36 < 64 * 10 ^ 9 then some (3 * (pa / 2 ^ 36 / 2) + pa / 2 ^ 36 % 2) else none)
  else if 2 ^ 40 ≤ pa ∧ pa < 2 ^ 40 + 4 * 2 ^ 39 then
    (if (pa - 2 ^ 40) % 2 ^ 39 < 384 * 10 ^ 9 then some (3 * ((pa - 2 ^ 40) / 2 ^ 39) + 2) else none)
  else apertureCtrl pa
/-- A page whose frame lies in the LPDDR 6 ranges is far. -/
def farPa (pa : Nat) : Bool := decide (2 ^ 40 ≤ pa) && decide (pa < 2 ^ 40 + 4 * 2 ^ 39)
/-- The die that homes a physical address. -/
def dieOfPa (pa : Nat) : Nat := (homeOf pa).getD 0 / 3

/-! ## Line times and homes (R165, R168) -/

/-- Number of a global line, and of a scratchpad line of a logical tile. -/
def lineOf (pa : Nat) : Nat := pa / 128
def scratchLine (lt off : Nat) : Nat := 2 ^ 46 + lt * 8192 + off / 128
/-- The home of a line, as R168's background pass goes over it: a die's L2 with its memory, or the scratchpad of a logical tile. DESIGN CHOICE
(log entry 70): the banks of a scratchpad are one home. -/
def homeKey (l : Nat) : Nat :=
  if l < 2 ^ 45 then dieOfPa (128 * l) else if l < 2 ^ 46 then dieOfPa (65536 * (l - 2 ^ 45)) else 4 + (l - 2 ^ 46) / 8192
/-- Where the times of the dirty bit of a 64 KiB granule stand among those of the lines: every global line lies below 2^45 (R362, R373, R374). -/
def bitLine (g : Nat) : Nat := 2 ^ 45 + g
/-- The latest stamp of a home, and the times of its lines that are not listed. -/
def State.home (s : State) (h : Nat) : BitVec 48 × BitVec 48 := mgetD (0#48, 0#48) h s.homes
/-- The write time and read-lease end of a line. -/
def State.lineTimes (s : State) (l : Nat) : BitVec 48 × BitVec 48 :=
  match mget l s.times with
  | some x => x
  | none => let f := (s.home (homeKey l)).2; (f, f)
def State.wts (s : State) (l : Nat) : BitVec 48 := (s.lineTimes l).1
def State.rts (s : State) (l : Nat) : BitVec 48 := (s.lineTimes l).2
/-- The home takes an access with stamp `ts`, which leaves the line's times at `w` and `r`. -/
def State.setTimes (s : State) (l : Nat) (ts w r : BitVec 48) : State :=
  let h := homeKey l
  { s with times := mset l (w, r) s.times, homes := mset h (serialMax (s.home h).1 ts, (s.home h).2) s.homes }
/-- a ≤ b as serial numbers (R168). -/
def serialLe (a b : BitVec 48) : Bool := !(b - a).msb

/-- The clock of the engines of a tile (R175), numbered after those of the cores. DESIGN CHOICE (log entry 9): a tile's engines share one clock, which no
core of the tile keeps. -/
def engineCore (tile : Nat) : Nat := 8240 + tile
/-- The clocks of the module: 8,192 cores, 48 near-memory cores and the engines of 1,024 tiles. -/
def clockCount : Nat := 9264
/-- The clock of a module core takes the ticks that have come due. -/
def State.tickCore (s : State) (n : Nat) : State := { s with clocks := mset n (s.clock n) s.clocks }
/-- The module's largest clock value: the clocks that are listed, and the others, which have only ticked since the boot (R168). -/
def State.tmax (s : State) : BitVec 48 := s.clocks.foldl (fun m e => serialMax m (e.2.upTo s.tbase).t) (BitVec.ofNat 48 ((s.tbase - s.bootAt) / 256))
/-- A value that lies more than 2^40 below another is raised to 2^40 below it (R168). -/
def raiseTo (top v : BitVec 48) : BitVec 48 := serialMax v (top - 0x10000000000#48)
/-- Times that strands, items and saved tiles carry are raised as clocks are, and copies whose leases have ended so far back, which no load can hit any more, leave:
no compared times then lie 2^47 or more apart (R168; log entry 116). -/
def Item.raiseTo (m : BitVec 48) (x : Item) : Item := { x with stamp := Machine.raiseTo m x.stamp }
def Ctx.raiseTo (m : BitVec 48) (c : Ctx) : Ctx :=
  { c with stamp := Machine.raiseTo m c.stamp, acq := Machine.raiseTo m c.acq, ackd := Machine.raiseTo m c.ackd, item := c.item.raiseTo m }
def LCore.raiseTo (m : BitVec 48) (c : LCore) : LCore :=
  { c with items := c.items.map (Item.raiseTo m), ring := c.ring.map (Item.raiseTo m), ports := c.ports.map fun p => { p with stamp := Machine.raiseTo m p.stamp } }
def Chain.raiseTo (m : BitVec 48) (c : Chain) : Chain := { c with acqs := c.acqs.map (Machine.raiseTo m), ackds := c.ackds.map (Machine.raiseTo m) }
def State.raiseCarried (s : State) (m : BitVec 48) : State :=
  let live (ls : List Lease) : List Lease := ls.filter fun x => decide (Machine.raiseTo m x.lease = x.lease)
  { s with ctxs := s.ctxs.map fun e => (e.1, e.2.raiseTo m), lcores := s.lcores.map fun e => (e.1, e.2.raiseTo m),
           ltiles := s.ltiles.map fun e => (e.1, { e.2 with clocks := e.2.clocks.map (Machine.raiseTo m) }),
           kernels := s.kernels.map fun e => (e.1, { e.2 with chains := e.2.chains.map (Chain.raiseTo m) }),
           copies := s.copies.map fun e => (e.1, live e.2), rdcs := s.rdcs.map fun e => (e.1, live e.2) }
/-- The largest clock value reaches every core (R168). -/
def State.carryTmax (s : State) : State :=
  let m := s.tmax
  let lag (v : BitVec 48) : Bool := decide (raiseTo m v ≠ v)
  let idle : Clock := Clock.upTo { tickAt := s.bootAt } s.tbase
  let s1 := State.raiseCarried { s with clocks := s.clocks.map fun e => let c := e.2.upTo s.tbase
    (e.1, if lag c.t then { c with t := raiseTo m c.t } else c) } m
  if lag idle.t then (List.range clockCount).foldl (fun s n => if (mget n s.clocks).isSome then s else { s with clocks := mset n { idle with t := raiseTo m idle.t } s.clocks }) s1 else s1

/-! ## The L2 and the victims of caches (R13, R127, R200, R201) -/

/-- The partition whose memory holds a physical address (R456). -/
def State.ownerOf (s : State) (pa : Nat) : Nat :=
  ((s.parts.find? fun e => e.2.memory.any fun m => decide (m.1 ≤ pa) && decide (pa < m.1 + m.2)).map (·.1)).getD 0
/-- The ranges and ways of a die's valid retention registers, by line. -/
def Die.reserved (d : Die) : List (Nat × Nat × Nat) := d.retain.toList.filterMap fun r => r.map fun x => (x.base / 128, x.limit / 128, x.ways)
def inReserved (r : Nat × Nat × Nat) (x : CLine) : Bool := decide (r.1 ≤ x.line) && decide (x.line < r.2.1)
/-- The lines of a set that stand in its ordinary ways: the others are the latest used of each register's range, as many as it has ways. -/
def ordinary (regs : List (Nat × Nat × Nat)) (set : List CLine) : List CLine :=
  let held := regs.flatMap fun r => (set.filter (inReserved r)).take r.2.2
  set.filter fun x => !held.contains x
/-- The line that a set gives up when its ordinary ways hold one too many; a set lists the latest used first, and `x` is the newcomer. -/
def victim (regs : List (Nat × Nat × Nat)) (full : Nat → Bool) (ord : List CLine) : Option CLine :=
  let old := ord.reverse
  match old.find? (·.ef) with
  | some v => some v
  | none => match old.find? fun v => full v.part with
    | some v => some v
    | none => match old.find? fun v => !(regs.any fun r => inReserved r v) with
      | some v => some v
      | none => old.head?
/-- A set of a cache of `sets` sets and 16 ways gives up lines, other than the newcomer `keep`, until its ordinary ways hold no more than they can (R200,
R201). The set of a line is its number modulo the sets (PRESUMED, log entry 23). DESIGN CHOICE (log entry 23): a line that comes in counts toward its partition's
quota, so a partition that it brings above its quota gives up a line. -/
def cacheTrim (sets ix : Nat) (regs : List (Nat × Nat × Nat)) (quota : Nat → Option Nat) (keep : Option Nat) : Nat → List CLine → List CLine
  | 0, ls => ls
  | n + 1, ls =>
    let ord := ordinary regs (ls.filter fun y => y.line % sets = ix)
    if ord.length ≤ 16 - Nat.min 16 ((regs.map fun r => r.2.2).sum) then ls
    else
      let full (p : Nat) : Bool := match quota p with | some q => decide (q < (ls.filter fun y => y.part = p).length) | none => false
      match victim regs full (ord.filter fun y => some y.line ≠ keep) with
      | some v => cacheTrim sets ix regs quota keep n (ls.filter fun y => y.line ≠ v.line)
      | none => ls
/-- Uses or fills a line of a cache: the lines after it, fewer when a full set gives one up (R201). -/
def cacheUse (sets : Nat) (regs : List (Nat × Nat × Nat)) (quota : Nat → Option Nat) (x : CLine) (ls : List CLine) : List CLine :=
  let ef := match ls.find? fun y => y.line = x.line with | some y => y.ef || x.ef | none => x.ef
  cacheTrim sets (x.line % sets) regs quota (some x.line) 16 ({ x with ef := ef } :: ls.filter fun y => y.line ≠ x.line)
/-- A die's L2 holds no more lines in any set than its registers leave it: a register that is taken makes the others give up ways at once (R200). -/
def State.l2Trim (s : State) (d : Nat) : State :=
  let ls := mgetD [] d s.l2s
  { s with l2s := mset d (((ls.map fun x => x.line % Config.l2Sets).eraseDups).foldl
      (fun ls ix => cacheTrim Config.l2Sets ix (s.die d).reserved (fun p => mget d (s.part p).l2Quota) none 16 ls) ls) s.l2s }
/-- The L2 of a line's home uses or fills it (R13); a view aperture's and a scratchpad's line is in none. The data of a dirty line that it gives up stays
unseen by the host, which observes a store only after a FLSH or INVL that covers it (R204, R441). -/
def State.l2Use (s : State) (l : Nat) (ef : Bool) : State :=
  if 2 ^ 45 ≤ l ∨ (apertureCtrl (128 * l)).isSome then s
  else
    let d := dieOfPa (128 * l)
    let x : CLine := { line := l, part := s.ownerOf (128 * l), ef := ef }
    { s with l2s := mset d (cacheUse Config.l2Sets (s.die d).reserved (fun p => mget d (s.part p).l2Quota) x (mgetD [] d s.l2s)) s.l2s }
/-- The home L2 does not hold a global line. -/
def State.l2Misses (s : State) (l : Nat) : Bool := !((mgetD [] (dieOfPa (128 * l)) s.l2s).any fun x => x.line = l)

/-! ## Stamps (R165, R183, R184) -/

/-- A load at its home: its stamp, which becomes the clock (R165). -/
def State.stampLoad (s : State) (cn l : Nat) : BitVec 48 × State :=
  let ts := serialMax (s.clock cn).t (s.wts l + 1#48)
  (ts, ((s.setTimes l ts (s.wts l) (serialMax (s.rts l) (ts + 6#48))).setT cn ts).l2Use l false)
/-- A store at its home (R165). -/
def State.stampStore (s : State) (cn l : Nat) : BitVec 48 × State :=
  let ts := serialMax (s.clock cn).t (s.rts l + 1#48)
  (ts, ((s.setTimes l ts ts ts).setT cn ts).l2Use l false)
/-- An atomic at its home; one that writes nothing only raises the lease end (R183, R184). -/
def State.stampAtomic (s : State) (cn l : Nat) (writes : Bool) : BitVec 48 × State :=
  let ts := serialMax (serialMax (s.clock cn).t (s.wts l + 1#48)) (s.rts l + 1#48)
  (ts, ((if writes then s.setTimes l ts ts ts else s.setTimes l ts (s.wts l) (serialMax (s.rts l) ts)).setT cn ts).l2Use l false)

/-! ## What an engine may still read (R166, R175, R176) -/

/-- A write is about to replace a line that holds `data` at stamp `ts`: an engine access of other work, which no rule keeps after the write, may
still take a place before it, for 2 us. -/
def State.keepPast (s : State) (l : Nat) (ts : BitVec 48) (data : List Byte) : State :=
  { s with past := { line := l, data := data, wts := s.wts l, till := ts - 1#48, at_ := s.tbase } :: s.past.filter fun p => decide (s.tbase < p.at_ + 2000) }
/-- The stamp of an engine's read of an old version, when the version and the engine's clock allow one (R165, R175). -/
def Past.stamp (p : Past) (t : BitVec 48) (now : Nat) : Option (BitVec 48) :=
  let ts := serialMax t (p.wts + 1#48)
  if now < p.at_ + 2000 ∧ serialLe ts p.till then some ts else none
/-- One unit of an engine's read within a line, whose place follows `t`: the bytes at the home as `cur` gives them, or those of a version that a write has
replaced, where the order may place the read before that write (R176): which, is a free choice (log entry 71). -/
def State.engUnit (s : State) (cn : Nat) (t : BitVec 48) (l off n : Nat) (cur : List Byte) : List Byte × State :=
  match s.past.filter fun p => decide (p.line = l) && (p.stamp t s.tbase).isSome with
  | [] => (cur, (s.stampLoad cn l).2)
  | ps =>
    let s1 : State := { s with free := s.free + 1 }
    match ps[Config.freeChoice s.free % (ps.length + 1)]? with
    | some p => ((p.data.drop off).take n, s1.raiseT cn ((p.stamp t s.tbase).getD t))
    | none => (cur, (s1.stampLoad cn l).2)
/-- The naturally aligned units of at most 16 bytes of a range (R175). -/
def unitsOf (a n : Nat) : List (Nat × Nat) :=
  ((List.range ((a % 16 + n + 15) / 16)).map fun i => (Nat.max a (a / 16 * 16 + 16 * i), Nat.min (a + n) (a / 16 * 16 + 16 * i + 16))).map fun e => (e.1, e.2 - e.1)

/-! ## Leased copies (R165, R170) -/

def findLease (l : Nat) (ls : List Lease) : Option Lease := ls.find? fun x => x.line = l
/-- Takes a copy into a core's data cache, the oldest copy leaving a full one. -/
def State.takeCopy (s : State) (cn : Nat) (x : Lease) : State :=
  { s with copies := mset cn ((x :: (mgetD [] cn s.copies).filter fun y => y.line ≠ x.line).take Config.coreCopies) s.copies }
def Lease.cline (x : Lease) : CLine := { line := x.line, part := x.part, ef := x.ef }
/-- The ranges of every retention register, which an RDC spares as long as it can and gives no ways (R201 step 5). -/
def State.retained (s : State) : List (Nat × Nat × Nat) := s.dies.flatMap fun e => e.2.reserved.map fun r => (r.1, r.2.1, 0)
/-- Fills an RDC with a line, or renews it: never with an older one (R170, R201). -/
def State.takeRdc (s : State) (d : Nat) (x : Lease) : State :=
  let ls := mgetD [] d s.rdcs
  let fill (ef : Bool) : State :=
    let y := { x with part := s.ownerOf (128 * x.line), ef := ef }
    let keep := cacheUse Config.rdcSets s.retained (fun p => mget d (s.part p).rdcQuota) y.cline (ls.map Lease.cline)
    { s with rdcs := mset d (y :: ls.filter fun z => decide (z.line ≠ x.line) && keep.any fun c => c.line = z.line) s.rdcs }
  match findLease x.line ls with
  | some y => if serialLe y.wts x.wts then fill y.ef else s
  | none => fill false
/-- The evict-first hint of an access marks its line in the home L2, and in the RDC of the accessing die (R127). -/
def State.evictFirst (s : State) (cn pa : Nat) : State :=
  let l := lineOf pa
  let die := dieOfCore cn
  let s1 := if s.l2Misses l then s else s.l2Use l true
  { s1 with rdcs := if dieOfPa pa = die then s1.rdcs else mset die ((mgetD [] die s1.rdcs).map fun x => if x.line = l then { x with ef := true } else x) s1.rdcs }
/-- An RDC's line is its latest used. -/
def rdcFront (l : Nat) (ls : List Lease) : List Lease := ls.filter (fun x => decide (x.line = l)) ++ ls.filter fun x => decide (x.line ≠ l)
/-- The stamp of a hit on a leased copy, when the lease allows it (R165). DEDUCED (log entry 117): 2 us after a write at the home has replaced what the copy
holds, no load hits it, also a core's whose clock lies behind the one that took the lease: R166's bound holds of every load. -/
def hitStamp (t : BitVec 48) (now : Nat) (x : Lease) : Option (BitVec 48) :=
  let ts := serialMax t (x.wts + 1#48)
  let late := match x.oldAt with | some a => decide (a + 2000 ≤ now) | none => false
  if serialLe ts x.lease && !late then some ts else none

/-- What a load of a global line gives: its bytes, its stamp, the write time of what it read, and the L2 and RDC misses that it makes. -/
structure LineRead where
  bytes : List Byte
  ts : BitVec 48
  wts : BitVec 48
  misses : Nat

/-- A CORE load of `n` bytes within one global line by module core `cn` (R165, R170). -/
def State.loadLine (s : State) (cn pa n : Nat) : LineRead × State :=
  let l := lineOf pa
  let s := s.ensureView pa
  let die := dieOfCore cn
  let remote := decide (dieOfPa pa ≠ die)
  let cut (d : List Byte) : List Byte := (d.drop (pa % 128)).take n
  match (findLease l (mgetD [] cn s.copies)).bind fun x => (hitStamp (s.clock cn).t s.tbase x).map fun ts => (x, ts) with
  | some (x, ts) => ({ bytes := cut x.data, ts := ts, wts := x.wts, misses := 0 }, s.setT cn ts)
  | none =>
    match (if remote then findLease l (mgetD [] die s.rdcs) else none).bind fun x => (hitStamp (s.clock cn).t s.tbase x).map fun ts => (x, ts) with
    | some (x, ts) => ({ bytes := cut x.data, ts := ts, wts := x.wts, misses := 0 }, State.takeCopy { s.setT cn ts with rdcs := mset die (rdcFront l (mgetD [] die s.rdcs)) s.rdcs } cn x)
    | none =>
      let m := bit remote + bit (s.l2Misses l)
      let (ts, s1) := s.stampLoad cn l
      let x : Lease := { line := l, data := s.paBytes (128 * l) 128, wts := s.wts l, lease := ts + 6#48 }
      let s2 := s1.takeCopy cn x
      ({ bytes := cut x.data, ts := ts, wts := x.wts, misses := m }, if remote then s2.takeRdc die x else s2)

/-! ## Performing a write to global memory -/

/-- The old value of a code word that a write changes stays visible to a strand's fetch until its FENCE (R48). -/
def oldWordsOf (m : Mem) (pa n : Nat) (m' : Mem) : List (Nat × BitVec 32) :=
  ((List.range ((pa % 4 + n + 3) / 4)).map fun i => pa / 4 * 4 + 4 * i).filterMap fun a =>
    if memLoad m a 4 = memLoad m' a 4 then none else some (a, BitVec.ofNat 32 (memLoad m a 4))

/-- Lists a number once. -/
def insertOnce (a : Nat) (l : List Nat) : List Nat := if l.contains a then l else a :: l

/-- The leased copies of a line do not hold what a write at the home gives it (R166). -/
def State.outdate (s : State) (l : Nat) : State :=
  let old (ls : List Lease) : List Lease := ls.map fun x => if x.line = l && x.oldAt.isNone then { x with oldAt := some s.tbase } else x
  { s with copies := s.copies.map fun e => (e.1, old e.2), rdcs := s.rdcs.map fun e => (e.1, old e.2) }
/-- A write of `n` bytes replaces the bytes of signal writes that it meets; what was replaced 2 us ago no load returns any more (R166, R179). -/
def State.unsignal (s : State) (l off n : Nat) : State :=
  if s.signals = [] then s else
    { s with signals := (s.signals.filter fun g => match g.gone with | some o => decide (s.tbase < o.2 + 2000) | none => true).map fun g =>
        if g.line = l && decide (off ≤ g.off) && decide (g.off < off + n) && g.gone.isNone then ({ g with gone := some (s.wts l, s.tbase) } : Signal) else g }
/-- The bytes that a write has just made are those of a signal write (R178). -/
def State.signal (s : State) (l off n : Nat) : State :=
  { s with signals := ((List.range n).map fun i => { line := l, off := off + i, wts := s.wts l }) ++ s.signals }
/-- What a load acquires that has returned `n` bytes of a line as its version `cw` has them: the latest of the signal writes that it read (R179). -/
def State.signalsIn (s : State) (l off n : Nat) (cw : BitVec 48) : Option (BitVec 48) :=
  (s.signals.filter fun g => g.line = l && decide (off ≤ g.off) && decide (g.off < off + n) && serialLe g.wts cw
      && (match g.gone with | some o => !serialLe o.1 cw | none => true)).foldl (fun m g => some (match m with | some x => serialMax x g.wts | none => g.wts)) none
/-- Writes bytes to physical memory: the coherent view, the dirty lines that CXL.mem does not see (R204), the dirty bit
of a dirty-tracked granule (R373), and what fetches and leased copies may still show (R48, R166). A view aperture holds no storage. -/
def State.writePa (s : State) (pa : Nat) (bs : List Byte) (dt : Bool) : State :=
  if (apertureCtrl pa).isSome then s
  else
    let g := memPut s.glob pa bs
    let old := oldWordsOf s.glob pa bs.length g
    let s0 := (s.outdate (lineOf pa)).unsignal (lineOf pa) (pa % 128) bs.length
    let s1 := { s0 with glob := g, dirty := insertOnce (lineOf pa) s.dirty,
                        dirtyGranules := if dt then insertOnce (pa / 65536) s.dirtyGranules else s.dirtyGranules }
    if old = [] then s1 else s1.updAll (fun _ => true) fun c => { c with oldWords := old ++ c.oldWords }

/-- The copies of the storing core and of its die's RDC take the new data, with a lease of 6 (R165, R170). DEDUCED (log entry 16):
the home's lease end rises to that lease, so that, as R165 says, a store's stamp exceeds the lease of every copy that holds
the old value. -/
def State.updateCopies (s : State) (cn pa : Nat) (ts : BitVec 48) : State :=
  let l := lineOf pa
  let die := dieOfCore cn
  let x : Lease := { line := l, data := s.paBytes (128 * l) 128, wts := ts, lease := ts + 6#48 }
  let up (ls : List Lease) : List Lease := ls.map fun y => if y.line = l then x else y
  let own := mgetD [] cn s.copies
  let rdc := if dieOfPa pa ≠ die then mgetD [] die s.rdcs else []
  let has (ls : List Lease) : Bool := (findLease l ls).isSome
  if has own || has rdc then
    let s1 := s.setTimes l ts (s.wts l) (serialMax (s.rts l) (ts + 6#48))
    { s1 with copies := if has own then mset cn (up own) s1.copies else s1.copies,
              rdcs := if has rdc then mset die (rdcFront l (up rdc)) s1.rdcs else s1.rdcs }
  else s

/-- A write to a dirty-tracked page takes a place after every access of its granule's dirty bit so far, and sets the bit at its own place: the bit's times then
are no earlier (R373, R374). -/
def State.beforeBit (s : State) (cn pa : Nat) (dt : Bool) : State := if dt then s.raiseT cn (s.rts (bitLine (pa / 65536)) + 1#48) else s
def State.bitAt (s : State) (pa : Nat) (dt : Bool) (ts : BitVec 48) : State :=
  if dt then let b := bitLine (pa / 65536)
    s.setTimes b ts (serialMax (s.wts b) ts) (serialMax (s.rts b) ts) else s
/-- A write within one global line, performed at its home by the clock `cn`. -/
def State.writeLine (s0 : State) (cn pa : Nat) (bs : List Byte) (dt : Bool) : BitVec 48 × State :=
  let s := s0.beforeBit cn pa dt
  let l := lineOf pa
  let (ts, s1) := s.stampStore cn l
  (ts, State.writePa ({ s1 with past := (s.keepPast l ts (s.paBytes (128 * l) 128)).past }.bitAt pa dt ts) pa bs dt)
/-- A CORE store within one global line. -/
def State.storeLine (s : State) (cn pa : Nat) (bs : List Byte) (dt : Bool) : BitVec 48 × State :=
  let (ts, s1) := s.writeLine cn pa bs dt
  (ts, s1.updateCopies cn pa ts)

/-! ## Scratchpad accesses at their bank -/

/-- The bytes of a logical tile's scratchpad. -/
def State.scratchBytes (s : State) (lt off n : Nat) : List Byte := memBytes (s.ltile lt).scratch off n
/-- A reserved byte of a codelet record: one of the last eight bytes of a record whose STATE is not none (R4, R263; notes/assumptions/95.md). -/
def LTile.reserved (x : LTile) (a : Nat) : Bool :=
  decide (56 ≤ a % 64) && x.codelets.contains (a / 64 * 64) && decide ((memGet x.scratch (a / 64 * 64 + 48)).toNat % 4 ≠ 0)
/-- A logical tile whose scratchpad bytes from an offset on are written; a write to a reserved byte is ignored. -/
def LTile.put (x : LTile) (off : Nat) (bs : List Byte) : LTile :=
  { x with scratch := memPut x.scratch off (if x.codelets = [] then bs else bs.mapIdx fun i b => if x.reserved (off + i) then memGet x.scratch (off + i) else b) }
/-- Bytes that CHAIN or BINIT takes are no codelet record any more. -/
def State.dropCodelets (s : State) (lt off n : Nat) : State :=
  s.updLt lt fun x => { x with codelets := x.codelets.filter fun o => decide (o + 64 ≤ off) || decide (off + n ≤ o) }
/-- Writes scratchpad bytes. -/
def State.scratchPut (s : State) (lt off : Nat) (bs : List Byte) : State :=
  (s.unsignal (scratchLine lt off) (off % 128) bs.length).updLt lt fun x => x.put off bs
/-- A stamped load and a stamped store of scratchpad by the clock `cn`; what the line held stays readable for engines (R176). -/
def State.scratchLoad (s : State) (cn lt off n : Nat) : List Byte × BitVec 48 × State :=
  let (ts, s1) := s.stampLoad cn (scratchLine lt off)
  (s.scratchBytes lt off n, ts, s1)
def State.scratchStore (s : State) (cn lt off : Nat) (bs : List Byte) : BitVec 48 × State :=
  let l := scratchLine lt off
  let (ts, s1) := s.stampStore cn l
  (ts, State.scratchPut { s1 with past := (s.keepPast l ts (s.scratchBytes lt (off / 128 * 128) 128)).past } lt off bs)

end Sys2Proof.Machine
end

