-- ==== Sys2Proof/Machine/Rollback.lean ====
section
/-! DEFINITION. Undoing activations of a WARP kernel: rollback and discard (R303, R304), the logs' room (R296), and the keep and output logs (R293, R294, R297). -/

namespace Sys2Proof.Machine

open Sys2Proof

/-- The physical core that runs a logical core: its module core number (R11, R279). -/
def State.homeCore (s : State) (lc : Nat) : Nat := 8 * (s.ltile (lc / 8)).tile + lcCore lc

/-- Takes a context's request out of every SFU queue (R149). -/
def State.sfuWithdraw (s : State) (id : Nat) : State :=
  { s with tiles := s.tiles.map fun e => (e.1, { e.2 with sfu := e.2.sfu.filter (· ≠ id) }),
           ctrls := s.ctrls.map fun e => (e.1, { e.2 with sfu := e.2.sfu.filter (· ≠ id) }) }

/-- A context ends: its slots are free and nothing waits for it any more (R102). -/
def State.dropCtx (s : State) (id : Nat) : State :=
  let s1 := (s.leaveNear id).sfuWithdraw id
  { s1 with ctxs := mdel id s1.ctxs, saves := mdel id s1.saves,
            ctrls := s1.ctrls.map fun e => (e.1, { e.2 with waiting := e.2.waiting.filter (· ≠ id) }),
            cur := if s1.cur = some id then none else s1.cur }

/-! ## The unit that an activation holds (R214, R215, R228) -/

/-- The MU context of a logical core. -/
def State.mu (s : State) (lc : Nat) : MuCtx := (s.lcore lc).mu
def State.updMu (s : State) (lc : Nat) (f : MuCtx → MuCtx) : State := s.updLc lc fun c => { c with mu := f c.mu }
/-- The members that a record runs on: the core alone, or its gang with (r, c) (R233). -/
def MuCtx.members (m : MuCtx) (lc : Nat) : List (Nat × Nat × Nat) := if m.leads = [] then [(lc, 0, 0)] else m.leads
/-- MXSWAPs whose place has been reached exchange the banks, on every member of a gang (R228). -/
def State.muSettle (s : State) (lc : Nat) : Nat → State
  | 0 => s
  | n + 1 =>
    match (s.mu lc).swaps with
    | [] => s
    | (mark, id) :: t =>
      if (s.mu lc).done < mark then s
      else
        let s1 := s.updMu lc fun m => { m with swaps := t }
        match s1.ctx? id with
        | none => s1.muSettle lc n
        | some _ =>
          let s2 := ((s.mu lc).members lc).foldl (fun s x => s.updMu x.1 fun m => { m with work := m.vis, vis := m.work }) s1
          (s2.upd id fun c => match c.held with
            | some h => { c with held := some { h with stage := 2 } }
            | none => c).muSettle lc n
/-- The MU context of a logical core with both banks at zero and no hold; its queued records count as done (R215). -/
def MuCtx.clearHold (m : MuCtx) : MuCtx :=
  { m with work := [], vis := [], queue := [], done := m.done + m.queue.length, kdone := 0, hold := none }
/-- The activation of key `k` no longer holds the unit: MXSWAPs that waited behind its records exchange the banks (R215, R228). -/
def State.releaseUnit (s : State) (lc : Nat) (k : Key) : State :=
  if (s.mu lc).hold = some k then
    let s1 := s.updMu lc MuCtx.clearHold
    s1.muSettle lc (s1.mu lc).swaps.length
  else s

/-! ## Undoing an activation (R303) -/

/-- Copies the activation has in its own scratchpad or in the commit queue are cancelled (R210). -/
def cancelCopiesOf (k : Key) (cs : List CopyRec) : List CopyRec :=
  cs.map fun c => if c.byKey = some k ∧ (c.state = 1 ∨ c.state = 2 ∨ c.state = 3 ∨ c.state = 7) then { c with state := 6 } else c
/-- The same in every logical core of its kernel: a coil strand's stage issues copies on another one (R346). -/
def State.cancelCopies (s : State) (kid : Nat) (k : Key) : State :=
  { s with lcores := s.lcores.map fun e => if lcKid e.1 = kid then (e.1, { e.2 with copies := cancelCopiesOf k e.2.copies }) else e }

/-- A keep-region slot takes back what a change took from it, where the change still stands; a region that has meanwhile lost its slot to another one
takes the lowest that is free (R303). -/
def undoSlot (ks : Vector (Option (Nat × Nat)) 12) (n : Nat) (old new : Option (Nat × Nat)) : Vector (Option (Nat × Nat)) 12 :=
  if ks.toList.getD n none = new then ks.set (n % 12) old (Nat.mod_lt _ (by decide))
  else match old with
    | none => ks
    | some r => match (List.finRange 12).find? fun i => ks[i].isNone with
      | some i => ks.set i (some r)
      | none => ks
/-- Restores the keep entries of an activation, the latest first, each as a store of the core (R169, R303). -/
def State.restoreKeeps (s : State) (lc : Nat) : List KeepEntry → State
  | [] => s
  | e :: t =>
    let s1 := match e.slot with
      | some (n, old, new) => s.updLt e.lt fun x => { x with keeps := undoSlot x.keeps n old new }
      | none => (s.scratchStore (s.homeCore lc) e.lt e.off e.old).2
    s1.restoreKeeps lc t
/-- Placement of a chain's stage, its logical tile's key, its logical core's key, and its frame (R341, R343). -/
def Chain.at (ch : Chain) (i : Nat) : Nat × Nat := ch.places.toList.getD i (0, 0)
def Chain.lt (ch : Chain) (kid i : Nat) : Nat := ltKey kid (ch.at i).1
def Chain.lc (ch : Chain) (kid i : Nat) : Nat := lcKey kid (ch.at i).1 (ch.at i).2
def Chain.frame (ch : Chain) (i : Nat) : Nat := ch.ca + 512 + 1024 * i
/-- The send count of a stage: a context's that runs it, or its frame's (R343, R344). -/
def State.stageSeqOf (s : State) (kid : Nat) (ch : Chain) (i : Nat) : Nat :=
  match s.ctxs.find? fun e => decide (e.2.kid = kid) && decide (e.2.stage = some (ch.num, i)) with
  | some e => e.2.stageSeq
  | none => leNat (s.scratchBytes (ch.lt kid i) (ch.frame i + 288) 8)
/-- A rollback, whose state before was `s0`, lowers no stage's send count (R288): the module gives a frame that the rollback has restored the count that its
stage had come to. -/
def State.keepSeqs (s s0 : State) (kid lc : Nat) : State :=
  (s.kernelD kid).chains.foldl (fun s ch => (List.range ch.nst).foldl (fun s i =>
    let n := s0.stageSeqOf kid ch i
    if leNat (s.scratchBytes (ch.lt kid i) (ch.frame i + 288) 8) < n then (s.scratchStore (s.homeCore lc) (ch.lt kid i) (ch.frame i + 288) (leBytes 8 n)).2 else s) s) s
/-- A coil strand that was parked on its STALL is gone: the chain is no longer stalled (R347). -/
def State.unstall (s : State) (c : Ctx) : State :=
  match c.stage with
  | none => s
  | some (n, _) => if c.coil then s.updK c.kid fun k => { k with chains := k.chains.map fun ch => if ch.num = n then { ch with stalled := false } else ch } else s

/-- Sends the antimessage of an output-log entry (R303, R261). -/
def State.sendAnti (s : State) (lc : Nat) (o : OutEntry) : State :=
  let carry := match o.rto with
    | some r => Carry.antiReturn o.key r
    | none => Carry.anti o.key
  s.sendMsg (lcKey (lcKid lc) o.key.slt o.key.score) 1 (bits o.hdr 58 6) (bits o.hdr 48 6) (bits o.hdr 36 12) (bits o.hdr 33 3) (bits o.hdr 29 4) (w64 o.key.vrt)
    (srcWord o.key.seq s.device.toNat (lcKid lc) (bits o.hdr 29 4) o.key.sstrand o.key.score o.key.slt) 0#64 0#64 0#64 0#64 carry o.key

/-- Sends the antimessages of a list of entries. -/
def State.sendAntis (s : State) (lc : Nat) : List OutEntry → State
  | [] => s
  | o :: t => (s.sendAnti lc o).sendAntis lc t

/-- The effective priority that an activation was dispatched with (R244), and what is kept of it once it is HANDLED. -/
def Ctx.eff (c : Ctx) : Nat := (c.prio.toNat - c.item.promo) % 4
def Ctx.handledNow (c : Ctx) : Handled := { item := c.item, workId := c.workId, strand := c.strand, entryAt := c.entryAt, eff := c.eff }
/-- The run time of an activation that a ring task started counts when it ends, be it undone (R448). -/
def State.countRun (s : State) (c : Ctx) : State :=
  if c.item.chan = 15 then s.count (s.tileOf c) c.kid 17 (s.tbase - c.startedAt) else s
/-- The ROLLBACK record of an undone activation (R445). -/
def State.traceUndone (s : State) (lc : Nat) (h : Option Handled) : State :=
  match h with
  | some h =>
    let t := (s.ltile (lc / 8)).tile
    s.traceRecord t (lcKid lc) 5 h.strand.toNat (lcCore lc) h.item.chan h.workId (w64 (lcLt lc + lcCore lc * 2 ^ 12 + h.eff * 2 ^ 16)) h.item.src h.entryAt h.item.vrt 0#64 0#64
  | none => s

/-- Steps 1 to 3 of R303 for one activation of a logical core: a running one is stopped and its strand freed, its copies
cancelled, its MU records dropped, its keep entries restored, its antimessages sent, its commit entries discarded. The chains that it
made are gone, those that it ended are back, and the returns that it consumed are no longer any activation's (R261, R352). -/
def State.undoOne (s : State) (lc : Nat) (k : Key) : State :=
  let runs := (s.ctxs.filter fun e => e.2.alck = lc ∧ e.2.item.key = k).map (·.2)
  let c := s.lcore lc
  let what := match runs with
    | x :: _ => some x.handledNow
    | [] => c.handled.find? fun h => h.item.key = k
  let s1 := runs.foldl (fun s x => ((s.countRun x).unstall x).dropCtx x.id) s
  let s2 := (s1.cancelCopies (lcKid lc) k).releaseUnit lc k
  let s3 := (s2.restoreKeeps lc (c.keepLog.filter fun e => e.by_ = k).reverse).keepSeqs s (lcKid lc) lc
  let s4 := s3.updLc lc fun c =>
    { c with keepLog := c.keepLog.filter fun e => e.by_ ≠ k, commitQ := c.commitQ.filter fun e => e.by_ ≠ k,
             blockKeys := c.blockKeys.filter fun e => e.2 ≠ k, handled := c.handled.filter fun h => h.item.key ≠ k,
             outLog := c.outLog.filter fun e => e.by_ ≠ k, returns := c.returns.filter fun e => e.2 ≠ k,
             lost := c.lost ++ (c.returns.filter fun e => e.2 = k).map (·.1) }
  let s5 := (s4.updK (lcKid lc) fun x => { x with chains := (x.chains.filter fun ch => ch.madeBy ≠ some k).map fun ch => if ch.overBy = some k then { ch with overBy := none } else ch }).sendAntis lc (c.outLog.filter fun e => e.by_ = k)
  (s5.count (s.ltile (lc / 8)).tile (lcKid lc) 6 1).traceUndone lc what

/-- A message returns to QUEUED with its key unchanged (R303): to its channel, or to the ready ring, where it waits anew (R448). DESIGN CHOICE (log entry 118): it
needs no room in its ring or queue, and stands at the oldest end of the ring, of several undone tasks the one of the greatest key foremost. -/
def State.requeue (s : State) (lc : Nat) (m0 : Item) : State :=
  let m : Item := { m0 with arrived := s.tbase, agedAt := s.tbase, promo := m0.agedNs / 1000000 }
  s.updLc lc fun c => if m.chan = 15 then { c with ring := m :: c.ring, depthFirst := c.depthFirst || decide (768 < c.ring.length + 1) } else { c with items := m :: c.items }

/-- Inserts an activation's item in descending order of keys. -/
def insertDesc (m : Item) : List Item → List Item
  | [] => [m]
  | x :: t => if x.key.lt m.key then m :: x :: t else x :: insertDesc m t

/-- The activations of a logical core that are running or handled and not yet fossilised, in descending key order. -/
def State.activations (s : State) (lc : Nat) : List Item :=
  let run := (s.ctxs.filter fun e => e.2.alck = lc ∧ e.2.irrevocable = false).map fun e => e.2.item
  (run ++ (s.lcore lc).handled.map (·.item)).foldl (fun l m => insertDesc m l) []

/-- Undoes a list of activations in the order given and returns their messages to QUEUED, but for one that is annihilated
with its twin (R303, R304). -/
def State.undoAll (s : State) (lc : Nat) (drop : Option Key) : List Item → State
  | [] => s
  | m :: t =>
    let s1 := s.undoOne lc m.key
    let s2 := s1.undoAll lc drop t
    if drop = some m.key then s2 else s2.requeue lc m

/-- A rollback of a logical core: every activation with a key above `k` is undone, except the accessing one (R294, R303). -/
def State.rollback (s : State) (lc : Nat) (k : Key) (but : Option Key) : State :=
  s.undoAll lc none ((s.activations lc).filter fun m => k.lt m.key && decide (some m.key ≠ but))

/-- The rollback that an antimessage's running or handled twin causes: the twin is removed, not requeued (R304). -/
def State.rollbackTwin (s : State) (lc : Nat) (k : Key) : State :=
  s.undoAll lc (some k) ((s.activations lc).filter fun m => k.lt m.key || decide (m.key = k))

/-- The rollback that undoes the activation of key `k` itself and everything above it, requeuing all (R261). -/
def State.rollbackFrom (s : State) (lc : Nat) (k : Key) : State :=
  s.undoAll lc none ((s.activations lc).filter fun m => k.lt m.key || decide (m.key = k))

/-! ## Room in the logs (R296) -/

/-- How a new log entry fares: written, over the activation's own limit, or waiting for the next delivery. -/
inductive Room where
  | ok | overflow | wait
  deriving DecidableEq, Repr

/-- Bytes of the KEEPLOG area in use, by all and by one activation (R293, R297). -/
def LCore.logBytes (c : LCore) : Nat := 128 * (c.keepLog.filter fun e => e.slot.isNone).length + 32 * c.outLog.length
def LCore.ownBytes (c : LCore) (k : Key) : Nat :=
  128 * (c.keepLog.filter fun e => decide (e.by_ = k) && e.slot.isNone).length + 32 * (c.outLog.filter fun e => e.by_ = k).length

/-- The handled activation of greatest key above `k`, if any (R296). -/
def LCore.lastHandled (c : LCore) (k : Key) : Option Key :=
  (c.handled.filter fun h => k.lt h.item.key).foldl (fun m h => match m with | none => some h.item.key | some x => if x.lt h.item.key then some h.item.key else m) none

/-- Frees the log entries of released activations. -/
def LCore.free (c : LCore) (gone : Key → Bool) : LCore :=
  { c with keepLog := c.keepLog.filter fun e => !gone e.by_, outLog := c.outLog.filter fun e => !gone e.by_,
           blockKeys := c.blockKeys.filter fun e => !gone e.2, handled := c.handled.filter fun h => !gone h.item.key,
           returns := c.returns.filter fun e => !gone e.2, lost := c.lost.filter fun k => !gone k }
/-- Frees the log entries below the delivered minimum (R296 step 1). A minimum "none" lies above what its delivery found handled, which is free since then. -/
def LCore.fossil (c : LCore) : LCore := c.free c.kmin.above
/-- The activations whose keys count as below a minimum that is being delivered: with "none", those that are handled (R307; log entry 74). -/
def LCore.below (c : LCore) (m : KMin) (k : Key) : Bool :=
  match m with
  | .noKey => c.handled.any fun h => h.item.key = k
  | m => m.above k
/-- What a delivery of minimum `m` frees: with "none" also what is kept of lost returns, since no antimessage is left to come for them. -/
def LCore.deliverFree (c : LCore) (m : KMin) : LCore :=
  let c1 := c.free (c.below m)
  if m = .noKey then { c1 with lost := [] } else c1

/-- Step 2 of R296: while the log lacks room, rolls back to the handled activation of greatest key, with what runs above it (R303, R311). -/
def State.makeRoom (s : State) (lc : Nat) (k : Key) (lacks : LCore → Bool) : Nat → State
  | 0 => s
  | n + 1 =>
    if lacks (s.lcore lc) then
      match (s.lcore lc).lastHandled k with
      | none => s
      | some x => (s.rollbackFrom lc x).makeRoom lc k lacks n
    else s

/-- Room of `need` bytes in the KEEPLOG area for an entry of activation `k` (R296). -/
def State.logRoom (s : State) (lc : Nat) (k : Key) (need : Nat) : Room × State :=
  let cap := (s.kernelD (lcKid lc)).keeplog
  if cap < (s.lcore lc).ownBytes k + need then (.overflow, s)
  else
    let s1 := s.updLc lc LCore.fossil
    let s2 := s1.makeRoom lc k (fun c => decide (cap < c.logBytes + need)) (s1.lcore lc).handled.length
    if cap < (s2.lcore lc).logBytes + need then (.wait, s2) else (.ok, s2)

/-- Room for `n` entries of activation `k` in the commit queue (R296, R298). -/
def State.commitRoom (s : State) (lc : Nat) (k : Key) (n : Nat) : Room × State :=
  let own (c : LCore) := (c.commitQ.filter fun e => e.by_ = k).length
  if Config.commitEntries < own (s.lcore lc) + n then (.overflow, s)
  else
    let s1 := s.updLc lc LCore.fossil
    let s2 := s1.makeRoom lc k (fun c => decide (Config.commitEntries < c.commitQ.length + n)) (s1.lcore lc).handled.length
    if Config.commitEntries < (s2.lcore lc).commitQ.length + n then (.wait, s2) else (.ok, s2)

/-- Places an entry in the commit queue (R298). -/
def State.addCommit (s : State) (lc : Nat) (k : Key) (op : CommitOp) : State :=
  s.updLc lc fun c => { c with commitQ := c.commitQ ++ [{ by_ := k, seqno := c.commitSeq, op := op }], commitSeq := c.commitSeq + 1 }

/-! ## Keep regions (R293, R294) -/

/-- The 64-byte block of a scratch offset lies in a keep region of the logical tile. -/
def LTile.keeps? (x : LTile) (off : Nat) : Bool :=
  x.keeps.toList.any fun r => match r with
    | some (o, n) => decide (o ≤ off) && decide (off < o + n)
    | none => false

/-- The number of a 64-byte block of a logical tile's scratchpad. -/
def blockNo (lt block : Nat) : Nat := lt * 16384 + block / 64
/-- Notes that activation `k` touches a block, after rolling back every activation above it that did so before it in
time (R294). -/
def State.touchBlock (s : State) (lc : Nat) (k : Key) (b : Nat) : State :=
  let later := (s.lcore lc).blockKeys.any fun e => decide (e.1 = b) && k.lt e.2
  let s1 := if later then s.rollback lc k (some k) else s
  s1.updLc lc fun c => { c with blockKeys := if c.blockKeys.contains (b, k) then c.blockKeys else (b, k) :: c.blockKeys }

/-- Logs a block of a keep region before the first write of activation `k` to it (R293). -/
def State.logKeep (s : State) (lc lt : Nat) (k : Key) (block : Nat) : Room × State :=
  if (s.lcore lc).keepLog.any (fun e => decide (e.by_ = k) && decide (e.lt = lt) && decide (e.off = block) && e.slot.isNone) then (.ok, s)
  else
    match s.logRoom lc k 128 with
    | (.ok, s1) => (.ok, s1.updLc lc fun c =>
        { c with keepLog := c.keepLog ++ [{ by_ := k, lt := lt, off := block, old := s1.scratchBytes lt block 64, slot := none }] })
    | r => r

/-- Prepares an access of activation `k`, whose logs are those of logical core `lc`, to a range inside one 64-byte block of the scratchpad of logical tile
`lt`: R294's rollback and, for a write that is logged, R293's keep entry. -/
def State.keepAccess (s : State) (lc lt : Nat) (k : Key) (off : Nat) (logged : Bool) : Room × State :=
  if s.isWarp (lcKid lc) && (s.ltile lt).keeps? off then
    let block := off / 64 * 64
    let s1 := s.touchBlock lc k (blockNo lt block)
    if logged then s1.logKeep lc lt k block else (.ok, s1)
  else (.ok, s)

end Sys2Proof.Machine
end

