-- ==== Sys2Proof/Machine/Access.lean ====
section
/-! DEFINITION. Addresses and accesses of a strand: page tables and translation (R363-R366), the page-request queue (R369, R370), shipping (R367, R368), and loads, stores and fetches with their traps and parks (R105, R124-R126, R298, R372). -/

namespace Sys2Proof.Machine

open Sys2Proof

/-! ## Page tables (R363-R365) -/

/-- How a walk ends. -/
inductive Walk where
  | unmapped (level : Nat)
  | malformed
  | leaf (t : Tlb) (level : Nat) (pteAt : Nat) (pin : Bool)
  deriving DecidableEq, Repr

/-- VA bits below a level, and the entries of its table (R363). -/
def levelShift (l : Nat) : Nat := match l with | 0 => 16 | 1 => 21 | 2 => 30 | 3 => 39 | _ => 48
def levelEntries (l : Nat) : Nat := match l with | 0 => 32 | 4 => 256 | _ => 512

/-- Where the entry of a virtual address lies in a table of a level. -/
def pteAddr (base l va : Nat) : Nat := base + 8 * (va / 2 ^ levelShift l % levelEntries l)

/-- An entry read at a level: an end of the walk, or the next table (R364). -/
def readPte (part va l at_ : Nat) (e : Word) : Walk ⊕ Nat :=
  let addr := bits e 8 44 * 256
  if !e.getLsbD 7 then .inl (.unmapped l)
  else if bits e 52 12 ≠ 0 then .inl .malformed
  else if e.getLsbD 6 then
    let kind := bits e 4 2
    let size := 2 ^ levelShift l
    if 3 ≤ l ∨ kind = 1 ∨ kind = 3 ∨ addr % size ≠ 0 ∨ (homeOf addr).isNone ∨ (homeOf (addr + size - 1)).isNone then .inl .malformed
    else .inl (.leaf { part := part, vpn := va / 65536, frame := addr + va % size / 65536 * 65536, w := e.getLsbD 1, x := e.getLsbD 0,
                       dt := e.getLsbD 2, kind := kind } l at_ (e.getLsbD 3))
  else if l = 0 then .inl .malformed
  else if addr % (8 * levelEntries (l - 1)) ≠ 0 then .inl .malformed
  else .inr addr

/-- The walk of a partition's tables from a level downward, over the coherent memory. -/
def walkFrom (m : Mem) (part va : Nat) : Nat → Nat → Walk
  | 0, base => match readPte part va 0 (pteAddr base 0 va) (w64 (memLoad m (pteAddr base 0 va) 8)) with
    | .inl r => r
    | .inr _ => .malformed
  | l + 1, base => match readPte part va (l + 1) (pteAddr base (l + 1) va) (w64 (memLoad m (pteAddr base (l + 1) va) 8)) with
    | .inl r => r
    | .inr b => walkFrom m part va l b

/-- The lines of the entries that a walk reads. -/
def walkLines (m : Mem) (part va : Nat) : Nat → Nat → List Nat
  | 0, base => [lineOf (pteAddr base 0 va)]
  | l + 1, base => lineOf (pteAddr base (l + 1) va) :: match readPte part va (l + 1) 0 (w64 (memLoad m (pteAddr base (l + 1) va) 8)) with
    | .inl _ => []
    | .inr b => walkLines m part va l b

/-- The walk of a virtual address in a partition (R363). -/
def State.walk (s : State) (part va : Nat) : Walk := walkFrom s.glob part va 4 (s.part part).root

/-- What translating an access gives (R365). -/
inductive Xl where
  | ok (pa : Nat) (dt : Bool)
  | miss (level : Nat)
  | malformed
  | noRight
  | walker          -- the tile's walker serves another partition (R449)
  deriving DecidableEq, Repr

/-- The kinds of access that a page request names (R369), and 4 for a translation that needs no right beyond V. -/
def aLoad : Nat := 0
def aStore : Nat := 1
def aFetch : Nat := 2
def aCopy : Nat := 3

/-- The outcome of a translation held as `t` for an access (R365). -/
def tlbUse (t : Tlb) (va need : Nat) : Xl :=
  if (need = aStore && !t.w) || (need = aFetch && !t.x) then .noRight else .ok (t.frame + va % 65536) t.dt

/-- Where an access may be made: scratchpad of a logical tile, or physical memory. -/
inductive Place where
  | scratch (lt off : Nat)
  | phys (pa : Nat) (dt : Bool)     -- dt: the page is dirty-tracked (R373)
  deriving DecidableEq, Repr

/-- The TLBs that an access looks up, the nearest first, with their entries: the ITLB or the DTLB of a module core `own`, none for an engine, and the second
level of translation unit `u` (a tile, or 1,024 + j for the cluster of controller j, whose TLB is PRESUMED as a tile's; log entry 72). -/
def tlbsOf (u : Nat) (own : Option Nat) (need : Nat) : List (Nat × Nat) :=
  match own with
  | some cn => [if need = aFetch then (2048 + 2 * cn, Config.itlbEntries) else (2049 + 2 * cn, Config.dtlbEntries), (u, Config.tileTlbEntries)]
  | none => [(u, Config.tileTlbEntries)]
/-- The translation of a page that a TLB holds, and the TLB without it. -/
def tlbFind (part va : Nat) (ts : List Tlb) : Option Tlb := ts.find? fun t => decide (t.part = part) && decide (t.vpn = va / 65536)
def tlbDrop (part vpn : Nat) (ts : List Tlb) : List Tlb := ts.filter fun t => !(decide (t.part = part) && decide (t.vpn = vpn))
/-- TLBs take a translation as their latest used; a full one gives up its oldest (PRESUMED, log entry 72). -/
def State.tlbFill (s : State) (t : Tlb) (ks : List (Nat × Nat)) : State :=
  ks.foldl (fun s k => { s with tlbs := mset k.1 ((t :: tlbDrop t.part t.vpn (mgetD [] k.1 s.tlbs)).take k.2) s.tlbs }) s
/-- The first translation that TLBs give. One that a changed page table no longer gives may have left its TLB (R366): whether it has, is a free choice
(notes/assumptions/3.md). -/
def State.tlbLook (s : State) (part va : Nat) (w : Walk) : List (Nat × Nat) → Option Tlb × State
  | [] => (none, s)
  | k :: ks =>
    match tlbFind part va (mgetD [] k.1 s.tlbs) with
    | none => s.tlbLook part va w ks
    | some t =>
      let good := match w with | .leaf x _ _ _ => decide (x = t) | _ => false
      if good then (some t, s)
      else if s.choose.1 then (some t, s.choose.2)
      else State.tlbLook { s.choose.2 with tlbs := mset k.1 (tlbDrop part (va / 65536) (mgetD [] k.1 s.tlbs)) s.tlbs } part va w ks
/-- Translates for a core or engine of translation unit `u`, stamping a walk's loads with the clock of module core `cn` (R365). A tile that another partition has under a
profiling lease makes no walk (R449). -/
def State.xlate (s : State) (part u : Nat) (own : Bool) (cn va need : Nat) : Xl × State :=
  let ks := tlbsOf u (if own then some cn else none) need
  let w := s.walk part va
  match s.tlbLook part va w ks with
  | (some t, s1) => (tlbUse t va need, s1.tlbFill t ks)
  | (none, s1) =>
    if decide (u < 1024) && s1.leasedOut u part then (.walker, s1)
    else
    let s2 := (walkLines s1.glob part va 4 (s1.part part).root).foldl (fun s l => (s.stampLoad cn l).2) s1
    match w with
    | .unmapped l => (.miss l, s2)
    | .malformed => (.malformed, s2)
    | .leaf t _ _ _ => (tlbUse t va need, s2.tlbFill t ks)

/-- The translation unit of a context. -/
def State.xlUnit (s : State) (c : Ctx) : Nat :=
  match c.shipped with
  | some n => 1024 + nearCtrl n
  | none => s.tileOf c

/-- A physical address of a page that moves in the partition (R372). -/
def State.migrating (s : State) (part pa : Nat) : Bool :=
  s.moves.any fun m => decide (m.part = part) && decide (m.src ≤ pa) && decide (pa < m.src + m.size)

/-! ## Page requests (R369, R370) -/

/-- The first free record that a partition may take: its own eight, then the shared ones. -/
def freeRecord (d : Die) (part : Nat) : Option Nat :=
  let used (n : Nat) : Bool := d.pages.any fun r => r.slot = n
  match (List.range 8).find? fun i => !used (8 * part + i) with
  | some i => some (8 * part + i)
  | none => ((List.range 128).find? fun i => !used (128 + i)).map (128 + ·)

/-- An access joins its page's record, takes a new one, or waits in fault-retry without one (R369, R370). -/
def Die.request (d : Die) (part kid va kind level : Nat) : Die :=
  let page := w64 (va / 65536 * 65536)
  if d.pages.any (fun r => decide (r.part = part) && decide (r.va = page)) then
    { d with pages := d.pages.map fun r => if r.part = part ∧ r.va = page then
        { r with waiters := r.waiters + 1, kind := if kind = aStore ∧ r.kind = aLoad then aStore else r.kind } else r }
  else
    match freeRecord d part with
    | some n =>
      let r : PageRec := { slot := n, reserved := decide (n < 128), va := page, part := part, kid := kid, kind := kind, level := level, waiters := 1, gen := d.pageGen }
      { d with pages := d.pages ++ [r] }
    | none => d

/-- An access gives up its place at a record (R427): it walks again when it next runs. -/
def Die.leave (d : Die) (part va : Nat) : Die :=
  { d with pages := d.pages.map fun r => if r.part = part ∧ r.va = w64 (va / 65536 * 65536) then { r with waiters := r.waiters - 1 } else r }
/-- The die that serves a context's page requests. -/
def State.dieOf (s : State) (c : Ctx) : Nat := dieOfCore (s.coreNo c)

/-- The strand parks with its instruction; a fetch holds none (R102). -/
def State.parkAny (s : State) (id : Nat) (i : Option Instr) (w : Wait) : State :=
  match i with
  | some i => s.park id i w
  | none => s.upd id fun c => { c with run := .parked, wait := w, parkedAt := s.tbase, held := none, stepping := false }
/-- A strand's access to an unmapped page: a record, and the strand parks (R369); a record that it takes counts (R446). -/
def State.pageMiss (s : State) (id : Nat) (i : Option Instr) (va kind level : Nat) : State :=
  let c := s.ctxD id
  let d := s.dieOf c
  let part := s.partOf c.kid
  let took := decide ((s.die d).pages.length < ((s.die d).request part c.kid va kind level).pages.length)
  let s1 := s.updDie d fun x => x.request part c.kid va kind level
  let s2 := if took then s1.count (s.tileOf c) c.kid 13 1 else s1
  s2.parkAny id i (.page (w64 va) kind)

/-! ## Shipping (R367, R368) -/

/-- The strand leaves for the cluster of controller `j` and waits there in arrival order; its instruction issues again
there. -/
def State.shipTo (s : State) (id : Nat) (i : Option Instr) (j : Nat) : State :=
  let s1 := (s.leaveNear id).upd id fun c =>
    { c with run := .ready, wait := .none, shipWait := true, touched := false,
             held := i.map fun i => { instr := i, sample := c.sample, stage := c.stageOf, mark := c.markOf, vals := c.valsOf } }
  s1.updCtrl j fun x => { x with waiting := x.waiting ++ [id] }

/-- The strand ships back to its home core, and the instruction then issues there (R368). -/
def State.goHome (s : State) (id : Nat) (i : Instr) : State :=
  (s.shipHome id).upd id fun c =>
    { c with run := .ready, wait := .none, touched := false,
             held := some { instr := i, sample := c.sample, stage := c.stageOf, mark := c.markOf, vals := c.valsOf } }

/-- An instruction that executes at the home core: on a near-memory core it ships the strand home first (R101, R368). -/
def State.atHome (s : State) (id : Nat) (i : Instr) (k : State) : State :=
  if (s.ctxD id).shipped.isSome then s.goHome id i else k

/-- Where an access to a physical page must be made from: none where the strand stands, or a controller (R367, R368). -/
def shipTarget (c : Ctx) (pa : Nat) : Option Nat :=
  match homeOf pa with
  | none => none
  | some j =>
    if !farPa pa then none
    else match c.shipped with
      | none => some j
      | some n => if nearCtrl n = j then none else some j

/-! ## A strand's global accesses -/

/-- Translates a strand's access and goes on where it can be made: page faults and missing rights trap, an unmapped page
parks, a far page ships, and a write to a page that moves parks (R126 step 2, R365, R367, R372). `fin` takes the states
in which the instruction has ended, and `away` a strand that must ship first, with its place there and the shipping. -/
def State.reachTo {α : Type} (s : State) (fin : State → α) (away : State → Option (Nat × Bool) → (State → State) → α) (id : Nat) (i : Option Instr) (ea need : Nat) (k : State → Nat → Bool → α) : α :=
  let c := s.ctxD id
  let part := s.partOf c.kid
  match s.xlate part (s.xlUnit c) true (s.coreNo c) ea need with
  | (.malformed, s1) => fin (s1.trap id cPageFault (w64 ea))
  | (.noRight, s1) => fin (s1.trap id cPagePerm (w64 ea))
  | (.miss l, s1) => fin (s1.pageMiss id i ea need l)
  | (.walker, s1) => fin (s1.parkAny id i .walker)
  | (.ok pa dt, s1) =>
    match shipTarget c pa with
    | some j => away s1 (some (pa, dt)) fun x => x.shipTo id i j
    | none =>
      if need = aStore && s1.migrating part pa then
        fin (match i with
        | some i => s1.park id i (.migrating (w64 ea))
        | none => s1)
      else
        let here := match c.shipped with
          | some n => decide (homeOf pa = some (nearCtrl n))
          | none => false
        k (if here then s1.upd id fun c => { c with touched := true } else s1) pa dt
/-- A range lies wholly inside the kernel's frozen ranges (R126, R271). -/
def Kernel.frozen (x : Kernel) (lo n : Nat) : Bool := x.frozenRanges.any fun r => decide (r.1 ≤ lo) && decide (lo + n ≤ r.2)
/-- A range meets a frozen range (R298). -/
def Kernel.meetsFrozen (x : Kernel) (lo n : Nat) : Bool := x.frozenRanges.any fun r => decide (lo < r.2) && decide (r.1 < lo + n)

/-- A strand's access carries its stamp (R167), and what engines do for the strand from now on follows what it has acquired (R179). -/
def State.stamped (s : State) (id : Nat) (ts : BitVec 48) : State := s.upd id fun c => { c with stamp := ts }
/-- A load of `n` bytes of a line, at their place `off` in its version `cw`, is an acquire where it returns a signal write (R179). -/
def State.acquired (s : State) (id l off n : Nat) (cw : BitVec 48) : State :=
  match s.signalsIn l off n cw with
  | none => s
  | some t => s.upd id fun c => { c with acq := serialMax c.acq t }
/-- Counts the L2 and RDC misses of a strand's access (R446). -/
def State.countMisses (s : State) (id n : Nat) : State :=
  if n = 0 then s else let c := s.ctxD id
    s.count (s.tileOf c) c.kid 12 n
/-- The read of a global word that has been reached: a leased copy or the home (R165). -/
def State.readPa (s : State) (id pa n : Nat) : Nat × State :=
  let r := s.loadLine (s.coreNo (s.ctxD id)) pa n
  (leNat r.1.bytes, ((r.2.countMisses id r.1.misses).stamped id r.1.ts).acquired id (lineOf pa) (pa % 128) n r.1.wts)

/-- An access that must be made elsewhere ships at once, with nothing of it done. -/
def shipsAt (s : State) (_ : Option (Nat × Bool)) (go : State → State) : State := go s
/-- A strand that an access must ship does so with what it has come to (R368). -/
abbrev Away : Type := State → Option (Nat × Bool) → (State → State) → State

/-- A scratch access of a strand: at the home core, below S, then R294's and R293's work in a WARP kernel. -/
def State.scratchAt (s : State) (away : Away) (id : Nat) (i : Instr) (ea n : Nat) (write : Bool) (k : State → State) : State :=
  let c := s.ctxD id
  if c.shipped.isSome then away s none fun x => x.goHome id i
  else if s.sOf c < ea + n then s.trap id cPagePerm (w64 ea)
  else
    match s.keepAccess c.alck c.ltk c.item.key ea (write && s.spec c) with
    | (.ok, s1) => k s1
    | (.overflow, s1) => s1.trap id cCommitOverflow (w64 (ea / 64 * 64))
    | (.wait, s1) => s1.park id i .logRoom

/-- What stands before a CORE load of `n` bytes at an aligned effective address, none of which is made; `k` gets where it is made (R105, R126). -/
def State.loadAt (s : State) (away : Away) (id : Nat) (i : Instr) (ea n : Nat) (k : State → Place → State) : State :=
  let c := s.ctxD id
  if ea < 2 ^ 20 then
    s.scratchAt away id i ea n false fun s1 => if s1.ev.flag then s1.trap id cMemError (w64 ea) else k s1 (.scratch c.ltk ea)
  else if 2 ^ 56 ≤ ea then s.trap id cPageFault (w64 ea)
  else if s.spec c && !(s.kernelD c.kid).frozen ea n then s.trap id cFrozenLoad (w64 ea)
  else s.reachTo (fun x => x) away id (some i) ea aLoad fun s1 pa dt =>
    if s1.ev.flag then s1.trap id cMemError (w64 ea) else k s1 (.phys pa dt)
/-- The load is made where it can be. -/
def State.readAt (s : State) (id : Nat) (p : Place) (n : Nat) : Nat × State :=
  match p with
  | .phys pa _ => s.readPa id pa n
  | .scratch lt off =>
    let r := s.scratchLoad (s.coreNo (s.ctxD id)) lt off n
    (leNat r.1, (r.2.2.stamped id r.2.1).acquired id (scratchLine lt off) (off % 128) n (s.wts (scratchLine lt off)))
/-- A CORE load of `n` bytes at an aligned effective address (R105, R126). -/
def State.load (s : State) (id : Nat) (i : Instr) (ea n : Nat) (k : State → Nat → State) : State :=
  s.loadAt shipsAt id i ea n fun s1 p => k (s1.readAt id p n).2 (s1.readAt id p n).1

/-- A place in the commit queue for the issuing activation (R296, R298). -/
def State.commitAt (s : State) (id : Nat) (i : Instr) (n : Nat) (info : Word) (k : State → State) : State :=
  let c := s.ctxD id
  match s.commitRoom c.alck c.item.key n with
  | (.ok, s1) => k s1
  | (.overflow, s1) => s1.trap id cCommitOverflow info
  | (.wait, s1) => s1.park id i .logRoom

/-- What stands before a CORE store of `n` bytes, with room for `m` commit entries, and none of its effect (R105, R126, R298). -/
def State.storeAt (s : State) (away : Away) (id : Nat) (i : Instr) (ea n m : Nat) (k : State → Place → State) : State :=
  let c := s.ctxD id
  if ea < 2 ^ 20 then s.scratchAt away id i ea n true fun s1 => k s1 (.scratch c.ltk ea)
  else if 2 ^ 56 ≤ ea then s.trap id cPageFault (w64 ea)
  else s.reachTo (fun x => x) away id (some i) ea aStore fun s1 pa dt =>
    if s1.inView pa then s1.trap id cWindowWrite (w64 ea)
    else if s1.isWarp c.kid && (s1.kernelD c.kid).meetsFrozen ea n then s1.trap id cPagePerm (w64 ea)
    else if s1.spec c then s1.commitAt id i m (w64 ea) fun s2 => k s2 (.phys pa dt)
    else k s1 (.phys pa dt)
/-- The store is made where it can be, or takes its place in the commit queue. -/
def State.writeAt (s : State) (id : Nat) (p : Place) (ea : Nat) (bs : List Byte) (ef : Bool := false) : State :=
  let c := s.ctxD id
  match p with
  | .scratch lt off =>
    let r := s.scratchStore (s.coreNo c) lt off bs
    r.2.stamped id r.1
  | .phys pa dt =>
    if s.spec c then s.addCommit c.alck c.item.key (.store pa bs (w64 ea) dt ef)
    else
      let r := s.storeLine (s.coreNo c) pa bs dt
      (r.2.countMisses id (bit (s.l2Misses (lineOf pa)))).stamped id r.1
/-- A CORE store of bytes at an aligned effective address (R105, R126, R298). -/
def State.store (s : State) (id : Nat) (i : Instr) (ea : Nat) (bs : List Byte) (k : State → State) : State :=
  s.storeAt shipsAt id i ea bs.length 1 fun s1 p => k (s1.writeAt id p ea bs)

/-- Stores of an instruction, in order, after the stores `before` them: each can be made before any of them is (R46, R153, R159). -/
def State.storesAfter (s : State) (id : Nat) (i : Instr) (before : State → State) : List (Nat × List Byte) → (State → State) → State
  | [], k => k (before s)
  | (a, b) :: t, k => s.storeAt shipsAt id i a b.length 1 fun s1 p => s1.storesAfter id i (fun s2 => (before s2).writeAt id p a b) t k
def State.storeAll (s : State) (id : Nat) (i : Instr) (l : List (Nat × List Byte)) (k : State → State) : State := s.storesAfter id i (fun x => x) l k

/-- An atomic at the place where it is made (R183, R184). -/
def State.atomicMake (s : State) (id : Nat) (p : Place) (n : Nat) (f : Nat → Option Nat) (k : State → Nat → State) : State :=
  let cn := s.coreNo (s.ctxD id)
  match p with
  | .scratch lt off =>
    let l := scratchLine lt off
    let old := leNat (s.scratchBytes lt off n)
    let r := s.stampAtomic cn l (f old).isSome
    let s1 := (r.2.stamped id r.1).acquired id l (off % 128) n (s.wts l)
    match f old with
    | some v => k (State.scratchPut { s1 with past := (s.keepPast l r.1 (s.scratchBytes lt (off / 128 * 128) 128)).past } lt off (leBytes n v)) old
    | none => k s1 old
  | .phys pa dt =>
    let l := lineOf pa
    let old := leNat (s.paBytes pa n)
    let r := (s.beforeBit cn pa (dt && (f old).isSome)).stampAtomic cn l (f old).isSome
    let s1 := ((r.2.countMisses id (bit (s.l2Misses l))).stamped id r.1).acquired id l (pa % 128) n (s.wts l)
    match f old with
    | some v => k (State.writePa ({ s1 with past := (s.keepPast l r.1 (s.paBytes (128 * l) 128)).past }.bitAt pa dt r.1) pa (leBytes n v) dt) old
    | none => k s1 old

/-- An atomic read and write of `n` bytes (R183-R185): `f` gives the new value, or none for a CAS that fails; `pre` is what must
stand before the access is performed, given the old value. On a block of a keep region the earlier rollback comes first; a CAS that then fails meets
what one that writes would meet, and logs nothing (R184, R185, R293). -/
def State.atomicPre (s : State) (id : Nat) (i : Instr) (ea n : Nat) (f : Nat → Option Nat)
    (pre : State → Nat → (State → State) → State) (k : State → Nat → State) : State :=
  let c := s.ctxD id
  if ea < 2 ^ 20 then
    if c.shipped.isSome then s.goHome id i
    else if s.sOf c < ea + 1 then s.trap id cPagePerm (w64 ea)
    else if ea % n ≠ 0 then s.trap id cMisalign (w64 ea)
    else
      s.scratchAt shipsAt id i ea n false fun s1 =>
        let old := leNat (s1.scratchBytes c.ltk ea n)
        s1.scratchAt shipsAt id i ea n true fun s2 =>
          let s3 := if (f old).isSome then s2 else s1
          if s3.ev.flag then s3.trap id cMemError (w64 ea)
          else pre s3 old fun s4 => s4.atomicMake id (.scratch c.ltk ea) n f k
  else if 2 ^ 56 ≤ ea then s.trap id cPageFault (w64 ea)
  else if ea % n ≠ 0 then s.trap id cMisalign (w64 ea)
  else if s.spec c then s.trap id cFrozenLoad (w64 ea)
  else if s.isWarp c.kid && (s.kernelD c.kid).meetsFrozen ea n then s.trap id cPagePerm (w64 ea)
  else s.reachTo (fun x => x) shipsAt id (some i) ea aStore fun s1 pa dt =>
    if s1.inView pa then s1.trap id cWindowWrite (w64 ea)
    else if s1.ev.flag then s1.trap id cMemError (w64 ea)
    else pre s1 (leNat (s1.paBytes pa n)) fun s2 => s2.atomicMake id (.phys pa dt) n f k
/-- An atomic with nothing more before it. -/
def State.atomic (s : State) (id : Nat) (i : Instr) (ea n : Nat) (f : Nat → Option Nat) (k : State → Nat → State) : State :=
  s.atomicPre id i ea n f (fun s1 _ k1 => k1 s1) k

/-! ## Fetch (R46, R48, R105) -/

/-- One word of an instruction at `va`: a trap or a park ends the issue, EINFO naming the word (R46). DESIGN CHOICE (log entry 73): a word with an
uncorrectable error traps MEM_ERROR, with its own address as EINFO, as a load of it does. -/
def State.fetchWord {α : Type} (s : State) (fin : State → α) (id : Nat) (va : Nat) (k : State → BitVec 32 → α) : α :=
  if va % 4 ≠ 0 then fin (s.trap id cMisalign 0#64)
  else if va < 2 ^ 20 then fin (s.trap id cPagePerm (w64 va))
  else if 2 ^ 56 ≤ va then fin (s.trap id cPageFault (w64 va))
  else s.reachTo fin (fun s1 _ go => fin (go s1)) id none va aFetch fun s1 pa _ =>
    if s1.ev.fetchErr = some ((va + 2 ^ 64 - (s1.ctxD id).pc.toNat) % 2 ^ 64 / 4) then fin (s1.trap id cMemError (w64 va))
    else
      let r := s1.readPa id pa 4
      match (r.2.ctxD id).oldWords.filter fun e => e.1 = pa with
      | [] => k r.2 (BitVec.ofNat 32 r.1)
      | olds =>
        let n := Config.freeChoice r.2.free % (olds.length + 1)
        k { r.2 with free := r.2.free + 1 } ((olds.map (·.2)).getD n (BitVec.ofNat 32 r.1))

/-- The words of an instruction from `va` on: `n` more after those in hand, wrapping at 2^64 (R45, R106). -/
def State.fetchWords {α : Type} (s : State) (fin : State → α) (id : Nat) (va : Nat) : Nat → List (BitVec 32) → (State → List (BitVec 32) → α) → α
  | 0, ws, k => k s ws
  | n + 1, ws, k => s.fetchWord fin id (va % 2 ^ 64) fun s1 w => s1.fetchWords fin id (va + 4) n (ws ++ [w]) k

/-- Every word of the instruction at the context's PC (R46). -/
def State.fetch {α : Type} (s : State) (fin : State → α) (id : Nat) (k : State → Words → α) : α :=
  let pc := (s.ctxD id).pc.toNat
  s.fetchWord fin id pc fun s1 w0 =>
    s1.fetchWords fin id (pc + 4) (wordCount (fLen w0) - 1) [w0] fun s2 ws =>
      k s2 { w0 := ws.getD 0 0#32, w1 := ws.getD 1 0#32, w2 := ws.getD 2 0#32, w3 := ws.getD 3 0#32, w4 := ws.getD 4 0#32 }

end Sys2Proof.Machine
end

