-- ==== Sys2Proof/Machine/Operands.lean ====
section
/-! DEFINITION. Operand forms: which registers an instruction names, what stands before its effect (chain stages R344, shipping home R101 and R368, pending registers R197), immediates and addresses (R50, R51, R121), and f registers as streams (R151-R153). -/

namespace Sys2Proof.Machine

open Sys2Proof

/-! ## Immediates and addresses (R50, R51, R121) -/

def sext14 (i : BitVec 14) : Word := i.signExtend 64
def zext14 (i : BitVec 14) : Word := i.setWidth 64
def sext19 (i : BitVec 19) : Word := i.signExtend 64
def sext32 (i : BitVec 32) : Word := i.signExtend 64
def zext32 (i : BitVec 32) : Word := i.setWidth 64
/-- Four times a signed word offset (R50). -/
def offset14 (i : BitVec 14) : Word := i.signExtend 64 <<< 2
def offset19 (i : BitVec 19) : Word := i.signExtend 64 <<< 2
/-- Bytes of an access size (R53). -/
def szBytes (z : Sz) : Nat := match z with | .b => 1 | .h => 2 | .w => 4 | .d => 8 | .q => 16
/-- EA = gA + OFF10 × size, modulo 2^64 (R106, R121). -/
def memEA (c : Ctx) (a : Reg) (off : BitVec 10) (z : Sz) : Nat :=
  (c.getG a + off.signExtend 64 * w64 (szBytes z)).toNat
/-- EA = gA + the literal (R121), and EA = gA + gB (R123). -/
def litEA (c : Ctx) (a : Reg) (lit : Word) : Nat := (c.getG a + lit).toNat
def idxEA (c : Ctx) (a b : Reg) : Nat := (c.getG a + c.getG b).toNat

/-! ## The registers that an instruction names -/

/-- The g registers read and written and the f registers written by an instruction (R56, R344). -/
def regsOf (i : Instr) : Regs :=
  match i with
  | .add d a b => { gr := [a, b], gw := [d] }
  | .addL d a _ => { gr := [a], gw := [d] }
  | .sub d a b => { gr := [a, b], gw := [d] }
  | .subL d a _ => { gr := [a], gw := [d] }
  | .and d a b => { gr := [a, b], gw := [d] }
  | .andL d a _ => { gr := [a], gw := [d] }
  | .or d a b => { gr := [a, b], gw := [d] }
  | .orL d a _ => { gr := [a], gw := [d] }
  | .xor d a b => { gr := [a, b], gw := [d] }
  | .xorL d a _ => { gr := [a], gw := [d] }
  | .andn d a b => { gr := [a, b], gw := [d] }
  | .andnL d a _ => { gr := [a], gw := [d] }
  | .orn d a b => { gr := [a, b], gw := [d] }
  | .ornL d a _ => { gr := [a], gw := [d] }
  | .sel d a b => { gr := [a, b, d], gw := [d] }
  | .selL d a _ => { gr := [a, d], gw := [d] }
  | .shl d a b => { gr := [a, b], gw := [d] }
  | .shr d a b => { gr := [a, b], gw := [d] }
  | .sra d a b => { gr := [a, b], gw := [d] }
  | .rotr d a b => { gr := [a, b], gw := [d] }
  | .mul d a b => { gr := [a, b], gw := [d] }
  | .mulL d a _ => { gr := [a], gw := [d] }
  | .mulh d a b => { gr := [a, b], gw := [d] }
  | .mulhL d a _ => { gr := [a], gw := [d] }
  | .mulhu d a b => { gr := [a, b], gw := [d] }
  | .mulhuL d a _ => { gr := [a], gw := [d] }
  | .div d a b => { gr := [a, b], gw := [d] }
  | .divL d a _ => { gr := [a], gw := [d] }
  | .divu d a b => { gr := [a, b], gw := [d] }
  | .divuL d a _ => { gr := [a], gw := [d] }
  | .rem d a b => { gr := [a, b], gw := [d] }
  | .remL d a _ => { gr := [a], gw := [d] }
  | .remu d a b => { gr := [a, b], gw := [d] }
  | .remuL d a _ => { gr := [a], gw := [d] }
  | .min d a b => { gr := [a, b], gw := [d] }
  | .minL d a _ => { gr := [a], gw := [d] }
  | .max d a b => { gr := [a, b], gw := [d] }
  | .maxL d a _ => { gr := [a], gw := [d] }
  | .minu d a b => { gr := [a, b], gw := [d] }
  | .minuL d a _ => { gr := [a], gw := [d] }
  | .maxu d a b => { gr := [a, b], gw := [d] }
  | .maxuL d a _ => { gr := [a], gw := [d] }
  | .slt d a b => { gr := [a, b], gw := [d] }
  | .sltL d a _ => { gr := [a], gw := [d] }
  | .sltu d a b => { gr := [a, b], gw := [d] }
  | .sltuL d a _ => { gr := [a], gw := [d] }
  | .seq d a b => { gr := [a, b], gw := [d] }
  | .seqL d a _ => { gr := [a], gw := [d] }
  | .clz d a => { gr := [a], gw := [d] }
  | .ctz d a => { gr := [a], gw := [d] }
  | .popc d a => { gr := [a], gw := [d] }
  | .brev d a => { gr := [a], gw := [d] }
  | .bswap d a => { gr := [a], gw := [d] }
  | .sext d a b => { gr := [a, b], gw := [d] }
  | .zext d a b => { gr := [a, b], gw := [d] }
  | .bfx d a b => { gr := [a, b], gw := [d] }
  | .bfi d a b => { gr := [a, b, d], gw := [d] }
  | .addi d a _ => { gr := [a], gw := [d] }
  | .addiL d a _ => { gr := [a], gw := [d] }
  | .andi d a _ => { gr := [a], gw := [d] }
  | .andiL d a _ => { gr := [a], gw := [d] }
  | .ori d a _ => { gr := [a], gw := [d] }
  | .oriL d a _ => { gr := [a], gw := [d] }
  | .xori d a _ => { gr := [a], gw := [d] }
  | .xoriL d a _ => { gr := [a], gw := [d] }
  | .slti d a _ => { gr := [a], gw := [d] }
  | .sltiL d a _ => { gr := [a], gw := [d] }
  | .sltiu d a _ => { gr := [a], gw := [d] }
  | .sltiuL d a _ => { gr := [a], gw := [d] }
  | .shli d a _ => { gr := [a], gw := [d] }
  | .shri d a _ => { gr := [a], gw := [d] }
  | .srai d a _ => { gr := [a], gw := [d] }
  | .lim d _ => { gw := [d] }
  | .limL d _ => { gw := [d] }
  | .addpc d _ => { gw := [d] }
  | .beq a b _ => { gr := [a, b] }
  | .bne a b _ => { gr := [a, b] }
  | .blt a b _ => { gr := [a, b] }
  | .bge a b _ => { gr := [a, b] }
  | .bltu a b _ => { gr := [a, b] }
  | .bgeu a b _ => { gr := [a, b] }
  | .jal d _ => { gw := [d] }
  | .jalr d a => { gr := [a], gw := [d] }
  | .rep a _ => { gr := [a] }
  | .ld d a _ _ sz => if sz = .q then { gr := [a], fw := [d, d + 1#5] } else { gr := [a], gw := [d] }
  | .ldL d a _ sz _ => if sz = .q then { gr := [a], fw := [d, d + 1#5] } else { gr := [a], gw := [d] }
  | .st a b _ _ sz => if sz = .q then { gr := [a] } else { gr := [a, b] }
  | .stL a b _ sz _ => if sz = .q then { gr := [a] } else { gr := [a, b] }
  | .ldp d a _ _ _ => { gr := [a], gw := [d, d + 1#5] }
  | .ldpL d a _ _ _ => { gr := [a], gw := [d, d + 1#5] }
  | .stp a b _ _ _ => { gr := [a, b, b + 1#5] }
  | .stpL a b _ _ _ => { gr := [a, b, b + 1#5] }
  | .ldv d a b _ sz => if sz = .q then { gr := [a, b], fw := [d, d + 1#5] } else { gr := [a, b], gw := [d] }
  | .stv d a b _ sz => if sz = .q then { gr := [a, b] } else { gr := [a, b, d] }
  | .stq a _ => { gr := [a] }
  | .prefRd a b => { gr := [a, b] }
  | .prefWr a b => { gr := [a, b] }
  | .amoadd d a b sz => if sz = .q then { gr := [a, b, b + 1#5], gw := [d, d + 1#5] } else { gr := [a, b], gw := [d] }
  | .amoswap d a b sz => if sz = .q then { gr := [a, b, b + 1#5], gw := [d, d + 1#5] } else { gr := [a, b], gw := [d] }
  | .amoand d a b sz => if sz = .q then { gr := [a, b, b + 1#5], gw := [d, d + 1#5] } else { gr := [a, b], gw := [d] }
  | .amoor d a b sz => if sz = .q then { gr := [a, b, b + 1#5], gw := [d, d + 1#5] } else { gr := [a, b], gw := [d] }
  | .amoxor d a b sz => if sz = .q then { gr := [a, b, b + 1#5], gw := [d, d + 1#5] } else { gr := [a, b], gw := [d] }
  | .amomin d a b sz => if sz = .q then { gr := [a, b, b + 1#5], gw := [d, d + 1#5] } else { gr := [a, b], gw := [d] }
  | .amomax d a b sz => if sz = .q then { gr := [a, b, b + 1#5], gw := [d, d + 1#5] } else { gr := [a, b], gw := [d] }
  | .amominu d a b sz => if sz = .q then { gr := [a, b, b + 1#5], gw := [d, d + 1#5] } else { gr := [a, b], gw := [d] }
  | .amomaxu d a b sz => if sz = .q then { gr := [a, b, b + 1#5], gw := [d, d + 1#5] } else { gr := [a, b], gw := [d] }
  | .cas d a b sz => if sz = .q then { gr := [a, b, b + 1#5, d, d + 1#5], gw := [d, d + 1#5] } else { gr := [a, b, d], gw := [d] }
  | .famoadd d a b _ _ => { gr := [a, b], gw := [d] }
  | .fadd d _ _ _ _ => { fw := [d] }
  | .fsub d _ _ _ _ => { fw := [d] }
  | .fmul d _ _ _ _ => { fw := [d] }
  | .fdiv d _ _ _ _ => { fw := [d] }
  | .fma d _ _ _ _ => { fw := [d] }
  | .fms d _ _ _ _ => { fw := [d] }
  | .fnma d _ _ _ _ => { fw := [d] }
  | .fnms d _ _ _ _ => { fw := [d] }
  | .fsqrt d _ _ _ => { fw := [d] }
  | .fsum d _ _ _ => { fw := [d] }
  | .fmin d _ _ _ => { fw := [d] }
  | .fmax d _ _ _ => { fw := [d] }
  | .fabs d _ _ => { fw := [d] }
  | .fneg d _ _ => { fw := [d] }
  | .fsgnj d _ _ _ => { fw := [d] }
  | .fcmpeq d _ _ _ => { fw := [d] }
  | .fcmplt d _ _ _ => { fw := [d] }
  | .fcmple d _ _ _ => { fw := [d] }
  | .fclass d _ _ => { fw := [d] }
  | .fmvFF d _ => { fw := [d] }
  | .fmvFG d a => { gr := [a], fw := [d] }
  | .fmvGF d _ => { gw := [d] }
  | .fpack d _ _ _ _ => { fw := [d] }
  | .funpk d _ _ _ _ => { fw := [d] }
  | .fshuf d _ b _ => { gr := [b], fw := [d] }
  | .fcvt d _ _ _ _ _ => { fw := [d] }
  | .fcvti d _ _ _ _ _ => { fw := [d] }
  | .fcvtf d _ _ _ _ _ => { fw := [d] }
  | .faddImm d _ _ => { fw := [d] }
  | .fmulImm d _ _ => { fw := [d] }
  | .fmvImm d _ _ => { fw := [d] }
  | .fexp2 d _ _ => { fw := [d] }
  | .flog2 d _ _ => { fw := [d] }
  | .frcp d _ _ => { fw := [d] }
  | .frsq d _ _ => { fw := [d] }
  | .fsin d _ _ => { fw := [d] }
  | .fcos d _ _ => { fw := [d] }
  | .ftanh d _ _ => { fw := [d] }
  | .flgst d _ _ => { fw := [d] }
  | .scfg d a b _ _ _ => { gr := [a, b], fw := [d] }
  | .sdim d a => { gr := [a], fw := [d] }
  | .sen d => { fw := [d] }
  | .sdis d => { fw := [d] }
  | .sstat d _ => { gw := [d] }
  | .qget d _ => { gw := [d] }
  | .qput _ b => { gr := [b] }
  | .qpeek d _ => { gw := [d] }
  | .qtry d _ => { gw := [d, d + 1#5] }
  | .qtput d _ b => { gr := [b], gw := [d] }
  | .qcfg d _ b => { gr := [b], gw := [d] }
  | .qstat d _ => { gw := [d] }
  | .send d a b => { gr := [a, a + 1#5, a + 2#5, a + 3#5, b], gw := [d] }
  | .sendt d a b c _ => { gr := [a, a + 1#5, a + 2#5, a + 3#5, b, c], gw := [d] }
  | .keep d a b => { gr := [a, b], gw := [d] }
  | .unkeep a => { gr := [a] }
  | .gvtr d a => { gr := [a], gw := [d] }
  | .anti d a => { gr := [a], gw := [d] }
  | .launch d a b => { gr := [a, b], gw := [d] }
  | .wid d a _ => { gr := [a], gw := [d] }
  | .kstat d a => { gr := [a], gw := [d] }
  | .kend d a => { gr := [a], gw := [d] }
  | .clnew d a b => { gr := [a, b], gw := [d] }
  | .clpub a b => { gr := [a, b] }
  | .cldec a => { gr := [a] }
  | .spawn a => { gr := [a, a + 1#5, a + 2#5, a + 3#5, a + 4#5] }
  | .callat d a b => { gr := [a, a + 1#5, a + 2#5, a + 3#5, a + 4#5, b], gw := [d] }
  | .retv a => { gr := [a] }
  | .bind d a b => { gr := [a, b], gw := [d] }
  | .chpri a b => { gr := [a, b] }
  | .chmask d a => { gr := [a], gw := [d] }
  | .chain d a b => { gr := [a, b], gw := [d] }
  | .recoil d a => { gr := [a], gw := [d] }
  | .uncoil d a => { gr := [a], gw := [d] }
  | .cform d a => { gr := [a], gw := [d] }
  | .put a b _ => { gr := [a, b] }
  | .putL a _ _ => { gr := [a] }
  | .putv d a b _ => { gr := [d, a, b] }
  | .rld d a _ => { gr := [a], gw := [d] }
  | .radd a b _ => { gr := [a, b] }
  | .raddL a _ _ => { gr := [a] }
  | .cpy d a => { gr := [a], gw := [d] }
  | .cpys d a _ => { gr := [a], gw := [d] }
  | .cpyg d a _ => { gr := [a], gw := [d] }
  | .cpyx d a _ => { gr := [a], gw := [d] }
  | .cpyq d a => { gr := [a], gw := [d] }
  | .cpyc d a => { gr := [a], gw := [d] }
  | .pin d a b => { gr := [a, b], gw := [d] }
  | .unpin a => { gr := [a] }
  | .flsh a b => { gr := [a, b] }
  | .invl a b => { gr := [a, b] }
  | .winset a b _ _ => { gr := [a, b] }
  | .mxstat d _ => { gw := [d] }
  | .mxgang d a _ _ _ _ => { gr := [a], gw := [d] }
  | .gjoin d a b => { gr := [a, b], gw := [d] }
  | .gleave d a => { gr := [a], gw := [d] }
  | .ggen d a => { gr := [a], gw := [d] }
  | .cstat d a => { gr := [a], gw := [d] }
  | .cred d a b _ _ _ => { gr := [a, b], gw := [d] }
  | .credmin d a b _ _ _ => { gr := [a, b], gw := [d] }
  | .credmax d a b _ _ _ => { gr := [a, b], gw := [d] }
  | .credand d a b _ _ _ => { gr := [a, b], gw := [d] }
  | .credor d a b _ _ _ => { gr := [a, b], gw := [d] }
  | .cbcst d a b _ _ => { gr := [a, b], gw := [d] }
  | .cagth d a b _ _ => { gr := [a, b], gw := [d] }
  | .crsct d a b _ _ _ => { gr := [a, b], gw := [d] }
  | .binit d a b _ _ => { gr := [a, b], gw := [d] }
  | .barv d a => { gr := [a], gw := [d] }
  | .bwait d a b => { gr := [a, b], gw := [d] }
  | .btest d a b => { gr := [a, b], gw := [d] }
  | .bcnt a b => { gr := [a, b] }
  | .bwdraw d a => { gr := [a], gw := [d] }
  | .waita a b => { gr := [a, b] }
  | .tshape d a => { gr := [a], gw := [d] }
  | .tupc d a => { gr := [a], gw := [d] }
  | .tpress d a => { gr := [a], gw := [d] }
  | .tmap d a => { gr := [a], gw := [d] }
  | .tpin d a b => { gr := [a, b], gw := [d] }
  | .cfence _ _ => {}
  | .tlbi a b => { gr := [a, b] }
  | .pmig d a b => { gr := [a, b], gw := [d] }
  | .pdirty d a => { gr := [a], gw := [d] }
  | .pship a => { gr := [a] }
  | .phome d a => { gr := [a], gw := [d] }
  | .trap d a => { gr := [a, a + 1#5, a + 2#5, a + 3#5], gw := [d] }
  | .eret d a b => { gr := [a, b], gw := [d] }
  | .crr d _ => { gw := [d] }
  | .crw d a _ => { gr := [a], gw := [d] }
  | .crs d a _ => { gr := [a], gw := [d] }
  | .crc d a _ => { gr := [a], gw := [d] }
  | .brk _ => {}
  | .mark d a => { gr := [a], gw := [d] }
  | .swset d a _ => { gr := [a], gw := [d] }
  | .hint _ _ => {}
  | .tstamp d _ => { gw := [d] }
  | .pcntr d a => { gr := [a], gw := [d] }
  | .trace a b => { gr := [a, b] }
  | .done => {}
  | .irrev => {}
  | .eqpt => {}
  | .mxswap => {}
  | .mxwait => {}
  | .mxrst => {}
  | .fence => {}
  | .pfence => {}
  | .halt => {}
  | .sfuResult => {}
  | .queueWordArrival => {}
  | .messageArrival => {}
  | .antimessageArrival => {}
  | .callArrival => {}
  | .returnArrival => {}
  | .gvtDelivery => {}
  | .firmwareLaunch => {}
  | .sweep => {}
  | .kernelStopComplete => {}
  | .stealAttempt => {}
  | .codeletUpdate => {}
  | .dispatch => {}
  | .priorityPromotion => {}
  | .sliceExpiry => {}
  | .bindRecordWrite => {}
  | .chainSwitch => {}
  | .copyComplete => {}
  | .copyError => {}
  | .remoteAccessArrival => {}
  | .putAcknowledgement => {}
  | .negativeAcknowledgement => {}
  | .rldReturn => {}
  | .mnop => {}
  | .mma => {}
  | .mmas => {}
  | .mzero => {}
  | .mldb => {}
  | .mstb => {}
  | .mpack => {}
  | .munpk => {}
  | .msig => {}
  | .mbar => {}
  | .formatWindowFill => {}
  | .formatWindowCtlWrite => {}
  | .collectiveComplete => {}
  | .groupTimeout => {}
  | .memberWithdrawal => {}
  | .novenaLatch => {}
  | .borderProposal => {}
  | .borderGrant => {}
  | .proposalDrop => {}
  | .cedeComplete => {}
  | .treeParentChange => {}
  | .levellingCheck => {}
  | .levellingMoveComplete => {}
  | .forcedCede => {}
  | .correctedError => {}
  | .tileReturnAfterRepair => {}
  | .shipArrival => {}
  | .shipBackCount => {}
  | .pageRequestFlush => {}
  | .migrationComplete => {}
  | .migrationAbandon => {}
  | .pageTableEntryWrite => {}
  | .illegalWord => {}
  | .parkResume => {}
  | .teamSpill => {}
  | .teamResume => {}
  | .gangStop => {}
  | .stopRelease => {}
  | .debugStop => {}
  | .debugStep => {}
  | .debugDrain => {}
  | .gangSwitchSet => {}
  | .gangSwitchWithdraw => {}
  | .gangSwitch => {}
  | .saveComplete => {}
  | .gangResume => {}
  | .partitionFreeze => {}
  | .partitionPowerCycle => {}
  | .cutStart => {}
  | .cutRecord => {}
  | .kernelRestore => {}
  | .flitRouting => {}
  | .flitAcceptance => {}
  | .mapHint => {}
  | .mapUpdate => {}
  | .retransmit => {}
  | .routerReset => {}
  | .beatReceive => {}
  | .beatRefusal => {}
  | .portEnable => {}
  | .laneTrainingDone => {}
  | .trainingTimeout => {}
  | .replayStorm => {}
  | .laneLost => {}
  | .portDisable => {}
  | .d2dModuleFailure => {}
  | .cxlMemRead => {}
  | .cxlMemWrite => {}
  | .profilingLease => {}
  | .profilingLeaseExpiry => {}
  | .logicalClockTick => {}
  | .homeTimeRaise => {}
  | .coreClockStop => {}
  | .coreClockRestart => {}
  | .dieClockStep => {}
  | .boot => {}
  | .attestationRequest => {}
  | .residentKernelRequest => {}
  | .registerWrite => {}

/-- The queue register that an instruction names. -/
def queueOf (i : Instr) : Option (BitVec 3) :=
  match i with
  | .qget _ q => some q
  | .qput q _ => some q
  | .qpeek _ q => some q
  | .qtry _ q => some q
  | .qtput _ q _ => some q
  | .qstat _ q => some q
  | _ => none

/-- The instructions that a chain stage may not execute (R344). -/
def stageBars (i : Instr) : Bool :=
  match i with
  | .qcfg _ _ _ => true
  | .stq _ _ => true
  | .mxswap => true
  | .mxwait => true
  | .mxstat _ _ => true
  | .mxrst => true
  | .mxgang _ _ _ _ _ _ => true
  | _ => false

/-- EINFO of the CHAIN_FORM that R344 gives a stage's instruction, if it gives one. -/
def stageRefusal (i : Instr) : Option Word :=
  let r := regsOf i
  match r.gw.find? fun x => decide (16 ≤ x.toNat) with
  | some x => some (x.setWidth 64)
  | none =>
    match r.fw.find? fun x => decide (16 ≤ x.toNat) with
    | some x => some (w64 (32 + x.toNat))
    | none =>
      if stageBars i then some 0#64
      else match queueOf i with
        | some q => if 2 ≤ q.toNat then some (w64 (64 + q.toNat)) else none
        | none => none

/-- Control registers that a near-memory core holds: FRM, FFLAGS and FEN (R101). -/
def nearCr (n : BitVec 5) : Bool := n = 1#5 || n = 2#5 || n = 3#5

/-- The instructions that a near-memory core sends home first, by the rules that R368 lists. -/
def homeFirst (i : Instr) : Bool :=
  match i with
  | .crr _ n => !nearCr n
  | .crw _ _ n => !nearCr n
  | .crs _ _ n => !nearCr n
  | .crc _ _ n => !nearCr n
  | .radd _ _ _ => true
  | .raddL _ _ _ => true
  | .cfence _ _ => true
  | .pfence => true
  | .put _ _ _ => true
  | .putL _ _ _ => true
  | .putv _ _ _ _ => true
  | .rld _ _ _ => true
  | .cpy _ _ => true
  | .cpys _ _ _ => true
  | .cpyg _ _ _ => true
  | .cpyx _ _ _ => true
  | .cpyq _ _ => true
  | .cpyc _ _ => true
  | .pin _ _ _ => true
  | .unpin _ => true
  | .flsh _ _ => true
  | .invl _ _ => true
  | .winset _ _ _ _ => true
  | .waita _ _ => true
  | .stq _ _ => true
  | .mxswap => true
  | .mxwait => true
  | .mxstat _ _ => true
  | .mxrst => true
  | .mxgang _ _ _ _ _ _ => true
  | .qget _ _ => true
  | .qput _ _ => true
  | .qpeek _ _ => true
  | .qtry _ _ => true
  | .qtput _ _ _ => true
  | .qcfg _ _ _ => true
  | .qstat _ _ => true
  | .clnew _ _ _ => true
  | .clpub _ _ => true
  | .cldec _ => true
  | .spawn _ => true
  | .callat _ _ _ => true
  | .retv _ => true
  | .bind _ _ _ => true
  | .chpri _ _ => true
  | .chmask _ _ => true
  | .launch _ _ _ => true
  | .wid _ _ _ => true
  | .kstat _ _ => true
  | .kend _ _ => true
  | .send _ _ _ => true
  | .sendt _ _ _ _ _ => true
  | .keep _ _ _ => true
  | .unkeep _ => true
  | .irrev => true
  | .gvtr _ _ => true
  | .anti _ _ => true
  | .tshape _ _ => true
  | .tupc _ _ => true
  | .tpress _ _ => true
  | .tmap _ _ => true
  | .tpin _ _ _ => true
  | .chain _ _ _ => true
  | .recoil _ _ => true
  | .uncoil _ _ => true
  | .cform _ _ => true
  | .gjoin _ _ _ => true
  | .gleave _ _ => true
  | .ggen _ _ => true
  | .cstat _ _ => true
  | .cred _ _ _ _ _ _ => true
  | .credmin _ _ _ _ _ _ => true
  | .credmax _ _ _ _ _ _ => true
  | .credand _ _ _ _ _ _ => true
  | .credor _ _ _ _ _ _ => true
  | .cbcst _ _ _ _ _ => true
  | .cagth _ _ _ _ _ => true
  | .crsct _ _ _ _ _ _ => true
  | .binit _ _ _ _ _ => true
  | .barv _ _ => true
  | .bwait _ _ _ => true
  | .btest _ _ _ => true
  | .bcnt _ _ => true
  | .bwdraw _ _ => true
  | .trap _ _ => true
  | .eret _ _ _ => true
  | .halt => true
  | .mark _ _ => true
  | .swset _ _ _ => true
  | .pcntr _ _ => true
  | .trace _ _ => true
  | _ => false

/-! ## Before an instruction's effect -/

/-- Names of a pending register (R197, R261). -/
def Ctx.pendingOf (c : Ctx) (i : Instr) : Option Pend :=
  let r := regsOf i
  c.pend.find? fun p => (r.gr ++ r.gw).contains p.d

/-- Reports the oldest refusal as WINDOW_NACK and discards the others (R197). -/
def State.reportNack (s : State) (id : Nat) : State :=
  let info := (s.ctxD id).nacks.headD 0#64
  (s.upd id fun c => { c with nacks := [], pend := c.pend.filter fun p => !p.refused }).trap id cWindowNack info

/-- The instructions reserved to the supervisor logical core, which PRIV refuses elsewhere before any trap of execution (R66, R408, R420). -/
def supervisorOnly (i : Instr) : Bool := match i with | .eret _ _ _ => true | .swset _ _ _ => true | _ => false
/-- The hints, which never trap and never park (R129). -/
def isPref (i : Instr) : Bool := match i with | .prefRd _ _ => true | .prefWr _ _ => true | _ => false
/-- What stands before an instruction's effect: PRIV (R66), the rules of a chain stage (R344), shipping home (R101, R368), and
pending registers, which park or report a refusal (R197, R261). -/
def State.guard (s : State) (id : Nat) (i : Instr) (k : State) : State :=
  let c := s.ctxD id
  if supervisorOnly i && !s.isSupervisor c then s.trap id cPriv 0#64
  else if isPref i then k
  else match (if c.stage.isSome then stageRefusal i else none) with
  | some info => s.trap id cChainForm info
  | none =>
    if c.shipped.isSome && homeFirst i then s.goHome id i
    else match c.pendingOf i with
      | some p => if p.refused then s.reportNack id else s.park id i (.pendReg p.d)
      | none => k

/-- A strand's instruction: its effect on the context that issues, after what stands before it. -/
def strandOp (s : State) (i : Instr) (f : Nat → Ctx → State) : Host.Outcome State Fault Refusal :=
  match s.cur with
  | none => .fault .noIssuingStrand
  | some id =>
    match s.ctx? id with
    | none => .fault .noIssuingStrand
    | some c => .next (s.guard id i (f id c))

/-! ## f registers and streams (R151-R153) -/

/-- The stream of a stream register's number. -/
def streamNo (r : Reg) : Option (Fin 4) :=
  if h : 28 ≤ r.toNat then some ⟨r.toNat - 28, by have := r.isLt; omega⟩ else none
/-- The register accesses a stream: it is f28 to f31 with EN = 1 (R153). -/
def streamOn (st : Vector Stream 4) (r : Reg) : Option (Fin 4) :=
  match streamNo r with
  | some i => if st[i].en then some i else none
  | none => none
/-- The scratch offset of a stream's current element, as an integer (R152). -/
def Stream.addr (x : Stream) : Int :=
  16 * (x.base16.toNat : Int) + 8 * ((List.range (x.ndim.toNat + 1)).map fun d =>
    (x.idx.toList.getD d 0#12).toNat * (x.stride.toList.getD d 0#16).toInt).sum
/-- The index advance of R152 from dimension `d` up. -/
def advanceDim (x : Stream) (d : Nat) : Nat → Stream
  | 0 => { x with ended := true }
  | fuel + 1 =>
    let i := (x.idx.toList.getD d 0#12).toNat + 1
    if i ≤ (x.bound.toList.getD d 0#12).toNat then { x with idx := x.idx.set (d % 4) (BitVec.ofNat 12 i) (Nat.mod_lt _ (by decide)) }
    else
      let y := { x with idx := x.idx.set (d % 4) 0#12 (Nat.mod_lt _ (by decide)) }
      if x.ndim.toNat < d + 1 then { y with ended := true } else advanceDim y (d + 1) fuel
/-- The stream after one access; an ended stream stays as it is. -/
def Stream.next (x : Stream) : Stream := if x.ended then x else advanceDim x 0 4

/-- The accesses of an instruction's f operands: for each operand none for a plain register, or the element's offset, or
none within for an ended stream; and the streams after them. -/
abbrev StreamPlan := List (Option (Option Nat)) × Vector Stream 4

/-- Plans the accesses of registers in order; `wr` says they are written. A wrong direction traps ILLEGAL with the register
number, an element outside the scratchpad PAGE_PERM with its address (R152, R153). -/
def planStreams (sz : Nat) (wr : Bool) : List Reg → Vector Stream 4 → Except (BitVec 8 × Word) StreamPlan
  | [], st => .ok ([], st)
  | r :: t, st =>
    match streamOn st r with
    | none =>
      match planStreams sz wr t st with
      | .ok (l, st') => .ok (none :: l, st')
      | .error e => .error e
    | some i =>
      let x := st[i]
      if x.dir ≠ wr then .error (cIllegal, r.setWidth 64)
      else if x.ended then
        match planStreams sz wr t st with
        | .ok (l, st') => .ok (some none :: l, st')
        | .error e => .error e
      else if x.addr < 0 ∨ (sz : Int) ≤ x.addr then .error (cPagePerm, BitVec.ofInt 64 x.addr)
      else
        match planStreams sz wr t (st.set i x.next) with
        | .ok (l, st') => .ok (some (some x.addr.toNat) :: l, st')
        | .error e => .error e

/-- The offsets of the elements that planned operands access, in order. -/
def planOffs (l : List (Option (Option Nat))) : List Nat := l.filterMap fun x => x.join
/-- The values of planned operands: registers, elements of the scratchpad, and 0 for an ended stream. -/
def State.peekF (s : State) (id : Nat) (l : List (Reg × Option (Option Nat))) : List Word :=
  l.map fun x => match x.2 with
    | none => (s.ctxD id).getF x.1
    | some none => 0#64
    | some (some a) => w64 (leNat (s.scratchBytes (s.ctxD id).ltk a 8))
/-- Pops can be made, and pushes: each is a CORE load or store of 8 bytes, none of which is made before all can be (R46, R153). -/
def State.popsCan (s : State) (id : Nat) (i : Instr) : List Nat → (State → State) → State
  | [], k => k s
  | a :: t, k => s.loadAt shipsAt id i a 8 fun s1 _ => s1.popsCan id i t k
def State.pushesCan (s : State) (id : Nat) (i : Instr) : List Nat → (State → State) → State
  | [], k => k s
  | a :: t, k => s.storeAt shipsAt id i a 8 1 fun s1 _ => s1.pushesCan id i t k
/-- Pops take their places in the order (R153). -/
def State.popsMade (s : State) (id : Nat) (offs : List Nat) : State :=
  offs.foldl (fun s a => (s.readAt id (.scratch (s.ctxD id).ltk a) 8).2) s

/-- The stores that the planned results push, in order. -/
def pushesOf : List (Reg × Word × Option (Option Nat)) → List (Nat × List Byte)
  | [] => []
  | (_, v, some (some a)) :: t => (a, leBytes 8 v.toNat) :: pushesOf t
  | _ :: t => pushesOf t
/-- The planned results that go to plain registers. -/
def Ctx.putPlain (c : Ctx) : List (Reg × Word × Option (Option Nat)) → Ctx
  | [] => c
  | (r, v, none) :: t => (c.setF r v).putPlain t
  | _ :: t => c.putPlain t
/-- Writes the planned results: pushes are CORE stores of 8 bytes, in order, none of which is made unless all can be. -/
def State.pushAll (s : State) (id : Nat) (i : Instr) (ws : List (Reg × Word × Option (Option Nat))) (k : State → State) : State :=
  s.storeAll id i (pushesOf ws) fun s1 => k (s1.upd id fun c => c.putPlain ws)

/-- Reads an instruction's f sources, in order, when all of its accesses, pops, one of its own that `mid` prepares, then pushes, can be made; an
instruction that accesses an enabled stream executes at the home core (R153). Pops and pushes are made, and the streams advance, when the
instruction completes. -/
def State.withFMid {α : Type} (s : State) (id : Nat) (i : Instr) (reads writes : List Reg) (mid : State → (State → α → State) → State)
    (k : State → List Word → α → State) : State :=
  let c := s.ctxD id
  if c.shipped.isSome && (reads ++ writes).any (fun r => (streamOn c.streams r).isSome) then s.goHome id i
  else
    match planStreams (s.sOf c) false reads c.streams with
    | .error e => s.trap id e.1 e.2
    | .ok (pr, st) =>
      match planStreams (s.sOf c) true writes st with
      | .error e => s.trap id e.1 e.2
      | .ok (pw, _) => s.popsCan id i (planOffs pr) fun s1 => mid s1 fun s2 x => s2.pushesCan id i (planOffs pw) fun s3 => k s3 (s3.peekF id (reads.zip pr)) x
/-- The same with no access of its own. -/
def State.withF (s : State) (id : Nat) (i : Instr) (reads writes : List Reg) (k : State → List Word → State) : State :=
  s.withFMid id i reads writes (fun s1 k => k s1 ()) fun s1 vs _ => k s1 vs
/-- The pops of an instruction's f sources are made. -/
def State.popF (s : State) (id : Nat) (reads : List Reg) : State :=
  match planStreams (s.sOf (s.ctxD id)) false reads (s.ctxD id).streams with
  | .error _ => s
  | .ok (pr, _) => s.popsMade id (planOffs pr)

/-- Writes an instruction's f results and advances its streams (R153). Its pops have been made. -/
def State.putPopped (s : State) (id : Nat) (i : Instr) (reads : List Reg) (writes : List (Reg × Word)) (k : State → State) : State :=
  let c := s.ctxD id
  match planStreams (s.sOf c) false reads c.streams with
  | .error e => s.trap id e.1 e.2
  | .ok (_, st) =>
    match planStreams (s.sOf c) true (writes.map (·.1)) st with
    | .error e => s.trap id e.1 e.2
    | .ok (pw, st') => s.pushAll id i ((writes.zip pw).map fun x => (x.1.1, x.1.2, x.2)) fun s1 => k (s1.upd id fun c => { c with streams := st' })
/-- Makes an instruction's pops, writes its f results and advances its streams (R153). -/
def State.putF (s : State) (id : Nat) (i : Instr) (reads : List Reg) (writes : List (Reg × Word)) (k : State → State) : State :=
  (s.popF id reads).putPopped id i reads writes k

end Sys2Proof.Machine
end

