-- ==== Sys2Proof/Machine/Flags.lean ====
section
/-! DEFINITION. Sends of a strand with their keys and logs (R288, R289, R297, R298), and floating-point flags: FFLAGS, FEN and the exception message (R98, R132-R134). -/

namespace Sys2Proof.Machine

open Sys2Proof

/-! ## Sends of a strand -/

/-- The send sequence that the strand's next send takes (R288, R344). -/
def State.seqNext (s : State) (c : Ctx) : Nat := s.seqNow c + 1
/-- A send takes its sequence number (R288). -/
def State.takeSeq (s : State) (id : Nat) : State :=
  let c := s.ctxD id
  if c.stage.isSome then s.upd id fun c => { c with stageSeq := c.stageSeq + 1 }
  else s.updLc c.lck fun l => { l with sendSeq := l.sendSeq.set c.strand.toNat (l.sendSeq[c.strand.toNat] + 1) }
/-- The key of a message that the strand sends (R288). -/
def Ctx.sendKey (c : Ctx) (vrt seq : Nat) : Key := { vrt := vrt, slt := c.lt, score := c.core, sstrand := c.sendStrand, seq := seq }
/-- The source word of a message that the strand sends on a channel (R104). -/
def State.sendSrc (s : State) (c : Ctx) (chan seq : Nat) : Word := srcWord seq s.device.toNat c.kid chan c.sendStrand c.core c.lt
/-- The VRT that SEND, SPAWN, CALLAT, RETV and exception messages carry (R289). -/
def State.sendVrt (s : State) (c : Ctx) : Nat := c.item.vrt.toNat + bit (s.isWarp c.kid)
/-- The VRT is one that a message can carry (R288). -/
def vrtOk (v : Nat) : Bool := decide (v ≤ 2 ^ 64 - 2)

/-- The destination word of a core and channel of the sender's own kernel (R290). -/
def localDest (lt core chan : Nat) : Word := w64 (lt % 4096 * 2 ^ 40 + core % 8 * 2 ^ 37 + chan % 16 * 2 ^ 33 + 2 ^ 32)

/-- A message's content and where it goes. -/
structure Outgoing where
  dev : Nat
  kid : Nat
  lt : Nat
  core : Nat
  chan : Nat
  vrt : Nat
  p0 : Word
  p1 : Word
  p2 : Word
  p3 : Word
  carry : Key → Carry
  rto : Option RetTo := none

/-- Sends the message of a strand whose sequence number is taken: within a WARP kernel with its output-log entry (R297),
out of it by way of the commit queue unless the activation is irrevocable (R298, R302), otherwise at once. -/
def State.emit (s : State) (id : Nat) (m : Outgoing) (seq : Nat) : State :=
  let c := s.ctxD id
  let key := c.sendKey m.vrt seq
  let src := s.sendSrc c m.chan seq
  let within := decide (m.kid = c.kid) && decide (m.dev = s.device.toNat)
  if s.isWarp c.kid && within then
    let s1 := s.updLc c.alck fun l => { l with outLog := l.outLog ++ [{ by_ := c.item.key, hdr := mkHdr m.dev 0 m.kid m.lt m.core m.chan 0 false false 0, key := key, rto := m.rto }] }
    s1.sendMsg c.lck 0 m.dev m.kid m.lt m.core m.chan (w64 m.vrt) src m.p0 m.p1 m.p2 m.p3 (m.carry key) key (some (s.coreNo c))
  else if s.spec c then
    let part := s.partOf c.kid
    s.addCommit c.alck c.item.key (.message (mkFlit (mkHdr m.dev part m.kid m.lt m.core m.chan 0 false false 0) (w64 m.vrt) src m.p0 m.p1 m.p2 m.p3 (m.carry key) .none))
  else s.sendMsg c.lck 0 m.dev m.kid m.lt m.core m.chan (w64 m.vrt) src m.p0 m.p1 m.p2 m.p3 (m.carry key) key (some (s.coreNo c))

/-- Room for the log entry of a message, or a trap or a park (R296, R297, R298). -/
def State.emitRoom (s : State) (id : Nat) (i : Instr) (within : Bool) (info : Word) (k : State → State) : State :=
  let c := s.ctxD id
  if !s.isWarp c.kid then k s
  else if within then
    match s.logRoom c.alck c.item.key 32 with
    | (.ok, s1) => k s1
    | (.overflow, s1) => s1.trap id cCommitOverflow info
    | (.wait, s1) => s1.park id i .logRoom
  else if s.spec c then s.commitAt id i 1 info k
  else k s

/-! ## Flags and exceptions (R98, R132, R133) -/

/-- ORs raised flags into FFLAGS (R132). -/
def Ctx.raise (c : Ctx) (fl : BitVec 5) : Ctx := { c with fflags := c.fflags ||| fl }

/-- The core and channel that FSUP names (R134). -/
def fsupLt (f : Word) : Nat := bits f 0 12
def fsupCore (f : Word) : Nat := bits f 12 3
def fsupChan (f : Word) : Nat := bits f 16 4

/-- The strand parks before its next instruction and sends the exception message, a call (R133). -/
def State.exception (s : State) (id : Nat) (i : Instr) (len : Nat) (fl : BitVec 5) : State :=
  let c := s.ctxD id
  let seq := s.seqNext c
  let m : Outgoing := { dev := s.device.toNat, kid := c.kid, lt := fsupLt c.fsup, core := fsupCore c.fsup, chan := fsupChan c.fsup, vrt := s.sendVrt c, p0 := c.pc, p1 := w64 ((fl &&& c.fen).toNat + fl.toNat * 256), p2 := ((encode i).headD 0#32).setWidth 64, p3 := 0#64, carry := fun k => .message k (some (.exception id c.calls)) }
  ((s.takeSeq id).emit id m seq).upd id fun c =>
    { c.retired (c.pc + w64 len) with run := .parked, wait := .excReturn, parkedAt := s.tbase, calls := c.calls + 1 }

/-- The strand still has a message not accepted, or an output-log entry not released, that is 2^29 or more sends older than its next
one (R432). -/
def State.agedSend (s : State) (c : Ctx) : Bool :=
  let next := s.seqNext c
  let old (q : Nat) : Bool := decide (q + 2 ^ 29 ≤ next)
  (s.lcore c.lck).retx.any (fun f => match f.carry with
    | .message k _ => decide (k.sstrand = c.sendStrand) && old k.seq
    | .call k _ _ _ => decide (k.sstrand = c.sendStrand) && old k.seq
    | .retval k _ => decide (k.sstrand = c.sendStrand) && old k.seq
    | _ => false)
  || (s.lcore c.alck).outLog.any fun e => decide (e.key.slt = c.lt) && decide (e.key.score = c.core) && decide (e.key.sstrand = c.sendStrand) && old e.key.seq
/-- Room for the exception message that enabled flags send, or a trap or a park (R133, R288, R296, R432). -/
def State.flagsRoom (s : State) (id : Nat) (i : Instr) (fl : BitVec 5) (k : State → State) : State :=
  let c := s.ctxD id
  if fl &&& c.fen = 0#5 then k s
  else if !vrtOk (s.sendVrt c) then s.trap id cIllegal (w64 (s.sendVrt c))
  else if s.agedSend c then s.park id i .sendOld
  else s.emitRoom id i true (localDest (fsupLt c.fsup) (fsupCore c.fsup) (fsupChan c.fsup)) k

/-- An instruction that raises flags completes: `put` makes its writes, FFLAGS takes the flags, and an enabled flag sends
the exception message (R132, R133). -/
def State.finishFlags (s : State) (id : Nat) (i : Instr) (len : Nat) (fl : BitVec 5) (put : State → (State → State) → State) : State :=
  s.flagsRoom id i fl fun s1 => put s1 fun s2 =>
    if fl &&& (s.ctxD id).fen = 0#5 then (s2.upd id fun c => c.raise fl).advance id len
    else (s2.upd id fun c => c.raise fl).exception id i len fl

/-- An instruction with f results completes (R131-R133, R153). -/
def State.finishF (s : State) (id : Nat) (i : Instr) (len : Nat) (reads : List Reg) (writes : List (Reg × Word)) (fl : BitVec 5) : State :=
  s.finishFlags id i len fl fun s1 k => s1.putF id i reads writes k

end Sys2Proof.Machine
end

