-- ==== Sys2Proof/Machine/Engine.lean ====
section
/-! DEFINITION. What engines do to memory (R175, R209): translation, reads and writes at the homes with their tile's clock, keep logging for an activation (R210, R215, R296), and the replies to put-path accesses (R177, R194, R436). -/

namespace Sys2Proof.Machine

open Sys2Proof

/-- The engine clock of a logical core's tile (notes/assumptions/9.md). -/
def State.engineOf (s : State) (lc : Nat) : Nat := engineCore (s.ltile (lc / 8)).tile

/-- A read by the engine clock `cn` of global memory, and of a logical tile's scratchpad: unit by unit, each with its own place after `t` (R175, R176). -/
def State.engReadFrom (s : State) (cn : Nat) (t : BitVec 48) (pa n : Nat) : List Byte × State :=
  (unitsOf pa n).foldl (fun r u =>
    let s1 := r.2.ensureView u.1
    let x := s1.engUnit cn t (lineOf u.1) (u.1 % 128) u.2 (s1.paBytes u.1 u.2)
    (r.1 ++ x.1, x.2)) ([], s)
def State.engScratchReadFrom (s : State) (cn : Nat) (t : BitVec 48) (lt off n : Nat) : List Byte × State :=
  (unitsOf off n).foldl (fun r u =>
    let x := r.2.engUnit cn t (scratchLine lt u.1) (u.1 % 128) u.2 (r.2.scratchBytes lt u.1 u.2)
    (r.1 ++ x.1, x.2)) ([], s)
/-- The same after everything that the engines of the tile have done. -/
def State.engRead (s : State) (cn pa n : Nat) : List Byte × State := s.engReadFrom cn (s.clock cn).t pa n
def State.engScratchRead (s : State) (cn lt off n : Nat) : List Byte × State := s.engScratchReadFrom cn (s.clock cn).t lt off n
/-- Counts the L2 misses of an access of `n` bytes that an engine of a tile makes for a kernel (R446). -/
def State.countEngine (s : State) (kid tile pa n : Nat) : State :=
  let m := ((unitsOf pa n).filter fun u => s.l2Misses (lineOf u.1)).length
  if m = 0 then s else s.count tile kid 12 m
/-- The part of bytes that start at `a` which a unit holds. -/
def unitBytes (a : Nat) (bs : List Byte) (u : Nat × Nat) : List Byte := (bs.drop (u.1 - a)).take u.2
/-- A write of an engine, unit by unit. -/
def State.engWrite (s : State) (cn pa : Nat) (bs : List Byte) (dt : Bool) : State :=
  (unitsOf pa bs.length).foldl (fun s u => (s.writeLine cn u.1 (unitBytes pa bs u) dt).2) s
def State.engScratchWrite (s : State) (cn lt off : Nat) (bs : List Byte) : State :=
  (unitsOf off bs.length).foldl (fun s u => (s.scratchStore cn lt u.1 (unitBytes off bs u)).2) s
/-- A signal write of an engine, of 8 bytes within a line: what returns it acquires (R178, R179). -/
def State.engSignal (s : State) (cn pa : Nat) (bs : List Byte) (dt : Bool) : State := (s.engWrite cn pa bs dt).signal (lineOf pa) (pa % 128) bs.length
def State.engScratchSignal (s : State) (cn lt off : Nat) (bs : List Byte) : State := (s.engScratchWrite cn lt off bs).signal (scratchLine lt off) (off % 128) bs.length
/-- Reads of what engines update in one place, such as a barrier record: the home's value. -/
def State.engLoad (s : State) (cn pa n : Nat) : List Byte × State :=
  let s1 := s.ensureView pa
  (s1.paBytes pa n, (s1.stampLoad cn (lineOf pa)).2)
def State.engScratchLoad (s : State) (cn lt off n : Nat) : List Byte × State :=
  (s.scratchBytes lt off n, (s.stampLoad cn (scratchLine lt off)).2)

/-- A write of an engine into scratchpad for an activation, or for none: the blocks that it meets are prepared first
(R210, R215, R293, R294, R296). -/
def State.engKeep (s : State) (lc lt : Nat) (key : Option Key) (logged : Bool) (off n : Nat) : Room × State :=
  match key with
  | none => (.ok, s)
  | some k =>
    ((List.range (n / 64 + 2)).map fun i => off / 64 * 64 + 64 * i).foldl
      (fun (r : Room × State) b => match r with
        | (.ok, s1) => if b < off + n then s1.keepAccess lc lt k (Nat.max b off) logged else (.ok, s1)
        | r => r) (.ok, s)

/-- Which translation an engine's access meets: the physical address, a refusal by PAGE_FAULT or PAGE_PERM, or a wait. -/
inductive EngXl where
  | ok (pa : Nat) (dt : Bool)
  | wait (level : Nat)
  | refused (cause : BitVec 8)
  | hold                     -- the tile's walker serves another partition (R449)
  deriving DecidableEq, Repr

/-- Translates an access of a tile's engine (R209, R365). -/
def State.engXlate (s : State) (part tile va need : Nat) : EngXl × State :=
  if va < 2 ^ 20 ∨ 2 ^ 56 ≤ va then (.refused cPageFault, s)
  else
    match s.xlate part tile false (engineCore tile) va need with
    | (.ok pa dt, s1) => if need = aStore && s1.inView pa then (.refused cWindowWrite, s1) else (.ok pa dt, s1)
    | (.miss l, s1) => (.wait l, s1)
    | (.malformed, s1) => (.refused cPageFault, s1)
    | (.noRight, s1) => (.refused cPagePerm, s1)
    | (.walker, s1) => (.hold, s1)

/-- A strand's access that an engine at the home makes for it: the traps and parks of R126, and no shipping (R391). -/
def State.engineReach (s : State) (id : Nat) (i : Instr) (ea need : Nat) (k : State → Nat → Bool → State) : State :=
  let c := s.ctxD id
  let part := s.partOf c.kid
  if 2 ^ 56 ≤ ea then s.trap id cPageFault (w64 ea)
  else
    match s.xlate part (s.xlUnit c) true (s.coreNo c) ea need with
    | (.malformed, s1) => s1.trap id cPageFault (w64 ea)
    | (.noRight, s1) => s1.trap id cPagePerm (w64 ea)
    | (.miss l, s1) => s1.pageMiss id (some i) ea need l
    | (.walker, s1) => s1.parkAny id (some i) .walker
    | (.ok pa dt, s1) =>
      if need = aStore && s1.migrating part pa then s1.park id i (.migrating (w64 ea))
      else if need = aStore && s1.inView pa then s1.trap id cWindowWrite (w64 ea)
      else k (s1.countEngine c.kid (s.tileOf c) pa 8) pa dt

/-- What a strand does from now on, on any path, follows the place `t`; it travels with the strand (R167, R181). -/
def State.raiseStrand (s : State) (id : Nat) (t : BitVec 48) : State :=
  (s.raiseT (s.coreNo (s.ctxD id)) t).upd id fun c => { c with stamp := serialMax c.stamp t, acq := serialMax c.acq t }
/-- The engine of a strand's tile takes up work of the strand: its accesses follow what the strand has acquired or fenced (R176, R179). -/
def State.handEngine (s : State) (id : Nat) : State := let c := s.ctxD id
  s.raiseT (engineCore (s.tileOf c)) c.acq
/-- What a strand does from now on follows the accesses that its tile's engines have made (R179, R189). -/
def State.syncEngine (s : State) (id : Nat) : State := let c := s.ctxD id
  s.raiseStrand id (s.clock (engineCore (s.tileOf c))).t

/-! ## Remote addresses and replies (R193, R194, R430, R436) -/

def raDev (a : Word) : Nat := bits a 58 6
def raKid (a : Word) : Nat := bits a 52 6
def raLt (a : Word) : Nat := bits a 40 12
def raWin (a : Word) : Nat := bits a 37 3
def raOff (a : Word) : Nat := bits a 0 20

/-- The retransmit buffer of a logical core takes another flit (R291, R436). -/
def State.retxRoom (s : State) (lc : Nat) : Bool := decide ((s.lcore lc).retx.length < Config.retransmitEntries)

/-- An access that a cut counts as an item (R421): a put, PUTV, RADD or remote copy write. -/
def AccOp.isItem (op : AccOp) : Bool := match op with | .write _ => true | .add _ _ => true | .copyWrite _ => true | .read _ => false | .copyRead _ => false
/-- The payload of an access: up to 16 bytes of data in words 0 and 1, and in word 2 its operation, 0 write, 1 read, 2 add, with its size in bits 15:8. DESIGN CHOICE (log entry
129): R430 leaves the layout open. -/
def AccOp.data (op : AccOp) : Word × Word :=
  match op with
  | .write b => (w64 (leNat (b.take 8)), w64 (leNat ((b.drop 8).take 8)))
  | .copyWrite b => (w64 (leNat (b.take 8)), w64 (leNat ((b.drop 8).take 8)))
  | .add _ v => (v, 0#64)
  | _ => (0#64, 0#64)
def AccOp.word (op : AccOp) : Word :=
  match op with
  | .write b => w64 (b.length * 2 ^ 8)
  | .copyWrite b => w64 (b.length * 2 ^ 8)
  | .read n => w64 (1 + n * 2 ^ 8)
  | .copyRead n => w64 (1 + n * 2 ^ 8)
  | .add n _ => w64 (2 + n * 2 ^ 8)
/-- Launches a put-path access or copy unit of a logical core, whose place follows `stamp` (R176, R193, R196). -/
def State.launchAccess (s0 : State) (lc kind strand : Nat) (addr : Word) (op : AccOp) (issuer : Issuer) (stamp : BitVec 48) : State :=
  let kid := lcKid lc
  let s := if op.isItem && decide (raKid addr = kid) && decide (raDev addr = s0.device.toNat) then s0.updLc lc LCore.countCut else s0
  let hdr := mkHdr (raDev addr) (s.partOf kid) (raKid addr) (raLt addr) 0 0 kind (s.lcore lc).colour (s.lcore lc).cutFlag 0
  s.launchFlitAt lc (mkFlit hdr addr (srcWord 0 s.device.toNat kid 0 strand (lcCore lc) (lcLt lc)) op.data.1 op.data.2 op.word 0#64
    (.access op addr kid s.device.toNat) issuer) stamp

/-- Puts an acknowledgement or refusal into the fabric at the tile where its cause was; it belongs to no stream. Its sender is the logical core that the flit
was addressed to (R104, R431), and its CHAN and CHSEQ name the flit in the stream between the two. DESIGN CHOICE (log entry 129): the spec does not say how an acknowledgement names its
flit. -/
def State.reply (s : State) (f : Flit) (kind : Nat) (p0 : Word) (carry : Carry) : State :=
  let c := s.lcore f.lck
  let r := mkFlit (mkHdr (srcDev f.src) f.part (srcKid f.src) (srcLt f.src) (srcCore f.src) f.chan kind c.colour c.cutFlag (bits f.hdr 0 16)) 0#64
    (srcWord 0 s.device.toNat f.kid f.chan 0 f.core f.lt) p0 0#64 0#64 0#64 carry f.issuer
  let r1 : Flit := { r with fid := s.nextId, sender := f.sender, at_ := f.at_, sentAt := s.tbase, stamp := (s.clock (engineCore f.at_)).t }
  { s with nextId := s.nextId + 1, flits := s.flits ++ [{ r1 with crc := r1.check }] }

/-- Takes one flit off the list of arrivals, off the fabric, or off a sender's retransmit buffer, whose freed entry the first flit that waits for one takes (R436). -/
def State.dropArrival (s : State) (fid : Nat) : State := { s with arrivals := s.arrivals.eraseP fun f => f.fid = fid }
def State.dropFlit (s : State) (fid : Nat) : State := { s with flits := s.flits.eraseP fun f => f.fid = fid }
def State.dropRetx (s : State) (lc fid : Nat) : State :=
  let old := (s.lcore lc).retx
  let keep := old.filter fun f => f.fid ≠ fid
  let held := ((old.take Config.retransmitEntries).filter fun f => f.fid ≠ fid).length
  let next := ((keep.take Config.retransmitEntries).drop held).map fun f => f.fresh (s.ltile (lc / 8)).tile s.tbase
  { s.updLc lc fun c => { c with retx := keep } with flits := s.flits ++ next }
/-- The arrival of a number. -/
def State.arrival? (s : State) (fid : Nat) : Option Flit := s.arrivals.find? fun f => f.fid = fid

/-! ## Acceptance in a stream (R435) -/

/-- How far a number lies below the highest accepted, or none when it lies above. -/
def RxStream.below (x : RxStream) (c : BitVec 16) : Option Nat :=
  let d := x.next - 1#16 - c
  if d.msb then none else some d.toNat
/-- The number has been accepted. -/
def RxStream.has (x : RxStream) (c : BitVec 16) : Bool :=
  match x.below c with
  | none => false
  | some 0 => true
  | some (d + 1) => if d < 64 then x.seen.getLsbD d else true
/-- Every number below this one has been accepted. -/
def RxStream.ready (x : RxStream) (c : BitVec 16) : Bool :=
  match x.below c with
  | none => decide (c = x.next) && decide (x.seen = BitVec.allOnes 64)
  | some d => decide (x.seen >>> d = BitVec.allOnes 64 >>> d)
/-- The stream after a number is accepted. -/
def RxStream.take (x : RxStream) (c : BitVec 16) : RxStream :=
  match x.below c with
  | none => { next := c + 1#16, seen := ((x.seen <<< 1) ||| 1#64) <<< (c - x.next).toNat }
  | some 0 => x
  | some (d + 1) => if d < 64 then { x with seen := x.seen ||| (1#64 <<< d) } else x

/-- The flit's stream must be accepted in order (R435). -/
def State.inOrder (s : State) (f : Flit) : Bool := !(s.isWarp f.kid && decide (f.kind ≤ 1))
/-- The receiving stream of a flit. -/
def State.rxOf (s : State) (f : Flit) : RxStream := mgetD {} (streamFrom f) (s.lcore f.lck).rx

/-! ## Put-path accesses at their destination (R177, R187, R194, R196) -/

/-- The size of an access, and the right that it needs: R 1, W 2, A 4, C 8 (R192). -/
def accSize (op : AccOp) : Nat :=
  match op with
  | .write b => b.length
  | .read n => n
  | .add n _ => n
  | .copyWrite b => b.length
  | .copyRead n => n
def accRight (op : AccOp) : Nat := match op with | .write _ => 1 | .read _ => 0 | .add _ _ => 2 | .copyWrite _ => 3 | .copyRead _ => 3

/-- The window accepts the access (R194). -/
def Window.accepts (w : Window) (op : AccOp) (addr : Word) (kid : Nat) (sameDev : Bool) : Bool :=
  decide (w.size64 ≠ 0#15) && w.rights.getLsbD (accRight op) && (w.anyk || decide (w.kida.toNat = kid)) && (w.devok || sameDev)
    && decide (raOff addr % Nat.max 1 (accSize op) = 0) && decide (raOff addr + accSize op ≤ 64 * w.size64.toNat)

/-- The accepted access reaches its scratch offset: the bytes are written, or a value is read (R187, R196). What its issuer keeps before it has stamps up to
`t`; puts and reads of one destination keep no order beyond that (R176, R177). -/
def State.performAccess (s : State) (lt off : Nat) (op : AccOp) (t : BitVec 48) : Option Word × State :=
  let cn := engineCore (s.ltile lt).tile
  match op with
  | .write b => (none, s.engScratchWrite cn lt off b)
  | .copyWrite b => (none, s.engScratchWrite cn lt off b)
  | .read n => let (b, s1) := s.engScratchReadFrom cn t lt off n
    (some (w64 (leNat b)), s1)
  | .copyRead n => let (b, s1) := s.engScratchReadFrom cn t lt off n
    (some (w64 (leNat b)), s1)
  | .add n v =>
    let l := scratchLine lt off
    let old := leNat (s.scratchBytes lt off n)
    let r := s.stampAtomic cn l true
    (none, State.scratchPut { r.2 with past := (s.keepPast l r.1 (s.scratchBytes lt (off / 128 * 128) 128)).past } lt off (leBytes n (old + v.toNat)))

/-- Keeps what an accepted access was answered, for copies of it that come within the 64 numbers after it (R435). -/
def State.noteAnswer (s : State) (f : Flit) (refused : Bool) (v : Option Word) : State :=
  let st := streamFrom f
  let near (a : Answer) : Bool := decide (a.stream ≠ st) || decide ((f.chseq - a.num).toNat ≤ 64) || (f.chseq - a.num).msb
  s.updLc f.lck fun c => { c with answers := { stream := st, num := f.chseq, refused := refused, value := v } :: c.answers.filter near }
/-- An accepted access takes its place and is acknowledged, or was refused (R177, R194). -/
def State.answerAccess (s : State) (f : Flit) (place : Option Nat) : State :=
  match f.carry, place with
  | .access op _ _ _, some off =>
    let r := s.performAccess (ltKey f.kid f.lt) off op f.stamp
    (r.2.noteAnswer f false r.1).reply f 4 (r.1.getD 0#64) (.ack f.fid r.1)
  | .access _ addr _ _, none => (s.noteAnswer f true none).reply f 5 addr (.nack f.fid addr)
  | _, _ => s
/-- Accesses that have been accepted and not made are made now. -/
def State.landTaken (s : State) (p : Flit → Bool) : State :=
  (s.taken.filter fun e => p e.1).foldl (fun s e => s.answerAccess e.1 (some e.2)) { s with taken := s.taken.filter fun e => !p e.1 }

/-! ## Cuts (R421, R422) -/

/-- What the cores of a logical tile share, as a cut records it. DESIGN CHOICE (log entry 11): logical core 0, at which accesses from outside arrive (R431), records it with its
own state. -/
def State.recordShared (s : State) (lt : Nat) (sh : Shard) : Shard :=
  let chains := (s.kernelD (lt / 4096)).chains.filter fun ch => ltKey (lt / 4096) ch.places[0].1 = lt
  let bars := s.bars.filter fun b => decide (2 ^ 60 ≤ b.place) && decide ((b.place - 2 ^ 60) / 2 ^ 20 = lt)
  { sh with lts := (lt, s.ltile lt) :: sh.lts, chains := chains ++ sh.chains, bars := bars ++ sh.bars }
/-- The logical core of a kernel that is being cut records now, unless it has: its state and its strands'; its cut flag is then 1 (R421). Accesses that the tile has accepted
are in the image of its scratchpad. -/
def State.cutRecord (s0 : State) (lc : Nat) : State :=
  let kid := lcKid lc
  match (s0.kernelD kid).cut with
  | none => s0
  | some ct =>
    if ct.complete || ct.recorded.contains lc then s0
    else
      let s := if lcCore lc = 0 then s0.landTaken fun f => decide (ltKey f.kid f.lt = lc / 8) else s0
      let sh := if lcCore lc = 0 then s.recordShared (lc / 8) ct.shard else ct.shard
      let sh1 : Shard := { sh with lcs := (lc, s.lcore lc) :: sh.lcs, ctxs := ((s.ctxs.map (·.2)).filter fun c => c.alck = lc) ++ sh.ctxs }
      (s.updK kid fun k => { k with cut := some { ct with recorded := lc :: ct.recorded, shard := sh1 } }).updLc lc fun x => { x with cutFlag := true }
/-- A flit of the kernel itself. -/
def State.fromWithin (s : State) (f : Flit) : Bool := decide (srcKid f.src = f.kid) && decide (srcDev f.src = s.device.toNat)
/-- The order key of what a flit carries. -/
def Carry.key (c : Carry) : Key :=
  match c with
  | .message k _ => k
  | .call k _ _ _ => k
  | .retval k _ => k
  | .anti k => k
  | .antiReturn k _ => k
  | _ => {}
/-- The same content with a key of another SEQ. -/
def Carry.withSeq (c : Carry) (n : Nat) : Carry :=
  match c with
  | .message k r => .message { k with seq := n } r
  | .call k e r st => .call { k with seq := n } e r st
  | .retval k r => .retval { k with seq := n } r
  | .anti k => .anti { k with seq := n }
  | .antiReturn k r => .antiReturn { k with seq := n } r
  | c => c
/-- The flit carries an item of R421; an antimessage is a message. -/
def Flit.isItem (f : Flit) : Bool :=
  match f.carry with
  | .access op _ _ _ => op.isItem
  | .message _ _ => true
  | .call _ _ _ _ => true
  | .retval _ _ => true
  | .queueWord _ => true
  | .codelet _ _ => true
  | .anti _ => true
  | .antiReturn _ _ => true
  | _ => false
/-- An item that its sender's cut counted: one of its own kernel, apart from what counts as from outside (R309, R421). -/
def State.cutCounts (s : State) (f : Flit) : Bool := s.fromWithin f && (decide (1 < f.kind) || s.countsWithin f.kid s.device.toNat f.kid f.carry.key)
/-- A message from outside is kept after the last complete cut, until the next one completes (R425). -/
def State.keepAfter (s : State) (f : Flit) : State :=
  if (s.kernelD f.kid).lastCut.isSome && !s.cutCounts f && decide (f.kind ≤ 1) then s.updLc f.lck fun c => { c with afterCut := c.afterCut ++ [f] } else s
/-- What a cut makes of an arriving item: a flagged one makes its logical core record first, an unflagged one that comes after the
recording is logged (R421, R422). -/
def State.cutArrival (s : State) (f : Flit) : State :=
  if !f.isItem then s
  else
    let within := s.cutCounts f
    let s1 := if f.cut && within then s.cutRecord f.lck else s
    let s2 := (if !f.cut && within then s1.updLc f.lck fun c => { c with cutRecv := c.cutRecv + 1 } else s1).keepAfter f
    match (s2.kernelD f.kid).cut with
    | some ct => if ct.recorded.contains f.lck && !(f.cut && within) then s2.updLc f.lck fun c => { c with chanLog := c.chanLog ++ [f] } else s2
    | none => s2

/-- An arrived flit is accepted: its number is taken in its stream, and early flits whose predecessors have then been accepted come out of the
reorder buffer (R435). The engine that takes an access, codelet update or group's flit follows the sender's clock; a message, task or queue word keeps
it for the strand that it reaches (R180, R253, R266). -/
def State.accept (s0 : State) (f : Flit) : State :=
  let s := s0.cutArrival f
  let x := (s.rxOf f).take f.chseq
  let s1 := (s.dropArrival f.fid).updLc f.lck fun c => { c with rx := mset (streamFrom f) x c.rx }
  let go (g : Flit) : Bool := decide (streamFrom g = streamFrom f) && x.ready g.chseq
  let out := (s1.lcore f.lck).reorder.filter go
  let s2 := { s1.updLc f.lck fun c => { c with reorder := c.reorder.filter fun g => !go g } with arrivals := s1.arrivals ++ out }
  if f.kid = 63 ∨ f.kind ≤ 2 then s2 else s2.raiseT (engineCore (s.ltile (f.lck / 8)).tile) f.stamp

/-- A gang is on its way out or back: from the switch time until the steps of its resume are done (R415, R417). -/
def Partition.away (p : Partition) : Bool := decide (p.gang = .saving) || decide (p.gang = .switched) || decide (p.gang = .restoring)
/-- The state of a kernel that takes what arrives for it, HELD, RUNNING or SWITCHED; what arrives while its gang is saved or restored meets it as SWITCHED (R194, R278, R415). -/
def State.accessState (s : State) (part kid : Nat) : Option KState :=
  match s.kernel? kid with
  | some k =>
    if k.part ≠ part then none
    else match k.state with
      | .held => some (if (s.part part).away then .switched else .held)
      | .running => some (if (s.part part).away then .switched else .running)
      | .switched => some .switched
      | _ => none
  | none => none

/-- An arrived item is delivered to its kernel; one for a kernel that is not HELD or RUNNING, or for a logical tile that the kernel does
not have, is discarded, and its sender is told, of a codelet update with its handle (R265); one for a SWITCHED kernel goes to its fallout area (R278). -/
def State.gate (s : State) (f : Flit) (k : State) : State :=
  let told : Word := match f.carry with | .codelet h _ => h | _ => 0#64
  match s.accessState f.part f.kid with
  | some st =>
    if (s.kernelD f.kid).tiles ≤ f.lt then (s.dropArrival f.fid).reply f 5 told (.nack f.fid told)
    else if st = .switched then (s.dropArrival f.fid).updLt (ltKey f.kid f.lt) fun x => { x with fallout := x.fallout ++ [f] }
    else k
  | none => (s.dropArrival f.fid).reply f 5 told (.nack f.fid told)
/-- Acceptance of an item and its acknowledgement (R436). -/
def State.acceptAck (s : State) (f : Flit) : State := (s.accept f).reply f 4 0#64 (.ack f.fid none)
/-- A message or queue word that its kernel takes, when there is room for it: it is accepted and counted, and then does its work, or, while the kernel's cores are stopped, is held in
an input buffer until they go on (R412). -/
def State.acceptIn (s : State) (f : Flit) (room : Bool) (count take : State → State) : State :=
  s.gate f (
    if !room then s
    else
      let s1 := count (s.acceptAck f)
      if s1.kernelRuns f.kid then take s1 else s1.updLc f.lck fun c => { c with heldIn := c.heldIn ++ [(f, s.tbase)] })

end Sys2Proof.Machine
end

