-- ==== Sys2Proof/Machine/Record.lean ====
section
/-! DEFINITION. The saved forms of a strand: its small context with the stream state, the binding words, and the strand record of the save area (R100, R151, R255, R405). -/

namespace Sys2Proof.Machine

open Sys2Proof

/-- Bits 191:128 of the stream state (R151). -/
def Stream.status (x : Stream) : Word :=
  w64 (bit x.ended * 2 ^ 52 + bit x.en * 2 ^ 51 + bit x.dir * 2 ^ 50 + x.ndim.toNat * 2 ^ 48
    + x.idx[3].toNat * 2 ^ 36 + x.idx[2].toNat * 2 ^ 24 + x.idx[1].toNat * 2 ^ 12 + x.idx[0].toNat)
/-- The 24 bytes of the stream state, bits 63:0 first (R151). -/
def Stream.bytes (x : Stream) : List Byte :=
  leBytes 8 (x.stride[3].toNat * 2 ^ 48 + x.stride[2].toNat * 2 ^ 32 + x.stride[1].toNat * 2 ^ 16 + x.stride[0].toNat)
    ++ leBytes 8 (x.base16.toNat * 2 ^ 48 + x.bound[3].toNat * 2 ^ 36 + x.bound[2].toNat * 2 ^ 24 + x.bound[1].toNat * 2 ^ 12 + x.bound[0].toNat)
    ++ leBytes 8 x.status.toNat

/-- A word of a saved form. -/
def wordBytes (w : Word) : List Byte := leBytes 8 w.toNat
/-- The 640 bytes of the small context (R100). -/
def Ctx.smallContext (c : Ctx) : List Byte :=
  let rep : Nat × Nat := match c.rep with
    | some r => (r.count.toNat, r.start.toNat % 2 ^ 56 + (r.stop - r.start).toNat / 4 % 32 * 2 ^ 56 + 2 ^ 63)
    | none => (0, 0)
  (List.finRange 32).flatMap (fun i => if i.val = 0 then wordBytes 0#64 else wordBytes c.g[i]) ++ c.f.toList.flatMap wordBytes ++ wordBytes c.pc
    ++ leBytes 8 (c.frm.toNat + c.fflags.toNat * 2 ^ 8 + c.fen.toNat * 2 ^ 16) ++ leBytes 8 rep.1 ++ leBytes 8 rep.2 ++ c.streams.toList.flatMap Stream.bytes
/-- What shipping carries and a save begins with: the small context and the eight binding words (R255). -/
def Ctx.travels (c : Ctx) : List Byte := c.smallContext ++ c.q.toList.flatMap wordBytes
/-- The state that a record notes: READY, PARKED, TRAPPED or SHIPPED (R405). -/
def Ctx.savedState (c : Ctx) : Nat :=
  if c.shipped.isSome || c.shipWait then 4 else match c.run with | .parked => 2 | .trapped => 3 | _ => 1
/-- The 832 bytes of a strand record; `stop` is STOPMARK (R405). -/
def Ctx.record (c : Ctx) (stop : Bool) : List Byte :=
  let pending := (c.pend.map fun p => p.d.toNat).dedup.foldl (fun m n => m + 2 ^ (32 + n)) 0
  c.travels
    ++ leBytes 8 (c.savedState + bit stop * 2 ^ 8 + bit c.held.isSome * 2 ^ 9 + c.item.chan % 16 * 2 ^ 10 + c.prio.toNat * 2 ^ 14)
    ++ leBytes 8 c.stamp.toNat ++ leBytes 8 ((match c.held with | some h => h.sample.toNat | none => 0) + pending)
    ++ wordBytes (if c.run = .trapped then c.trapHandle else 0#64) ++ wordBytes c.epc ++ leBytes 8 c.ecause.toNat ++ wordBytes c.einfo ++ wordBytes c.scratchReg
    ++ wordBytes c.waitlim ++ wordBytes c.fsup ++ wordBytes c.item.vrt ++ wordBytes c.item.src ++ leBytes 32 0

/-- A context's strand record is written to its partition's save area. What comes for the strand while it is saved, such as a return, an answer or an ERET, changes
the context, which the resume gives back, and with it the record (notes/assumptions/91.md). -/
def State.saveRecord (s : State) (id : Nat) (stop : Bool) : State := { s with saves := mset id ((s.ctxD id).record stop) s.saves }
/-- The record has been loaded again. -/
def State.dropRecord (s : State) (id : Nat) : State := { s with saves := mdel id s.saves }
/-! ## Replay entries (R416) -/

/-- The 192 bytes of a replay entry. -/
def replayBytes (kind core id progress sample order : Nat) (body : List Byte) : List Byte :=
  leBytes 8 (kind + core * 2 ^ 8 + id * 2 ^ 16) ++ leBytes 8 progress ++ leBytes 8 sample ++ leBytes 8 order ++ (body ++ List.replicate 128 0#8).take 128 ++ List.replicate 32 0#8
/-- A copy's entry, with its descriptor as read at issue. -/
def CopyRec.replay (r : CopyRec) (core : Nat) : List Byte := replayBytes 1 core (r.slot + r.seqno % 1024 * 64) r.progress r.frm.toNat r.order r.desc
/-- An access's entry. DESIGN CHOICE (log entry 96): the spec does not lay out an access's operands; its flit stands for them. -/
def Replay.replay (e : Replay) : List Byte := replayBytes e.kind e.core 0 0 0 e.order (flitBytes e.flit ++ wordBytes e.flit.crc)
/-- A collective's entry; the layout of its operands is the model's too. -/
def CollRec.replay (r : CollRec) (core : Nat) : List Byte :=
  replayBytes 5 core (r.slot + r.seqno % 4096 * 16) 0 r.op.frm.toNat r.order (wordBytes r.op.name
    ++ leBytes 8 (r.op.kind + r.op.rop * 2 ^ 8 + bit r.op.mode * 2 ^ 16 + (dtCode r.op.dt).toNat * 2 ^ 24 + (rmCode r.op.rm).toNat * 2 ^ 32)
    ++ [r.op.gen.toNat, r.op.k, r.src, r.dst, r.op.count, r.op.root].flatMap (leBytes 8))
/-- Entries by rising issue order. -/
def insertEntry (l : List (Nat × List Byte)) (e : Nat × List Byte) : List (Nat × List Byte) := l.takeWhile (fun x => decide (x.1 ≤ e.1)) ++ e :: l.dropWhile (fun x => decide (x.1 ≤ e.1))
/-- The replay entries of a logical tile, in issue order: its copies and collectives that are to be issued again, and its accesses. -/
def State.replayEntries (s : State) (lt : Nat) : List (List Byte) :=
  let own (i : Nat) : List (Nat × List Byte) :=
    let l := s.lcore (8 * lt + i)
    ((l.copies.filter fun r => decide (r.state = 7)).map fun r => (r.order, r.replay i)) ++ ((l.colls.filter fun r => decide (r.state = 5)).map fun r => (r.order, r.replay i))
  (((List.range 8).flatMap own ++ (s.ltile lt).replays.map fun e => (e.order, e.replay)).foldl insertEntry []).map (·.2)

/-- STOPMARK of a context's record. -/
def State.stopMarked (s : State) (id : Nat) : Bool := (leNat (((mgetD [] id s.saves).drop 704).take 8)).testBit 8

end Sys2Proof.Machine
end

