-- ==== Sys2Proof/Machine/Area.lean ====
section
/-! DEFINITION. Partition memory: what the module keeps there, in clear and encrypted under the partition's key, and the shards of a cut (R257, R369, R405, R415, R423, R425, R443, R447, R457). The addresses are firmware's, and the order in which things stand in an area is the model's (notes/assumptions/131.md). -/

namespace Sys2Proof.Machine

open Sys2Proof

/-! ## Encryption (R457) -/

/-- The AES-256-XTS key of a partition, of 64 bytes: one key for each time that the security block has made one. -/
def State.keyOf (s : State) (part : Nat) : List Byte := beBytes 64 (Config.xtsKey part (s.part part).xtsKey).toNat
/-- Bytes are filled up with zeros to whole data units of 512 bytes. -/
def dataUnits (bs : List Byte) : List Byte := bs ++ List.replicate ((512 - bs.length % 512) % 512) 0#8
/-- Data units that stand at a physical address, encrypted: the tweak of each is its address divided by 512. -/
def sealUnits (key : List Byte) (pa : Nat) (bs : List Byte) : List Byte :=
  (List.range (bs.length / 512)).flatMap fun i => xtsEncrypt key (pa / 512 + i) ((bs.drop (512 * i)).take 512)
/-- The module writes bytes into partition memory, at the L2 and at the DRAM; address 0 names no place. -/
def State.putArea (s : State) (pa : Nat) (bs : List Byte) : State := if pa = 0 then s else { s with glob := memPut s.glob pa bs, dram := memPut s.dram pa bs }
def State.putSealed (s : State) (part pa : Nat) (bs : List Byte) : State := if pa = 0 then s else s.putArea pa (sealUnits (s.keyOf part) pa (dataUnits bs))

/-! ## What stands there -/

/-- The 64 bytes of a flit (R430). -/
def Flit.bytes (f : Flit) : List Byte := flitBytes f ++ wordBytes f.crc
/-- A task record: entry address, arguments, VRT, source word, and the stamp of its enqueue (R257). -/
def Item.taskBytes (m : Item) : List Byte := [m.entry.getD 0#64, m.p0, m.p1, m.p2, m.p3, m.vrt, m.src, w64 m.arrived].flatMap wordBytes
/-- The 32 bytes of a page-request record (R369). -/
def PageRec.bytes (r : PageRec) : List Byte :=
  wordBytes r.va ++ leBytes 8 (r.gen.toNat + r.part * 2 ^ 16 + r.kid * 2 ^ 20 + r.kind * 2 ^ 26 + r.level * 2 ^ 28) ++ leBytes 8 r.waiters ++ leBytes 8 (r.answer.toNat + r.ansGen.toNat * 2 ^ 16)
/-- The bytes of a per-launch record: sums, event codes, and the word with EXCL and the count of contributing tiles (R447). -/
def LaunchRec.bytes (r : LaunchRec) : List Byte :=
  r.sums.toList.flatMap wordBytes ++ r.codes.toList ++ leBytes 8 (bit r.excl + r.tiles.length % 2 ^ 16 * 2 ^ 16)
/-- The word of a window register (R192). -/
def Window.word (w : Window) : Word :=
  w64 (w.kida.toNat * 2 ^ 58 + bit w.anyk * 2 ^ 57 + bit w.devok * 2 ^ 56 + w.rights.toNat * 2 ^ 52 + w.size64.toNat * 2 ^ 15 + w.base64.toNat)
/-- A bank of an MU context, row by row, and a record of its queue. -/
def bankBytes (b : List (Nat × BitVec 32)) : List Byte := (List.range 1024).flatMap fun i => leBytes 4 (mgetD 0#32 i b).toNat
def MuRec.bytes (r : MuRec) : List Byte := [r.w0, r.w1, r.w2, r.w3, r.w4, r.w5, r.w6, r.w7].flatMap wordBytes
/-- The 9,472 bytes of an MU context: both banks, the queue and its stamps, the status, and the progress of a command that has been stopped (R214). -/
def MuCtx.bytes (m : MuCtx) : List Byte :=
  let full (n : Nat) (bs : List Byte) : List Byte := (bs ++ List.replicate n 0#8).take n
  bankBytes m.work ++ bankBytes m.vis ++ full 1024 (m.queue.flatMap MuRec.bytes) ++ full 128 (m.queue.flatMap fun r => leBytes 8 r.frm.toNat)
    ++ full 128 (leBytes 8 (m.fl.toNat + m.fcause.toNat * 2 ^ 8 + m.fcmd.toNat * 2 ^ 16 + bit m.faulted * 2 ^ 24 + m.queue.length * 2 ^ 32) ++ wordBytes m.fInfo
      ++ [m.acc, m.done, m.accBase, m.kdone, m.part16].flatMap (leBytes 8))
/-- The bytes of an order key, of what a commit entry is to do, and of the entries of the logs. -/
def Key.bytes (k : Key) : List Byte := [k.vrt, k.slt, k.score, k.sstrand, k.seq].flatMap (leBytes 8)
def CommitOp.bytes : CommitOp → List Byte
  | .store pa bs ea dt ef => leBytes 8 pa ++ wordBytes ea ++ leBytes 8 (bit dt + bit ef * 2 + bs.length * 2 ^ 8) ++ bs
  | .put addr op => wordBytes addr ++ wordBytes op.data.1 ++ wordBytes op.data.2 ++ wordBytes op.word
  | .copy lc slot => leBytes 8 lc ++ leBytes 8 slot
  | .message f => f.bytes
def CommitEntry.bytes (e : CommitEntry) : List Byte := e.by_.bytes ++ leBytes 8 e.seqno ++ e.op.bytes
def KeepEntry.bytes (e : KeepEntry) : List Byte := e.by_.bytes ++ leBytes 8 e.lt ++ leBytes 8 e.off ++ e.old
def OutEntry.bytes (e : OutEntry) : List Byte := e.by_.bytes ++ wordBytes e.hdr ++ e.key.bytes
/-- What moves with a logical core (R326): its bindings, mask and held items, ports, ready ring, MU context, logs and commit queue, and its counts. -/
def LCore.bytes (c : LCore) : List Byte :=
  c.bindings.toList.map (fun b => BitVec.ofNat 8 (bit b.bound * 2 ^ 6 + b.prio.toNat * 2 ^ 4 + b.entry.toNat)) ++ leBytes 1 c.chan15Prio.toNat ++ leBytes 8 c.mask.toNat
    ++ c.items.flatMap (fun m => leBytes 8 m.chan ++ m.taskBytes) ++ c.ports.toList.flatMap (fun p => leBytes 8 p.words.length ++ p.words.flatMap wordBytes)
    ++ c.ring.flatMap Item.taskBytes ++ c.mu.bytes ++ c.keepLog.flatMap KeepEntry.bytes ++ c.outLog.flatMap OutEntry.bytes ++ c.commitQ.flatMap CommitEntry.bytes
    ++ leBytes 8 c.sent ++ leBytes 8 c.received
/-- A logical tile's image: scratchpad and windows, the records of its strands, and of each of its logical cores what moves with it, the channel log and the accesses that are to be
issued again (R326, R404, R423). -/
def imageOf (size : Nat) (x : LTile) (cs : List Ctx) (ls : List (Nat × LCore)) : List Byte :=
  memBytes x.scratch 0 size ++ x.windows.toList.flatMap (fun w => wordBytes w.word) ++ cs.flatMap (fun c => c.record false)
    ++ ls.flatMap fun e => e.2.bytes ++ e.2.chanLog.flatMap Flit.bytes
      ++ (e.2.retx.filter fun f => decide (f.kind = 3) || decide (f.kind = 6)).flatMap fun f => ({ kind := if f.kind = 3 then 2 else 3, core := lcCore e.1, order := f.fid, flit := f } : Replay).replay

/-! ## Shards (R423) -/

/-- The bytes of the shard of a tile: the images of the logical tiles that it hosted at recording. -/
def Cut.shardBytes (ct : Cut) (size t : Nat) : List Byte :=
  (ct.shard.lts.filter fun e => e.2.tile = t).flatMap fun e =>
    imageOf size e.2 (ct.shard.ctxs.filter fun c => ltKey c.kid c.homeLt = e.1) (ct.shard.lcs.filter fun x => x.1 / 8 = e.1)
/-- Where each shard stands in the kernel's checkpoint space, and its bytes: one after the other, each from a data unit on. -/
def shardsFrom (base : Nat) : List (List Byte) → List (Nat × List Byte)
  | [] => []
  | b :: t => (base, b) :: shardsFrom (base + (dataUnits b).length) t
def Cut.placed (ct : Cut) (size base : Nat) : List (Nat × List Byte) := shardsFrom base (ct.tilesThen.map fun t => ct.shardBytes size t)
/-- The shards of a complete cut are written to the kernel's checkpoint space. -/
def State.writeShards (s : State) (kid : Nat) (ct : Cut) : State :=
  let k := s.kernelD kid
  if k.cutBase = 0 then s else (ct.placed k.s k.cutBase).foldl (fun s e => s.putSealed k.part e.1 e.2) s
/-- Every shard of a cut matches its digest, where the model holds their place: what stands there is what was written. -/
def State.shardsMatch (s : State) (kid : Nat) (ct : Cut) : Bool :=
  let k := s.kernelD kid
  decide (k.cutBase = 0) || (ct.placed k.s k.cutBase).all fun e => memBytes s.glob e.1 (dataUnits e.2).length == sealUnits (s.keyOf k.part) e.1 (dataUnits e.2)

/-! ## The areas of a partition -/

/-- A strand record shows its strand as it stands now, what has come for it while it is saved included; that it was SHIPPED and its STOPMARK stay (R405). -/
def freshRecord (c : Ctx) (old : List Byte) : List Byte :=
  let w := leNat ((old.drop 704).take 8)
  let b := c.record (w.testBit 8)
  if w % 16 = 4 then b.take 704 ++ leBytes 8 (leNat ((b.drop 704).take 8) / 16 * 16 + 4) ++ b.drop 712 else b
def State.refreshRecords (s : State) : State :=
  { s with saves := s.saves.map fun e => match s.ctx? e.1 with | some c => (e.1, freshRecord c e.2) | none => e }
/-- What a partition keeps encrypted: the page-request records, and of its kernels the save areas, the fallout areas, the replay entries, and, once a gang switch has written them, the
images of their logical tiles, with the MU contexts and with the ready rings that the queue controllers write back (R415, R457). -/
def State.sealedBytes (s : State) (part : Nat) : List Byte :=
  let mine (kid : Nat) : Bool := match s.kernel? kid with | some k => decide (k.part = part) | none => false
  let away (kid : Nat) : Bool := decide ((s.kernelD kid).state = .switched)
  ((s.dies.flatMap fun e => e.2.pages).filter fun r => r.part = part).flatMap PageRec.bytes
    ++ (s.saves.filter fun e => mine (s.ctxD e.1).kid).flatMap (·.2)
    ++ (s.ltiles.filter fun e => mine (e.1 / 4096)).flatMap (fun e => e.2.fallout.flatMap Flit.bytes ++ e.2.replayArea.flatten)
    ++ (s.ltiles.filter fun e => mine (e.1 / 4096) && away (e.1 / 4096)).flatMap fun e => imageOf (s.kernelD (e.1 / 4096)).s e.2 [] (s.lcores.filter fun x => x.1 / 8 = e.1)
/-- What a kernel keeps in clear: its per-launch record, and from byte 256 on the messages kept since its last cut (R425, R447). -/
def State.openBytes (s : State) (kid : Nat) : List Byte :=
  (s.kernelD kid).record.bytes ++ List.replicate 104 0#8 ++ (s.lcores.filter fun e => lcKid e.1 = kid).flatMap fun e => e.2.afterCut.flatMap Flit.bytes
/-- After each step partition memory holds what the module keeps there. -/
def State.writeBack (s0 : State) : State :=
  let s := s0.refreshRecords
  let s1 := s.parts.foldl (fun x e => if e.2.area = 0 then x else x.putSealed e.1 e.2.area (s.sealedBytes e.1)) s
  let s2 := s.tiles.foldl (fun x e => if e.2.traceBase = 0 then x else x.putArea e.2.traceBase (e.2.trace.flatMap fun r => r.words.toList.flatMap wordBytes)) s1
  s.kernels.foldl (fun x e => if e.2.recordAt = 0 then x else x.putArea e.2.recordAt (s.openBytes e.1)) s2

end Sys2Proof.Machine
end

