-- ==== Sys2Proof/Machine/Barrier.lean ====
section
/-! DEFINITION. Barriers: the record and its table, the completion check, and the six instructions (R391-R403). -/

namespace Sys2Proof.Machine

open Sys2Proof

/-! ## Where a record lies -/

/-- The number by which a directory names a record (R400). -/
def Place.num (p : Place) : Nat := match p with | .scratch lt off => 2 ^ 60 + lt * 2 ^ 20 + off | .phys pa _ => pa
/-- The die that homes a place. -/
def State.placeDie (s : State) (p : Place) : Nat :=
  match p with
  | .scratch lt _ => dieOfTile (s.ltile lt).tile
  | .phys pa _ => dieOfPa pa
/-- Reads and writes at a place with an engine's clock. -/
def State.placeRead (s : State) (cn : Nat) (p : Place) (n : Nat) : List Byte × State :=
  match p with
  | .scratch lt off => s.engScratchLoad cn lt off n
  | .phys pa _ => s.engLoad cn pa n
def State.placeWrite (s : State) (cn : Nat) (p : Place) (bs : List Byte) : State :=
  match p with
  | .scratch lt off => s.engScratchWrite cn lt off bs
  | .phys pa dt => s.engWrite cn pa bs dt
/-- The bytes at a place, without an access. -/
def State.placeBytes (s : State) (p : Place) (n : Nat) : List Byte :=
  match p with
  | .scratch lt off => s.scratchBytes lt off n
  | .phys pa _ => s.paBytes pa n
/-- The place of an address of a logical tile of a partition, as the tables stand. -/
def State.placeOf (s : State) (part lt a : Nat) : Option Place :=
  if a < 2 ^ 20 then some (.scratch lt a)
  else match s.walk part a with
    | .leaf t _ _ _ => some (.phys (t.frame + a % 65536) t.dt)
    | _ => none

/-! ## The record (R391, R392) -/

/-- A barrier record's fields. -/
structure BarRec where
  phase : Nat
  target : Nat
  cnt : Nat × Nat
  pend : Word
  wd : Nat × Nat
  flags : Nat
  table : Word
  part : Word
  deriving DecidableEq, Repr

/-- The record that 64 bytes hold, and the 48 bytes of its fields. -/
def barOf (b : List Byte) : BarRec :=
  let f (o n : Nat) : Nat := leNat ((b.drop o).take n)
  { phase := f 0 4, target := f 4 4, cnt := (f 8 4, f 12 4), pend := w64 (f 16 8), wd := (f 24 2, f 26 2), flags := f 28 4,
    table := w64 (f 32 8), part := w64 (f 40 8) }
def BarRec.bytes (r : BarRec) : List Byte :=
  leBytes 4 r.phase ++ leBytes 4 r.target ++ leBytes 4 r.cnt.1 ++ leBytes 4 r.cnt.2 ++ leBytes 8 r.pend.toNat ++ leBytes 2 r.wd.1
    ++ leBytes 2 r.wd.2 ++ leBytes 4 r.flags ++ leBytes 8 r.table.toNat ++ leBytes 8 r.part.toNat
def BarRec.err (r : BarRec) : Bool := r.flags % 2 = 1
def BarRec.empty (r : BarRec) : Bool := r.flags / 2 % 2 = 1
def BarRec.valid (r : BarRec) : Bool := r.flags / 4 % 2 = 1
def BarRec.lo (r : BarRec) : Nat := bits r.part 0 12
def BarRec.n (r : BarRec) : Nat := bits r.part 16 12 + 1
def BarRec.kid (r : BarRec) : Nat := bits r.part 32 6
/-- A pair indexed by the parity of a phase. -/
def parity (p : Nat × Nat) (ph : Nat) : Nat := if ph % 2 = 0 then p.1 else p.2
def setParity (p : Nat × Nat) (ph v : Nat) : Nat × Nat := if ph % 2 = 0 then (v, p.2) else (p.1, v)
/-- Phase `p` has completed (R392). -/
def BarRec.done (r : BarRec) (p : Nat) : Bool :=
  let d := (r.phase + 2 ^ 32 - p % 2 ^ 32) % 2 ^ 32
  decide (1 ≤ d) && decide (d < 2 ^ 31)
/-- Table entries (R391): has arrived in a phase, has withdrawn, an arrival. -/
def arrivedIn (e : Word) (p : Nat) : Bool := e.getLsbD 32 && decide (bits e 0 32 = p % 2 ^ 32)
def withdrawn (e : Word) : Bool := e.getLsbD 33
def arrivalEntry (e : Word) (a : Nat) : Word := w64 (a % 2 ^ 32 + 2 ^ 32 + bit (withdrawn e) * 2 ^ 33)

/-- The record at a place. -/
def State.bar (s : State) (p : Place) : BarRec := barOf (s.placeBytes p 64)
/-- Writes a record. -/
def State.setBar (s : State) (cn : Nat) (p : Place) (r : BarRec) : State := s.placeWrite cn p r.bytes
/-- The place of a logical tile's table entry, next to the record. -/
def State.entryPlace (s : State) (part lt : Nat) (r : BarRec) (t : Nat) : Option Place :=
  s.placeOf part lt (r.table.toNat + 8 * (t - r.lo))
/-- An entry's word. -/
def State.entry (s : State) (p : Place) : Word := w64 (leNat (s.placeBytes p 8))

/-- The arrival of a logical tile in the current or next phase (R396): its phase, and the state with the count and entry. -/
def State.arrive (s : State) (cn : Nat) (p ep : Place) : Nat × State :=
  let r := s.bar p
  let e := s.entry ep
  let a := (if arrivedIn e r.phase then r.phase + 1 else r.phase) % 2 ^ 32
  let r1 := { r with cnt := setParity r.cnt a ((parity r.cnt a + 1) % 2 ^ 32) }
  (a, (s.setBar cn p r1).placeWrite cn ep (leBytes 8 (arrivalEntry e a).toNat))

/-- The contexts parked at a barrier on a phase, in arrival order (R393): an arrival waits with its order in its mark. -/
def insertByMark (x : Nat × Nat) : List (Nat × Nat) → List (Nat × Nat)
  | [] => [x]
  | y :: t => if x.1 < y.1 then x :: y :: t else y :: insertByMark x t
def State.parkedAtBar (s : State) (part : Nat) (p : Place) (ph : Nat) : List (Nat × Ctx) :=
  let here := s.ctxs.filter fun e => match e.2.wait with
    | .arrival a q => decide (s.partOf e.2.kid = part) && decide ((s.placeOf part e.2.ltk a.toNat).map Place.num = some p.num) && decide (q.toNat = ph)
    | _ => false
  let order := (here.map fun e => (e.2.markOf, e.1)).foldl (fun l x => insertByMark x l) []
  order.map fun x => (x.2, s.ctxD x.2)

/-- A parked arrival is performed, after what its strand had before it: BARV completes with its phase in gD (R189, R393, R396). -/
def State.performParked (s : State) (cn part : Nat) (p : Place) (id : Nat) : State :=
  let c := s.ctxD id
  match c.held with
  | some { instr := .barv d _, .. } =>
    match s.entryPlace part c.ltk (s.bar p) c.lt with
    | some ep =>
      let (a, s1) := (s.raiseT cn c.acq).arrive cn p ep
      s1.upd id fun c => (c.setG d (w64 a)).retired (c.pc + 4#64)
    | none => s.upd id fun c => { c with run := .ready, wait := .none }
  | _ => s

/-- The place that a directory's number names. -/
def placeOfNum (n : Nat) : Place := if 2 ^ 60 ≤ n then .scratch ((n - 2 ^ 60) / 2 ^ 20) ((n - 2 ^ 60) % 2 ^ 20) else .phys n false
/-- The directory of a die: the VALID barriers of a kernel whose records it homes, wherever their logical tiles stand now (R400). A record that stores have
made invalid or EMPTY is no VALID barrier (R391). -/
def State.directory (s : State) (die kid : Nat) : List Place :=
  ((s.bars.filter fun b => b.kid = kid).map fun b => placeOfNum b.place).filter fun p => decide (s.placeDie p = die) && (s.bar p).valid && !(s.bar p).empty
/-- The 64 bytes that BINIT makes a barrier are no codelet record any more. -/
def State.takePlace (s : State) (p : Place) : State :=
  match p with
  | .scratch lt off => s.dropCodelets lt off 64
  | .phys _ _ => s
/-- Lists a record once; one that becomes EMPTY is in no directory from then on (R400). -/
def State.listBarrier (s : State) (kid : Nat) (p : Place) : State := { s with bars := s.bars.filter (fun b => b.place ≠ p.num) ++ [{ kid := kid, place := p.num }] }
/-- Changes what is kept of a barrier's credits. -/
def State.updBar (s : State) (p : Place) (f : Barrier → Barrier) : State := { s with bars := s.bars.map fun b => if b.place = p.num then f b else b }
/-- The line of a place. -/
def Place.line (p : Place) : Nat := match p with | .scratch lt off => scratchLine lt off | .phys pa _ => lineOf pa
/-- The later of two stamps, where there are any. -/
def laterOf (a b : Option (BitVec 48)) : Option (BitVec 48) :=
  match a, b with
  | some x, some y => some (serialMax x y)
  | some x, none => some x
  | none, y => y
/-- A credit's stamp is kept until a phase counts it, and the credits that a phase has counted, for BWAIT (R179, R401). -/
def State.noteCredit (s : State) (p : Place) : State := s.updBar p fun b => { b with credit := laterOf b.credit (some (s.wts p.line)) }
def State.countCredits (s : State) (p : Place) : State := s.updBar p fun b => { b with credit := none, counted := laterOf b.counted b.credit }
/-- The credits that the completed phases of a barrier have counted. -/
def State.creditOf (s : State) (p : Place) : Option (BitVec 48) := (s.bars.find? fun b => b.place = p.num).bind (·.counted)

/-- The completion check (R393); each round completes one phase. -/
def State.barCheck (s : State) (cn part : Nat) (p : Place) : Nat → State
  | 0 => s
  | fuel + 1 =>
    let r := s.bar p
    if r.empty || decide (parity r.cnt r.phase ≠ r.target) || decide (r.pend ≠ 0#64) then s
    else
      let ph := r.phase
      let target := (r.target + 2 ^ 32 - parity r.wd ph) % 2 ^ 32
      let r1 := { r with cnt := setParity r.cnt ph 0, target := target, wd := setParity r.wd ph 0, phase := (ph + 1) % 2 ^ 32,
                         flags := if target = 0 ∧ !r.empty then r.flags + 2 else r.flags }
      let s1 := (s.setBar cn p r1).countCredits p
      ((s1.parkedAtBar part p ph).foldl (fun s e => s.performParked cn part p e.1) s1).barCheck cn part p fuel
/-- The check after an event: at most one round for each phase that waiting arrivals can complete, and two more. -/
def State.barEvent (s : State) (cn part : Nat) (p : Place) : State := s.barCheck cn part p (s.ctxs.length + 3)

/-- A copy's credit of `n` bytes (R398): none unless the address is the first byte of a VALID record. -/
def State.barCredit (s : State) (cn part : Nat) (p : Place) (n : Nat) (err : Bool) : Option State :=
  let r := s.bar p
  if !r.valid || decide (p.num % 64 ≠ 0) then none
  else
    let r1 := { r with pend := r.pend - w64 n, flags := if err && !r.err then r.flags + 1 else r.flags }
    some (((s.setBar cn p r1).noteCredit p).barEvent cn part p)

/-- The withdrawal of a participant (R399), when the logical tile takes part and has not withdrawn. -/
def State.barWithdraw (s : State) (cn part : Nat) (p ep : Place) : State :=
  let r := s.bar p
  let e := s.entry ep
  let r1 :=
    if arrivedIn e (r.phase + 1) then { r with wd := setParity r.wd (r.phase + 1) ((parity r.wd (r.phase + 1) + 1) % 65536) }
    else if arrivedIn e r.phase then { r with wd := setParity r.wd r.phase ((parity r.wd r.phase + 1) % 65536) }
    else
      let t := (r.target + 2 ^ 32 - 1) % 2 ^ 32
      { r with target := t, flags := if t = 0 ∧ !r.empty then r.flags + 2 else r.flags }
  ((s.setBar cn p r1).placeWrite cn ep (leBytes 8 (e ||| 0x200000000#64).toNat)).barEvent cn part p

/-! ## What the six instructions share (R394) -/

/-- A scratch word of a barrier in a keep region is touched for the activation, which is irrevocable in a WARP kernel: its writes are not logged (R294, R302). -/
def State.barTouch (s : State) (id off n : Nat) (k : State → State) : State :=
  let c := s.ctxD id
  k (s.engKeep c.alck c.ltk (if s.isWarp c.kid then some c.item.key else none) false off n).2
/-- Checks 2 to 4: the record's place is passed on. -/
def State.barReach (s0 : State) (id : Nat) (i : Instr) (a : Word) (k : State → Place → State) : State :=
  let s := s0.handEngine id
  let c := s.ctxD id
  if s.spec c then s.trap id cIllegal 0#64
  else if a.toNat % 64 ≠ 0 then s.trap id cMisalign a
  else if a.toNat < 2 ^ 20 then
    (if s.sOf c < a.toNat + 64 then s.trap id cPagePerm a else s.barTouch id a.toNat 64 fun s1 => k s1 (.scratch c.ltk a.toNat))
  else s.engineReach id i a.toNat aStore fun s1 pa dt =>
    if s1.isWarp c.kid && (s1.kernelD c.kid).meetsFrozen a.toNat 64 then s1.trap id cPagePerm a
    else if s1.ev.flag then s1.trap id cMemError a
    else k s1 (.phys pa dt)
/-- Check 5 too: a VALID record of the issuing kernel. -/
def State.barValid (s : State) (id : Nat) (i : Instr) (a : Word) (k : State → Place → BarRec → State) : State :=
  s.barReach id i a fun s1 p =>
    let r := s1.bar p
    if r.valid && decide (r.kid = (s1.ctxD id).kid) then k s1 p r else s1.trap id cIllegal a
/-- Reaches a word of the table, in scratch or global memory as the record. -/
def State.tableReach (s : State) (id : Nat) (i : Instr) (a : Nat) (k : State → Place → State) : State :=
  let c := s.ctxD id
  if a < 2 ^ 20 then (if s.sOf c < a + 8 then s.trap id cPagePerm (w64 a) else s.barTouch id a 8 fun s1 => k s1 (.scratch c.ltk a))
  else s.engineReach id i a aStore fun s1 pa dt => k s1 (.phys pa dt)
/-- The engine clock of a context's tile. -/
def State.engineClock (s : State) (c : Ctx) : Nat := engineCore (s.tileOf c)

/-- BWAIT's and BTEST's result (R397). -/
def BarRec.result (r : BarRec) (done : Bool) : Word :=
  w64 (bit done * 2 ^ 63 + bit r.empty * 2 ^ 33 + bit r.err * 2 ^ 32 + r.phase)

/-! ## Meanings -/

/-- BINIT (R395): word 2's fields are lo and n − 1. -/
def execBinit (d a b : Reg) (lo n1 : BitVec 12) (s : State) : Host.Outcome State Fault Refusal :=
  strandOp s (.binit d a b lo n1) fun id c =>
    let i : Instr := .binit d a b lo n1
    let va := c.getG a
    let vb := c.getG b
    let n := n1.toNat + 1
    s.barReach id i va fun s1 p =>
      let done (s : State) (v : Word) : State := s.finishG id d v 12
      if vb.toNat % 8 ≠ 0 then s1.trap id cMisalign vb
      else if decide (vb.toNat < 2 ^ 20) ≠ decide (va.toNat < 2 ^ 20) ∨ (vb.toNat < va.toNat + 64 ∧ va.toNat < vb.toNat + 8 * n) then s1.trap id cIllegal vb
      else
        let r := s1.bar p
        let die := s1.placeDie p
        if (s1.kernelD c.kid).tiles < lo.toNat + n then done s1 (refusal 2)
        else if va.toNat < 2 ^ 20 ∧ (n ≠ 1 ∨ lo.toNat ≠ c.lt) then done s1 (refusal 3)
        else if r.valid && !r.empty then done s1 (refusal 4)
        else if 256 ≤ (s1.directory die c.kid).length then done s1 (refusal 1)
        else s1.tableReach id i vb.toNat fun s2 _ => s2.tableReach id i (vb.toNat + 8 * n1.toNat) fun s3 _ =>
          let cn := s3.engineClock c
          let r1 : BarRec := { phase := 0, target := n, cnt := (0, 0), pend := 0#64, wd := (0, 0), flags := 4, table := vb,
                               part := w64 (lo.toNat + n1.toNat * 2 ^ 16 + c.kid * 2 ^ 32) }
          let s4 := (List.range n).foldl (fun s j => match s.placeOf (s.partOf c.kid) c.ltk (vb.toNat + 8 * j) with
            | some ep => s.placeWrite cn ep (leBytes 8 0)
            | none => s) ((s3.takePlace p).placeWrite cn p (r1.bytes ++ leBytes 16 0))
          done (s4.listBarrier c.kid p) 0#64
/-- BARV (R396); on an EMPTY barrier it traps (R403). -/
def execBarv (d a : Reg) (s : State) : Host.Outcome State Fault Refusal :=
  strandOp s (.barv d a) fun id c =>
    let i : Instr := .barv d a
    let va := c.getG a
    s.barValid id i va fun s1 p r =>
      if c.lt < r.lo ∨ r.lo + r.n ≤ c.lt ∨ r.empty then s1.trap id cGroupRefused va
      else s1.tableReach id i (r.table.toNat + 8 * (c.lt - r.lo)) fun s2 ep =>
        let e := s2.entry ep
        if withdrawn e then s2.trap id cGroupRefused va
        else if arrivedIn e (r.phase + 1) then
          { s2.parkAt id i (.arrival va (BitVec.ofNat 32 r.phase)) 0 s2.nextId [] with nextId := s2.nextId + 1 }
        else
          let cn := s2.engineClock c
          let (n, s3) := s2.arrive cn p ep
          (s3.barEvent cn (s3.partOf c.kid) p).finishG id d (w64 n) 4
/-- BWAIT (R397): it acquires the credits that the completed phases counted, and nothing else (R179, R401). -/
def execBwait (d a b : Reg) (s : State) : Host.Outcome State Fault Refusal :=
  strandOp s (.bwait d a b) fun id c =>
    let va := c.getG a
    let vb := c.getG b
    s.barValid id (.bwait d a b) va fun s1 p r =>
      if bits vb 32 32 ≠ 0 then s1.trap id cIllegal vb
      else if r.done vb.toNat || r.empty then
        let s2 := (s1.placeRead (s1.engineClock c) p 64).2
        (match s1.creditOf p with | some t => s2.raiseStrand id t | none => s2).finishG id d (r.result true) 4
      else s1.park id (.bwait d a b) (.phase va (vb.setWidth 32))
/-- BTEST (R397): no acquire, so a later access of another path may be placed before it (R401). -/
def execBtest (d a b : Reg) (s : State) : Host.Outcome State Fault Refusal :=
  strandOp s (.btest d a b) fun id c =>
    let va := c.getG a
    let vb := c.getG b
    s.barValid id (.btest d a b) va fun s1 p r =>
      if bits vb 32 32 ≠ 0 then s1.trap id cIllegal vb
      else (s1.placeRead (s1.engineClock c) p 64).2.finishG id d (r.result (r.done vb.toNat)) 4
/-- BCNT (R398). -/
def execBcnt (a b : Reg) (s : State) : Host.Outcome State Fault Refusal :=
  strandOp s (.bcnt a b) fun id c =>
    let va := c.getG a
    let vb := c.getG b
    s.barValid id (.bcnt a b) va fun s1 p r =>
      if vb.toInt < -(2 ^ 40) ∨ 2 ^ 40 < vb.toInt then s1.trap id cIllegal vb
      else
        let cn := s1.engineClock c
        ((s1.setBar cn p { r with pend := r.pend + vb }).barEvent cn (s1.partOf c.kid) p).advance id 4
/-- BWDRAW (R399). -/
def execBwdraw (d a : Reg) (s : State) : Host.Outcome State Fault Refusal :=
  strandOp s (.bwdraw d a) fun id c =>
    let i : Instr := .bwdraw d a
    let va := c.getG a
    s.barValid id i va fun s1 p r =>
      if c.lt < r.lo ∨ r.lo + r.n ≤ c.lt then s1.finishG id d (refusal 1) 4
      else s1.tableReach id i (r.table.toNat + 8 * (c.lt - r.lo)) fun s2 ep =>
        if withdrawn (s2.entry ep) then s2.finishG id d (refusal 1) 4
        else (s2.barWithdraw (s2.engineClock c) (s2.partOf c.kid) p ep).finishG id d 0#64 4

end Sys2Proof.Machine
end

