-- ==== Sys2Proof/Machine/Coil.lean ====
section
/-! DEFINITION. What a chain's stages do as they run: the chain area with its frames and rings, loading and saving a stage, the coroutine switch, and halting (R343-R348, R358). -/

namespace Sys2Proof.Machine

open Sys2Proof

/-! ## Chains of a kernel -/

/-- The chain of a number; one that has ended in a WARP kernel, and may yet be rolled back, is not found. -/
def Kernel.chain? (x : Kernel) (n : Nat) : Option Chain := x.chains.find? fun c => decide (c.num = n) && c.overBy.isNone
def State.chain? (s : State) (kid n : Nat) : Option Chain := (s.kernelD kid).chain? n
def State.updChain (s : State) (kid n : Nat) (f : Chain → Chain) : State :=
  s.updK kid fun x => { x with chains := x.chains.map fun c => if c.num = n ∧ c.overBy.isNone then f c else c }
/-- A switch is pending. -/
def Chain.pending (ch : Chain) : Bool := decide (ch.form = .toCoil) || decide (ch.form = .toStake)
/-- The chain runs on one coil strand. -/
def Chain.coiled (ch : Chain) : Bool := decide (ch.form = .coil) || decide (ch.form = .toStake)
/-- Offsets of a link's ring and of its control word; both lie in the consumer's logical tile (R343). -/
def Chain.ring (ch : Chain) (link : Nat) : Nat := ch.ca + 64 * link
def Chain.ctlAt (ch : Chain) (link : Nat) : Nat := ch.ca + 448 + 8 * link
/-- A ring's head and count. -/
def ringHead (w : Nat) : Nat := w % 8
def ringCount (w : Nat) : Nat := w / 16 % 16
def ringWord (head count : Nat) : Nat := head % 8 + 16 * count

/-- STATE of a stage's frame: 0 not started, 1 suspended, 2 current, 3 ended (R343). -/
def State.stageState (s : State) (kid : Nat) (ch : Chain) (i : Nat) : Nat :=
  leNat (s.scratchBytes (ch.lt kid i) (ch.frame i + 304) 8) % 4
/-- The chain and the stage of a context. -/
def State.stageOf (s : State) (c : Ctx) : Option (Chain × Nat) :=
  match c.stage with
  | some (n, i) => (s.chain? c.kid n).map fun ch => (ch, i)
  | none => none
/-- A switch request is pending for the stage, or its logical tile moves alone (R348, R351). -/
def State.mustHalt (s : State) (c : Ctx) : Bool :=
  match s.stageOf c with
  | some (ch, i) => ch.pending || ch.single.getLsbD i
  | none => false
/-- The stage halts after the instruction that has completed (R348). -/
def State.haltAfter (s : State) (id : Nat) : State :=
  if s.mustHalt (s.ctxD id) then s.upd id fun c => { c with halted := true } else s
/-- The stage halts before its instruction, which executes again after the switch (R348). -/
def State.haltBefore (s : State) (id : Nat) : State :=
  s.upd id fun c => { c with run := .ready, wait := .none, held := none, halted := true }

/-- Every stage of a chain is placed on logical tiles of one physical tile. -/
def State.oneTile (s : State) (kid : Nat) (ps : List (Nat × Nat)) : Bool :=
  match ps with
  | [] => true
  | p :: t => t.all fun q => decide ((s.ltile (ltKey kid q.1)).tile = (s.ltile (ltKey kid p.1)).tile)

/-! ## Accesses to the chain area -/

/-- A CORE read of the chain area of a logical tile by the strand (R346). -/
def State.areaGet (s : State) (id lt off n : Nat) (k : State → List Byte → State) : State :=
  let c := s.ctxD id
  let (_, s1) := s.engKeep c.alck lt (some c.item.key) false off n
  let (b, ts, s2) := s1.scratchLoad (s1.coreNo c) lt off n
  k (s2.stamped id ts) b
/-- Writes of the strand to chain areas can be made: in a WARP kernel they are writes of the activation to a keep region, each of whose blocks is logged
first (R293, R296, R352). -/
def State.areaReady (s : State) (id : Nat) (i : Instr) : List (Nat × Nat × Nat) → (State → State) → State
  | [], k => k s
  | (lt, off, n) :: t, k =>
    let c := s.ctxD id
    match s.engKeep c.alck lt (some c.item.key) (s.spec c) off n with
    | (.ok, s1) => s1.areaReady id i t k
    | (.overflow, s1) => s1.trap id cCommitOverflow (w64 (off / 64 * 64))
    | (.wait, s1) => s1.park id i .logRoom
/-- The write itself, a CORE store. -/
def State.areaStore (s : State) (id lt off : Nat) (bs : List Byte) : State :=
  let r := (s.dropCodelets lt off bs.length).scratchStore (s.coreNo (s.ctxD id)) lt off bs
  r.2.stamped id r.1
/-- One write of the strand to a chain area. -/
def State.areaPut (s : State) (id : Nat) (i : Instr) (lt off : Nat) (bs : List Byte) (k : State → State) : State :=
  s.areaReady id i [(lt, off, bs.length)] fun s1 => k (s1.areaStore id lt off bs)
/-- The engine of the tile writes a chain's area. -/
def State.areaWrite (s : State) (lt off : Nat) (bs : List Byte) : State := s.engScratchWrite (engineCore (s.ltile lt).tile) lt off bs

/-- The save area of a stage (R343): its first 304 bytes and STATE. -/
def Ctx.frameBytes (c : Ctx) (pc : Word) (st : Nat) : List Byte :=
  let word (w : Word) : List Byte := leBytes 8 w.toNat
  let rep : Nat × Nat := match c.rep with
    | some r => (r.count.toNat, r.start.toNat % 2 ^ 56 + ((r.stop - r.start).toNat / 4 % 32) * 2 ^ 56 + 2 ^ 63)
    | none => (0, 0)
  (c.g.toList.drop 1 |>.take 15).flatMap word ++ word pc ++ (c.f.toList.take 16).flatMap word
    ++ leBytes 8 (c.frm.toNat + c.fflags.toNat * 256 + c.fen.toNat * 65536) ++ word c.scratchReg
    ++ leBytes 8 rep.1 ++ leBytes 8 rep.2 ++ leBytes 8 c.stageSeq ++ leBytes 8 c.stamp.toNat ++ leBytes 8 st

/-- Binding words of a stage's links: ports in stake form, rings in coil form (R342, R358). -/
def Chain.links (ch : Chain) (i : Nat) (coil : Bool) : Vector Word 8 :=
  let word (port mode : Nat) (p : Nat × Nat) : Word := w64 (p.2 * 2 ^ 18 + p.1 * 64 + port * 4 + mode)
  let q0 : Word := if i = 0 then 0#64 else if coil then word (i - 1) 3 (ch.at (i - 1)) else word 15 1 (0, 0)
  let q1 : Word := if ch.nst ≤ i + 1 then 0#64 else if coil then word i 3 (ch.at (i + 1)) else word 15 2 (ch.at (i + 1))
  ((Vector.replicate 8 0#64).set 0 q0).set 1 q1

/-- The registers of a stage as its frame and the chain give them (R344, R345), with what of its registers is pending. -/
def Ctx.loadFrame (c : Ctx) (ch : Chain) (i : Nat) (coil : Bool) (b : List Byte) : Ctx :=
  let f (off : Nat) : Word := w64 (leNat ((b.drop off).take 8))
  let ctl := f 256
  let rw := f 280
  let start := w64 (rw.toNat % 2 ^ 56)
  { c with
      g := Vector.ofFn fun n => if n.val = 0 then 0#64 else if n.val < 16 then f (8 * (n.val - 1)) else ch.commonG.toList.getD (n.val - 16) 0#64
      f := Vector.ofFn fun n => if n.val < 16 then f (128 + 8 * n.val) else ch.commonF.toList.getD (n.val - 16) 0#64
      pc := f 120, frm := ctl.setWidth 4, fflags := ctl.extractLsb' 8 5, fen := ctl.extractLsb' 16 5, scratchReg := f 264
      rep := if rw.getLsbD 63 then some { count := f 272, start := start, stop := start + w64 (4 * bits rw 56 5) } else none
      stageSeq := (f 288).toNat, stamp := (f 296).setWidth 48, muMark := ch.muMarks.toList.getD i 0, pend := (ch.pends.filter fun e => e.1 = i).map (·.2)
      q := ch.links i coil, lt := (ch.at i).1, core := (ch.at i).2, stage := some (ch.num, i), coil := coil, halted := false }
/-- A stage's registers are loaded, and the core's clock is at least the stage's stamp (R167, R350). -/
def State.loadStage (s : State) (id : Nat) (ch : Chain) (i : Nat) (coil : Bool) (b : List Byte) : State :=
  let kid := (s.ctxD id).kid
  let s1 := s.upd id fun c => c.loadFrame ((s.chain? kid ch.num).getD ch) i coil b
  (s1.raiseT (s1.coreNo (s1.ctxD id)) (s1.ctxD id).stamp).updChain kid ch.num fun x => { x with cur := if coil then i else x.cur, pends := x.pends.filter fun e => e.1 ≠ i }
/-- What a stage leaves in its chain when another takes its place: its pending registers, and how far its records reach in the unit's queue (R344, R350). -/
def State.leaveStage (s : State) (id : Nat) : State :=
  let c := s.ctxD id
  match c.stage with
  | some (n, i) => s.updChain c.kid n fun x =>
      { x with pends := x.pends ++ c.pend.map fun p => (i, p),
               muMarks := x.muMarks.set (i % 8) (Nat.max c.muMark (s.mu c.lck).marks[c.strand.toNat]) (Nat.mod_lt _ (by decide)) }
  | none => s

/-- The coil strand makes stage `j` current, whose frame is read and marked current; the write can be made. -/
def State.enterStage (s : State) (id : Nat) (ch : Chain) (j : Nat) (k : State → State) : State :=
  let lt := ch.lt (s.ctxD id).kid j
  s.areaGet id lt (ch.frame j) 312 fun s1 b => k ((s1.areaStore id lt (ch.frame j + 304) (leBytes 8 2)).loadStage id ch j true b)
/-- After a coroutine switch the coil strand goes on in the new stage. -/
def State.resumeStage (s : State) (id : Nat) : State :=
  s.upd id fun c => { c with run := .ready, wait := .none, held := none, stepping := false }

/-- The coroutine switch from the current stage to stage `j`, the instruction to be executed again (R347); an ended stage stalls the coil strand. -/
def State.coSwitch (s : State) (id : Nat) (i : Instr) (ch : Chain) (cur j : Nat) : State :=
  let c := s.ctxD id
  if s.stageState c.kid ch j = 3 then
    (s.park id i .stall).updChain c.kid ch.num fun x => { x with stalled := true }
  else
    s.areaReady id i [(ch.lt c.kid cur, ch.frame cur, 312), (ch.lt c.kid j, ch.frame j + 304, 8)] fun s1 =>
      ((s1.leaveStage id).areaStore id (ch.lt c.kid cur) (ch.frame cur) (c.frameBytes c.pc 1)).enterStage id ch j fun s2 => s2.resumeStage id

/-! ## Rings (R346, R347) -/

/-- A read of the link before the coil strand's current stage: the oldest word, removed or kept; `none` goes to `empty`. -/
def State.ringTake (s : State) (id : Nat) (i : Instr) (ch : Chain) (link : Nat) (remove : Bool) (empty : State → State) (k : State → Word → State) : State :=
  let lt := ch.lt (s.ctxD id).kid (link + 1)
  s.areaGet id lt (ch.ctlAt link) 8 fun s1 w =>
    let w := leNat w
    if ringCount w = 0 then empty s1
    else s1.areaReady id i (if remove then [(lt, ch.ctlAt link, 8)] else []) fun s2 =>
      s2.areaGet id lt (ch.ring link + 8 * ringHead w) 8 fun s3 v =>
        k (if remove then s3.areaStore id lt (ch.ctlAt link) (leBytes 8 (ringWord (ringHead w + 1) (ringCount w - 1))) else s3) (w64 (leNat v))
/-- A write to the link after the current stage, or `full`. -/
def State.ringPut (s : State) (id : Nat) (i : Instr) (ch : Chain) (link : Nat) (v : Word) (full : State → State) (k : State → State) : State :=
  let lt := ch.lt (s.ctxD id).kid (link + 1)
  s.areaGet id lt (ch.ctlAt link) 8 fun s1 w =>
    let w := leNat w
    if 8 ≤ ringCount w then full s1
    else
      let at_ := ch.ring link + 8 * ((ringHead w + ringCount w) % 8)
      s1.areaReady id i [(lt, at_, 8), (lt, ch.ctlAt link, 8)] fun s2 =>
        k ((s2.areaStore id lt at_ (leBytes 8 v.toNat)).areaStore id lt (ch.ctlAt link) (leBytes 8 (ringWord (ringHead w) (ringCount w + 1))))

/-! ## What comes back for a stage that stands in its frame (R197, R261, R344) -/

/-- A pending register that a return or an acknowledgement names. -/
def Pend.is (p : Pend) (ctx ref : Nat) (isCall : Bool) : Bool := decide (p.ctx = ctx) && decide (p.ref = ref) && (p.isCall == isCall)
/-- The context whose pending register it is now: the one that issued, or the one that runs its stage since. -/
def State.pendCtx (s : State) (ctx ref : Nat) (isCall : Bool) : Option (Nat × Pend) :=
  s.ctxs.findSome? fun e => (e.2.pend.find? fun p => p.is ctx ref isCall).map fun p => (e.1, p)
/-- The chain and stage in whose frame the register stands. -/
def State.pendFrame (s : State) (kid ctx ref : Nat) (isCall : Bool) : Option (Chain × Nat × Pend) :=
  (s.kernelD kid).chains.findSome? fun ch => (ch.pends.find? fun e => e.2.is ctx ref isCall).map fun e => (ch, e.1, e.2)
/-- A pending register of kernel `kid` is written and is pending no more; none when nothing waits for it. -/
def State.settlePend (s : State) (kid ctx ref : Nat) (isCall : Bool) (v : Word) : Option State :=
  match s.pendCtx ctx ref isCall with
  | some (id, p) => some (s.upd id fun c => { c.setG p.d v with pend := c.pend.filter fun q => !q.is ctx ref isCall })
  | none =>
    match s.pendFrame kid ctx ref isCall with
    | some (ch, i, p) =>
      some ((s.areaWrite (ch.lt kid i) (ch.frame i + 8 * (p.d.toNat - 1)) (leBytes 8 v.toNat)).updChain kid ch.num fun x =>
        { x with pends := x.pends.filter fun e => !e.2.is ctx ref isCall })
    | none => none
/-- A remote load of kernel `kid` is refused: its register is written 0, and the strand or stage reports the refusal when it is used (R197). -/
def State.refusePend (s : State) (kid ctx ref : Nat) (addr : Word) : State :=
  let mark (q : Pend) : Pend := if q.is ctx ref false then { q with refused := true } else q
  match s.pendCtx ctx ref false with
  | some (id, p) => s.upd id fun c => { c.setG p.d 0#64 with pend := c.pend.map mark, nacks := c.nacks ++ [addr] }
  | none =>
    match s.pendFrame kid ctx ref false with
    | some (ch, i, p) =>
      (s.areaWrite (ch.lt kid i) (ch.frame i + 8 * (p.d.toNat - 1)) (leBytes 8 0)).updChain kid ch.num fun x =>
        { x with pends := x.pends.map fun e => (e.1, mark e.2), nacks := x.nacks ++ [(i, addr)] }
    | none => s
/-- The chain and the stage that a context which is gone has run. -/
def State.stageWas (s : State) (kid ctx : Nat) : Option (Chain × Nat) :=
  (s.kernelD kid).chains.findSome? fun ch => (ch.last.find? fun e => e.2 = ctx).map fun e => (ch, e.1)

end Sys2Proof.Machine
end

