-- ==== Sys2Proof/Machine/Border.lean ====
section
/-! DEFINITION. The mesh and territories: neighbours, the sweep tree, what a territory holds, and the counter packets as a tile changes hands (R8, R316-R320, R326, R447). -/

namespace Sys2Proof.Machine

open Sys2Proof

/-! ## The mesh (R8, R316) -/

/-- The neighbour of a tile in a direction: 1 +x, 2 −x, 3 +y, 4 −y (R317). -/
def neighbour (t d : Nat) : Option Nat :=
  let x := t % 32
  let y := t / 32
  match d with
  | 1 => if x + 1 < 32 then some (t + 1) else none
  | 2 => if 0 < x then some (t - 1) else none
  | 3 => if y + 1 < 32 then some (t + 32) else none
  | 4 => if 0 < y then some (t - 32) else none
  | _ => none
/-- The neighbours of a tile with their directions. -/
def neighbours (t : Nat) : List (Nat × Nat) := [1, 2, 3, 4].filterMap fun d => (neighbour t d).map fun u => (d, u)
/-- The direction from a tile to a neighbour; 0 when it is none. -/
def directionTo (t u : Nat) : Nat := ((neighbours t).find? fun e => e.2 = u).elim 0 (·.1)
/-- The neighbourhood of a tile, the tile itself left out (R316). -/
def block (t : Nat) : List Nat :=
  ([(0, 0), (0, 1), (0, 2), (1, 0), (1, 2), (2, 0), (2, 1), (2, 2)] : List (Nat × Nat)).filterMap fun e =>
    let x := t % 32 + e.2
    let y := t / 32 + e.1
    if 1 ≤ x ∧ x ≤ 32 ∧ 1 ≤ y ∧ y ≤ 32 then some ((x - 1) + 32 * (y - 1)) else none

/-- Grows a set of tiles inside another by their neighbours. -/
def spread (within : List Nat) : Nat → List Nat → List Nat
  | 0, seen => seen
  | n + 1, seen =>
    let more := within.filter fun t => !seen.contains t && (neighbours t).any fun e => seen.contains e.2
    if more = [] then seen else spread within n (seen ++ more)
/-- A set of tiles is 4-connected. -/
def connected (ts : List Nat) : Bool :=
  match ts with
  | [] => true
  | t :: _ => decide ((spread ts ts.length [t]).length = ts.length)

/-- One level of a breadth-first tree: tile, direction of its parent, depth. -/
def treeLevel (within : List Nat) (tree : List (Nat × Nat × Nat)) (d : Nat) : List (Nat × Nat × Nat) :=
  (within.filter fun t => tree.all fun e => e.1 ≠ t).filterMap fun t =>
    ((neighbours t).find? fun e => tree.any fun x => decide (x.1 = e.2) && decide (x.2.2 = d)).map fun e => (t, e.1, d + 1)
def treeFrom (within : List Nat) : Nat → List (Nat × Nat × Nat) → Nat → List (Nat × Nat × Nat)
  | 0, tree, _ => tree
  | n + 1, tree, d => match treeLevel within tree d with
    | [] => tree
    | l => treeFrom within n (tree ++ l) (d + 1)
/-- A sweep tree of a set of tiles with its root at the anchor (R320). -/
def sweepTree (ts : List Nat) (anchor : Nat) : List (Nat × Nat × Nat) := treeFrom ts ts.length [(anchor, 0, 0)] 0

/-! ## Territories -/

/-- The place of a logical tile that stands on no tile: it is saved, or it found no heir and waits for its kernel to be restored (R417, R425). -/
def noTile : Nat := 1024

/-- The tiles of a kernel's territory; a CEDING one still counts (R333). -/
def State.terr (s : State) (kid : Nat) : List Nat :=
  (s.tiles.filter fun e => decide (e.2.owner.toNat = kid) && (decide (e.2.ts = .member) || decide (e.2.ts = .ceding))).map (·.1)
/-- The tile is free (R316). -/
def Tile.isFree (x : Tile) : Bool := decide (x.owner = 63#6) && decide (x.ts = .free)
/-- Logical tiles that a physical tile hosts, by their keys, and the slots taken or promised there. -/
def State.hosted (s : State) (t : Nat) : List Nat := (s.ltiles.filter fun e => e.2.tile = t).map (·.1)
def State.slotsTaken (s : State) (t : Nat) : List Nat :=
  (s.ltiles.filter fun e => e.2.tile = t).map (·.2.j) ++ (s.ltiles.filter fun e => e.2.moving = some t).map (·.2.moveJ)
/-- The lowest free slot of a tile for a kernel's logical tiles (R274). -/
def State.freeSlotOn (s : State) (kid t : Nat) : Option Nat := (List.range (s.kernelD kid).k).find? fun j => !(s.slotsTaken t).contains j
/-- A tile's tree neighbours whose parent it is: CHILD of R317 is zero when there is none. -/
def State.children (s : State) (t : Nat) : List Nat :=
  ((neighbours t).filter fun e => (s.tile e.2).owner = (s.tile t).owner ∧ (s.tile e.2).ts ≠ .free ∧ (s.tile e.2).ts ≠ .retired ∧ neighbour e.2 (s.tile e.2).parent.toNat = some t).map (·.2)
/-- Tiles of a partition's kernels (R456). -/
def State.partTiles (s : State) (part : Nat) : Nat := ((s.kernels.filter fun e => e.2.part = part).map fun e => (s.terr e.1).length).sum

/-- The moves of R321 and R325 that a territory takes part in: a tile of it, or one that it is to get, is CEDING. -/
def State.bordersMove (s : State) (kid : Nat) : Bool :=
  s.tiles.any fun e => decide (e.2.ts = .ceding) && (decide (e.2.owner.toNat = kid) || decide (e.2.cedeTo = kid))
/-- A forwarding stub for one of the kernel's logical tiles has not retired (R434). -/
def State.hasStub (s : State) (kid : Nat) : Bool := s.tiles.any fun e => e.2.stubs.any fun b => b.lt / 4096 = kid

/-! ## Counter packets (R447) -/

/-- A start packet clears the kernel's banks on a tile. -/
def State.startPacket (s : State) (t kid : Nat) : State :=
  let own := some (s.partOf kid, kid)
  s.updTile t fun x => { x with counters := Vector.ofFn fun i => if x.banks.toList.getD (i.val / 4) none = own then 0#64 else x.counters[i] }
/-- A stop packet adds the kernel's counters on a tile to its per-launch record, and clears them. -/
def State.stopPacket (s : State) (t kid : Nat) : State :=
  let own := some (s.partOf kid, kid)
  let x := s.tile t
  let mine (i : Nat) : Bool := decide (x.banks.toList.getD (i / 4) none = own)
  if !(List.range 16).any mine then s
  else
    let leased : Bool := match x.leased with | some (p, till) => decide (p = s.partOf kid) && decide (s.tbase < till) | none => false
    let s1 := s.updK kid fun k =>
      { k with record := { sums := Vector.ofFn fun i => if mine i.val then k.record.sums[i] + x.counters[i] else k.record.sums[i]
                           codes := Vector.ofFn fun i => if mine i.val then x.codes[i] else k.record.codes[i]
                           excl := k.record.excl && leased, tiles := insertOnce t k.record.tiles } }
    s1.startPacket t kid

/-- A tile's own holders of a kernel's data are cleared as in step 4 of a cede: what is left is its TLB entries of the partition, since
scratchpad, windows and MU contexts belong to the logical tiles (R325). -/
def State.clearTile (s : State) (t part : Nat) : State :=
  let ofTile (k : Nat) : Bool := decide (k = t) || (decide (2048 ≤ k) && decide ((k - 2048) / 16 = t))
  { s with tlbs := s.tlbs.map fun e => if ofTile e.1 then (e.1, e.2.filter fun x => x.part ≠ part) else e,
           copies := (List.range 8).foldl (fun m c => mdel (8 * t + c) m) s.copies }

end Sys2Proof.Machine
end

