-- ==== Sys2Proof/Machine/Put.lean ====
section
/-! DEFINITION. Puts, remote loads and RADD, and their arrival at a window (R187, R193-R198). -/

namespace Sys2Proof.Machine

open Sys2Proof

/-- A PUT, PUTV or RADD: in a WARP activation that is not irrevocable it enters the commit queue, otherwise it is sent at
once, when the retransmit buffer has room (R196, R198, R298, R436). -/
def State.putOp (s : State) (id : Nat) (i : Instr) (addr : Word) (op : AccOp) (len : Nat) : State :=
  let c := s.ctxD id
  if s.spec c then
    s.commitAt id i 1 addr fun s1 => (s1.addCommit c.alck c.item.key (.put addr op)).advance id len
  else if s.retxRoom c.lck then
    ((s.launchAccess c.lck 3 c.strand.toNat addr op (.strandPut id) c.acq).upd id fun c => { c with puts := c.puts + 1 }).advance id len
  else s.park id i .sendSpace

/-- A write of the low bytes of a value. -/
def putWrite (sz : Sz) (v : Word) : AccOp := .write (leBytes (szBytes sz) v.toNat)
/-- An addition of the low bytes of a value. -/
def putAdd (sz : Sz) (v : Word) : AccOp := .add (szBytes sz) v

/-- PUT (R196). -/
def execPut (a b : Reg) (sz : Sz) (s : State) : Host.Outcome State Fault Refusal :=
  strandOp s (.put a b sz) fun id c => s.putOp id (.put a b sz) (c.getG a) (putWrite sz (c.getG b)) 4
/-- PUT_L (R196). -/
def execPutL (a : Reg) (sz : Sz) (lit : Word) (s : State) : Host.Outcome State Fault Refusal :=
  strandOp s (.putL a sz lit) fun id c => s.putOp id (.putL a sz lit) (c.getG a) (putWrite sz lit) 12
/-- PUTV (R196). -/
def execPutv (d a b : Reg) (sz : Sz) (s : State) : Host.Outcome State Fault Refusal :=
  strandOp s (.putv d a b sz) fun id c => s.putOp id (.putv d a b sz) (c.getG a + c.getG d) (putWrite sz (c.getG b)) 4
/-- RADD (R187). -/
def execRadd (a b : Reg) (sz : Sz) (s : State) : Host.Outcome State Fault Refusal :=
  strandOp s (.radd a b sz) fun id c => s.putOp id (.radd a b sz) (c.getG a) (putAdd sz (c.getG b)) 4
/-- RADD_L (R187). -/
def execRaddL (a : Reg) (sz : Sz) (lit : Word) (s : State) : Host.Outcome State Fault Refusal :=
  strandOp s (.raddL a sz lit) fun id c => s.putOp id (.raddL a sz lit) (c.getG a) (putAdd sz lit) 12
/-- RLD (R196-R198): gD is pending until the value returns. -/
def execRld (d a : Reg) (sz : Sz) (s : State) : Host.Outcome State Fault Refusal :=
  strandOp s (.rld d a sz) fun id c =>
    let addr := c.getG a
    if s.spec c then s.trap id cFrozenLoad addr
    else if s.retxRoom c.lck then
      ((s.launchAccess c.lck 3 c.strand.toNat addr (.read (szBytes sz)) (.strandRld id d) c.acq).upd id fun c =>
        { c with pend := c.pend ++ [{ ctx := id, d := d, isCall := false, ref := s.nextId }] }).advance id 4
    else s.park id (.rld d a sz) .sendSpace

/-! ## At the destination (R194) -/

/-- The outcome of an access at its destination: it is checked, and refused, performed and acknowledged, kept for a switched kernel, or accepted and made
later, when `later` says so: accesses that have been accepted may take their places in any order (R177, R194). -/
def State.accessArrives (s : State) (f : Flit) (op : AccOp) (addr : Word) (kid dev : Nat) (later : Bool) : State :=
  let lt := ltKey f.kid f.lt
  let s1 := s.accept f
  match s.accessState f.part f.kid with
  | some .switched =>
    if f.lt < (s.kernelD f.kid).tiles then (s.dropArrival f.fid).updLt lt fun x => { x with fallout := x.fallout ++ [f] }
    else s1.answerAccess f none
  | some _ =>
    let w := (s.ltile lt).windows[raWin addr % 8]
    if bits addr 20 17 = 0 ∧ f.lt < (s.kernelD f.kid).tiles ∧ w.accepts op addr kid (decide (dev = s.device.toNat)) then
      let off := 64 * w.base64.toNat + raOff addr
      if later then { s1 with taken := s1.taken ++ [(f, off)] } else s1.answerAccess f (some off)
    else s1.answerAccess f none
  | none => s1.answerAccess f none

/-- REMOTE_ACCESS_ARRIVAL (R177, R194): `ev.id` names an arrived put-path access or copy unit, which is made at once or, with `ev.flag`, later; or one that
has been accepted, which is made now. -/
def execRemoteAccessArrival (s : State) : Host.Outcome State Fault Refusal :=
  match s.arrival? s.ev.id with
  | none => .next (s.landTaken fun f => decide (f.fid = s.ev.id))
  | some f =>
    match f.carry with
    | .access op addr kid dev => .next (s.accessArrives f op addr kid dev s.ev.flag)
    | _ => .next s

end Sys2Proof.Machine
end

