-- ==== Sys2Proof/Machine/Commit.lean ====
section
/-! DEFINITION. Copy descriptors (R206-R208), and the entries of commit queues as they are performed (R298, R299). -/

namespace Sys2Proof.Machine

open Sys2Proof

/-! ## Descriptors (R206) -/

/-- A field of the descriptor: `n` bytes at an offset. -/
def CopyRec.f (r : CopyRec) (off n : Nat) : Nat := leNat ((r.desc.drop off).take n)
def CopyRec.dst (r : CopyRec) : Nat := r.f 0 8
def CopyRec.src (r : CopyRec) : Nat := r.f 8 8
def CopyRec.len (r : CopyRec) : Nat := r.f 16 8
def CopyRec.siga (r : CopyRec) : Nat := r.f 24 8
def CopyRec.sigv (r : CopyRec) : Nat := r.f 32 8
def CopyRec.ctl (r : CopyRec) : Nat := r.f 40 8
def CopyRec.aux (r : CopyRec) : Nat := r.f 48 8
def CopyRec.esz (r : CopyRec) : Nat := r.f 56 8
def CopyRec.dk (r : CopyRec) : Nat := r.ctl % 4
def CopyRec.sk (r : CopyRec) : Nat := r.ctl / 4 % 4
def CopyRec.sm (r : CopyRec) : Nat := r.ctl / 16 % 4
def CopyRec.cv (r : CopyRec) : Bool := r.ctl / 128 % 2 = 1
def CopyRec.rm (r : CopyRec) : Nat := r.ctl / 256 % 8
def CopyRec.sty (r : CopyRec) : Nat := r.ctl / 2048 % 8
def CopyRec.dty (r : CopyRec) : Nat := r.ctl / 16384 % 8
/-- Bytes of a source and of a destination element of CPYS, CPYG and CPYX. -/
def CopyRec.e (r : CopyRec) : Nat := 2 ^ (r.esz % 16)
def CopyRec.de (r : CopyRec) : Nat := if r.cv then elemSize false r.dty else r.e
/-- The signed strides of CPYS by dimension, at 64 for the source and 96 for the destination. -/
def CopyRec.stride (r : CopyRec) (base d : Nat) : Int := (w64 (r.f (base + 8 * d) 8)).toInt
/-- The bounds of CPYS, dimension 0 first. -/
def CopyRec.bounds (r : CopyRec) : List Nat := (List.range (r.esz / 256 % 4 + 1)).map fun d => r.aux / 2 ^ (16 * d) % 65536 + 1
/-- Number of elements: CPY moves one of LEN bytes. -/
def CopyRec.count (r : CopyRec) : Nat :=
  match r.kind with
  | 0 => if r.len = 0 then 0 else 1
  | 1 => r.bounds.foldl (· * ·) 1
  | _ => r.len
/-- Bytes of an element at the destination, and of all. -/
def CopyRec.elemBytes (r : CopyRec) : Nat := if r.kind = 0 then r.len else r.de
def CopyRec.total (r : CopyRec) : Nat := r.count * r.elemBytes
/-- The offset of element `i` of CPYS under strides (R152, R207). -/
def walkOff (stride : Nat → Int) : Nat → Nat → List Nat → Int
  | _, _, [] => 0
  | d, i, b :: t => (i % b : Nat) * stride d + walkOff stride (d + 1) (i / b) t
/-- The addresses of element `i`; `x` is its index in the table of CPYG and CPYX. -/
def CopyRec.srcAt (r : CopyRec) (i x : Nat) : Word :=
  match r.kind with
  | 0 => w64 r.src
  | 1 => w64 r.src + BitVec.ofInt 64 (walkOff (r.stride 64) 0 i r.bounds)
  | 2 => w64 (r.src + x * r.e)
  | _ => w64 (r.src + i * r.e)
def CopyRec.dstAt (r : CopyRec) (i x : Nat) : Word :=
  match r.kind with
  | 0 => w64 r.dst
  | 1 => w64 r.dst + BitVec.ofInt 64 (walkOff (r.stride 96) 0 i r.bounds)
  | 2 => w64 (r.dst + i * r.e)
  | _ => w64 (r.dst + x * r.e)

/-- The span of a strided side. -/
def spanOf (base : Nat) (stride : Nat → Int) (e : Nat) (bounds : List Nat) : Int × Int :=
  bounds.zipIdx.foldl (fun r b => let x := stride b.2 * ((b.1 : Int) - 1)
    if x < 0 then (r.1 + x, r.2) else (r.1, r.2 + x)) ((base : Int), (base : Int) + e)
/-- The range of addresses of the source and of the destination; none where the index table decides it. -/
def CopyRec.srcRange (r : CopyRec) : Option (Int × Int) :=
  match r.kind with
  | 0 => some (r.src, r.src + r.len)
  | 1 => some (spanOf r.src (r.stride 64) r.e r.bounds)
  | 2 => none
  | _ => some (r.src, r.src + r.len * r.e)
def CopyRec.dstRange (r : CopyRec) : Option (Int × Int) :=
  match r.kind with
  | 0 => some (r.dst, r.dst + r.len)
  | 1 => some (spanOf r.dst (r.stride 96) r.de r.bounds)
  | 2 => some (r.dst, r.dst + r.len * r.e)
  | _ => none
/-- The source and destination ranges are of one space and overlap. -/
def CopyRec.overlaps (r : CopyRec) : Bool :=
  decide (r.sk = r.dk) && (decide (r.sk ≠ 2) || decide (r.src / 2 ^ 20 = r.dst / 2 ^ 20)) && match r.srcRange, r.dstRange with
    | some (a, b), some (c, d) => decide (a < d) && decide (c < b) && decide (a < b) && decide (c < d)
    | _, _ => false

/-- R208 step 3: an illegal code, a reserved bit or field, or a limit (R206). -/
def CopyRec.malformed (r : CopyRec) : Bool :=
  decide (r.dk = 3) || decide (r.sk = 3) || decide (r.sm = 3) || decide (131072 ≤ r.ctl)
    || decide (r.esz / 16 % 16 ≠ 0) || decide (1024 ≤ r.esz) || decide (12 < r.esz % 16)
    || (match r.kind with
      | 0 => decide (r.aux ≠ 0) || decide (r.esz ≠ 0) || decide (2 ^ 32 < r.len)
      | 1 => decide (r.len ≠ 0)
      | _ => decide (r.esz / 256 % 4 ≠ 0) || decide (2 ^ 20 < r.len) || decide (r.aux % 4 ≠ 0))
    || (if r.cv then
        decide (r.kind ≠ 1) || decide (5 ≤ r.sty) || decide (5 ≤ r.dty) || decide (r.sty = r.dty) || decide (r.rm = 5) || decide (r.rm = 6)
          || decide (r.e ≠ elemSize false r.sty)
      else decide (r.rm ≠ 0) || decide (r.sty ≠ 0) || decide (r.dty ≠ 0))
    || (decide (r.sm = 0) && (decide (r.siga ≠ 0) || decide (r.sigv ≠ 0))) || (decide (r.sm = 2) && decide (r.sigv ≠ 0))

/-- The first offset outside [0, S) of a range that is not empty (R208 step 5). -/
def firstOutside (sz : Nat) (x : Int × Int) : Option Word :=
  if x.2 ≤ x.1 then none
  else if x.1 < 0 then some (BitVec.ofInt 64 x.1)
  else if (sz : Int) < x.2 then some (BitVec.ofInt 64 (max x.1 sz))
  else none
/-- The own-scratch ranges of a copy. Where the index table decides a side, no element lies below the base, so a first element outside S puts every
one outside it (R208). -/
def CopyRec.ownRanges (r : CopyRec) : List (Int × Int) :=
  let base (a : Nat) : Int × Int := ((a : Int), (a : Int) + if r.len = 0 then 0 else r.e)
  (if r.sk = 0 then [r.srcRange.getD (base r.src)] else []) ++ (if r.dk = 0 then [r.dstRange.getD (base r.dst)] else [])
    ++ (if 2 ≤ r.kind then [((r.aux : Int), (r.aux : Int) + 4 * r.len)] else [])
    ++ (if r.sm ≠ 0 ∧ r.siga < 2 ^ 20 then [((r.siga : Int), (r.siga : Int) + 8)] else [])

/-! ## Committed entries (R169, R298, R299) -/

/-- Where a put-path access falls, as an address range of the module: its window's scratchpad on this device. -/
def State.putRange (s : State) (addr : Word) (n : Nat) : Nat × Nat :=
  if raDev addr = s.device.toNat then
    let lt := ltKey (raKid addr) (raLt addr)
    let a := 2 ^ 60 + lt * 2 ^ 20 + 64 * ((s.ltile lt).windows[raWin addr % 8]'(Nat.mod_lt _ (by decide))).base64.toNat + raOff addr
    (a, a + n)
  else (2 ^ 100 + addr.toNat, 2 ^ 100 + addr.toNat + n)
/-- The 16-byte units that an entry may touch, as ranges: a copy counts as touching all that its destination's kind can name (log entry 79). -/
def State.touches (s : State) (op : CommitOp) : Nat × Nat :=
  let units (r : Nat × Nat) : Nat × Nat := (r.1 / 16 * 16, (r.2 + 15) / 16 * 16)
  match op with
  | .store pa bs _ _ _ => units (pa, pa + bs.length)
  | .put addr op => units (s.putRange addr (accSize op))
  | .copy lc slot => match (s.lcore lc).copies.find? fun r => r.slot = slot with
    | some r => if r.dk = 1 then (0, 2 ^ 60) else (2 ^ 60, 2 ^ 200)
    | none => (0, 0)
  | .message _ => (0, 0)
/-- Ranges meet. -/
def meetsRange (a b : Nat × Nat) : Bool := decide (a.1 < b.2) && decide (b.1 < a.2)
/-- The entry of a core that is performed next: the due one of least key, the earliest of its activation. -/
def LCore.nextDue (c : LCore) : Option CommitEntry :=
  (c.commitQ.filter (·.due)).foldl (fun m e => match m with
    | none => some e
    | some x => if e.by_.lt x.by_ || (decide (e.by_ = x.by_) && decide (e.seqno < x.seqno)) then some e else some x) none
/-- An entry of another core of the kernel, of a lesser key, touches the same unit and has not taken its place there (R299). -/
def State.outranked (s : State) (lc : Nat) (e : CommitEntry) : Bool :=
  let r := s.touches e.op
  s.lcores.any fun x => decide (lcKid x.1 = lcKid lc) && decide (x.1 ≠ lc) && x.2.commitQ.any fun y => y.by_.lt e.by_ && meetsRange (s.touches y.op) r
/-- A core of the kernel whose next entry can be performed now: none of its own is under way, and none of another core stands before it. -/
def State.commitReady (s : State) (kid : Nat) : Option (Nat × CommitEntry) :=
  s.lcores.findSome? fun x =>
    if lcKid x.1 = kid then
      match x.2.nextDue with
      | some e => if e.sent || s.outranked x.1 e then none else some (x.1, e)
      | none => none
    else none
/-- Takes an entry off its queue, or marks it as under way. -/
def LCore.dropCommit (c : LCore) (n : Nat) : LCore := { c with commitQ := c.commitQ.filter fun e => e.seqno ≠ n }
def LCore.sentCommit (c : LCore) (n : Nat) : LCore := { c with commitQ := c.commitQ.map fun e => if e.seqno = n then { e with sent := true } else e }
/-- A global store of a committed entry: performed at its home, or told to the supervisor when a format window's view has come to lie
there (R299). -/
def State.commitStore (s : State) (lc pa : Nat) (bs : List Byte) (ea : Word) (dt ef : Bool) (vrt : Word) : State :=
  if s.inView pa then s.unitTrap lc cWindowWrite ea vrt else 
    let s1 := (s.storeLine (s.homeCore lc) pa bs dt).2
    if ef then s1.evictFirst (s.homeCore lc) pa else s1
/-- Performs one commit-queue entry, or starts it (R299). -/
def State.issueCommit (s : State) (lc : Nat) (e : CommitEntry) : State :=
  match e.op with
  | .store pa bs ea dt ef => (s.updLc lc fun c => c.dropCommit e.seqno).commitStore lc pa bs ea dt ef (w64 e.by_.vrt)
  | .put addr op =>
    (s.launchAccess lc 3 0 addr op (.commit lc e.seqno (w64 e.by_.vrt)) (s.clock (s.homeCore lc)).t).updLc lc fun c => c.sentCommit e.seqno
  | .copy _ _ => s.updLc lc fun c => c.sentCommit e.seqno
  | .message f =>
    let k := f.carry.key
    (s.updLc lc fun c => c.dropCommit e.seqno).sendMsg (lcKey (lcKid lc) k.slt k.score) 0 f.dev f.kid f.lt f.core f.chan f.vrt f.src f.p0 f.p1 f.p2 f.p3 f.carry k
/-- Performs what can be performed of a kernel's due entries: each core's in key order, and entries of different cores on one unit in key order (R299). -/
def State.commitRun (s : State) (kid : Nat) : Nat → State
  | 0 => s
  | n + 1 => match s.commitReady kid with
    | some (lc, e) => (s.issueCommit lc e).commitRun kid n
    | none => s
/-- Entries that a kernel's commit queues hold. -/
def State.commitCount (s : State) (kid : Nat) : Nat := ((s.lcores.filter fun e => lcKid e.1 = kid).map fun e => e.2.commitQ.length).sum
/-- An entry under way has been performed or has failed: it is off its queue, and what waited for it goes on. -/
def State.commitBack (s : State) (lc n : Nat) : State :=
  let s1 := s.updLc lc fun c => c.dropCommit n
  s1.commitRun (lcKid lc) (s1.commitCount (lcKid lc))

end Sys2Proof.Machine
end

