-- ==== Sys2Proof/Machine/Fence.lean ====
section
/-! DEFINITION. The fences, and what a strand's outstanding work on each path is (R174, R187-R190, R197). -/

namespace Sys2Proof.Machine

open Sys2Proof

/-- A put, RADD or RLD of the strand is not yet acknowledged or returned (R177, R197). DESIGN CHOICE (log entry 76): a put that waits in a commit queue is
not awaited, since it cannot be sent before the activation's DONE. -/
def Ctx.putsOut (c : Ctx) : Bool := decide (c.puts ≠ 0) || c.pend.any fun p => !p.isCall && !p.refused
/-- The same for a context: of a chain's stage, also what contexts that are gone have put for the chain (R350). -/
def State.putsOut (s : State) (c : Ctx) : Bool :=
  c.putsOut || (match c.stage with | some (n, _) => (s.kernelD c.kid).chains.any fun ch => decide (ch.num = n) && decide (ch.owed ≠ 0) | none => false)
/-- A copy's state in which it has not ended (R211). -/
def copyLive (st : Nat) : Bool := st = 1 || st = 2 || st = 3 || st = 7
/-- Work that a context's strand has issued, in this activation or an earlier one, whose jobs run on after DONE (R189, R292). -/
def Ctx.issued (c : Ctx) (ctx act strand : Nat) : Bool := decide (ctx = c.id) || (decide (act = c.alck) && decide (strand = c.strand.toNat))
/-- A copy that the strand issued has not ended. -/
def State.copiesOut (s : State) (id : Nat) : Bool := s.lcores.any fun e => e.2.copies.any fun r => (s.ctxD id).issued r.ctx r.act r.strand && copyLive r.state
/-- A command that the strand handed to the MU has not completed. -/
def State.muOut (s : State) (id : Nat) : Bool :=
  let c := s.ctxD id
  let m := s.mu c.lck
  decide (m.done < c.muMark) || decide (m.done < m.marks[c.strand.toNat])
/-- A collective's state in which it has not ended (R386). -/
def collLive (st : Nat) : Bool := st = 1 || st = 2 || st = 5
/-- A collective that the strand issued has not ended. -/
def State.collsOut (s : State) (id : Nat) : Bool := s.lcores.any fun e => e.2.colls.any fun r => (s.ctxD id).issued r.ctx e.1 r.strand && collLive r.state

/-- Every access of a path made by work that the strand issued has been performed (R189). CORE stores are performed when
they execute, and a barrier arrival parks its strand until it is performed. -/
def State.pathDone (s : State) (id : Nat) (p : Path) : Bool :=
  match p with
  | .core => true
  | .put => !s.putsOut (s.ctxD id)
  | .copy => !s.copiesOut id
  | .matrix => !s.muOut id
  | .coll => !s.collsOut id
/-- What the strand does from now on, on any path, follows its accesses of a path that have been performed (R176, R189). -/
def State.afterPath (s : State) (id : Nat) (p : Path) : State :=
  let c := s.ctxD id
  match p with
  | .core => s.raiseStrand id (s.clock (s.coreNo c)).t
  | .put => s.raiseStrand id c.ackd
  | _ => s.syncEngine id

/-- A point that reports refusals: the oldest is reported and the others are discarded, or the instruction goes on (R197). -/
def State.checkNacks (s : State) (id : Nat) (k : State) : State :=
  if (s.ctxD id).nacks = [] then k else s.reportNack id

/-- FENCE (R188): later fetches observe the strand's stores (R48). DESIGN CHOICE (log entry 77): in a WARP activation that is not irrevocable it completes
at once, since its global stores are performed only after it has ended (R299). -/
def execFence (s : State) : Host.Outcome State Fault Refusal :=
  strandOp s .fence fun id _ => (s.upd id fun c => { c with oldWords := [] }).advance id 4
/-- CFENCE (R189). -/
def execCfence (px py : Path) (s : State) : Host.Outcome State Fault Refusal :=
  strandOp s (.cfence px py) fun id _ =>
    if s.pathDone id px then
      let s1 := s.afterPath id px
      if px = .put then s1.checkNacks id (s1.advance id 4) else s1.advance id 4
    else s.park id (.cfence px py) (.pathDone px)
/-- PFENCE (R190). -/
def execPfence (s : State) : Host.Outcome State Fault Refusal :=
  strandOp s .pfence fun id c =>
    if s.putsOut c then s.park id .pfence .puts
    else
      let s1 := s.afterPath id .put
      s1.checkNacks id (s1.advance id 4)

end Sys2Proof.Machine
end

