-- ==== Sys2Proof/Machine/LoadStore.lean ====
section
/-! DEFINITION. Loads and stores of a strand (R121-R129). -/

namespace Sys2Proof.Machine

open Sys2Proof

/-! ## Shared operations -/

/-- R105 and the alignment of an access of `n` bytes whose address must be a multiple of `al` (R105, R124). -/
def State.aligned (s : State) (id : Nat) (i : Instr) (ea al : Nat) (k : State) : State :=
  let c := s.ctxD id
  if ea < 2 ^ 20 then
    if c.shipped.isSome then s.goHome id i
    else if s.sOf c ≤ ea then s.trap id cPagePerm (w64 ea)
    else if ea % al ≠ 0 then s.trap id cMisalign (w64 ea)
    else k
  else if 2 ^ 56 ≤ ea then s.trap id cPageFault (w64 ea)
  else if ea % al ≠ 0 then s.trap id cMisalign (w64 ea)
  else k

/-- The evict-first hint marks the line of an access that is made (R127). -/
def State.hint (s : State) (id : Nat) (ef : Bool) (p : Place) : State :=
  match p with
  | .phys pa _ => if ef then s.evictFirst (s.coreNo (s.ctxD id)) pa else s
  | .scratch _ _ => s
/-- A load and a store that can be made, with the hint; a store that waits in the commit queue takes it there (R298). -/
def State.readHint (s : State) (id : Nat) (p : Place) (n : Nat) (ef : Bool) : Nat × State := ((s.readAt id p n).1, (s.readAt id p n).2.hint id ef p)
def State.writeHint (s : State) (id : Nat) (p : Place) (ea : Nat) (bs : List Byte) (ef : Bool) : State := (s.writeAt id p ea bs ef).hint id (ef && !s.spec (s.ctxD id)) p
/-- A load and a store with the hint. -/
def State.loadHint (s : State) (id : Nat) (i : Instr) (ea n : Nat) (ef : Bool) (k : State → Nat → State) : State :=
  s.loadAt shipsAt id i ea n fun s1 p => k (s1.readHint id p n ef).2 (s1.readHint id p n ef).1
def State.storeHint (s : State) (id : Nat) (i : Instr) (ea : Nat) (ef : Bool) (bs : List Byte) (k : State → State) : State :=
  s.storeAt shipsAt id i ea bs.length 1 fun s1 p => k (s1.writeHint id p ea bs ef)

/-- The two words of a 16-byte value. -/
def loHalf (v : Nat) : Word := w64 v
def hiHalf (v : Nat) : Word := w64 (v / 2 ^ 64)
/-- Writes gD and gD+1. -/
def Ctx.setPair (c : Ctx) (d : Reg) (lo hi : Word) : Ctx := (c.setG d lo).setG (d + 1#5) hi

/-- LD and LDV: a g register, or with size Q an f pair (R121, R122). -/
def State.loadTo (s : State) (id : Nat) (i : Instr) (d : Reg) (ea : Nat) (ef : Bool) (sz : Sz) (len : Nat) : State :=
  match sz with
  | .q => s.withFMid id i [] [d, d + 1#5] (fun s1 k => s1.aligned id i ea 16 (s1.loadAt shipsAt id i ea 16 k)) fun s1 _ p =>
      let r := s1.readHint id p 16 ef
      r.2.finishF id i len [] [(d, loHalf r.1), (d + 1#5, hiHalf r.1)] 0#5
  | z => s.aligned id i ea (szBytes z) (s.loadHint id i ea (szBytes z) ef fun s1 v => s1.finishG id d (w64 v) len)

/-- ST and STV: the low bytes of a g register, or with size Q an f pair (R121, R122). -/
def State.storeFrom (s : State) (id : Nat) (i : Instr) (b : Reg) (ea : Nat) (ef : Bool) (sz : Sz) (len : Nat) : State :=
  match sz with
  | .q => s.withFMid id i [b, b + 1#5] [] (fun s1 k => s1.aligned id i ea 16 (s1.storeAt shipsAt id i ea 16 1 k)) fun s1 vs p =>
      s1.putF id i [b, b + 1#5] [] fun s2 =>
        (s2.writeHint id p ea (leBytes 8 (vs.getD 0 0#64).toNat ++ leBytes 8 (vs.getD 1 0#64).toNat) ef).advance id len
  | z => s.aligned id i ea (szBytes z)
      (s.storeHint id i ea ef (leBytes (szBytes z) ((s.ctxD id).getG b).toNat) fun s1 => s1.advance id len)

/-- The first half of a pair is made, and the strand ships to where the second is made, of which all that can trap has been tested: it keeps its translated place. -/
def State.halfDone (s : State) (id : Nat) (i : Instr) (vs : List Word) (far : Option (Nat × Bool)) (go : State → State) : State :=
  (go (s.upd id fun c => { c with held := some { instr := i, sample := c.sample, stage := 1, vals := vs } })).upd id fun c =>
    { c with held := c.held.map fun h => { h with far := far } }
/-- The second half of such a pair is made once the strand stands where it can be (R368). -/
def State.otherHalf (s : State) (id : Nat) (i : Instr) (k : State → Place → State) : State :=
  match (s.ctxD id).held.bind (·.far) with
  | none => s
  | some (pa, dt) =>
    match shipTarget (s.ctxD id) pa with
    | some j => s.halfDone id i (s.ctxD id).valsOf (some (pa, dt)) fun x => x.shipTo id i j
    | none => k s (.phys pa dt)

/-- LDP: two 8-byte accesses in ascending order with D, one 16-byte access with Q (R121, R125). With D neither is made unless both can be (R46); where
they must be made on different clusters, the first is made before the strand ships to the second (R368). DESIGN CHOICE (log entry 75): a trap of the second
access has EINFO ← EA + 8. -/
def State.loadPair (s : State) (id : Nat) (i : Instr) (d : Reg) (ea : Nat) (ef : Bool) (sz : Sz) (len : Nat) : State :=
  match sz with
  | .q => s.aligned id i ea 16 (s.loadHint id i ea 16 ef fun s1 v =>
      s1.upd id fun c => (c.setPair d (loHalf v) (hiHalf v)).retired (c.pc + w64 len))
  | _ =>
    let fin (s : State) (v u : Word) : State := s.upd id fun c => (c.setPair d v u).retired (c.pc + w64 len)
    let ea2 := ea + 8
    if (s.ctxD id).stageOf = 1 then s.otherHalf id i fun s1 p =>
      if s1.ev.flag then s1.trap id cMemError (w64 ea2)
      else fin (s1.readHint id p 8 ef).2 ((s.ctxD id).valsOf.getD 0 0#64) (w64 (s1.readHint id p 8 ef).1)
    else
      s.aligned id i ea 8 (s.loadAt shipsAt id i ea 8 fun s1 p =>
        s1.loadAt (fun s2 far go => (s2.readHint id p 8 ef).2.halfDone id i [w64 (s2.readHint id p 8 ef).1] far go) id i ea2 8 fun s2 q =>
          let r := s2.readHint id p 8 ef
          let u := r.2.readHint id q 8 ef
          fin u.2 (w64 r.1) (w64 u.1))

/-- STP: two 8-byte accesses in ascending order with D, one 16-byte access with Q (R121, R125), as LDP. A store of a WARP activation that is to wait in the commit
queue ships nowhere for its second half (log entry 112). -/
def State.storePair (s : State) (id : Nat) (i : Instr) (b : Reg) (ea : Nat) (ef : Bool) (sz : Sz) (len : Nat) : State :=
  let lo := leBytes 8 ((s.ctxD id).getG b).toNat
  let hi := leBytes 8 ((s.ctxD id).getG (b + 1#5)).toNat
  match sz with
  | .q => s.aligned id i ea 16 (s.storeHint id i ea ef (lo ++ hi) fun s1 => s1.advance id len)
  | _ =>
    let ea2 := ea + 8
    let both (s : State) (p q : Place) : State := ((s.writeHint id p ea lo ef).writeHint id q ea2 hi ef).advance id len
    let room := 1 + bit (decide (2 ^ 20 ≤ ea))
    if (s.ctxD id).stageOf = 1 then s.otherHalf id i fun s1 p => (s1.writeHint id p ea2 hi ef).advance id len
    else
      s.aligned id i ea 8 (s.storeAt shipsAt id i ea 8 1 fun s1 p =>
        s1.storeAt (fun s2 far go =>
          let c := s2.ctxD id
          let q : Place := .phys (far.getD (0, false)).1 (far.getD (0, false)).2
          if s2.isWarp c.kid && (s2.kernelD c.kid).meetsFrozen ea2 8 then s2.trap id cPagePerm (w64 ea2)
          else if s2.spec c then s2.commitAt id i room (w64 ea2) fun s3 => both s3 p q
          else (s2.writeHint id p ea lo ef).halfDone id i [] far go) id i ea2 8 room fun s2 q => both s2 p q)

/-! ## Meanings -/

/-- LD (R121-R126). -/
def execLd (d a : Reg) (off10 : BitVec 10) (ef : Bool) (sz : Sz) (s : State) : Host.Outcome State Fault Refusal :=
  strandOp s (.ld d a off10 ef sz) fun id c => s.loadTo id (.ld d a off10 ef sz) d (memEA c a off10 sz) ef sz 4
/-- LD_L (R121-R126). -/
def execLdL (d a : Reg) (ef : Bool) (sz : Sz) (lit : Word) (s : State) : Host.Outcome State Fault Refusal :=
  strandOp s (.ldL d a ef sz lit) fun id c => s.loadTo id (.ldL d a ef sz lit) d (litEA c a lit) ef sz 12
/-- LDP (R121-R126). -/
def execLdp (d a : Reg) (off10 : BitVec 10) (ef : Bool) (sz : Sz) (s : State) : Host.Outcome State Fault Refusal :=
  strandOp s (.ldp d a off10 ef sz) fun id c => s.loadPair id (.ldp d a off10 ef sz) d (memEA c a off10 sz) ef sz 4
/-- LDP_L (R121-R126). -/
def execLdpL (d a : Reg) (ef : Bool) (sz : Sz) (lit : Word) (s : State) : Host.Outcome State Fault Refusal :=
  strandOp s (.ldpL d a ef sz lit) fun id c => s.loadPair id (.ldpL d a ef sz lit) d (litEA c a lit) ef sz 12
/-- ST (R121-R126). -/
def execSt (a b : Reg) (off10 : BitVec 10) (ef : Bool) (sz : Sz) (s : State) : Host.Outcome State Fault Refusal :=
  strandOp s (.st a b off10 ef sz) fun id c => s.storeFrom id (.st a b off10 ef sz) b (memEA c a off10 sz) ef sz 4
/-- ST_L (R121-R126). -/
def execStL (a b : Reg) (ef : Bool) (sz : Sz) (lit : Word) (s : State) : Host.Outcome State Fault Refusal :=
  strandOp s (.stL a b ef sz lit) fun id c => s.storeFrom id (.stL a b ef sz lit) b (litEA c a lit) ef sz 12
/-- STP (R121-R126). -/
def execStp (a b : Reg) (off10 : BitVec 10) (ef : Bool) (sz : Sz) (s : State) : Host.Outcome State Fault Refusal :=
  strandOp s (.stp a b off10 ef sz) fun id c => s.storePair id (.stp a b off10 ef sz) b (memEA c a off10 sz) ef sz 4
/-- STP_L (R121-R126). -/
def execStpL (a b : Reg) (ef : Bool) (sz : Sz) (lit : Word) (s : State) : Host.Outcome State Fault Refusal :=
  strandOp s (.stpL a b ef sz lit) fun id c => s.storePair id (.stpL a b ef sz lit) b (litEA c a lit) ef sz 12
/-- LDV (R123). -/
def execLdv (d a b : Reg) (ef : Bool) (sz : Sz) (s : State) : Host.Outcome State Fault Refusal :=
  strandOp s (.ldv d a b ef sz) fun id c => s.loadTo id (.ldv d a b ef sz) d (idxEA c a b) ef sz 4
/-- STV (R123). -/
def execStv (d a b : Reg) (ef : Bool) (sz : Sz) (s : State) : Host.Outcome State Fault Refusal :=
  strandOp s (.stv d a b ef sz) fun id c => s.storeFrom id (.stv d a b ef sz) d (idxEA c a b) ef sz 4
/-- PREF RD (R129): it may be dropped, and it changes no visible state. -/
def execPrefRd (a b : Reg) (s : State) : Host.Outcome State Fault Refusal :=
  strandOp s (.prefRd a b) fun id _ => s.advance id 4
/-- PREF WR (R129). -/
def execPrefWr (a b : Reg) (s : State) : Host.Outcome State Fault Refusal :=
  strandOp s (.prefWr a b) fun id _ => s.advance id 4

end Sys2Proof.Machine
end

