-- ==== Sys2Proof/Machine/Copy.lean ====
section
/-! DEFINITION. The copy engine: descriptors, issue, units, completion and cancellation (R205-R211). -/

namespace Sys2Proof.Machine

open Sys2Proof

/-! ## Issue (R205, R208) -/

/-- Loads `n` 8-byte words of the descriptor. -/
def State.loadDesc (s : State) (id : Nat) (i : Instr) (off : Nat) : Nat → List Byte → (State → List Byte → State) → State
  | 0, bs, k => k s bs
  | n + 1, bs, k => s.load id i off 8 fun s1 v => s1.loadDesc id i (off + 8) n (bs ++ leBytes 8 v) k

/-- Copies in flight of a logical core (R205). -/
def LCore.liveCopies (c : LCore) : List CopyRec := c.copies.filter fun r => copyLive r.state
/-- CPYN (R96, R205). -/
def State.cpyn (s : State) (lc : Nat) : Nat := (s.lcore lc).liveCopies.length
/-- The lowest free slot. -/
def LCore.freeSlot (c : LCore) : Option Nat := (List.range Config.copySlots).find? fun n => c.liveCopies.all fun r => r.slot ≠ n
/-- Changes the copy of a slot. -/
def State.updCopy (s : State) (lc slot : Nat) (f : CopyRec → CopyRec) : State :=
  s.updLc lc fun c => { c with copies := c.copies.map fun r => if r.slot = slot then f r else r }
def State.copy? (s : State) (lc slot : Nat) : Option CopyRec := (s.lcore lc).copies.find? fun r => r.slot = slot

/-- The checks of R208 from step 3 on, on a descriptor as read. -/
def State.copyCheck (s : State) (id : Nat) (r : CopyRec) (k : State) : State :=
  let c := s.ctxD id
  let sz := s.sOf c
  if r.malformed then s.trap id cIllegal r.descAt
  else if r.sm ≠ 0 ∧ r.siga % 8 ≠ 0 then s.trap id cMisalign (w64 r.siga)
  else if r.sm ≠ 0 ∧ 2 ^ 56 ≤ r.siga then s.trap id cPageFault (w64 r.siga)
  else match r.ownRanges.findSome? (firstOutside sz) with
    | some a => s.trap id cPagePerm a
    | none =>
      let frozen : Bool := match r.srcRange with
        | some (a, b) => (s.kernelD c.kid).frozen a.toNat (b - a).toNat
        | none => (s.kernelD c.kid).frozen r.src r.e
      if s.spec c ∧ (r.sk = 2 ∨ (r.sk = 1 ∧ !frozen)) then s.trap id cFrozenLoad r.descAt
      else k

/-! ## Units (R175, R207) -/

/-- A unit: bytes `off` to `off + n` of element `elem` at the destination. -/
structure CUnit where
  elem : Nat
  off : Nat
  n : Nat
  deriving DecidableEq, Repr

/-- The largest naturally aligned size of at most `cap` bytes at both addresses. -/
def unitSize (cap d sa rem : Nat) : Nat :=
  if 16 ≤ cap ∧ 16 ≤ rem ∧ d % 16 = 0 ∧ sa % 16 = 0 then 16
  else if 8 ≤ rem ∧ d % 8 = 0 ∧ sa % 8 = 0 then 8
  else if 4 ≤ rem ∧ d % 4 = 0 ∧ sa % 4 = 0 then 4
  else if 2 ≤ rem ∧ d % 2 = 0 ∧ sa % 2 = 0 then 2
  else 1
/-- The units of an element from offset `off` on; `before` bytes come before the element. No unit reaches over a multiple of 4,096 bytes of progress, so that a copy
can stop exactly there (R415, R416). -/
def pieces (cap elem d sa before off : Nat) : Nat → Nat → List CUnit
  | 0, _ => []
  | fuel + 1, rem =>
    if rem = 0 then []
    else
      let n := unitSize cap (d + off) (sa + off) (Nat.min rem (4096 - (before + off) % 4096))
      { elem := elem, off := off, n := n } :: pieces cap elem d sa before (off + n) fuel (rem - n)
/-- The enumeration of a copy (R207). Units of a converted element do not follow the source's alignment. -/
def CopyRec.units (r : CopyRec) : List CUnit :=
  let cap := if r.sk = 2 then 8 else 16
  (List.range r.count).flatMap fun i =>
    let d := if r.kind = 1 then (r.dstAt i 0).toNat else r.dst
    let sa := if r.cv then d else if r.kind = 1 then (r.srcAt i 0).toNat else r.src
    pieces cap i d sa (i * r.elemBytes) 0 r.elemBytes r.elemBytes

/-- How one access of a copy fares. -/
inductive CopyRes where
  | ok | sent | hold
  | page (va level : Nat)
  | err (code : Nat)
  deriving DecidableEq, Repr

/-- The index of an element in the table of CPYG and CPYX, read on the COPY path; in a keep region the activation touches its block (R294). -/
def State.copyIndex (s : State) (lc : Nat) (r : CopyRec) (i : Nat) : Nat × State :=
  if 2 ≤ r.kind then
    let x := (s.engKeep r.act (lc / 8) r.byKey false (r.aux + 4 * i) 4).2.engScratchRead (s.engineOf lc) (lc / 8) (r.aux + 4 * i) 4
    (leNat x.1, x.2)
  else (0, s)
/-- The evict-first hint of a copy's global accesses (R127, R206). -/
def State.copyHint (s : State) (lc : Nat) (r : CopyRec) (pa : Nat) : State := if r.ctl / 64 % 2 = 1 then s.evictFirst (s.engineOf lc) pa else s

/-- Reads `n` source bytes of a copy. -/
def State.copyRead (s : State) (lc : Nat) (r : CopyRec) (a : Word) (n u : Nat) : CopyRes × List Byte × State :=
  let kid := lcKid lc
  let cn := s.engineOf lc
  match r.sk with
  | 0 =>
    if (s.kernelD kid).s < a.toNat + n then (.err 1, [], s)
    else match s.engKeep r.act (lc / 8) r.byKey false a.toNat n with
      | (.ok, s1) => let (b, s2) := s1.engScratchRead cn (lc / 8) a.toNat n
        (.ok, b, s2)
      | (_, s1) => (.hold, [], s1)
  | 1 =>
    if r.logged && !(s.kernelD kid).frozen a.toNat n then (.err 1, [], s)
    else match s.engXlate (s.partOf kid) (s.ltile (lc / 8)).tile a.toNat aCopy with
    | (.ok pa _, s1) => let (b, s2) := (s1.countEngine kid (s.ltile (lc / 8)).tile pa n).engRead cn pa n
      (.ok, b, s2.copyHint lc r pa)
    | (.wait l, s1) => (.page a.toNat l, [], s1)
    | (.refused _, s1) => (.err 1, [], s1)
    | (.hold, s1) => (.hold, [], s1)
  | _ =>
    if s.retxRoom lc then (.sent, [], s.launchAccess lc 7 0 a (.copyRead n) (.copyUnit lc r.slot u) (s.clock cn).t) else (.hold, [], s)

/-- An engine's write of an activation found no room in its own share of the keep log: the supervisor core is told (R296). -/
def State.logError (s : State) (lc a : Nat) (vrt : Word) : State := s.unitTrap lc cCommitOverflow (w64 (a / 64 * 64)) vrt

/-- Writes destination bytes of a copy: the checks of R209, R298 and R372, the keep log of R210 and R296. DEDUCED (log entry 110): of a unit that lies in a frozen
range the supervisor core gets a trap message PAGE_PERM with its address as EINFO, and the copy ends with error PERM. -/
def State.copyWrite (s : State) (lc : Nat) (r : CopyRec) (a : Word) (bs : List Byte) (u : Nat) : CopyRes × State :=
  let kid := lcKid lc
  let cn := s.engineOf lc
  match r.dk with
  | 0 =>
    if (s.kernelD kid).s < a.toNat + bs.length then (.err 1, s)
    else match s.engKeep r.act (lc / 8) r.byKey r.logged a.toNat bs.length with
      | (.ok, s1) => (.ok, s1.engScratchWrite cn (lc / 8) a.toNat bs)
      | (.overflow, s1) => (.err 5, s1.logError lc a.toNat r.vrt)
      | (.wait, s1) => (.hold, s1)
  | 1 =>
    if s.isWarp kid && (s.kernelD kid).meetsFrozen a.toNat bs.length then
      (.err 1, (s.unitTrap lc cPagePerm a r.vrt).updCopy lc r.slot fun r => { r with told := true })
    else match s.engXlate (s.partOf kid) (s.ltile (lc / 8)).tile a.toNat aStore with
      | (.ok pa dt, s1) => if s1.migrating (s.partOf kid) pa then (.hold, s1) else (.ok, ((s1.countEngine kid (s.ltile (lc / 8)).tile pa bs.length).engWrite cn pa bs dt).copyHint lc r pa)
      | (.wait l, s1) => (.page a.toNat l, s1)
      | (.refused _, s1) => (.err 1, s1)
      | (.hold, s1) => (.hold, s1)
  | _ =>
    if s.retxRoom lc then (.sent, s.launchAccess lc 7 0 a (.copyWrite bs) (.copyUnit lc r.slot u) (s.clock cn).t) else (.hold, s)

/-- A converted element: its bytes and flags (R74, R207). -/
def CopyRec.convert (r : CopyRec) (bs : List Byte) : List Byte × BitVec 5 :=
  match etOfNat r.sty, etOfNat r.dty with
  | some a, some b =>
    let md := modeOf (match r.rm with | 0 => .rne | 1 => .rtz | 2 => .rdn | 3 => .rup | 4 => .rna | _ => .dyn) r.frm
    let (v, f) := roundNum b md (satOf r.frm) false (numOf a (leNat bs))
    (leBytes (b.width / 8) v, f)
  | _, _ => (bs, 0#5)

/-- The source side of a unit: its address and size; a converted element is read whole. -/
def CopyRec.readOf (r : CopyRec) (x : CUnit) (ix : Nat) : Word × Nat :=
  if r.cv then (r.srcAt x.elem ix, r.e) else (r.srcAt x.elem ix + w64 x.off, x.n)

/-- A unit's source bytes are in hand: its destination bytes are written; `ix` is its element's index. -/
def State.copyPut (s : State) (lc : Nat) (r : CopyRec) (u : Nat) (x : CUnit) (ix : Nat) (bs : List Byte) : CopyRes × State :=
  let (out, fl) := if r.cv then let (b, f) := r.convert bs
    ((b.drop x.off).take x.n, f) else (bs, 0#5)
  let (res, s0) := s.copyWrite lc r (r.dstAt x.elem ix + w64 x.off) out u
  let done := decide (res = .ok) || decide (res = .sent)
  match (res, if done then s0.count (s.ltile (lc / 8)).tile (lcKid lc) 9 out.length else s0) with
  | (.ok, s1) => (.ok, s1.updCopy lc r.slot fun r => { r with fl := r.fl ||| fl, ahead := insertOnce u r.ahead })
  | (.sent, s1) => (.sent, s1.updCopy lc r.slot fun r => { r with fl := r.fl ||| fl, waitFid := r.waitFid ++ [s.nextId] })
  | x => x

/-- One unit is moved: read, converted, written. An overlapping CPY takes its source bytes as they stood before its first
write (R207). -/
def State.copyUnit (s : State) (lc : Nat) (r : CopyRec) (u : Nat) (x : CUnit) (memErr : Bool) : CopyRes × State :=
  match r.snap with
  | some b => s.copyPut lc r u x 0 ((b.drop x.off).take x.n)
  | none =>
    if memErr then (.err 3, s)
    else
      let ix := s.copyIndex lc r x.elem
      let (a, n) := r.readOf x ix.1
      match ix.2.copyRead lc r a n u with
      | (.ok, bs, s1) => s1.copyPut lc r u x ix.1 bs
      | (.sent, _, s1) => (.sent, s1.updCopy lc r.slot fun r => { r with waitFid := r.waitFid ++ [s.nextId] })
      | (res, _, s1) => (res, s1)

/-- The written prefix takes in the units written ahead of it. -/
def CopyRec.settle (r : CopyRec) (us : List CUnit) : Nat → CopyRec
  | 0 => r
  | fuel + 1 =>
    if r.ahead.contains r.pos then
      ({ r with ahead := r.ahead.filter (· ≠ r.pos), pos := r.pos + 1, progress := r.progress + ((us.getD r.pos ⟨0, 0, 0⟩).n) } : CopyRec).settle us fuel
    else r
def State.copySettle (s : State) (lc slot : Nat) : State := s.updCopy lc slot fun r => r.settle r.units r.ahead.length

/-- The die that serves a copy's page requests. -/
def State.copyDie (s : State) (lc : Nat) : Nat := dieOfTile (s.ltile (lc / 8)).tile
/-- What follows from an access: an error is noted, an unmapped page makes the copy wait with a record (R209, R369). -/
def State.copyAfter (s : State) (lc slot : Nat) (res : CopyRes) : State :=
  match res with
  | .err c => s.updCopy lc slot fun r => { r with err := c }
  | .page va l =>
    let kid := lcKid lc
    let d := (s.die (s.copyDie lc)).request (s.partOf kid) kid va aCopy l
    let s0 := if (s.die (s.copyDie lc)).pages.length < d.pages.length then s.count (s.ltile (lc / 8)).tile kid 13 1 else s
    let s1 := s0.updDie (s.copyDie lc) fun _ => d
    s1.updCopy lc slot fun r => { r with state := 3, pageVa := w64 va }
  | _ => s

/-! ## Ending (R209) -/

/-- The signal write or credit of a copy that ends, done or with an error: none where it must wait for a page. One that meets a frozen range of a WARP
kernel, which none of its stores changes, fares as on a page without the W right (R300). -/
def State.copySignal (s : State) (lc : Nat) (r : CopyRec) (err : Nat) : CopyRes × State :=
  let kid := lcKid lc
  let part := s.partOf kid
  let cn := s.engineOf lc
  let value := if err = 0 then w64 r.sigv else w64 (2 ^ 63 + err * 2 ^ 52 + r.progress)
  let credit (s : State) (p : Place) : State := match s.barCredit cn part p (if r.kind = 0 then r.len else r.total) (decide (err ≠ 0)) with
    | some s1 => s1
    | none => s.unitTrap lc cGroupRefused (w64 r.siga) r.vrt
  if r.sm = 0 then (.ok, s)
  else if r.siga < 2 ^ 20 then
    match s.engKeep r.act (lc / 8) r.byKey r.logged r.siga (if r.sm = 2 then 64 else 8) with
    | (.wait, s1) => (.hold, s1)
    | (.overflow, s1) => (.err 5, s1.logError lc r.siga r.vrt)
    | (.ok, s1) =>
      if r.sm = 2 then (.ok, credit s1 (.scratch (lc / 8) r.siga)) else (.ok, s1.engScratchSignal cn (lc / 8) r.siga (leBytes 8 value.toNat))
  else match s.engXlate part (s.ltile (lc / 8)).tile r.siga aStore with
    | (.wait l, s1) => (.page r.siga l, s1)
    | (.refused c, s1) => (.ok, s1.unitTrap lc c (w64 r.siga) r.vrt)
    | (.hold, s1) => (.hold, s1)
    | (.ok pa dt, s1) =>
      if s1.isWarp kid && (s1.kernelD kid).meetsFrozen r.siga (if r.sm = 2 then 64 else 8) then (.ok, s1.unitTrap lc cPagePerm (w64 r.siga) r.vrt)
      else if s1.migrating part pa then (.hold, s1)
      else if r.sm = 2 then (.ok, credit s1 (.phys pa dt))
      else (.ok, (s1.countEngine kid (s.ltile (lc / 8)).tile pa 8).engSignal cn pa (leBytes 8 value.toNat) dt)

/-- The commit-queue entry that a copy was, if it is one (R210). -/
def State.copyEntry (s : State) (lc : Nat) (r : CopyRec) : Option CommitEntry := (s.lcore r.act).commitQ.find? fun e => e.op = .copy lc r.slot
/-- The cause that a trap message names for a committed copy's error: a window's refusal, a page's, or an uncorrectable read (R299). -/
def copyCause (err : Nat) : BitVec 8 := match err with | 2 => cWindowNack | 3 => cMemError | _ => cPagePerm
/-- A copy has ended: as an entry of a commit queue it has been performed, or has failed at issue, of which the supervisor is told (R299). -/
def State.copyOver (s : State) (lc : Nat) (r : CopyRec) (st : Nat) : State :=
  let s1 := s.updCopy lc r.slot fun r => { r with state := st, ending := 0, stopAt := none }
  match s.copyEntry lc r with
  | none => s1
  | some e => (if st = 5 ∧ r.err ≠ 4 ∧ r.err ≠ 5 ∧ !r.told then s1.unitTrap lc (copyCause r.err) r.descAt r.vrt else s1).commitBack r.act e.seqno

/-- The copy ends done (4) or with its error (5), after its signal; a cancelled copy (6) makes none. A signal write for which the activation's own log
has no room is an error LOG (R296). -/
def State.copyEnd (s : State) (lc slot st : Nat) : State :=
  match s.copy? lc slot with
  | none => s
  | some r =>
    if st = 6 then s.copyOver lc r 6
    else
      let s0 := s.updCopy lc slot fun r => { r with ending := st }
      match s0.copySignal lc r r.err with
      | (.ok, s1) => s1.copyOver lc r st
      | (.err c, s1) => (s1.updCopy lc slot fun r => { r with err := c }).copyOver lc { r with err := c } 5
      | (res, s1) => s1.copyAfter lc slot res

/-! ## The order of a copy's units (R207, R415) -/

/-- The units whose accesses are under way to another tile or device. -/
def State.copyFlying (s : State) (lc slot : Nat) : List Nat :=
  (s.flits ++ s.arrivals ++ s.taken.map (·.1) ++ (s.lcore lc).retx).filterMap fun f => match f.issuer with
    | .copyUnit l n u => if l = lc ∧ n = slot then some u else none
    | _ => none
/-- Bytes of the first `n` units of an enumeration. -/
def bytesBelow (us : List CUnit) (n : Nat) : Nat := ((us.take n).map (·.n)).sum
/-- A unit that nothing holds up: its pages are mapped and do not move. -/
def State.copyClear (s : State) (lc : Nat) (r : CopyRec) (x : CUnit) : Bool :=
  let part := s.partOf (lcKid lc)
  let ix := if 2 ≤ r.kind then leNat (s.scratchBytes (lc / 8) (r.aux + 4 * x.elem) 4) else 0
  let mapped (a : Nat) (w : Bool) : Bool := match s.walk part a with
    | .leaf t _ _ _ => !(w && s.migrating part (t.frame + a % 65536))
    | .malformed => true
    | .unmapped _ => false
  (decide (r.sk ≠ 1) || mapped (r.readOf x ix).1.toNat false) && (decide (r.dk ≠ 1) || mapped (r.dstAt x.elem ix + w64 x.off).toNat true)
/-- The engine may move unit `u` now: it is below the copy's stopping point, and it is written ahead of others only within the 4 KiB of the progress, once those
are begun, and past units that nothing holds up; a copy that a rollback can cancel is written in order. The engine can therefore always stop with exactly a
prefix written (DEDUCED from R207 and R415, log entry 34). -/
def State.copyMay (s : State) (lc : Nat) (r : CopyRec) (us : List CUnit) (flying : List Nat) (u : Nat) : Bool :=
  let next := (r.progress + 4095) / 4096 * 4096
  (match r.stopAt with | some n => decide (u < n) | none => true)
    && (decide (u = r.pos) || (!(r.logged && decide (r.dk = 0)) && decide (bytesBelow us u < next)
      && ((List.range u).filter fun v => decide (r.pos ≤ v) && !r.ahead.contains v && !flying.contains v).all fun v => match us[v]? with
        | some x => s.copyClear lc r x
        | none => false))
/-- Moves the picked units in order while the copy runs; a unit written or under way is passed over, and one that may not be moved yet. -/
def State.copyPicks (s : State) (lc slot : Nat) (us : List CUnit) (memErr : Bool) : List Nat → State
  | [] => s
  | u :: t =>
    match s.copy? lc slot, us[u]? with
    | some r, some x =>
      let flying := s.copyFlying lc slot
      if r.state ≠ 2 ∨ r.err ≠ 0 then s
      else if u < r.pos ∨ r.ahead.contains u ∨ flying.contains u ∨ !s.copyMay lc r us flying u then s.copyPicks lc slot us memErr t
      else
        let (res, s1) := s.copyUnit lc r u x memErr
        let s2 := (s1.copyAfter lc slot res).copySettle lc slot
        if res = .ok ∨ res = .sent then s2.copyPicks lc slot us memErr t else s2
    | _, _ => s

/-- The source bytes of a unit of an overlapping CPY: as they stood at issue, or as they are read now where they could not be read then (R207, log entry 81). -/
def CopyRec.stood (r : CopyRec) (x : CUnit) (now : List Byte) : List Byte := (mget x.off r.early).getD now
/-- Takes the source bytes of an overlapping CPY before its first write, unit after unit (R207); `memErr` is an uncorrectable error in what is read. -/
def State.copySnap (s : State) (lc slot : Nat) (memErr : Bool) : List CUnit → State
  | [] => s
  | x :: t =>
    match s.copy? lc slot with
    | none => s
    | some r =>
      if memErr && decide (r.sk ≠ 2) then s.copyAfter lc slot (.err 3)
      else match s.copyRead lc r (r.srcAt 0 0 + w64 x.off) x.n r.units.length with
      | (.ok, bs, s1) => (s1.updCopy lc slot fun r => { r with snap := some (r.snap.getD [] ++ r.stood x bs) }).copySnap lc slot memErr t
      | (.sent, _, s1) => s1.updCopy lc slot fun r => { r with waitFid := r.waitFid ++ [s.nextId] }
      | (res, _, s1) => s1.copyAfter lc slot res
/-- An overlapping CPY takes its source bytes before it writes. -/
def CopyRec.snaps (r : CopyRec) : Bool := decide (r.kind = 0) && r.overlaps
/-- The units of an overlapping CPY whose source is not yet taken. -/
def CopyRec.snapLeft (r : CopyRec) : List CUnit :=
  let have' := (r.snap.getD []).length
  if r.snaps then r.units.filter fun x => decide (have' ≤ x.off) else []

/-! ## Turns of the engine (R209) -/

/-- What a running copy with nothing under way has come to: its stopping point, an error, or its end. -/
def State.copyCheckEnd (s : State) (lc slot : Nat) : State :=
  match s.copy? lc slot with
  | none => s
  | some r =>
    if r.state ≠ 2 ∨ r.waitFid ≠ [] then s
    else if r.ending = 6 then (if r.err ≠ 0 ∨ r.stopAt.getD 0 ≤ r.pos then s.copyEnd lc slot 6 else s)
    else if r.err ≠ 0 then s.copyEnd lc slot 5
    else if r.progress = r.total then s.copyEnd lc slot 4
    else s
/-- A turn of the copy engine for a copy: it starts or goes on, and ends when nothing is left and nothing is under way. -/
def State.copyTurn (s : State) (lc slot : Nat) (picks : List Nat) (memErr : Bool) : State :=
  match s.copy? lc slot with
  | none => s
  | some r =>
    if r.state ≠ 1 ∧ r.state ≠ 2 then s
    else if (s.copyEntry lc r).any fun e => !e.sent then s
    else if r.ending = 4 ∨ r.ending = 5 then (if r.waitFid = [] then s.copyEnd lc slot r.ending else s)
    else
      let s0 := s.updCopy lc slot fun r => { r with state := 2 }
      if r.kind = 1 ∧ r.overlaps then (s0.updCopy lc slot fun r => { r with err := 4 }).copyEnd lc slot 5
      else
        let go := decide (r.err = 0) && !(decide (r.ending = 6) && decide (r.stopAt.getD 0 ≤ r.pos))
        let s1 := if go && decide (r.snapLeft ≠ []) && decide (r.waitFid = []) then s0.copySnap lc slot memErr r.snapLeft else s0
        let left := match s1.copy? lc slot with | some r1 => decide (r1.snapLeft ≠ []) | none => true
        (if go && !left then (s1.copyPicks lc slot r.units memErr picks).copySettle lc slot else s1).copyCheckEnd lc slot

/-- The copy engine of a logical core's tile runs for it (R412, R449). -/
def State.copyRuns (s : State) (lc : Nat) : Bool := s.kernelRuns (lcKid lc) && !s.leasedOut (s.ltile (lc / 8)).tile (s.partOf (lcKid lc))
/-- At a gang switch the engine takes a copy to its stopping point (R415). -/
def State.copySaves (s : State) (lc slot : Nat) : Bool :=
  decide ((s.part (s.partOf (lcKid lc))).gang = .saving) && (match s.copy? lc slot with | some r => r.stopAt.isSome || decide (r.ending ≠ 0) | none => false)
/-- The copy has met an error in this turn or before it. -/
def copyFailed (s : State) (lc slot : Nat) : Bool := match s.copy? lc slot with | some r => decide (r.err ≠ 0) | none => false

/-- A page wait ends: refused with error PERM, or, when the wait was for SIGA, with a trap message; otherwise the copy goes on
(R209, R370). -/
def State.copyAnswered (s : State) (lc slot : Nat) (refused : Bool) : State :=
  match s.copy? lc slot with
  | none => s
  | some r =>
    let s1 := s.updCopy lc slot fun r => { r with state := 2, pageVa := 0#64 }
    if !refused then s1
    else if r.ending = 4 ∨ r.ending = 5 then (s1.unitTrap lc cPageFault (w64 r.siga) r.vrt).copyOver lc r r.ending
    else s1.updCopy lc slot fun r => { r with err := 1 }
/-- A copy gives up its page wait (R427). -/
def State.copyLeavePage (s : State) (lc slot : Nat) : State :=
  match s.copy? lc slot with
  | some r => if r.state = 3 then (s.updDie (s.copyDie lc) fun d => d.leave (s.partOf (lcKid lc)) r.pageVa.toNat).copyAnswered lc slot false else s
  | none => s

/-- Gives a running copy its stopping point: the units below `n`, and below every unit that is written or under way (R207). -/
def State.copyStopAt (s : State) (lc slot n : Nat) : State :=
  match s.copy? lc slot with
  | none => s
  | some r =>
    let top := (r.ahead ++ s.copyFlying lc slot).foldl (fun m u => if u < r.units.length then Nat.max m (u + 1) else m) (Nat.max n r.pos)
    s.updCopy lc slot fun r => { r with stopAt := some top }
/-- At a switch a copy in page wait gives it up; with no access under way it is a replay entry from then on, at its progress, also one that waits for its signal's page or is being
cancelled (R415, R427). -/
def State.copyUnwait (s : State) (lc slot : Nat) : State :=
  match s.copy? lc slot with
  | some r =>
    if r.state ≠ 3 then s
    else
      let s1 := (s.copyLeavePage lc slot).copyStopAt lc slot r.pos
      if r.waitFid = [] then s1.updCopy lc slot fun r => { r with state := 7 } else s1
  | none => s

/-- COPY_COMPLETE (R209): the engine moves the units `ev.picks` of the copy in slot `ev.idx` of logical core `ev.id`, in that
order, and the copy ends done when that were the last. -/
def execCopyComplete (s : State) : Host.Outcome State Fault Refusal :=
  let t := s.copyTurn s.ev.id s.ev.idx s.ev.picks false
  if (s.copyRuns s.ev.id || s.copySaves s.ev.id s.ev.idx) && !copyFailed t s.ev.id s.ev.idx then .next (if s.copyRuns s.ev.id then t else t.copyUnwait s.ev.id s.ev.idx) else .next s
/-- COPY_ERROR (R209): the same turn, in which the copy meets a refusal, an uncorrectable read (`ev.flag`), OVERLAP or LOG. -/
def execCopyError (s : State) : Host.Outcome State Fault Refusal :=
  let t := s.copyTurn s.ev.id s.ev.idx s.ev.picks s.ev.flag
  if (s.copyRuns s.ev.id || s.copySaves s.ev.id s.ev.idx) && copyFailed t s.ev.id s.ev.idx then .next (if s.copyRuns s.ev.id then t else t.copyUnwait s.ev.id s.ev.idx) else .next s

/-- The reply to a unit has come: a value that was read is written on, an acknowledged write is done, a refusal is an
error NACK. After the copy's first error nothing more is written, and a value that cannot be written now is read again (R209). -/
def State.copyReply (s : State) (lc slot u fid : Nat) (reply : Option (Option Word)) : State :=
  let s1 := s.updCopy lc slot fun r => { r with waitFid := r.waitFid.filter (· ≠ fid) }
  match s1.copy? lc slot with
  | none => s1
  | some r =>
    if !copyLive r.state then s1
    else
      let s2 := match reply with
        | none => s1.updCopy lc slot fun r => { r with err := if r.err = 0 then 2 else r.err }
        | some none => (s1.updCopy lc slot fun r => { r with ahead := insertOnce u r.ahead }).copySettle lc slot
        | some (some v) =>
          if r.err ≠ 0 then s1
          else match r.units[u]? with
          | none =>
            -- a unit of the snapshot: the next source bytes of an overlapping CPY
            match r.snapLeft.head? with
            | some x => s1.updCopy lc slot fun r => { r with snap := some (r.snap.getD [] ++ r.stood x (leBytes x.n v.toNat)) }
            | none => s1
          | some x =>
            let ix := s1.copyIndex lc r x.elem
            let (res, s3) := ix.2.copyPut lc r u x ix.1 (leBytes (r.readOf x ix.1).2 v.toNat)
            match res with
            | .page _ _ => if r.state = 3 then s3 else s3.copyAfter lc slot res
            | res => (s3.copyAfter lc slot res).copySettle lc slot
      match s2.copy? lc slot with
      | some r2 => if r2.ending = 6 then s2.copyCheckEnd lc slot else s2
      | none => s2

/-! ## Issue and slots (R205, R210) -/

/-- The source bytes of an overlapping CPY's units as they stand now, where they can be read: in mapped pages, and in scratchpads of this device behind an open
window (R207). -/
def State.copyEarly (s : State) (kid lt : Nat) (r : CopyRec) : List (Nat × List Byte) :=
  if !r.snaps then [] else r.units.filterMap fun x =>
    let a := r.srcAt 0 0 + w64 x.off
    match r.sk with
    | 0 => some (x.off, s.scratchBytes lt a.toNat x.n)
    | 1 => match s.walk (s.partOf kid) a.toNat with
      | .leaf t _ _ _ => some (x.off, s.paBytes (t.frame + a.toNat % 65536) x.n)
      | _ => none
    | _ =>
      let lt := ltKey (raKid a) (raLt a)
      let w := (s.ltile lt).windows[raWin a % 8]'(Nat.mod_lt _ (by decide))
      if raDev a = s.device.toNat ∧ w.accepts (.copyRead x.n) a kid true then some (x.off, s.scratchBytes lt (64 * w.base64.toNat + raOff a) x.n) else none
/-- The copy takes its slot and its sequence number; a global or remote destination of a WARP activation that is not
irrevocable waits in the commit queue (R205, R210). An overlapping CPY has its source bytes as they stand at issue (R207), from its own scratchpad at once; those
of an unmapped page, a closed window or another device, which cannot be read then, come when its accesses can be made (log entry 81). -/
def State.copyTake (s0 : State) (id : Nat) (d : Reg) (r : CopyRec) (slot len : Nat) : State :=
  let s := s0.handEngine id
  let c := s.ctxD id
  let l := s.lcore c.lck
  let later := s.spec c && decide (r.dk ≠ 0)
  let r1 := { r with slot := slot, seqno := l.copySeq, ctx := id, early := s.copyEarly c.kid c.ltk r, strand := c.strand.toNat, act := c.alck, state := 1, order := s.nextId, vrt := c.item.vrt,
                     byKey := if s.isWarp c.kid then some c.item.key else none, logged := s.spec c }
  let s1 := s.updLc c.lck fun l =>
    { l with copies := l.copies.filter (fun x => x.slot ≠ slot) ++ [r1], copySeq := l.copySeq + 1 }
  let s2 := if later then s1.addCommit c.alck c.item.key (.copy c.lck slot) else s1
  let s3 := if !later && decide (r1.sk ≠ 2) && decide (r1.snapLeft ≠ []) && decide (r1.kind = 0) then (s2.updCopy c.lck slot fun r => { r with state := 2 }).copySnap c.lck slot false r1.snapLeft else s2
  s3.finishG id d (w64 (slot + l.copySeq % 1024 * 64)) len

/-- A copy instruction with its descriptor at `off` (R205, R208). -/
def State.copyIssue (s : State) (id : Nat) (i : Instr) (kind : Nat) (d : Reg) (off : Word) (len : Nat) : State :=
  let c := s.ctxD id
  let size := if kind = 1 then 128 else 64
  if off.toNat % 64 ≠ 0 then s.trap id cMisalign off
  else if s.sOf c < off.toNat + size then s.trap id cPagePerm off
  else s.loadDesc id i off.toNat (size / 8) [] fun s1 bs =>
    let r : CopyRec := { slot := 0, seqno := 0, kind := kind, desc := bs, descAt := off, frm := (s1.ctxD id).sample, ctx := id, state := 1 }
    s1.copyCheck id r
      (match (s1.lcore c.lck).freeSlot with
       | none => s1.park id i .copySlot
       | some slot =>
         if s1.spec c && decide (r.dk ≠ 0) then s1.commitAt id i 1 off fun s2 => s2.copyTake id d r slot len
         else s1.copyTake id d r slot len)

/-! ## Status and cancellation (R211) -/

/-- The status word of a copy. -/
def CopyRec.status (r : CopyRec) : Word :=
  w64 (r.fl.toNat * 2 ^ 56 + r.err % 16 * 2 ^ 52 + r.state % 8 * 2 ^ 48 + r.progress % 2 ^ 48)
/-- The copy that an id names, if its sequence number still matches its slot. -/
def State.copyOfId (s : State) (lc : Nat) (v : Word) : Option CopyRec :=
  (s.lcore lc).copies.find? fun r => decide (v.toNat = r.slot + r.seqno % 1024 * 64)
/-- The status of an id; 0, retired or stale, when none. -/
def State.copyStatus (s : State) (lc : Nat) (v : Word) : Word := match s.copyOfId lc v with | some r => r.status | none => 0#64

/-- Every unit below the stopping point is written, where it can be now. -/
def State.copyRest (s : State) (lc slot : Nat) : State :=
  match s.copy? lc slot with
  | none => s
  | some r => s.copyTurn lc slot ((List.range (r.stopAt.getD 0)).filter fun u => decide (r.pos ≤ u)) false

/-- CPYC's cancellation of a live copy; a queued one leaves the commit queue too. One that has begun writes up to its stopping point first (R207). -/
def State.copyCancel (s : State) (lc slot : Nat) : State :=
  match s.copy? lc slot with
  | none => s
  | some r =>
    if r.state = 1 ∨ r.state = 7 then s.copyEnd lc slot 6
    else
      let s1 := (s.copyStopAt lc slot r.pos).updCopy lc slot fun r => { r with ending := 6 }
      match s1.copy? lc slot with
      | some r1 => if r1.state = 3 ∧ r1.stopAt.getD 0 ≤ r1.pos then (s1.copyLeavePage lc slot).copyRest lc slot else s1.copyRest lc slot
      | none => s1

/-! ## Meanings of the instructions -/

/-- CPY (R207). -/
def execCpy (d a : Reg) (s : State) : Host.Outcome State Fault Refusal :=
  strandOp s (.cpy d a) fun id c => s.copyIssue id (.cpy d a) 0 d (c.getG a) 4
/-- CPYS (R207). -/
def execCpys (d a : Reg) (imm32 : BitVec 32) (s : State) : Host.Outcome State Fault Refusal :=
  strandOp s (.cpys d a imm32) fun id c => s.copyIssue id (.cpys d a imm32) 1 d (c.getG a + sext32 imm32) 12
/-- CPYG (R207). -/
def execCpyg (d a : Reg) (imm32 : BitVec 32) (s : State) : Host.Outcome State Fault Refusal :=
  strandOp s (.cpyg d a imm32) fun id c => s.copyIssue id (.cpyg d a imm32) 2 d (c.getG a + sext32 imm32) 12
/-- CPYX (R207). -/
def execCpyx (d a : Reg) (imm32 : BitVec 32) (s : State) : Host.Outcome State Fault Refusal :=
  strandOp s (.cpyx d a imm32) fun id c => s.copyIssue id (.cpyx d a imm32) 3 d (c.getG a + sext32 imm32) 12
/-- CPYQ (R211). -/
def execCpyq (d a : Reg) (s : State) : Host.Outcome State Fault Refusal :=
  strandOp s (.cpyq d a) fun id c => s.finishG id d (s.copyStatus c.lck (c.getG a)) 4
/-- CPYC (R211): it cancels, and parks until the engine stops writing. -/
def execCpyc (d a : Reg) (s : State) : Host.Outcome State Fault Refusal :=
  strandOp s (.cpyc d a) fun id c =>
    match s.copyOfId c.lck (c.getG a) with
    | none => s.finishG id d 0#64 4
    | some r =>
      let s1 := if copyLive r.state ∧ r.ending ≠ 6 then s.copyCancel c.lck r.slot else s
      match s1.copyOfId c.lck (c.getG a) with
      | some r1 => if copyLive r1.state then s1.park id (.cpyc d a) (.copyStop r.slot) else s1.finishG id d r1.status 4
      | none => s1.finishG id d 0#64 4

end Sys2Proof.Machine
end

