-- ==== Sys2Proof/Machine/Cut.lean ====
section
/-! DEFINITION. Cuts of a kernel: their start, the recording of a logical tile, and their completion at a sweep (R421-R424). -/

namespace Sys2Proof.Machine

open Sys2Proof

/-- The logical tiles of a kernel, by their keys, and its logical cores. -/
def State.ltsOf (s : State) (kid : Nat) : List Nat := (List.range (s.kernelD kid).tiles).map fun l => ltKey kid l
def State.lcsOf (s : State) (kid : Nat) : List Nat := (s.ltsOf kid).flatMap fun l => (List.range 8).map fun c => 8 * l + c

/-- The items of a logical core for its own kernel that have not been received yet. -/
def State.unreceived (s : State) (lc : Nat) : Nat :=
  ((s.lcore lc).retx.filter fun f => f.isItem && !f.cut && decide (f.kid = lcKid lc) && decide (f.dev = s.device.toNat) && s.cutCounts f && !(s.rxOf f).has f.chseq).length
/-- A cut of a kernel begins: firmware injects a marker at every logical core, for a MARK or of its own accord, and each core counts its items anew (R421, R422, R424). DEDUCED
(log entry 43): an item that is in flight as the cut begins counts as sent since, as it will count as received. -/
def State.beginCut (s : State) (kid : Nat) (by_ : Option Nat) : State :=
  let s1 := (s.lcsOf kid).foldl (fun s' lc => s'.updLc lc fun l => { l with cutSent := s.unreceived lc, cutRecv := 0 }) s
  s1.updK kid fun k => { k with cut := some { id := k.cutNum, by_ := by_ }, cutNum := k.cutNum + 1#32 }

/-- CUT_START (R421): firmware starts a cut of kernel `ev.id`, which runs, has checkpoint space and is not being cut. -/
def execCutStart (s : State) : Host.Outcome State Fault Refusal :=
  match s.kernel? s.ev.id with
  | some k => if k.state = .running ∧ k.cut.isNone ∧ k.cutSpace ∧ s.kernelRuns s.ev.id then .next (s.beginCut s.ev.id none) else .next s
  | none => .next s

/-- CUT_RECORD (R421): the marker reaches core `ev.slot` of the logical tile `ev.idx` of kernel `ev.id`, which records. -/
def execCutRecord (s : State) : Host.Outcome State Fault Refusal :=
  if s.ev.idx < (s.kernelD s.ev.id).tiles ∧ s.ev.slot < 8 ∧ s.kernelRuns s.ev.id then .next (s.cutRecord (lcKey s.ev.id s.ev.idx s.ev.slot)) else .next s

/-! ## The manifest (R423) -/

/-- Physical tiles that a shard is written for, with the logical tiles that each hosted at recording. -/
def Cut.shards (ct : Cut) : List (Nat × List Nat) :=
  ct.tilesThen.map fun t => (t, (ct.shard.lts.filter fun e => e.2.tile = t).map fun e => e.1 % 4096)
/-- One shard's entry of a manifest: its address and bytes `p`, its tile and the logical tiles held. -/
def shardEntry (p : Nat × List Byte) (x : Nat × List Nat) : List Byte :=
  leBytes 8 p.1 ++ leBytes 8 p.2.length ++ leBytes 2 x.1 ++ leBytes 2 x.2.length
    ++ ((x.2.take 4) ++ List.replicate (4 - x.2.length) 0).flatMap (leBytes 2) ++ leBytes 4 0
    ++ sha384Bytes p.2 ++ leBytes 48 0
/-- The manifest of a complete cut (R423). -/
def Cut.manifest (ct : Cut) (kid : Nat) (k : Kernel) : List Byte :=
  let m : Nat × Nat := match ct.minKey with
    | .key k => (k.vrt, (Config.cutMinTail k.slt k.score k.sstrand k.seq).toNat)
    | _ => (0, 0)
  leBytes 8 ct.id.toNat ++ leBytes 8 (kid + k.tiles % 4096 * 2 ^ 16) ++ leBytes 8 ct.shards.length
    ++ (if k.warp then leBytes 8 m.1 ++ leBytes 8 m.2 else leBytes 16 0) ++ leBytes 8 ct.completedAt ++ leBytes 16 0
    ++ ((ct.placed k.s k.cutBase).zip ct.shards).flatMap fun e => shardEntry e.1 e.2

/-- Every logical core of the kernel has recorded, and as many unflagged items were received as sent (R422). -/
def State.cutDone (s : State) (kid : Nat) (ct : Cut) : Bool :=
  let own := (s.lcores.filter fun e => lcKid e.1 = kid).map (·.2)
  (s.lcsOf kid).all (fun l => ct.recorded.contains l) && decide ((own.map fun c => c.cutSent).sum = (own.map fun c => c.cutRecv).sum)
/-- At a sweep, a cut may be complete: its shards and then its manifest are written, its MARK goes on, channel logging ends and the flags fall back (R422, R423).
A WARP kernel's cut takes the minimum of the sweep's delivery. -/
def State.cutSweep (s : State) (kid : Nat) (delivers : Bool) : State :=
  let k := s.kernelD kid
  match k.cut with
  | none => s
  | some ct =>
    if s.cutDone kid ct && (delivers || !k.warp) then
      let ct1 : Cut := { ct with complete := true, completedAt := s.tbase, minKey := if k.warp then k.kmin else .notYet, tilesThen := (s.terr kid ++ ct.shard.lts.map (fun (e : Nat × LTile) => e.2.tile)).dedup }
      let logs := (s.lcores.filter fun e => lcKid e.1 = kid).map fun e => (e.1, { e.2 with cutFlag := false, chanLog := ([] : List Flit), afterCut := [] })
      let ct2 : Cut := { ct1 with shard := { ct1.shard with lcs := ct1.shard.lcs.map fun (e : Nat × LCore) => (e.1, { e.2 with chanLog := (s.lcore e.1).chanLog }) } }
      let s1 := State.writeShards (kid := kid) (ct := ct2) <| logs.foldl (fun s e => s.updLc e.1 fun _ => e.2) (s.updK kid fun k => { k with cut := none, lastCut := some ct2 })
      let s2 : State := { s1 with hostSide := { s1.hostSide with manifests := s1.hostSide.manifests ++ [ct2.manifest kid k] } }
      match ct.by_ with
      | some id => s2.upd id fun c => if c.wait = .cut then { c with wait := .none, held := c.held.map fun h => { h with answered := true, ans := { accept := true, value := ct.id.setWidth 64 } } } else c
      | none => s2
    else s

end Sys2Proof.Machine
end

