-- ==== Sys2Proof/Machine/Membership.lean ====
section
/-! DEFINITION. Groups as their homes and members keep them: names, generations, views and final counts, the results that wait in group buffers, and withdrawal (R376-R380, R388, R389). -/

namespace Sys2Proof.Machine

open Sys2Proof

/-! ## Names, members, ranks (R376, R377) -/

/-- Fields of a group name. -/
def gDev (w : Word) : Nat := bits w 58 6
def gKid (w : Word) : Nat := bits w 52 6
def gNameBad (w : Word) : Bool := decide (bits w 16 36 ≠ 0)
/-- The home of a group is this device's group engine. -/
def State.homeHere (s : State) (name : Word) : Bool := decide (gDev name = s.device.toNat)
/-- The logical tile of a strand as a member. -/
def State.asMember (s : State) (kid lt : Nat) : Member := { dev := s.device.toNat, kid := kid, lt := lt }

/-- The order of members (R377): KEY, device, kernel id, logical tile. -/
def memberLt (a b : Member × BitVec 32) : Bool :=
  let x := [a.2.toNat, a.1.dev, a.1.kid, a.1.lt]
  let y := [b.2.toNat, b.1.dev, b.1.kid, b.1.lt]
  decide (x < y)
def insertMember (m : Member × BitVec 32) : List (Member × BitVec 32) → List (Member × BitVec 32)
  | [] => [m]
  | x :: t => if memberLt m x then m :: x :: t else x :: insertMember m t
/-- The index of a member in a generation. -/
def rankIn (who : Member) : List Member → Nat
  | [] => 0
  | x :: t => if x = who then 0 else rankIn who t + 1

def State.group? (s : State) (part : Nat) (name : Word) : Option Group := s.groups.find? fun g => decide (g.name = name) && decide (g.part = part)
def State.updGroup (s : State) (part : Nat) (name : Word) (f : Group → Group) : State :=
  { s with groups := s.groups.map fun g => if g.name = name ∧ g.part = part then f g else g }
/-- A member of the latest generation. -/
def Group.has (g : Group) (who : Member) : Bool := g.members.any fun m => m.1 = who
/-- Members of a generation in rank order. -/
def Group.ofGen (g : Group) (v : BitVec 32) : List Member := ((g.history.find? fun e => e.1 = v).map (·.2)).getD []
/-- The next generation opens with a membership (R378). -/
def Group.openGen (g : Group) (ms : List (Member × BitVec 32)) : Group :=
  { g with latest := g.latest + 1#32, members := ms, history := g.history ++ [(g.latest + 1#32, ms.map (·.1))] }
/-- The view that a member takes of the latest generation. -/
def Group.viewFor (g : Group) (who : Member) : ViewOf :=
  let ms := g.members.map (·.1)
  { gen := g.latest, rank := rankIn who ms, members := ms }
/-- A member's view ends: the final count of the generation that it leaves is known, or comes from its device (R378). -/
def Group.endView (g : Group) (who : Member) (old : Option (BitVec 32 × Nat)) : Group :=
  { g with
      views := g.views.filter fun e => e.1 ≠ who
      finals := match old with | some (v, n) => g.finals ++ [(who, v, n)] | none => g.finals
      leaving := match old with | some _ => g.leaving | none => g.leaving ++ g.views.filter fun e => e.1 = who }
/-- A member takes a view. -/
def Group.setView (g : Group) (who : Member) (v : BitVec 32) : Group := { g with views := (g.views.filter fun e => e.1 ≠ who) ++ [(who, v)] }
/-- The final count of a generation comes from a member's device, with the instances that the member is withdrawn from (R378, R388). -/
def Group.takeFinal (g : Group) (who : Member) (v : BitVec 32) (n : Nat) (missing : List (BitVec 32 × Nat)) : Group :=
  { g with
      finals := if g.finals.any fun e => decide (e.1 = who) && decide (e.2.1 = v) then g.finals else g.finals ++ [(who, v, n)]
      leaving := g.leaving.filter fun e => e ≠ (who, v), gone := g.gone ++ missing.map fun x => (who, x) }
/-- GJOIN's and GGEN's result (R389). -/
def ViewOf.word (v : ViewOf) : Word := w64 (v.rank * 2 ^ 32 + v.gen.toNat)

/-- A generation lies above another, modulo 2^32. -/
def genAbove (a b : BitVec 32) : Bool := decide (a ≠ b) && !(a - b).msb
/-- The member still has to contribute to instance `k` of generation `v`, or has done so (R378, R388). -/
def Group.expects (g : Group) (who : Member) (v : BitVec 32) (k : Nat) : Bool :=
  !g.gone.contains (who, v, k) && (match g.finals.find? fun e => decide (e.1 = who) && decide (e.2.1 = v) with
    | some e => decide (k < e.2.2)
    | none => g.leaving.contains (who, v) || (match g.views.find? fun e => e.1 = who with
      | some e => !genAbove e.2 v
      | none => false))
/-- The members of an instance's generation that have still to contribute, or that were withdrawn from it. -/
def Group.awaited (g : Group) (x : Inst) : List Member :=
  (g.ofGen x.gen).filter fun m => g.expects m x.gen x.k && !(x.contribs.any fun c => c.who = m)
def Group.lacks (g : Group) (x : Inst) : Bool := (g.ofGen x.gen).any fun m => !g.expects m x.gen x.k && !(x.contribs.any fun c => c.who = m)

/-! ## What the home does (R389) -/

/-- How a request ends at the home: gD, the member's new view, and whether the member has left. -/
structure HomeAns where
  gd : Word
  view : Option ViewOf := none
  left : Bool := false
  deriving DecidableEq, Repr

/-- GJOIN at the home. -/
def State.homeJoin (s : State) (part : Nat) (name : Word) (key : BitVec 32) (tmo : Nat) (who : Member) : HomeAns × State :=
  match s.group? part name with
  | some g =>
    if g.has who then ({ gd := refusal 1 }, s)
    else if 65536 ≤ g.members.length ∨ 64 < ((who :: g.members.map (·.1)).map (·.dev)).dedup.length then ({ gd := refusal 2 }, s)
    else
      let g1 := (g.openGen (insertMember (who, key) g.members)).setView who (g.latest + 1#32)
      ({ gd := (g1.viewFor who).word, view := some (g1.viewFor who) }, s.updGroup part name fun _ => g1)
  | none =>
    let st : Option KState := match s.kernel? (gKid name) with | some k => if k.part = part then some k.state else none | none => none
    if st ≠ some .held ∧ st ≠ some .running then ({ gd := refusal 3 }, s)
    else if 256 ≤ (s.groups.filter fun g => g.part = part).length then ({ gd := refusal 4 }, s)
    else
      let g : Group := { name := name, part := part, tmo := tmo, latest := 1#32, members := [(who, key)], history := [(1#32, [who])], views := [(who, 1#32)], finals := [] }
      ({ gd := (g.viewFor who).word, view := some (g.viewFor who) }, { s with groups := s.groups ++ [g] })
/-- GGEN at the home. -/
def State.homeGen (s : State) (part : Nat) (name : Word) (who : Member) (old : Option (BitVec 32 × Nat)) : HomeAns × State :=
  match s.group? part name with
  | some g =>
    if !g.has who then ({ gd := refusal 1 }, s)
    else
      let v := g.viewFor who
      ({ gd := v.word, view := some v }, if g.views.contains (who, g.latest) then s else s.updGroup part name fun g => (g.endView who old).setView who g.latest)
  | none => ({ gd := refusal 1 }, s)

/-- An instance's result for one contributor: into its collective's record, or to its device (R383, R386, R388). -/
def State.collResult (s : State) (who : Member) (name : Word) (gen : BitVec 32) (k : Nat) (fin : CollEnd) (blocks : List (Nat × List Byte)) : State :=
  if who.dev = s.device.toNat then
    (List.range 8).foldl (fun s c => s.updLc (lcKey who.kid who.lt c) fun l =>
      { l with colls := l.colls.map fun r => if r.op.name = name ∧ r.op.gen = gen ∧ r.op.k = k ∧ collLive r.state then { r with result := some (fin, blocks) } else r }) s
  else
    s.launchFlit (lcKey 63 0 0) (mkFlit (mkHdr who.dev 0 who.kid who.lt 0 0 10 false false 0) 0#64 (srcWord 0 s.device.toNat 63 0 0 0 0) 0#64 0#64 0#64 0#64 (.group (.result name gen k who fin blocks)) .none)
/-- A member takes what its group buffer holds, unless it is switched out or its strand is spilled (R388); the writes are placed after every contribution's reads (R387). -/
def State.collWrite (s : State) (lc : Nat) (r : CollRec) : State :=
  match r.result with
  | none => s
  | some (fin, blocks) =>
    let spilled := match s.ctx? r.ctx with | some c => c.spilled | none => false
    if !s.kernelRuns (lcKid lc) || spilled then s
    else
      let s1 := blocks.foldl (fun s b => s.engScratchWrite (s.engineOf lc) (lc / 8) (r.dst + b.1) b.2) (s.raiseT (s.engineOf lc) fin.stamp)
      s1.updLc lc fun l => { l with colls := l.colls.map fun x => if x.slot = r.slot ∧ x.seqno = r.seqno then { x with state := if fin.err = 0 then 3 else 4, fin := fin, result := none } else x }
/-- Every group buffer of a logical tile is emptied as far as it can be. -/
def State.collFlush (s : State) (lt : Nat) : State :=
  (List.range 8).foldl (fun s c => (s.lcore (8 * lt + c)).colls.foldl (fun s r => s.collWrite (8 * lt + c) r) s) s

/-- An instance of a group whose home is on another device, as a member here knows it, and the latest place of a read of a contribution from this device to it: the result's writes
at every member of this device are placed after it (R387). -/
def State.noteRead (s : State) (part : Nat) (o : Coll) (t : BitVec 48) : State :=
  let isIt (r : CollRead) : Bool := decide (r.name = o.name) && decide (r.part = part) && decide (r.gen = o.gen) && decide (r.k = o.k)
  { s with collReads := match s.collReads.find? isIt with
      | some r => { r with stamp := serialMax r.stamp t } :: s.collReads.filter fun r => !isIt r
      | none => { name := o.name, part := part, gen := o.gen, k := o.k, stamp := t } :: s.collReads }
def State.afterReads (s : State) (part : Nat) (name : Word) (gen : BitVec 32) (k : Nat) (t : BitVec 48) : BitVec 48 :=
  match s.collReads.find? fun r => decide (r.name = name) && decide (r.part = part) && decide (r.gen = gen) && decide (r.k = k) with
  | some r => serialMax t r.stamp
  | none => t
/-- An instance to which no collective of this device belongs any more needs no note. -/
def State.dropReads (s : State) : State :=
  { s with collReads := s.collReads.filter fun r => s.lcores.any fun e => e.2.colls.any fun x => decide (x.op.name = r.name) && decide (x.op.gen = r.gen) && decide (x.op.k = r.k) && collLive x.state }
/-- An instance ends at a list of contributors with the blocks of each. -/
def State.instEnd (s : State) (x : Inst) (fin : CollEnd) (outs : List (Member × List (Nat × List Byte))) : State :=
  let s1 := outs.foldl (fun s o =>
    let s' := s.collResult o.1 x.name x.gen x.k fin o.2
    if o.1.dev = s.device.toNat then s'.collFlush (ltKey o.1.kid o.1.lt) else s') s
  { s1 with insts := s1.insts.filter fun y => !(decide (y.name = x.name) && decide (y.part = x.part) && decide (y.gen = x.gen) && decide (y.k = x.k)) }

/-- The name of a group is freed, and its incomplete instances end with error LOST (R380). -/
def State.dropGroup (s : State) (part : Nat) (name : Word) : State :=
  let mine := s.insts.filter fun x => decide (x.name = name) && decide (x.part = part)
  let of (gen : BitVec 32) (k : Nat) : Inst := (mine.find? fun x => decide (x.gen = gen) && decide (x.k = k)).getD { name := name, part := part, gen := gen, k := k, firstAt := 0, contribs := [] }
  let lost (x : Inst) : CollEnd := { err := 6, wdr := match s.group? part name with | some g => g.lacks x | none => false }
  let s1 := mine.foldl (fun s x => s.instEnd x (lost x) (x.contribs.map fun c => (c.who, []))) s
  let s2 : State := { s1 with groups := s1.groups.filter fun g => !(decide (g.name = name) && decide (g.part = part)) }
  -- collectives whose contributions have not been read
  { s2 with lcores := s2.lcores.map fun e => if s2.partOf (lcKid e.1) = part then (e.1, { e.2 with colls := e.2.colls.map fun r => if r.op.name = name ∧ collLive r.state ∧ r.result = none then { r with state := 4, fin := lost (of r.op.gen r.op.k) } else r }) else e }
/-- A member leaves, or is withdrawn (R378, R379): the next generation opens without it, or the group is gone. -/
def State.homeLeave (s : State) (part : Nat) (name : Word) (who : Member) (old : Option (BitVec 32 × Nat)) : HomeAns × State :=
  match s.group? part name with
  | some g =>
    if !g.has who then ({ gd := refusal 1 }, s)
    else
      let ms := g.members.filter fun m => m.1 ≠ who
      if ms = [] then ({ gd := 0#64, left := true }, (s.updGroup part name fun g => g.endView who old).dropGroup part name)
      else ({ gd := (g.latest + 1#32).setWidth 64, left := true }, s.updGroup part name fun g => (g.openGen ms).endView who old)
  | none => ({ gd := refusal 1 }, s)

/-! ## Views at the member's device (R378) -/

def State.view? (s : State) (name : Word) (kid lt : Nat) : Option View := s.views.find? fun v => decide (v.name = name) && decide (v.kid = kid) && decide (v.lt = lt)
/-- The generation that a view is of and the collectives issued in it. -/
def State.oldView (s : State) (name : Word) (kid lt : Nat) : Option (BitVec 32 × Nat) := (s.view? name kid lt).map fun v => (v.view.gen, v.count)
def State.dropView (s : State) (name : Word) (kid lt : Nat) : State :=
  { s with views := s.views.filter fun v => !(decide (v.name = name) && decide (v.kid = kid) && decide (v.lt = lt)) }
/-- The member takes the home's answer; a view of the same generation keeps its count. -/
def State.takeView (s : State) (name : Word) (kid lt : Nat) (a : HomeAns) : State :=
  match a.view with
  | some v =>
    let n := match s.view? name kid lt with | some o => if o.view.gen = v.gen then o.count else 0 | none => 0
    { s.dropView name kid lt with views := (s.dropView name kid lt).views ++ [{ name := name, kid := kid, lt := lt, view := v, count := n }] }
  | none => if a.left then s.dropView name kid lt else s

/-! ## Withdrawal (R379, R388) -/

/-- A flit of the module for the home of a group on another device. -/
def State.sendHome (s : State) (part : Nat) (name : Word) (op : GroupOp) : State :=
  s.launchFlit (lcKey 63 0 0) (mkFlit (mkHdr (gDev name) part 63 0 0 0 10 false false 0) 0#64 (srcWord 0 s.device.toNat 63 0 0 0 0) 0#64 0#64 0#64 0#64 (.group op) .none)
/-- A flit of a home for a member's device. -/
def State.sendMember (s : State) (part : Nat) (who : Member) (op : GroupOp) : State :=
  s.launchFlit (lcKey 63 0 0) (mkFlit (mkHdr who.dev part who.kid who.lt 0 0 10 false false 0) 0#64 (srcWord 0 s.device.toNat 63 0 0 0 0) 0#64 0#64 0#64 0#64 (.group op) .none)
/-- A collective of a group whose contribution has not been read. -/
def CollRec.unread (r : CollRec) (name : Word) : Bool := decide (r.op.name = name) && (decide (r.state = 1) || decide (r.state = 5))
/-- The generations and numbers of a logical tile's collectives of a group that have not been read: the member is withdrawn from their instances. -/
def State.unread (s : State) (name : Word) (lt : Nat) : List (BitVec 32 × Nat) :=
  (List.range 8).flatMap fun c => ((s.lcore (8 * lt + c)).colls.filter fun r => r.unread name).map fun r => (r.op.gen, r.op.k)
def State.markGone (s : State) (name : Word) (lt : Nat) : State :=
  (List.range 8).foldl (fun s c => s.updLc (8 * lt + c) fun l => { l with colls := l.colls.map fun r => if r.unread name then { r with gone := true } else r }) s
/-- A logical tile of this device is withdrawn from a group, at its home here or on another device: it loses its view, and its final count is what it has issued. -/
def State.withdrawMine (s : State) (part : Nat) (name : Word) (kid l : Nat) : State :=
  let who := s.asMember kid l
  let old := (s.oldView name kid l).getD (0#32, 0)
  let missing := s.unread name (ltKey kid l)
  let s1 := (s.markGone name (ltKey kid l)).dropView name kid l
  if s.homeHere name then ((s1.updGroup part name fun g => { g with gone := g.gone ++ missing.map fun x => (who, x) }).homeLeave part name who (some old)).2
  else s1.sendHome part name (.withdraw name who old.1 old.2 missing)
/-- The home withdraws a member. What a member of another device has issued, its device tells. -/
def State.withdraw (s : State) (part : Nat) (name : Word) (who : Member) : State :=
  if who.dev = s.device.toNat then s.withdrawMine part name who.kid who.lt
  else match s.group? part name with
    | some _ => ((s.homeLeave part name who none).2).sendMember part who (.unview name who)
    | none => s
/-- The groups, at any home, of which a logical tile is a member. -/
def State.groupsOf (s : State) (kid l : Nat) : List Word :=
  (((s.groups.filter fun g => decide (g.part = s.partOf kid) && g.has (s.asMember kid l)).map (·.name)) ++ (s.views.filter fun v => decide (v.kid = kid) && decide (v.lt = l)).map (·.name)).dedup
/-- A logical tile that is lost is withdrawn from every group (R379). -/
def State.groupLeaveAll (s : State) (kid l : Nat) : State := (s.groupsOf kid l).foldl (fun s n => s.withdrawMine (s.partOf kid) n kid l) s
/-- So is every logical tile of a kernel that ends. -/
def State.groupLeaveKernel (s : State) (kid : Nat) : State :=
  (((s.groups.flatMap fun g => (g.members.map (·.1)).filter fun m => decide (m.dev = s.device.toNat) && decide (m.kid = kid)).map (·.lt)) ++ (s.views.filter fun v => v.kid = kid).map (·.lt)).dedup.foldl
    (fun s l => s.groupLeaveAll kid l) s

end Sys2Proof.Machine
end

