-- ==== Sys2Proof/Machine/Queue.lean ====
section
/-! DEFINITION. Queue registers and ports, and links of chain stages (R249-R256, R342, R346-R348). -/

namespace Sys2Proof.Machine

open Sys2Proof

/-! ## Binding words and ports (R249, R250) -/

/-- MODE, PORT and destination of a binding word. -/
def qMode (w : Word) : Nat := bits w 0 2
def qPort (w : Word) : Nat := bits w 2 4
def qLt (w : Word) : Nat := bits w 6 12
def qCore (w : Word) : Nat := bits w 18 3
def Ctx.qw (c : Ctx) (q : BitVec 3) : Word := c.q[q.toNat]
/-- The logical core that holds the port of a binding word: its own for IN, the destination for OUT. -/
def Ctx.portLc (c : Ctx) (w : Word) : Nat := if qMode w = 2 then lcKey c.kid (qLt w) (qCore w) else c.lck
def State.port (s : State) (lc p : Nat) : Port := (s.lcore lc).ports.toList.getD p {}
def State.updPort (s : State) (lc p : Nat) (f : Port → Port) : State :=
  s.updLc lc fun c => { c with ports := c.ports.set (p % 16) (f (c.ports[p % 16]'(Nat.mod_lt _ (by decide)))) (Nat.mod_lt _ (by decide)) }
/-- Words that the port can still take (R249). -/
def Port.space (p : Port) : Nat := Config.portWords - (p.words.length + p.inflight)
/-- A chain of the kernel has a stage on the logical core (R342). -/
def State.hostsStage (s : State) (lc : Nat) : Bool :=
  (s.kernelD (lcKid lc)).chains.any fun ch => ch.overBy.isNone && (List.range ch.nst).any fun i => decide (ch.lc (lcKid lc) i = lc)

/-- Puts a word into the fabric toward a port (R252, R268). -/
def State.sendWord (s : State) (id : Nat) (w v : Word) : State :=
  let c := s.ctxD id
  let s1 := (s.updPort (c.portLc w) (qPort w) fun p => { p with inflight := p.inflight + 1 }).updLc c.lck fun l => (l.countSent true false none).countCut
  let hdr := mkHdr s.device.toNat (s.partOf c.kid) c.kid (qLt w) (qCore w) (qPort w) 2 (s.lcore c.lck).colour (s.lcore c.lck).cutFlag 0
  (s1.launchFlit c.lck (mkFlit hdr 0#64 (srcWord 0 s.device.toNat c.kid 0 c.sendStrand c.core c.lt) v 0#64 0#64 0#64 (.queueWord id) .none) (some (s.coreNo c))).count (s.tileOf c) c.kid 4 1

/-! ## Reads (R251) -/

/-- What a read of a queue register finds. -/
inductive QRead where
  | unbound
  | port (lc p : Nat)
  | ring (ch : Chain) (stage : Nat)
  deriving DecidableEq, Repr
/-- The read end of a queue register. -/
def State.readEnd (s : State) (c : Ctx) (q : BitVec 3) : QRead :=
  let w := c.qw q
  if qMode w = 1 then .port c.lck (qPort w)
  else if qMode w = 3 ∧ q = 0#3 then (match s.stageOf c with | some (ch, i) => .ring ch i | none => .unbound)
  else .unbound
/-- QGET and QPEEK: they park, switch or halt on an empty link, and a stage halts after them when a switch is pending. What the strand does after a word that it
finds follows the accesses before its QPUT (R253). -/
def State.queueRead (s : State) (id : Nat) (i : Instr) (d : Reg) (q : BitVec 3) (remove : Bool) : State :=
  match s.readEnd (s.ctxD id) q with
  | .unbound => s.trap id cQueueUnbound (q.setWidth 64)
  | .port lc p =>
    match (s.port lc p).words with
    | [] => if s.mustHalt (s.ctxD id) then s.haltBefore id else s.park id i (.portWord p)
    | v :: t => ((((if remove then s.updPort lc p fun x => { x with words := t } else s).raiseStrand id (s.port lc p).stamp).finishG id d v 4)).haltAfter id
  | .ring ch st =>
    s.ringTake id i ch (st - 1) remove
      (fun s1 => if s1.mustHalt (s1.ctxD id) then s1.haltBefore id else s1.coSwitch id i ch st (st - 1))
      (fun s1 v => (s1.finishG id d v 4).haltAfter id)

/-- QGET (R251). -/
def execQget (d : Reg) (q : BitVec 3) (s : State) : Host.Outcome State Fault Refusal :=
  strandOp s (.qget d q) fun id _ => s.queueRead id (.qget d q) d q true
/-- QPEEK (R251). -/
def execQpeek (d : Reg) (q : BitVec 3) (s : State) : Host.Outcome State Fault Refusal :=
  strandOp s (.qpeek d q) fun id _ => s.queueRead id (.qpeek d q) d q false
/-- QTRY (R251): never parks and never switches. -/
def execQtry (d : Reg) (q : BitVec 3) (s : State) : Host.Outcome State Fault Refusal :=
  strandOp s (.qtry d q) fun id c =>
    let fin (s : State) (v ok : Word) : State := s.upd id fun c => ((c.setG d v).setG (d + 1#5) ok).retired (c.pc + 4#64)
    match s.readEnd c q with
    | .unbound => s.trap id cQueueUnbound (q.setWidth 64)
    | .port lc p =>
      match (s.port lc p).words with
      | [] => fin s 0#64 0#64
      | v :: t => fin ((s.updPort lc p fun x => { x with words := t }).raiseStrand id (s.port lc p).stamp) v 1#64
    | .ring ch st => s.ringTake id (.qtry d q) ch (st - 1) true (fun s1 => fin s1 0#64 0#64) fun s1 v => fin s1 v 1#64

/-! ## Writes (R252) -/

/-- QPUT (R252). -/
def execQput (q : BitVec 3) (b : Reg) (s : State) : Host.Outcome State Fault Refusal :=
  strandOp s (.qput q b) fun id c =>
    let i : Instr := .qput q b
    let w := c.qw q
    if qMode w = 2 then
      if (s.port (c.portLc w) (qPort w)).space = 0 then (if s.mustHalt c then s.haltBefore id else s.park id i (.portSpace q))
      else if s.retxRoom c.lck then ((s.sendWord id w (c.getG b)).advance id 4).haltAfter id
      else if s.mustHalt c then s.haltBefore id
      else s.park id i .sendSpace
    else if qMode w = 3 ∧ q = 1#3 then
      match s.stageOf c with
      | some (ch, st) =>
        s.ringPut id i ch st (c.getG b)
          (fun s1 => if s1.mustHalt (s1.ctxD id) then s1.haltBefore id else s1.coSwitch id i ch st (st + 1))
          (fun s1 => (s1.advance id 4).haltAfter id)
      | none => s.trap id cQueueUnbound (q.setWidth 64)
    else s.trap id cQueueUnbound (q.setWidth 64)
/-- QTPUT (R252): never parks and never switches. -/
def execQtput (d : Reg) (q : BitVec 3) (b : Reg) (s : State) : Host.Outcome State Fault Refusal :=
  strandOp s (.qtput d q b) fun id c =>
    let i : Instr := .qtput d q b
    let w := c.qw q
    if qMode w = 2 then
      if (s.port (c.portLc w) (qPort w)).space = 0 then s.finishG id d 0#64 4
      else if s.retxRoom c.lck then (s.sendWord id w (c.getG b)).finishG id d 1#64 4
      else s.park id i .sendSpace
    else if qMode w = 3 ∧ q = 1#3 then
      match s.stageOf c with
      | some (ch, st) => s.ringPut id i ch st (c.getG b) (fun s1 => s1.finishG id d 0#64 4) (fun s1 => s1.finishG id d 1#64 4)
      | none => s.trap id cQueueUnbound (q.setWidth 64)
    else s.trap id cQueueUnbound (q.setWidth 64)

/-! ## Binding (R250, R254, R255) -/

/-- An OUT queue register of the strand has words in flight (R250, R255). -/
def State.wordsOut (s : State) (c : Ctx) (w : Word) : Bool := decide (qMode w = 2) && decide ((s.port (c.portLc w) (qPort w)).inflight ≠ 0)
/-- The queue register becomes unbound; its port's end is free unless another register of the strand still names it. -/
def State.unbindQ (s : State) (id : Nat) (q : BitVec 3) : State :=
  let c := s.ctxD id
  let w := c.qw q
  let others := (c.q.set q.toNat 0#64).toList.contains w
  let s1 := s.upd id fun c => { c with q := c.q.set q.toNat 0#64 }
  if others then s1
  else match qMode w with
    | 1 => s1.updPort c.lck (qPort w) fun p => { p with reader := if p.reader = some id then none else p.reader }
    | 2 => s1.updPort (c.portLc w) (qPort w) fun p => { p with writer := if p.writer = some id then none else p.writer }
    | _ => s1
/-- Every queue register of the strand becomes unbound (R255). -/
def State.unbindAll (s : State) (id : Nat) : State := (List.range 8).foldl (fun s n => s.unbindQ id (BitVec.ofNat 3 n)) s
/-- The end that a binding word names is bound by another strand, or its port 15 by a chain (R250, R342). -/
def State.endTaken (s : State) (id : Nat) (c : Ctx) (w : Word) : Bool :=
  let lc := c.portLc w
  let p := s.port lc (qPort w)
  let by_ := if qMode w = 1 then p.reader else p.writer
  (match by_ with | some x => decide (x ≠ id) | none => false) || (decide (qPort w = 15) && s.hostsStage lc)

/-- QCFG (R250). -/
def execQcfg (d : Reg) (q : BitVec 3) (b : Reg) (s : State) : Host.Outcome State Fault Refusal :=
  strandOp s (.qcfg d q b) fun id c =>
    let v := c.getG b
    let m := qMode v
    if s.isWarp c.kid then s.trap id cIllegal v
    else if bits v 21 43 ≠ 0 ∨ m = 3 then s.trap id cIllegal v
    else if m = 1 ∧ (qCore v ≠ 0 ∨ qLt v ≠ 0) then s.trap id cIllegal v
    else if m = 0 then
      if s.wordsOut c (c.qw q) then s.park id (.qcfg d q b) .portDrain
      else (s.unbindQ id q).finishG id d 0#64 4
    else if qMode (c.qw q) ≠ 0 then s.finishG id d (refusal 3) 4
    else if s.endTaken id c v then s.finishG id d (refusal 1) 4
    else if m = 2 ∧ (s.kernelD c.kid).tiles ≤ qLt v then s.finishG id d (refusal 2) 4
    else
      let s1 := s.updPort (c.portLc v) (qPort v) fun p => if m = 1 then { p with reader := some id } else { p with writer := some id }
      (s1.upd id fun c => { c with q := c.q.set q.toNat v }).finishG id d 0#64 4
/-- QSTAT's count N (R254, R358). -/
def State.qCount (s : State) (c : Ctx) (q : BitVec 3) : Nat :=
  let w := c.qw q
  match qMode w with
  | 1 => (s.port c.lck (qPort w)).words.length
  | 2 => (s.port (c.portLc w) (qPort w)).space
  | 3 =>
    match s.stageOf c with
    | some (ch, _) =>
      let n := ringCount (leNat (s.scratchBytes (ch.lt c.kid (qPort w + 1)) (ch.ctlAt (qPort w)) 8))
      if q = 0#3 then n else 8 - n
    | none => 0
  | _ => 0
/-- QSTAT (R254, R358). -/
def execQstat (d : Reg) (q : BitVec 3) (s : State) : Host.Outcome State Fault Refusal :=
  strandOp s (.qstat d q) fun id c => s.finishG id d (w64 ((c.qw q).toNat + s.qCount c q % 16 * 2 ^ 24)) 4

/-! ## Arrival -/

/-- An accepted queue word counts, and enters its port (R249, R268). -/
def State.countWord (s : State) (f : Flit) : State := (s.updLc f.lck fun c => { c with received := c.received + 1 }).count (s.ltile (f.lck / 8)).tile f.kid 5 1
def State.takeWord (s : State) (f : Flit) : State :=
  s.updPort f.lck f.chan fun p => { p with words := p.words ++ [f.p0], inflight := p.inflight - 1, stamp := serialMax p.stamp f.stamp }
/-- QUEUE_WORD_ARRIVAL (R252): `ev.id` names the arrived flit. -/
def execQueueWordArrival (s : State) : Host.Outcome State Fault Refusal :=
  match s.arrival? s.ev.id with
  | none => .next s
  | some f =>
    match f.carry with
    | .queueWord _ => .next (s.acceptIn f true (fun s => s.countWord f) fun s => s.takeWord f)
    | _ => .next s

end Sys2Proof.Machine
end

