-- ==== Sys2Proof/Machine/Message.lean ====
section
/-! DEFINITION. Messages: sending and ending, keep regions, virtual time, antimessages, and the arrival and delivery steps (R245, R288-R314, R432). -/

namespace Sys2Proof.Machine

open Sys2Proof

/-! ## SEND and SENDT (R290, R291, R432) -/

/-- Fields of a destination word (R290). -/
def destLocal (w : Word) : Bool := w.getLsbD 32
def destChan (w : Word) : Nat := bits w 33 4
def destCore (w : Word) : Nat := bits w 37 3
def destLt (w : Word) : Nat := bits w 40 12
/-- Device and kernel of a destination word, for a sender of a kernel. -/
def State.destDev (s : State) (w : Word) : Nat := if destLocal w then s.device.toNat else bits w 58 6
def destKid (kid : Nat) (w : Word) : Nat := if destLocal w then kid else bits w 52 6

/-- The strand may send: its core's retransmit buffer has room, and R432 does not hold it. -/
def State.sendOk (s : State) (c : Ctx) : Bool := s.retxRoom c.lck && !s.agedSend c

/-- SEND and SENDT, with the VRT that the message carries; `timed` says that R289 holds SENDT to a greater VRT (R291). -/
def State.sendOp (s : State) (id : Nat) (i : Instr) (d a b : Reg) (v : Nat) (timed : Bool) (len : Nat) : State :=
  let c := s.ctxD id
  let w := c.getG b
  let dev := s.destDev w
  let kid := destKid c.kid w
  let within := decide (kid = c.kid) && decide (dev = s.device.toNat)
  if 28 < a.toNat then s.trap id cIllegal (a.setWidth 64)
  else if bits w 0 32 ≠ 0 ∨ destChan w = 15 then s.trap id cIllegal w
  else if destLocal w ∧ (s.kernelD c.kid).tiles ≤ destLt w then s.trap id cIllegal w
  else if !vrtOk v || (timed && s.isWarp c.kid && within && decide (v ≤ c.item.vrt.toNat)) then s.trap id cIllegal (w64 v)
  else if !s.sendOk c then s.park id i .sendSpace
  else s.emitRoom id i within w fun s1 =>
    let seq := s1.seqNext c
    let m : Outgoing := { dev := dev, kid := kid, lt := destLt w, core := destCore w, chan := destChan w, vrt := v, p0 := c.getG a, p1 := c.getG (a + 1#5), p2 := c.getG (a + 2#5), p3 := c.getG (a + 3#5), carry := fun k => .message k none }
    ((s1.takeSeq id).emit id m seq).finishG id d (w64 seq) len

/-- SEND (R291). -/
def execSend (d a b : Reg) (s : State) : Host.Outcome State Fault Refusal :=
  strandOp s (.send d a b) fun id c => s.sendOp id (.send d a b) d a b (s.sendVrt c) false 4
/-- SENDT (R291): the VRT is gC + IMM32, exact. -/
def execSendt (d a b c : Reg) (imm32 : BitVec 32) (s : State) : Host.Outcome State Fault Refusal :=
  strandOp s (.sendt d a b c imm32) fun id x => s.sendOp id (.sendt d a b c imm32) d a b ((x.getG c).toNat + imm32.toNat) true 12

/-! ## DONE (R292, R347, R353) -/

/-- The END record of an activation (R443). -/
def State.traceEnd (s : State) (c : Ctx) : State :=
  s.traceRecord (s.tileOf c) c.kid 2 c.strand.toNat c.homeCore c.item.chan c.workId (w64 (c.homeLt + c.homeCore * 2 ^ 12 + c.eff * 2 ^ 16))
    c.item.src c.entryAt c.item.vrt
    (w64 (s.tbase - c.startedAt)) (w64 (c.instrs + 1))
/-- The activation ends: its queue registers are unbound, a WARP message becomes HANDLED, and the context is gone (R292). -/
def State.endActivation (s : State) (id : Nat) : State :=
  let c := s.ctxD id
  let s1 := ((s.unbindAll id).traceEnd c).countRun c
  let s2 := (s1.count (s1.tileOf c) c.kid 2 1).dropCtx id
  if s.isWarp c.kid then
    (s2.releaseUnit c.alck c.item.key).updLc c.alck fun l =>
      { l with handled := l.handled ++ [c.handledNow], maxHandled := some (Nat.max (l.maxHandled.getD 0) c.item.key.vrt) }
  else s2
/-- A chain whose every stage has ended: its number is free; in a WARP activation that may be undone it can come back (R352, R353). -/
def State.endChain (s : State) (id n : Nat) : State :=
  let c := s.ctxD id
  s.updK c.kid fun x =>
    if s.spec c then { x with chains := x.chains.map fun ch => if ch.num = n ∧ ch.overBy.isNone then { ch with overBy := some c.item.key } else ch }
    else { x with chains := x.chains.filter fun ch => decide (ch.num ≠ n) || ch.overBy.isSome }
/-- Every stage of a chain but one has ended. -/
def State.othersEnded (s : State) (kid : Nat) (ch : Chain) (i : Nat) : Bool :=
  (List.range ch.nst).all fun j => decide (j = i) || decide (s.stageState kid ch j = 3)
/-- The stage that a coil strand goes on with when stage `i` ends: the lowest above it that has not ended, or the highest below it. -/
def State.nextStage (s : State) (kid : Nat) (ch : Chain) (i : Nat) : Option Nat :=
  let live (j : Nat) : Bool := decide (j ≠ i) && decide (s.stageState kid ch j ≠ 3)
  match (List.range ch.nst).find? fun j => decide (i < j) && live j with
  | some j => some j
  | none => (List.range i).reverse.find? live

/-- DONE of a chain's stage: its frame's STATE becomes 3; in stake form the stage's activation ends, in coil form the coil strand
switches or, when no stage is left, ends with the chain (R347, R353). A return for a register of the ended stage finds nothing. -/
def State.doneStage (s : State) (id : Nat) (i : Instr) (ch : Chain) (st : Nat) : State :=
  let c := s.ctxD id
  let last := s.othersEnded c.kid ch st
  let next := if c.coil && !s.mustHalt c then s.nextStage c.kid ch st else none
  let mark := (ch.lt c.kid st, ch.frame st + 304, 8)
  s.areaReady id i (mark :: (next.map fun j => (ch.lt c.kid j, ch.frame j + 304, 8)).toList) fun s1 =>
    let s2 := (s1.areaStore id mark.1 mark.2.1 (leBytes 8 3)).upd id fun c => { c with pend := [] }
    if last then (s2.endChain id ch.num).endActivation id
    else if !c.coil then s2.endActivation id
    else match next with
      | some j => s2.enterStage id ch j fun s3 => s3.upd id Ctx.completed
      | none => s2.upd id fun c => { c.completed with halted := true }

/-- DONE (R292). -/
def execDone (s : State) : Host.Outcome State Fault Refusal :=
  strandOp s .done fun id c =>
    let m := (s.lcore c.alck).mu
    if !s.spec c && s.putsOut c then s.park id .done .puts
    else if !s.spec c && decide (c.nacks ≠ []) then s.reportNack id
    else if c.q.toList.any fun w => s.wordsOut c w then s.park id .done .portDrain
    else if s.isWarp c.kid && decide (m.hold = some c.item.key) && !m.queue.isEmpty then s.park id .done .muRecords
    else match s.stageOf c with
      | some (ch, st) => s.doneStage id .done ch st
      | none => s.endActivation id

/-! ## Keep regions (R295) -/

/-- A change of one keep-region slot, logged with a WARP activation that may be undone (R303). -/
def State.setKeep (s : State) (id : Nat) (n : Fin 12) (new : Option (Nat × Nat)) : State :=
  let c := s.ctxD id
  let old := (s.ltile c.ltk).keeps[n]
  let s1 := s.updLt c.ltk fun x => { x with keeps := x.keeps.set n new }
  if s.spec c then s1.updLc c.alck fun l => { l with keepLog := l.keepLog ++ [{ by_ := c.item.key, lt := c.ltk, off := 0, old := [], slot := some (n.val, old, new) }] } else s1
/-- Two ranges meet. -/
def rangesMeet (a n b m : Nat) : Bool := decide (a < b + m) && decide (b < a + n)
/-- KEEP (R295). -/
def execKeep (d a b : Reg) (s : State) : Host.Outcome State Fault Refusal :=
  strandOp s (.keep d a b) fun id c =>
    let va := c.getG a
    let vb := c.getG b
    let ks := (s.ltile c.ltk).keeps
    if va.toNat % 64 ≠ 0 then s.trap id cMisalign va
    else if vb.toNat % 64 ≠ 0 ∨ vb = 0#64 then s.trap id cMisalign vb
    else if s.sOf c < va.toNat + vb.toNat then s.trap id cPagePerm (va + vb)
    else
      match (List.finRange 12).find? fun i => ks[i].isNone with
      | none => s.finishG id d (refusal 1) 4
      | some i =>
        if ks.toList.any (fun r => match r with | some (o, n) => rangesMeet o n va.toNat vb.toNat | none => false) then s.finishG id d (refusal 2) 4
        else (s.setKeep id i (some (va.toNat, vb.toNat))).finishG id d (w64 i.val) 4
/-- UNKEEP (R295). -/
def execUnkeep (a : Reg) (s : State) : Host.Outcome State Fault Refusal :=
  strandOp s (.unkeep a) fun id c =>
    let va := (c.getG a).toNat
    let ks := (s.ltile c.ltk).keeps
    match (List.finRange 12).find? fun i => match ks[i] with | some (o, _) => decide (o = va) | none => false with
    | none => s.advance id 4
    | some i => (s.setKeep id i none).advance id 4

/-! ## Virtual time (R302, R305, R308) -/

/-- IRREV (R302): two deliveries made after it issued must carry the activation's own key. -/
def execIrrev (s : State) : Host.Outcome State Fault Refusal :=
  strandOp s .irrev fun id c =>
    if !s.isWarp c.kid || c.irrevocable then s.advance id 4
    else if c.held.isNone then (s.upd id fun c => { c with irrevHits := 0 }).park id .irrev .irrev
    else if c.irrevHits < 2 then s.park id .irrev .irrev
    else (s.upd id fun c => { c with irrevocable := true }).advance id 4
/-- GVTR (R308). -/
def execGvtr (d a : Reg) (s : State) : Host.Outcome State Fault Refusal :=
  strandOp s (.gvtr d a) fun id c =>
    let v := c.getG a
    if v = 0#64 then s.finishG id d (if s.isWarp c.kid then w64 (s.lcore c.alck).gvt else 0#64) 4
    else if !s.isWarp c.kid then s.trap id cIllegal 0#64
    else if c.item.vrt.toNat ≤ v.toNat then s.trap id cIllegal v
    else if v.toNat < (s.lcore c.alck).gvt then s.finishG id d (w64 (s.lcore c.alck).gvt) 4
    else s.park id (.gvtr d a) (.gvt v)
/-- ANTI (R305): the message of that SEQ, which the running activation has sent and not cancelled: from the strand slot or stage that it runs on now when there is
one, otherwise from one that it ran on before. -/
def execAnti (d a : Reg) (s : State) : Host.Outcome State Fault Refusal :=
  strandOp s (.anti d a) fun id c =>
    let v := c.getG a
    let l := s.lcore c.alck
    let now (k : Key) : Bool := decide (k.slt = c.lt) && decide (k.score = c.core) && decide (k.sstrand = c.sendStrand)
    let logged := l.outLog.filter fun e => decide (e.by_ = c.item.key) && decide (e.key.seq = v.toNat)
    let queued := l.commitQ.filter fun e => decide (e.by_ = c.item.key) && (match e.op with | .message f => decide (f.carry.key.seq = v.toNat) | _ => false)
    let byNow (e : CommitEntry) : Bool := match e.op with | .message f => now f.carry.key | _ => false
    let callBack (e : OutEntry) : State := ((s.updLc c.alck fun l => { l with outLog := l.outLog.filter fun x => x ≠ e }).sendAnti c.alck e).finishG id d 1#64 4
    let remove (e : CommitEntry) : State := (s.updLc c.alck fun l => l.dropCommit e.seqno).finishG id d 1#64 4
    if !s.isWarp c.kid then s.trap id cIllegal v
    else match logged.find? (fun e => now e.key), queued.find? byNow, logged, queued with
      | some e, _, _, _ => callBack e
      | none, some e, _, _ => remove e
      | none, none, e :: _, _ => callBack e
      | none, none, [], e :: _ => remove e
      | none, none, [], [] => s.finishG id d 0#64 4

/-! ## Arrival (R245, R278, R280, R303, R304, R306, R309, R314) -/

/-- What an accepted item adds to its core's counts: one received; one from outside also counts as sent there, in the core's own colour. -/
def LCore.countReceived (c : LCore) (warp inside colour : Bool) : LCore :=
  let col := if inside then colour else c.colour
  let up (v : Vector Nat 2) : Vector Nat 2 := v.set (bit col % 2) (v[bit col % 2]'(Nat.mod_lt _ (by decide)) + 1) (Nat.mod_lt _ (by decide))
  { c with received := c.received + 1, sent := if inside then c.sent else c.sent + 1, recvC := if warp then up c.recvC else c.recvC,
           sentC := if warp && !inside then up c.sentC else c.sentC }
/-- An arrival counts as one within its kernel. -/
def State.inside (s : State) (f : Flit) (key : Key) : Bool := s.fromWithin f && s.countsWithin f.kid s.device.toNat f.kid key
/-- Counts an accepted item (R280, R306, R446). -/
def State.countArrival (s : State) (f : Flit) (key : Key) : State :=
  (s.updLc f.lck fun c => c.countReceived (s.isWarp f.kid) (s.inside f key) f.colour).count (s.ltile (f.lck / 8)).tile f.kid 5 1

/-- Items of channels 0 to 14 that have not started an activation (R245). -/
def State.itemRoom (s : State) (lc : Nat) : Bool := decide ((s.lcore lc).items.length + (s.lcore lc).heldIn.length < Config.heldItems)
/-- Rolls a core back when a key that arrives or becomes QUEUED there is a straggler's (R303). -/
def State.straggle (s : State) (lc : Nat) (k : Key) : State :=
  if (s.activations lc).any fun m => k.lt m.key then s.rollback lc k none else s
/-- A message is queued on its channel; the first one on an unbound channel is told to the supervisor (R245). -/
def State.enqueue (s : State) (lc : Nat) (m : Item) : State :=
  let c := s.lcore lc
  let s1 := s.updLc lc fun c => { c with items := c.items ++ [m] }
  if (c.bindings.toList.getD m.chan {}).bound || c.unboundTold.getLsbD m.chan then s1
  else
    (s1.updLc lc fun c => { c with unboundTold := c.unboundTold ||| BitVec.ofNat 16 (2 ^ m.chan) }).unitTrap lc cQueueUnbound
      (w64 (m.chan + lcCore lc * 16 + lcLt lc * 65536)) m.vrt

/-- The item that a message makes which was accepted at a time, apart from its key, and the task that a call makes. -/
def Flit.item (f : Flit) (key : Key) (ret : Option RetTo) (at_ : Nat) : Item :=
  { chan := f.chan, p0 := f.p0, p1 := f.p1, p2 := f.p2, p3 := f.p3, vrt := f.vrt, src := f.src, key := key, ret := ret, isCall := ret.isSome, colour := f.colour,
    arrived := at_, agedAt := at_, stamp := f.stamp }
def State.itemOf (s : State) (f : Flit) (key : Key) (ret : Option RetTo) : Item := f.item key ret s.tbase
def Item.asCall (m : Item) (entry : Word) (st : Option (Nat × Nat × Bool)) : Item :=
  { m with chan := 15, entry := some entry, stage := st.map fun x => (x.1, x.2.1), coil := (match st with | some x => x.2.2 | none => false) }
/-- The key of a message admitted from outside, whose admission count is `n` (R288, R314). -/
def admitKey (lc vrt n : Nat) : Key := { vrt := vrt, slt := 4096 + lcLt lc, score := lcCore lc, sstrand := 0, seq := n }
/-- The VRT that an admitted message takes at a delivery (R309). -/
def admitVrt (gvt vrt : Nat) : Nat := Nat.min (Nat.max vrt (gvt + 1)) (2 ^ 64 - 2)
/-- A message from outside a WARP kernel is admitted: before the first delivery it is queued at once with its own VRT, later it waits for
the next one (R309). -/
def State.admitMessage (s : State) (lc : Nat) (m : Item) : State :=
  let c := s.lcore lc
  let s1 := s.updLc lc fun c => { c with admissions := c.admissions + 1 }
  if c.deliveries = 0 then
    let k := admitKey lc m.vrt.toNat c.admissions
    (s1.straggle lc k).enqueue lc { m with key := k }
  else s1.enqueue lc { m with key := admitKey lc m.vrt.toNat c.admissions, admitted := true }

/-- A message of the kernel itself arrives at a WARP core: its parked antimessage annihilates it, a straggler rolls the core back. -/
def State.receiveWarp (s : State) (lc : Nat) (m : Item) : State :=
  let twin (g : Flit) : Bool := match g.carry with | .anti k => decide (k = m.key) | _ => false
  if (s.lcore lc).antis.any twin then s.updLc lc fun c => { c with antis := c.antis.eraseP twin }
  else (s.straggle lc m.key).enqueue lc m

/-- A counted message takes its place at its logical core. -/
def State.land (s : State) (f : Flit) (key : Key) (m : Item) : State :=
  if !s.isWarp f.kid then s.enqueue f.lck m else if s.inside f key then s.receiveWarp f.lck m else s.admitMessage f.lck m

/-- The ready ring has room (R257). -/
def State.ringRoom (s : State) (lc : Nat) : Bool := decide ((s.lcore lc).ring.length < Config.ringTasks)
/-- A task enters a ready ring; above 768 tasks the ring turns depth-first (R258). -/
def State.pushTask (s : State) (lc : Nat) (m : Item) : State :=
  s.updLc lc fun c => { c with ring := c.ring ++ [m], depthFirst := c.depthFirst || decide (768 < c.ring.length + 1) }
/-- A call of the kernel itself arrives at a WARP core. -/
def State.receiveTask (s : State) (lc : Nat) (m : Item) : State :=
  let twin (g : Flit) : Bool := match g.carry with | .anti k => decide (k = m.key) | _ => false
  if !s.isWarp (lcKid lc) then s.pushTask lc m
  else if (s.lcore lc).antis.any twin then s.updLc lc fun c => { c with antis := c.antis.eraseP twin }
  else (s.straggle lc m.key).pushTask lc m

/-- A return reaches the strand that waits for it: the pending register is written, or the strand goes on after its exception message;
one whose activation has ended or been undone is discarded (R133, R261). What the strand does next follows the callee's accesses before it (R180). -/
def State.takeReturn (s : State) (f : Flit) (key : Key) (ctx seqno : Nat) (reg : Bool) : State :=
  let warp := s.isWarp f.kid
  let lost (s : State) : State := if warp then s.updLc f.lck fun c => { c with lost := c.lost ++ [key] } else s
  let took (s : State) : State := match s.ctx? ctx with
    | some c => if warp then s.updLc c.alck fun l => { l with returns := l.returns ++ [(key, c.item.key)] } else s
    | none => s
  let after (s : State) : State := if (s.ctx? ctx).isSome then s.raiseStrand ctx f.stamp else s
  if reg then
    match s.settlePend f.kid ctx seqno true f.p0 with
    | some s1 => took (after s1)
    | none => lost s
  else if (s.ctx? ctx).isNone then lost s
  else took (after (s.upd ctx fun c => if c.wait = .excReturn then { c with wait := .none } else c))

/-- Tasks leave a ready ring, which turns breadth-first below 512 of them (R258). -/
def LCore.keepTasks (c : LCore) (keep : Item → Bool) : LCore :=
  let r := c.ring.filter keep
  { c with ring := r, depthFirst := c.depthFirst && decide (512 ≤ r.length) }
/-- An antimessage meets its twin (R304): queued, running or handled, or not yet arrived. -/
def State.annihilate (s : State) (lc : Nat) (f : Flit) (k : Key) : State :=
  let c := s.lcore lc
  if c.items.any fun m => decide (m.key = k) && !m.admitted then s.updLc lc fun c => { c with items := c.items.filter fun m => m.key ≠ k ∨ m.admitted }
  else if c.ring.any fun m => m.key = k then s.updLc lc fun c => c.keepTasks fun m => m.key ≠ k
  else if (s.activations lc).any fun m => m.key = k then s.rollbackTwin lc k
  else s.updLc lc fun c => { c with antis := c.antis ++ [f] }
/-- The logical core of a kernel where a return of key `k` was consumed, with the activation's key, or was discarded: a coil strand's activation notes it at its own
logical core, not at the stage's that the return came to (R261, R346). -/
def State.returnedAt (s : State) (kid : Nat) (k : Key) : Option (Nat × Key) :=
  (s.lcores.filter fun e => lcKid e.1 = kid).findSome? fun e => (e.2.returns.find? fun x => x.1 = k).map fun x => (e.1, x.2)
def State.lostAt (s : State) (kid : Nat) (k : Key) : Option Nat := (s.lcores.find? fun e => decide (lcKid e.1 = kid) && e.2.lost.contains k).map (·.1)
/-- The antimessage of a return meets it: consumed by the caller's activation, which is undone; discarded before; or not yet arrived
(R261). -/
def State.annihilateReturn (s : State) (lc : Nat) (f : Flit) (k : Key) : State :=
  match s.returnedAt (lcKid lc) k with
  | some (l, a) =>
    (s.rollbackFrom l a).updLc l fun c => { c with returns := c.returns.filter fun e => e.1 ≠ k, lost := c.lost.filter fun x => x ≠ k }
  | none =>
    match s.lostAt (lcKid lc) k with
    | some l => s.updLc l fun c => { c with lost := c.lost.filter fun x => x ≠ k }
    | none => s.updLc lc fun c => { c with antis := c.antis ++ [f] }

/-! ### The work of an accepted item -/

/-- A return that its antimessage has met before is gone with it; any other reaches its strand (R261). -/
def State.landReturn (s : State) (f : Flit) (k : Key) (ctx n : Nat) (reg : Bool) : State :=
  let twin (g : Flit) : Bool := match g.carry with | .antiReturn x _ => decide (x = k) | _ => false
  if (s.lcore f.lck).antis.any twin then s.updLc f.lck fun c => { c with antis := c.antis.eraseP twin } else s.takeReturn f k ctx n reg
/-- The sending strand that a source word names, and the SEQ nearest to `latest` that has the source word's bits (R432). -/
def srcSender (w : Word) : Nat := bits w 21 12 * 2 ^ 17 + bits w 0 17
def nearestSeq (latest low : Nat) : Nat :=
  let d := (low + 2 ^ 31 - latest % 2 ^ 31) % 2 ^ 31
  if d < 2 ^ 30 ∨ latest + d < 2 ^ 31 then latest + d else latest + d - 2 ^ 31
/-- A receiver recovers the SEQ of a message or antimessage that a strand has sent, and has then seen it; what the module sends for no strand has SEQ 0 (R288, R432). -/
def State.recoverSeq (s : State) (f : Flit) : Flit × State :=
  if f.carry.key.seq = 0 then (f, s)
  else
    let n := nearestSeq (mgetD 0 (srcSender f.src) (s.lcore f.lck).seen) (srcSeq f.src)
    ({ f with carry := f.carry.withSeq n }, s.updLc f.lck fun c => { c with seen := mset (srcSender f.src) n c.seen })
/-- What an accepted and counted item does at its logical core: a message or call queues, a return goes to its strand or channel, an antimessage to its twin, a queue word to its
port (R249, R261, R304, R309). `at_` is the time of its acceptance. -/
def State.takeItem (s0 : State) (f0 : Flit) (at_ : Nat) : State :=
  let (f, s) := s0.recoverSeq f0
  match f.carry with
  | .message k ret => s.land f k (f.item k ret at_)
  | .call k e ret st => s.receiveTask f.lck ((f.item k ret at_).asCall e st)
  | .retval k (.channel _ _ _) => s.land f k { f.item k none at_ with isCall := false }
  | .retval k (.pendReg ctx _ n) => s.landReturn f k ctx n true
  | .retval k (.exception ctx n) => s.landReturn f k ctx n false
  | .anti k => s.annihilate f.lck f k
  | .antiReturn k (.channel _ _ _) => s.annihilate f.lck { f with carry := .anti k } k
  | .antiReturn k _ => s.annihilateReturn f.lck f k
  | .queueWord _ => s.takeWord f
  | _ => s
/-- The items that a logical core holds in its input buffers do their work, in the order of their acceptance: its cores go on (R412). -/
def State.takeHeld (s : State) (lc : Nat) : State :=
  (s.lcore lc).heldIn.foldl (fun s e => s.takeItem e.1 e.2) (s.updLc lc fun c => { c with heldIn := [] })
/-- An arrived item whose acceptance counts as an arrival of its key (R280). -/
def State.admitItem (s : State) (f : Flit) (k : Key) (room : Bool) : State := s.acceptIn f room (fun s => s.countArrival f k) fun s1 => s1.takeItem f s.tbase

/-- MESSAGE_ARRIVAL (R245): `ev.id` names the arrived flit. A message for which there is no room stays with its sender; one to KID 63 reaches the resident kernel of
the sender's partition (R291, R456). -/
def execMessageArrival (s : State) : Host.Outcome State Fault Refusal :=
  match s.arrival? s.ev.id with
  | none => .next s
  | some f =>
    match f.carry with
    | .message k ret =>
      if f.kind ≠ 0 then .next s
      else if f.kid = 63 then .next { s.acceptAck f with resident := s.resident ++ [{ part := f.part, item := s.itemOf f k ret, ctx := none }] }
      else .next (s.admitItem f k (s.itemRoom f.lck))
    | _ => .next s

/-- A task that arrives has room in the ready ring (R257). -/
def State.taskRoom (s : State) (lc : Nat) : Bool := decide ((s.lcore lc).ring.length + (s.lcore lc).heldIn.length < Config.ringTasks)
/-- CALL_ARRIVAL (R261): a call is accepted onto the ready ring when that has room. -/
def execCallArrival (s : State) : Host.Outcome State Fault Refusal :=
  match s.arrival? s.ev.id with
  | none => .next s
  | some f =>
    match f.carry with
    | .call k _ _ _ => .next (s.admitItem f k (s.taskRoom f.lck))
    | _ => .next s

/-- RETURN_ARRIVAL (R261). -/
def execReturnArrival (s : State) : Host.Outcome State Fault Refusal :=
  match s.arrival? s.ev.id with
  | none => .next s
  | some f =>
    match f.carry with
    | .retval k rto => .next (s.admitItem f k (match rto with | .channel _ _ _ => s.itemRoom f.lck | _ => true))
    | _ => .next s
/-- ANTIMESSAGE_ARRIVAL (R304). -/
def execAntimessageArrival (s : State) : Host.Outcome State Fault Refusal :=
  match s.arrival? s.ev.id with
  | none => .next s
  | some f =>
    match f.carry with
    | .anti k => .next (s.admitItem f k true)
    | .antiReturn k _ => .next (s.admitItem f k true)
    | _ => .next s

/-! ## Delivery (R299, R301, R302, R307, R309) -/

/-- Queues the admitted messages of a core, with their raised VRTs (R309). DEDUCED (log entry 82): one that a report has counted takes the VRT that it reported
(R314), raised with the GVT before this delivery; any other is raised with the GVT that this delivery gives. -/
def State.queueAdmitted (s : State) (lc : Nat) : State :=
  let c := s.lcore lc
  let raise (m : Item) : Item :=
    let v := if m.reported then m.key.vrt else admitVrt c.gvt m.vrt.toNat
    { m with vrt := w64 v, key := { m.key with vrt := v }, admitted := false, reported := false }
  let now := (c.items.filter fun m => m.admitted).map raise
  let s1 := s.updLc lc fun c => { c with items := c.items.map fun m => if m.admitted then raise m else m }
  now.foldl (fun s m => s.straggle lc m.key) s1

/-- The chains of a kernel that ended in activations which can no longer be undone are gone (R352, R353). -/
def State.fossilChains (s : State) (lc : Nat) (gone : Key → Bool) : State :=
  s.updK (lcKid lc) fun x => { x with chains := x.chains.filter fun ch => match ch.overBy with | some k => !gone k | none => true }

/-- The GVT that a delivery gives (R307). -/
def gvtOf (m : KMin) (maxVrt : Nat) : Nat :=
  match m with
  | .key k => k.vrt
  | .noKey => Nat.min (maxVrt + 1) (2 ^ 64 - 2)
  | .notYet => 0

/-- Re-examines what waits for a delivery: IRREV counts it, a full log may have room, a waiting trap is sent (R301, R302, R307). -/
def State.wakeDelivery (s : State) (lc : Nat) : State :=
  let m := (s.lcore lc).kmin
  let s1 := s.updAll (fun c => decide (c.alck = lc)) fun c =>
    let c1 := if c.wait = .irrev ∧ m.is c.item.key then { c with irrevHits := c.irrevHits + 1 } else if c.wait = .irrev then { c with irrevHits := 0 } else c
    if c1.wait = .logRoom then { c1 with wait := .none } else c1
  ((s1.ctxs.filter fun e => decide (e.2.alck = lc) && e.2.trapWaits && m.is e.2.item.key).map (·.1)).foldl (fun s id => s.sendTrap id) s1

/-- A delivery at a logical core. -/
def State.deliver (s : State) (lc : Nat) : State :=
  let k := s.kernelD (lcKid lc)
  let s1 := s.updLc lc fun c =>
    let c1 : LCore := { c with kmin := k.kmin, gvt := gvtOf k.kmin k.maxVrt, deliveries := c.deliveries + 1, owed := false }
    { c1.deliverFree k.kmin with commitQ := c1.commitQ.map fun e => if c.below k.kmin e.by_ then { e with due := true } else e }
  let s2 := s1.fossilChains lc ((s.lcore lc).below k.kmin)
  ((s2.commitRun (lcKid lc) (s2.commitCount (lcKid lc))).queueAdmitted lc).wakeDelivery lc

/-- GVT_DELIVERY (R307): the last sweep's key minimum reaches logical core `ev.id`. -/
def execGvtDelivery (s : State) : Host.Outcome State Fault Refusal :=
  let lc := s.ev.id
  if s.isWarp (lcKid lc) && (s.lcore lc).owed && s.kernelRuns (lcKid lc) then .next (s.deliver lc) else .next s

end Sys2Proof.Machine
end

