-- ==== Sys2Proof/Machine/Kernel.lean ====
section
/-! DEFINITION. Kernels: the launch header and LAUNCH, the start, the sweep and the end of a launch, work identifiers, KSTAT and KEND (R270-R285, R306, R309, R314). -/

namespace Sys2Proof.Machine

open Sys2Proof

/-! ## The launch header (R271-R273) -/

/-- A field of a header. -/
def hdrField (h : List Byte) (off n : Nat) : Nat := leNat ((h.drop off).take n)
/-- The frozen ranges that a header uses, and its keep entries. -/
def hdrFrozen (h : List Byte) : List (Nat × Nat × Nat) :=
  ((List.range 4).map fun i => (i, hdrField h (72 + 16 * i) 8, hdrField h (80 + 16 * i) 8)).filter fun r => r.2.1 ≠ 0 ∨ r.2.2 ≠ 0
def hdrKeep (h : List Byte) (i : Nat) : Nat := hdrField h (136 + 8 * i) 8
/-- The doubling limit k of a scratchpad size (R274). -/
def doubling (sz : Nat) : Nat := Nat.min 4 (1048576 / Nat.max 1 sz)

/-- A KEEP entry breaks its rule. -/
def keepBad (e sz : Nat) : Bool :=
  let off := e % 2 ^ 20
  let n := e / 2 ^ 32 % 2 ^ 21
  decide (e ≠ 0) && (decide (n = 0) || decide (e / 2 ^ 20 % 2 ^ 12 ≠ 0) || decide (e / 2 ^ 53 ≠ 0) || decide (off % 64 ≠ 0) || decide (n % 64 ≠ 0) || decide (sz < off + n))
/-- A frozen range breaks its rule. -/
def frozenBad (warp : Bool) (r : Nat × Nat × Nat) : Bool := decide (r.2.2 ≤ r.2.1) || decide (r.2.1 < 2 ^ 20) || decide (2 ^ 56 < r.2.2) || !warp
/-- A BINDS byte breaks its rule: bit 7, or a bound channel with an empty entry. -/
def bindBad (entries : List Nat) (b : Nat) : Bool := decide (128 ≤ b) || (decide (64 ≤ b % 128) && decide (entries.getD (b % 16) 0 = 0))
/-- The offset of the field of lowest offset that breaks its rule (R273), given the handler entry table. -/
def headerBad (h : List Byte) (entries : List Nat) : Option Nat :=
  let f := hdrField h
  let sz := f 24 4
  let ctl := w64 (f 40 8)
  let warp := ctl.getLsbD 0
  let ws := (List.range 6).map fun i => f (48 + i) 1
  let rules : List (Nat × Bool) :=
    [(0, decide (f 0 8 % 128 ≠ 0) || decide (entries.getD 0 0 = 0) || entries.any fun e => e % 4 ≠ 0), (8, decide (f 8 8 % 64 ≠ 0)), (16, decide (sz < f 16 4)),
     (20, decide (f 20 4 = 0) || decide (4096 < f 20 4)), (24, decide (sz % 4096 ≠ 0) || decide (sz < 16384) || decide (1048576 < sz)), (28, decide (f 28 4 ≠ 0)),
     (32, decide (f 32 8 % 4096 ≠ 0) || decide ((f 32 8 = 0) = warp)),
     (40, decide (bits ctl 31 33 ≠ 0) || decide (bits ctl 10 6 ≠ 0) || decide (bits ctl 1 7 ≠ 0) || decide (f 20 4 ≤ bits ctl 16 12)),
     (48, ws.any (fun w => 64 < w) || decide (ws.sum ≠ 64)), (54, decide (f 54 2 ≠ 0))]
    ++ (List.range 15).map (fun c => (56 + c, bindBad entries (f (56 + c) 1))) ++ [(71, decide (f 71 1 ≠ 0))]
    ++ (hdrFrozen h).map (fun r => (72 + 16 * r.1, frozenBad warp r)) ++ (List.range 12).map (fun i => (136 + 8 * i, keepBad (hdrKeep h i) sz))
    ++ [(232, decide (hdrField h 232 24 ≠ 0))]
  (rules.find? fun r => r.2).map (·.1)

/-- The kernel that a header describes (R271, R272, R274). -/
def kernelOf (part parent : Nat) (launcher : Option Nat) (src word : Word) (h : List Byte) (entries : List Nat) : Kernel :=
  let f := hdrField h
  let ctl := w64 (f 40 8)
  { part := part, warp := ctl.getLsbD 0, tiles := f 20 4, s := f 24 4, header := h, entries := Vector.ofFn fun i => w64 (entries.getD i.val 0),
    keeplog := f 32 8, widths := Vector.ofFn fun i => f (48 + i.val) 1, frozenRanges := (hdrFrozen h).map (·.2), slt := bits ctl 16 12, score := bits ctl 28 3,
    prio := BitVec.ofNat 2 (bits ctl 8 2), parent := parent, launcher := launcher, launchSrc := src, nch := bits word 0 4, arg := w64 (bits word 32 32),
    allTiles := word.getLsbD 6 }
/-- The bindings and keep regions of a header. -/
def hdrBindings (h : List Byte) : Vector Binding 15 :=
  Vector.ofFn fun i => let b := hdrField h (56 + i.val) 1
    { bound := decide (64 ≤ b % 128), prio := BitVec.ofNat 2 (b / 16 % 4), entry := BitVec.ofNat 4 (b % 16) }
def hdrKeeps (h : List Byte) : Vector (Option (Nat × Nat)) 12 :=
  Vector.ofFn fun i => let e := hdrKeep h i.val
    if e = 0 then none else some (e % 2 ^ 20, e / 2 ^ 32 % 2 ^ 21)

/-! ## Firmware's reads (R274, R275) -/

/-- Bytes of a partition's virtual memory as firmware reads them, page by page: `bad` gives those of a page that is unmapped or malformed. -/
def State.fwPages (s : State) (part : Nat) (bad : Nat → Nat → Option (List Byte)) : Nat → Nat → Nat → Option (List Byte)
  | 0, va, n => if n = 0 then some [] else bad va n
  | fuel + 1, va, n =>
    if n = 0 then some []
    else
      let m := Nat.min n (65536 - va % 65536)
      let here := if 2 ^ 56 ≤ va then bad va m else match s.walk part va with
        | .leaf t _ _ _ => some (s.paBytes (t.frame + va % 65536) m)
        | _ => bad va m
      here.bind fun a => (s.fwPages part bad fuel (va + m) (n - m)).map fun r => a ++ r
/-- The bytes, or none where one cannot be read (R275). -/
def State.fwRead (s : State) (part fuel va n : Nat) : Option (List Byte) := s.fwPages part (fun _ _ => none) fuel va n
/-- The scratch image (R274); a byte of it that cannot be read is a free value. -/
def State.imageBytes (s : State) (part va n : Nat) : List Byte :=
  if va = 0 then []
  else (s.fwPages part (fun a m => some ((List.range m).map fun i => Config.imageByte (a + i))) (n / 65536 + 2) va n).getD []
/-- The handler entry table. -/
def State.entryTable (s : State) (part va : Nat) : Option (List Nat) :=
  (s.fwRead part 3 va 128).map fun b => (List.range 16).map fun i => leNat ((b.drop (8 * i)).take 8)

/-! ## Creating a kernel (R274, R275, R332) -/

/-- A flit in the fabric or at a sender still names a kernel id. -/
def State.named (s : State) (c : Nat) : Bool :=
  let names (f : Flit) : Bool := (decide (f.kid = c) && decide (f.dev = s.device.toNat)) || decide (lcKid f.sender = c)
  s.flits.any names || s.arrivals.any names || s.lcores.any fun e => decide (lcKid e.1 ≠ c) && e.2.retx.any names
/-- The next free kernel id, one that names no kernel: the lowest that nothing still names, or else the lowest (notes/assumptions/12.md). -/
def State.nextKid (s : State) : Option Nat :=
  match (List.range 63).find? fun c => (s.kernel? c).isNone && !s.named c with
  | some c => some c
  | none => (List.range 63).find? fun c => (s.kernel? c).isNone
/-- What remains of an earlier kernel of the id is forgotten: streams are numbered from 0 again (R435). -/
def State.purgeKid (s : State) (c : Nat) : State :=
  let names (n : Nat) : Bool := decide (n / 1048576 = s.device.toNat * 64 + c)
  { s with lcores := (s.lcores.filter fun e => lcKid e.1 ≠ c).map fun e => (e.1, { e.2 with tx := e.2.tx.filter fun x => !names x.1, rx := e.2.rx.filter fun x => !names x.1 }),
           ltiles := s.ltiles.filter fun e => e.1 / 4096 ≠ c }

/-- The territory that firmware's answer assigns: the tiles that host logical tiles, and those that it assigns beside them (R332). -/
def FwAns.territory (fw : FwAns) : List Nat := (fw.place.map (·.1) ++ fw.extra).dedup
/-- Firmware's placement of a kernel is a valid territory: the logical tiles' places are distinct slots of free tiles, the tiles are
connected and hold the anchor, and the partition's quota suffices (R274, R316, R332). -/
def State.placeOk (s : State) (part tiles k : Nat) (fw : FwAns) : Bool :=
  let ts := fw.territory
  decide (fw.place.length = tiles) && decide (fw.place.dedup.length = tiles) && fw.place.all (fun p => decide (p.2 < k)) && ts.all (fun t => decide (t < 1024) && (s.tile t).isFree)
    && ts.contains fw.anchor && connected ts && decide (s.partTiles part + ts.length ≤ (s.part part).quota)
/-- Connected free tiles, `n` of them: the nearest to the lowest tile that has so many (notes/assumptions/12.md). -/
def State.freeBlock (s : State) (n : Nat) : Option (List Nat) :=
  let free := (List.range 1024).filter fun t => (s.tile t).isFree
  (free.findSome? fun t => let ts := spread free n [t]
    if n ≤ ts.length then some (ts.take n) else none)
/-- Firmware's placement of a kernel: the one that it gives, when it is a valid one, or one on a block of free tiles, k logical tiles to each. None when the
quota or the free tiles fall short of ⌈TILES/k⌉ connected ones (R275, R332). -/
def State.placement (s : State) (part tiles k : Nat) (fw : FwAns) : Option FwAns :=
  let need := (tiles + k - 1) / k
  if s.placeOk part tiles k fw then some fw
  else if (s.part part).quota < s.partTiles part + need then none
  else (s.freeBlock need).map fun ts =>
    { fw with place := (List.range tiles).map fun l => (ts.getD (l / k) 0, l % k), extra := [], anchor := ts.getD 0 0 }

/-- Gives a kernel its territory: owners, the sweep tree, and its counter banks cleared by start packets (R320, R331, R447). -/
def State.assignTerritory (s : State) (kid : Nat) (ts : List Nat) (anchor : Nat) : State :=
  let s1 := (sweepTree ts anchor).foldl (fun s e => s.updTile e.1 fun x =>
    { x with owner := BitVec.ofNat 6 kid, ts := .member, anchor := decide (e.1 = anchor), parent := BitVec.ofNat 3 e.2.1, depth := e.2.2 }) s
  ts.foldl (fun s t => s.startPacket t kid) (s1.updK kid fun k => { k with anchor := anchor })
/-- One logical tile as a launch leaves it (R274). -/
def newLTile (place : Nat × Nat) (image : List Byte) (keeps : Vector (Option (Nat × Nat)) 12) (win7 : Window) : LTile :=
  { tile := place.1, j := place.2, scratch := memPut [] 0 image, keeps := keeps, windows := (Vector.replicate 8 {}).set 7 win7 }
/-- Creates the kernel with id `c` from its header (R274, R275). -/
def State.createKernel (s : State) (c : Nat) (k : Kernel) (h : List Byte) (hold : Bool) (fw : FwAns) : State :=
  let img := s.imageBytes k.part (hdrField h 8 8) (hdrField h 16 4)
  let win : Window := if hold then { kida := BitVec.ofNat 6 k.parent, rights := 0b1010#4, size64 := BitVec.ofNat 15 (k.s / 64) } else {}
  let s1 := s.purgeKid c
  let s2 : State := { s1 with kernels := mset c k s1.kernels }
  let s3 := fw.place.zipIdx.foldl (fun s e =>
    let lt := ltKey c e.2
    (List.range 8).foldl (fun s i => s.updLc (8 * lt + i) fun _ => { bindings := hdrBindings h }) (s.updLt lt fun _ => newLTile e.1 img (hdrKeeps h) win)) s2
  s3.assignTerritory c fw.territory fw.anchor

/-- The start task of a logical tile (R275, R314). It carries the launcher's clock, or, launched by firmware, its core's own (R168, R180). DESIGN CHOICE (log entry 120): of
a kernel that was HELD, its source word and its ARG are those of the LAUNCH that made the kernel, not of the one that releases it. -/
def State.pushStart (s : State) (c : Nat) (k : Kernel) (from_ : Option (BitVec 48)) (lt : Nat) : State :=
  let lc := lcKey c lt 0
  let stamp := from_.getD (s.clock (s.homeCore lc)).t
  let m : Item := { chan := 15, p0 := w64 c, p1 := w64 k.tiles, p2 := k.arg, p3 := 0#64, vrt := 0#64, src := k.launchSrc, entry := some k.entries[0],
                    arrived := s.tbase, agedAt := s.tbase, stamp := stamp }
  let m1 := if k.warp then { m with key := admitKey lc 0 (s.lcore lc).admissions } else m
  let s1 := s.updLc lc fun l => { l.countReceived k.warp false false with admissions := if k.warp then l.admissions + 1 else l.admissions }
  (s1.pushTask lc m1).raiseT (s1.homeCore lc) stamp
/-- Starts a kernel: window 7 closed, and a start task on core 0 of each chosen logical tile (R275, R276). -/
def State.startKernel (s : State) (c : Nat) (stamp : Option (BitVec 48)) : State :=
  let k := s.kernelD c
  let s1 := s.updK c fun x => { x with state := .running }
  let s2 := (List.range k.tiles).foldl (fun s l => s.updLt (ltKey c l) fun x => { x with windows := x.windows.set 7 {} }) s1
  (if k.allTiles then List.range k.tiles else [0]).foldl (fun s l => s.pushStart c k stamp l) s2

/-- Firmware's answer to a launch whose header has been read: the answer word and the state (R275). `lost` says that the entry table could
not be read because of an uncorrectable error. DESIGN CHOICE (log entry 120): where the table's address is aligned and the table cannot be read, WHY 5 is answered also
when another field of the header breaks its rule. -/
def State.answerLaunch (s : State) (part parent : Nat) (launcher : Option Nat) (src word : Word) (h : List Byte) (fw : FwAns) (lost : Bool) (stamp : Option (BitVec 48)) : Word × State :=
  let at_ := hdrField h 0 8
  if at_ % 128 ≠ 0 then (refusal 1 0, s)
  else match (if lost then none else s.entryTable part at_) with
    | none => (refusal 5 1, s)
    | some es =>
      match headerBad h es with
      | some off => (refusal 1 off, s)
      | none =>
        match s.nextKid with
        | none => (refusal 2, s)
        | some c =>
          let k := kernelOf part parent launcher src word h es
          match (if k.tiles ≤ 1024 * k.k then s.placement part k.tiles k.k fw else none) with
          | none => (refusal 3, s)
          | some fw1 =>
            let hold := word.getLsbD 5
            let s1 := s.createKernel c k h hold fw1
            (w64 c, if hold then s1 else s1.startKernel c stamp)

/-- The kernel `c` is a child of kernel `parent`, 63 for firmware. -/
def State.isChild (s : State) (c parent : Nat) : Bool :=
  match s.kernel? c with
  | some k => decide (k.parent = parent) && !k.orphan
  | none => false

/-! ## LAUNCH (R275) -/

/-- Loads `n` words of the header. -/
def State.loadHdr (s : State) (id : Nat) (i : Instr) (a : Nat) : Nat → List Byte → (State → List Byte → State) → State
  | 0, bs, k => k s bs
  | n + 1, bs, k => s.load id i a 8 fun s1 v => s1.loadHdr id i (a + 8) n (bs ++ leBytes 8 v) k

/-- LAUNCH (R275): stage 1 holds the header's words and waits for firmware's answer. A launch that makes a kernel is a send, which takes its number (R180, R288); a
chain's stage bears strand 0 and its own count in the source word (R344). -/
def execLaunch (d a b : Reg) (s : State) : Host.Outcome State Fault Refusal :=
  strandOp s (.launch d a b) fun id c =>
    let i : Instr := .launch d a b
    let va := c.getG a
    let vb := c.getG b
    let stamp := serialMax (s.clock (s.coreNo c)).t c.ackd
    let src := s.sendSrc c 15 (s.seqNext c)
    if s.isWarp c.kid then s.trap id cIllegal 0#64
    else if va.getLsbD 0 then
      let n := bits va 1 6
      if bits va 7 57 ≠ 0 then s.trap id cIllegal va
      else if s.putsOut c then s.park id i .puts
      else if (s.kernelD n).state = .held ∧ s.isChild n c.kid then (s.startKernel n (some stamp)).finishG id d (w64 n) 4
      else s.finishG id d (refusal 4) 4
    else if va.toNat % 256 ≠ 0 then s.trap id cIllegal va
    else if bits vb 7 25 ≠ 0 ∨ vb.getLsbD 4 then s.trap id cIllegal vb
    else if c.stageOf = 0 then
      if s.putsOut c then s.park id i .puts
      else s.loadHdr id i va.toNat 32 [] fun s1 bs =>
        s1.parkAt id i .answer 1 0 ((List.range 32).map fun n => w64 (leNat ((bs.drop (8 * n)).take 8)))
    else match c.answer? with
      | none => s.park id i .answer
      | some fw =>
        let h := c.valsOf.flatMap fun w => leBytes 8 w.toNat
        let (w, s1) := s.answerLaunch (s.partOf c.kid) c.kid (some c.lck) src vb h fw (fw.value.getLsbD 0) (some stamp)
        (if w.msb then s1 else s1.takeSeq id).finishG id d w 4

/-- FIRMWARE_LAUNCH (R275): firmware launches in partition `ev.id`, with gA `ev.w0`, the launch word `ev.w1` and its placement `ev.fw`;
`ev.idx` 1 or 2 says that the header's or the entry table's read meets an uncorrectable error. -/
def execFirmwareLaunch (s : State) : Host.Outcome State Fault Refusal :=
  let part := s.ev.id
  let va := s.ev.w0
  let answer (r : Word × State) : Host.Outcome State Fault Refusal := .next { r.2 with hostSide := { r.2.hostSide with launches := r.2.hostSide.launches ++ [r.1] } }
  if !(s.part part).present || !s.gangRuns part then .next s
  else if va.getLsbD 0 then
    let n := bits va 1 6
    if bits va 7 57 ≠ 0 then .next s
    else if (s.kernelD n).state = .held ∧ s.isChild n 63 ∧ s.partOf n = part then answer (w64 n, s.startKernel n none) else answer (refusal 4, s)
  else if va.toNat % 256 ≠ 0 ∨ bits s.ev.w1 7 25 ≠ 0 ∨ s.ev.w1.getLsbD 4 then .next s
  else match (if s.ev.idx = 1 then none else s.fwRead part 2 va.toNat 256) with
    | none => answer (refusal 5 0, s)
    | some h => answer (s.answerLaunch part 63 none (srcWord 0 s.device.toNat 63 15 0 0 0) s.ev.w1 h s.ev.fw (decide (s.ev.idx = 2)) none)

/-! ## The end of a launch (R276, R277, R285) -/

/-- The contexts, items, tasks, port words, MU records and commit entries of a kernel are discarded, and its copies are cancelled with no
signal (R285). -/
def State.discardKernel (s : State) (kid : Nat) : State :=
  let ids := (s.ctxs.filter fun e => e.2.kid = kid).map (·.1)
  let s1 := ids.foldl (fun s id => s.dropCtx id) s
  { s1.updK kid fun k => { k with chains := [] } with
    lcores := s1.lcores.map fun e => if lcKid e.1 ≠ kid then e else (e.1,
      { e.2 with items := [], heldIn := [], ring := [], ports := Vector.replicate 16 {}, mu := { e.2.mu with queue := [], done := e.2.mu.done + e.2.mu.queue.length }, commitQ := [],
                 copies := e.2.copies.map (fun r => if copyLive r.state then { r with state := 6, waitFid := [] } else r), antis := [], handled := [], keepLog := [], outLog := [] }) }

/-- A tile of an ended kernel returns to the free region; one whose fault is lasting is retired (R277, R331, R434). -/
def State.freeTile (s : State) (t kid : Nat) : State :=
  ((s.stopPacket t kid).clearTile t (s.partOf kid)).updTile t fun x =>
    { x with owner := 63#6, ts := (if x.forced = some true then .retired else .free), anchor := false, parent := 0#3, depth := 0, load := 0, levLoad := 0, ringNs := 0, waitSum := 0,
             waitCount := 0, spills := 0, proposal := none, ceding := none, cedeTo := 63, forced := none, levSource := false, levTarget := false, muOwner := [] }
/-- Barriers of a kernel, EMPTY ones with them, are discarded: what still is a record of theirs is no longer VALID, and they leave the directories (R400, R403). -/
def State.dropBarriers (s : State) (kid : Nat) : State :=
  let s1 := (s.bars.filter fun b => b.kid = kid).foldl (fun s b => match placeOfNum b.place with
    | .phys pa dt => if (s.bar (.phys pa dt)).valid && decide ((s.bar (.phys pa dt)).kid = kid) then { s with glob := memSet s.glob (pa + 28) (memGet s.glob (pa + 28) &&& 0xFB#8) } else s
    | .scratch _ _ => s) s
  { s1 with bars := s1.bars.filter fun b => b.kid ≠ kid }
/-- The end message of a kernel (R277). -/
def State.endMessage (s : State) (kid cause lc nch : Nat) : State :=
  let hdr := mkHdr s.device.toNat (s.partOf (lcKid lc)) (lcKid lc) (lcLt lc) (lcCore lc) nch 0 false false 0
  s.launchFlit (lcKey 63 0 0) (mkFlit hdr 0#64 (srcWord 0 s.device.toNat 63 nch 0 0 0) (w64 kid) (w64 cause) (w64 s.tbase) 0#64 (.message {} none) (.endOf kid))
/-- The end message as firmware takes it, for a kernel that firmware launched. -/
def State.endToFirmware (s : State) (kid cause nch : Nat) : State :=
  let m : Item := { chan := nch, p0 := w64 kid, p1 := w64 cause, p2 := w64 s.tbase, src := srcWord 0 s.device.toNat 63 nch 0 0 0, arrived := s.tbase }
  { s with hostSide := { s.hostSide with firmware := s.hostSide.firmware ++ [m] } }
/-- The kernel id is free again (R276). -/
def State.freeKid (s : State) (kid : Nat) : State :=
  { s with kernels := mdel kid s.kernels, hostSide := { s.hostSide with records := s.hostSide.records ++ [(kid, (s.kernelD kid).record)] } }

/-- Steps 1 to 3 of R277 for one kernel, apart from its HELD children; its logical tiles are withdrawn from every group (R379). -/
def State.releaseKernel (s : State) (kid : Nat) : State :=
  let s1 := (s.terr kid).foldl (fun s t => s.freeTile t kid) (((s.groupLeaveKernel kid).discardKernel kid).dropBarriers kid)
  { s1 with
    tiles := s1.tiles.map fun e => (e.1, { e.2 with
      binds := e.2.binds.map (fun b => if b.kid = kid then { b with valid := false } else b), stubs := e.2.stubs.filter (fun b => b.lt / 4096 ≠ kid),
      cedeTo := if e.2.cedeTo = kid then 63 else e.2.cedeTo, proposal := (match e.2.proposal with | some p => if p.1 = kid then none else some p | none => none),
      muOwner := e.2.muOwner.filter (fun o => lcKid o.2 ≠ kid), mapCache := e.2.mapCache.filter fun o => o.1 / 4096 ≠ kid })
    dies := s1.dies.map fun e => (e.1, { e.2 with retain := e.2.retain.map fun r => match r with | some x => if x.kid = kid ∧ x.part = s.partOf kid then none else some x | none => none })
    lcores := s1.lcores.filter fun e => lcKid e.1 ≠ kid
    ltiles := s1.ltiles.filter fun e => e.1 / 4096 ≠ kid
    kernels := s1.kernels.map fun e => if e.1 = kid then e else (e.1, { e.2 with
      orphan := e.2.orphan || decide (e.2.parent = kid), launcher := (match e.2.launcher with | some lc => if lcKid lc = kid then none else some lc | none => none) }) }
/-- Step 4 of R277: the end message, or the id is free at once. -/
def State.announceEnd (s : State) (kid cause : Nat) : State :=
  let k := s.kernelD kid
  if k.nch = 15 then s.freeKid kid
  else if k.parent = 63 ∧ !k.orphan then (s.endToFirmware kid cause k.nch).freeKid kid
  else match k.launcher with
    | some lc => (s.updK kid fun k => { k with state := .ended, cause := cause }).endMessage kid cause lc k.nch
    | none => s.freeKid kid
/-- A kernel ends with a cause, and with it every HELD child with cause 1 (R276, R277); a HELD kernel has no children. -/
def State.endKernel (s : State) (kid cause : Nat) : State :=
  let held := (s.kernels.filter fun e => decide (e.2.parent = kid) && !e.2.orphan && (decide (e.2.state = .held) || (decide (e.2.state = .switched) && e.2.heldBefore))).map (·.1)
  let s1 := ((s.updK kid fun k => { k with state := .ended, cause := cause }).releaseKernel kid).announceEnd kid cause
  held.foldl (fun s c => ((s.updK c fun k => { k with state := .ended, cause := 1 }).releaseKernel c).announceEnd c 1) s1

/-- KERNEL_STOP_COMPLETE (R276): every core of the territory of the ENDING kernel `ev.id` has reported stopped. -/
def execKernelStopComplete (s : State) : Host.Outcome State Fault Refusal :=
  if (s.kernelD s.ev.id).state = .ending then .next (s.endKernel s.ev.id 1) else .next s

/-- KEND's effect on a target (R285). -/
def State.kendTarget (s : State) (n : Nat) : State :=
  match (s.kernelD n).state with
  | .held => s.endKernel n 1
  | .running => (s.updK n fun k => { k with state := .ending, cause := 1 }).discardKernel n
  | .switched => if (s.kernelD n).heldBefore then s.endKernel n 1 else (s.updK n fun k => { k with state := .ending, cause := 1 }).discardKernel n
  | _ => s
/-- KEND (R285). -/
def execKend (d a : Reg) (s : State) : Host.Outcome State Fault Refusal :=
  strandOp s (.kend d a) fun id c =>
    let v := c.getG a
    if s.isWarp c.kid then s.trap id cIllegal 0#64
    else if 62 < v.toNat then s.trap id cIllegal v
    else if v.toNat ≠ c.kid ∧ !s.isChild v.toNat c.kid then s.finishG id d (refusal 4) 4
    else (s.finishG id d 0#64 4).kendTarget v.toNat

/-! ## KSTAT and WID (R282-R284) -/

/-- STATE of KSTAT. -/
def KState.code (k : KState) : Nat := match k with | .held => 1 | .running => 2 | .switched => 3 | .ending => 4 | .ended => 5 | .frozen => 6
/-- The status word of a kernel (R284). -/
def State.kstat (s : State) (n : Nat) (k : Kernel) : Word :=
  w64 (k.state.code * 2 ^ 60 + bit k.warp * 2 ^ 59 + (k.k - 1) % 4 * 2 ^ 57 + k.parent % 64 * 2 ^ 51 + (s.terr n).length % 2048 * 2 ^ 40 + (k.tiles - 1) % 4096 * 2 ^ 28)
/-- KSTAT (R284). -/
def execKstat (d a : Reg) (s : State) : Host.Outcome State Fault Refusal :=
  strandOp s (.kstat d a) fun id c =>
    let v := c.getG a
    if 63 < v.toNat then s.trap id cIllegal v
    else match s.kernel? v.toNat with
      | some k => s.finishG id d (if k.part = s.partOf c.kid then s.kstat v.toNat k else 0#64) 4
      | none => s.finishG id d 0#64 4
/-- WID (R282, R283). -/
def execWid (d a : Reg) (n : BitVec 5) (s : State) : Host.Outcome State Fault Refusal :=
  strandOp s (.wid d a n) fun id c =>
    let f := n.toNat % 8
    let ws := (s.kernelD c.kid).widths.toList
    let low := 64 - (ws.take (f + 1)).sum
    let v := (c.getG a).toNat
    if 6 ≤ f ∨ 16 ≤ n.toNat then s.trap id cIllegal (n.setWidth 64)
    else if n.getLsbD 3 then s.finishG id d (w64 (v / 2 ^ low * 2 ^ low)) 4
    else s.finishG id d (w64 (v / 2 ^ low % 2 ^ ws.getD f 0)) 4

/-! ## The sweep (R280, R281, R306, R434) -/

/-- A core is idle for the kernel (R280, R304). -/
def State.coreIdle (s : State) (lc : Nat) : Bool :=
  let c := s.lcore lc
  c.items.isEmpty && c.ring.isEmpty && c.ports.toList.all (fun p => p.words.isEmpty) && c.mu.queue.isEmpty && c.copies.all (fun r => !copyLive r.state) && c.commitQ.isEmpty
    && c.antis.isEmpty && decide (c.awaiting = 0) && s.ctxs.all fun e => decide (e.2.lck ≠ lc) && decide (e.2.alck ≠ lc)

/-- Stubs for the kernel's logical tiles: one whose routers have all acknowledged, the last 4 µs ago or more, retires when it has forwarded
nothing since (R434, notes/assumptions/13.md). -/
def State.retireStubs (s : State) (kid : Nat) : State :=
  let due (b : Stub) : Bool := decide (b.lt / 4096 = kid) && b.pending.isEmpty && decide (b.ackedAt + 4000 ≤ s.tbase) && !b.fwd
  { s with tiles := s.tiles.map fun e => (e.1, { e.2 with stubs := e.2.stubs.filter fun b => !due b }) }

/-- The key that an admitted message takes, as its core reports it (R314): with the GVT that the core knows (DEDUCED, log entry 82). -/
def Item.willTake (m : Item) (gvt : Nat) : Key := { m.key with vrt := admitVrt gvt m.vrt.toNat }
/-- The keys that a core reports (R306): those of its queued and admitted items, its activations, its parked antimessages, and the least
that it has sent since it last changed colour. -/
def State.reportKey (s : State) (lc : Nat) : Option Key :=
  let c := s.lcore lc
  let item (m : Item) : Key := if m.admitted then m.willTake c.gvt else m.key
  let anti (f : Flit) : Option Key := match f.carry with | .anti k => some k | .antiReturn k _ => some k | _ => none
  let acts := (s.ctxs.filter fun e => e.2.alck = lc).map fun e => e.2.item.key
  ((c.items.map item ++ c.ring.map (·.key) ++ acts ++ c.antis.filterMap anti).map some ++ [c.leastSent]).foldl Key.least none
/-- A core may report: every commit entry that it issued at the previous delivery has been performed (R306). -/
def State.mayReport (s : State) (lc : Nat) : Bool :=
  let c := s.lcore lc
  !c.owed && c.commitQ.all fun e => !e.due
/-- The WARP part of a sweep (R306, R307): equal totals of the sweep's colour give a key minimum, which every core then owes a delivery; and
whether it delivers. -/
def State.sweepKeys (s : State) (kid : Nat) : Bool × State :=
  let k := s.kernelD kid
  let col := bit k.swColour
  let lcs := (s.lcores.filter fun e => lcKid e.1 = kid).map (·.2)
  let agree : Bool := decide (((lcs.map fun c => c.sentC.toList.getD col 0).sum : Nat) = (lcs.map fun c => c.recvC.toList.getD col 0).sum)
  let least := (s.lcsOf kid).foldl (fun m lc => Key.least m (s.reportKey lc)) none
  let maxV := lcs.foldl (fun m c => Nat.max m (c.maxHandled.getD 0)) 0
  let visited := (s.lcsOf kid).foldl (fun s lc => s.updLc lc fun c =>
    { c with colour := !k.swColour, leastSent := if c.colour = k.swColour then none else c.leastSent, owed := agree,
             items := c.items.map fun m => if m.admitted then { m with key := m.willTake c.gvt, reported := true } else m }) s
  (agree, visited.updK kid fun k => if agree then { k with kmin := (match least with | some x => .key x | none => .noKey), swColour := !k.swColour, maxVrt := maxV } else k)

/-- The decision of a sweep on the end of the launch (R281). -/
def State.sweepEnd (s : State) (kid : Nat) (voids : Bool) : State :=
  let k := s.kernelD kid
  let lcs := (s.lcores.filter fun e => lcKid e.1 = kid).map (·.2)
  let sent : Nat := (lcs.map fun c => c.sent).sum
  let recv : Nat := (lcs.map fun c => c.received).sum
  if voids || k.swVoid || !(s.lcsOf kid).all (fun lc => s.coreIdle lc) || decide (sent ≠ recv) then s.updK kid fun k => { k with swAgree := false, swVoid := false }
  else if k.swAgree ∧ k.swSent = sent ∧ k.swRecv = recv then s.endKernel kid 0
  else s.updK kid fun k => { k with swAgree := true, swSent := sent, swRecv := recv }

/-- SWEEP (R281) of kernel `ev.id`: it carries the largest clock value (R168), retires stubs, in a WARP kernel finds the key minimum, may complete a cut, and decides on the end. No
sweep runs while the kernel does not run, and none completes while its cores are stopped (R412). -/
def execSweep (s : State) : Host.Outcome State Fault Refusal :=
  let kid := s.ev.id
  let k := s.kernelD kid
  if !(decide (k.state = .running) && s.kernelRuns kid) then .next s
  else if k.warp && !(s.lcsOf kid).all (fun lc => s.mayReport lc) then .next s
  else
    let voids := s.bordersMove kid || s.hasStub kid
    let s1 := s.retireStubs kid
    let (delivers, s2) := if k.warp then s1.sweepKeys kid else (true, s1)
    .next (((s2.cutSweep kid delivers).sweepEnd kid voids).carryTmax)

end Sys2Proof.Machine
end

