-- ==== Sys2Proof/Machine/Bind.lean ====
section
/-! DEFINITION. Channel bindings, masks and priorities, bind records, and dispatch: which item starts the next activation, and its starting state (R103, R242-R248, R258, R279, R310, R319, R345, R443-R449). -/

namespace Sys2Proof.Machine

open Sys2Proof

/-! ## Waiting and priority (R244) -/

/-- A channel of a logical core is bound, and not masked. -/
def LCore.chanOn (c : LCore) (ch : Nat) : Bool := (decide (ch = 15) || (c.bindings.toList.getD ch {}).bound) && !c.mask.getLsbD ch
/-- The priority of a channel. -/
def LCore.chanPrio (c : LCore) (ch : Nat) : Nat := if ch = 15 then c.chan15Prio.toNat else (c.bindings.toList.getD ch {}).prio.toNat
/-- The time that an item has waited while its channel was bound and unmasked, given whether it is so now. -/
def Item.waited (m : Item) (now : Nat) (on : Bool) : Nat := m.agedNs + (if on then now - m.agedAt else 0)
/-- The waiting time so far is noted, before the channel's state changes. -/
def Item.age (m : Item) (now : Nat) (on : Bool) : Item := { m with agedNs := m.waited now on, agedAt := now, promo := m.waited now on / 1000000 }
/-- The waiting times of a core's items are noted. -/
def LCore.ageAll (c : LCore) (now : Nat) : LCore :=
  { c with items := c.items.map fun m => m.age now (c.chanOn m.chan), ring := c.ring.map fun m => m.age now (c.chanOn 15) }
/-- Effective priority of an item (R244). -/
def LCore.effective (c : LCore) (now : Nat) (m : Item) : Nat := c.chanPrio m.chan - m.waited now (c.chanOn m.chan) / 1000000

/-! ## BIND, CHPRI, CHMASK (R246-R248) -/

/-- The word of a binding. -/
def Binding.word (b : Binding) : Word := if b.bound then w64 (64 + b.prio.toNat * 16 + b.entry.toNat) else 0#64
/-- BIND (R246). -/
def execBind (d a b : Reg) (s : State) : Host.Outcome State Fault Refusal :=
  strandOp s (.bind d a b) fun id c =>
    let va := c.getG a
    let vb := c.getG b
    let un := vb.getLsbD 7
    if h : 14 < va.toNat then s.trap id cIllegal va
    else if bits vb 8 56 ≠ 0 ∨ (¬ un ∧ (s.kernelD c.kid).entries.toList.getD (bits vb 0 4) 0#64 = 0#64) then s.trap id cIllegal vb
    else
      let old := (s.lcore c.lck).bindings[va.toNat]
      let new : Binding := if un then { old with bound := false } else { bound := true, prio := BitVec.ofNat 2 (bits vb 4 2), entry := BitVec.ofNat 4 (bits vb 0 4) }
      let s1 := s.updLc c.lck fun l => let l1 := l.ageAll s.tbase
        { l1 with bindings := l1.bindings.set va.toNat new, unboundTold := if un then l1.unboundTold else l1.unboundTold &&& ~~~ BitVec.ofNat 16 (2 ^ va.toNat) }
      s1.finishG id d old.word 4
/-- CHPRI (R247). -/
def execChpri (a b : Reg) (s : State) : Host.Outcome State Fault Refusal :=
  strandOp s (.chpri a b) fun id c =>
    let va := c.getG a
    let vb := c.getG b
    if 15 < va.toNat then s.trap id cIllegal va
    else if 3 < vb.toNat then s.trap id cIllegal vb
    else
      (s.updLc c.lck fun l =>
        if h : va.toNat < 15 then { l with bindings := l.bindings.set va.toNat { l.bindings[va.toNat] with prio := vb.setWidth 2 } } else { l with chan15Prio := vb.setWidth 2 }).advance id 4
/-- CHMASK (R248). -/
def execChmask (d a : Reg) (s : State) : Host.Outcome State Fault Refusal :=
  strandOp s (.chmask d a) fun id c =>
    (s.updLc c.lck fun l => { l.ageAll s.tbase with mask := (c.getG a).setWidth 16 }).finishG id d ((s.lcore c.lck).mask.setWidth 64) 4

/-! ## Strand slots and bind records (R279) -/

/-- The tile of the logical core that an activation belongs to. -/
def State.homeTile (s : State) (c : Ctx) : Nat := (s.ltile (ltKey c.kid c.homeLt)).tile
/-- A context holds a strand slot: it is neither spilled nor switched out. -/
def Ctx.holdsSlot (c : Ctx) : Bool := !c.spilled && !c.switched
/-- The team of a context (R404): the bind record of its tile that gives its slot to its logical tile. -/
def State.teamNo (s : State) (c : Ctx) : Option Nat :=
  ((s.tile (s.homeTile c)).binds.toList.zipIdx.find? fun e =>
    e.1.valid && decide (e.1.kid = c.kid) && decide (e.1.lt = c.homeLt) && e.1.strands.getLsbD (4 * c.homeCore + c.strand.toNat)).map (·.2)
/-- The strand slot `s` of a tile's core is free. -/
def State.slotFree (s : State) (t core sl : Nat) : Bool :=
  s.ctxs.all fun e => !(e.2.holdsSlot && decide (s.homeTile e.2 = t) && decide (e.2.homeCore = core) && decide (e.2.strand.toNat = sl))
/-- The logical core that a bind record gives a core of its tile to, when the tile hosts the record's logical tile. -/
def State.recordLc (s : State) (t core : Nat) (b : BindRec) : Option Nat :=
  let lt := ltKey b.kid b.lt
  let x := s.ltile lt
  if b.valid && (s.kernel? b.kid).isSome && decide (b.lt < (s.kernelD b.kid).tiles) && decide (x.tile = t) && decide (x.j = b.j) then some (8 * lt + core) else none

/-- The items that a logical core offers for dispatch (R243, R258, R309): messages on bound, unmasked channels, and one ring task. -/
def LCore.offers (c : LCore) : List Item :=
  (c.items.filter fun m => c.chanOn m.chan && !m.admitted) ++ (if c.chanOn 15 then (if c.depthFirst then c.ring.getLast? else c.ring.head?).toList else [])
/-- Whether item `a` is taken before `b` (R243). -/
def LCore.before (c : LCore) (warp : Bool) (now : Nat) (a b : Item) : Bool :=
  let pa := c.effective now a
  let pb := c.effective now b
  if pa ≠ pb then decide (pa < pb)
  else if warp then a.key.lt b.key || (decide (a.key = b.key) && decide (a.chan < b.chan))
  else if a.arrived ≠ b.arrived then decide (a.arrived < b.arrived)
  else decide (a.chan < b.chan)
/-- The item whose key is the delivered key minimum. DEDUCED (log entry 83): it is given a strand wherever it stands in the ring, and on a masked channel too;
on a channel with no binding it has no handler to run (R243, R310). -/
def LCore.minItem (c : LCore) (warp : Bool) : Option Item :=
  if warp then (c.items ++ c.ring).find? fun m => c.kmin.is m.key && !m.admitted && (decide (m.chan = 15) || (c.bindings.toList.getD m.chan {}).bound) else none
/-- The item that the controller takes; the one with the delivered key minimum goes before all (R310). -/
def LCore.choose (c : LCore) (warp : Bool) (now : Nat) : Option Item :=
  match c.minItem warp with
  | some m => some m
  | none => c.offers.foldl (fun r m => match r with | none => some m | some x => if c.before warp now m x then some m else some x) none
/-- The item of the delivered key minimum waits at the logical core of a bind record; an eligible item waits there. -/
def State.holdsMin (s : State) (t core : Nat) (b : BindRec) : Bool :=
  match s.recordLc t core b with
  | some lc => ((s.lcore lc).minItem (s.isWarp (lcKid lc))).isSome
  | none => false
def State.eligible (s : State) (t core : Nat) (b : BindRec) : Bool :=
  s.holdsMin t core b || match s.recordLc t core b with
    | some lc => (s.lcore lc).offers ≠ []
    | none => false

/-- Dispatch may start an activation of the kernel's logical tile on the tile: the kernel and its gang run, the tile is not CEDING, and the
logical tile is not moving (R325, R328, R415, R449). -/
def State.mayDispatch (s : State) (t : Nat) (b : BindRec) : Bool :=
  let x := s.tile t
  decide (x.ts = .member) && (s.ltile (ltKey b.kid b.lt)).moving.isNone && decide ((s.kernelD b.kid).state = .running) && s.kernelRuns b.kid
    && (match x.leased with | some (p, till) => decide (till ≤ s.tbase) || decide (p = s.partOf b.kid) | none => true)
/-- When a slot was last given to a record, 0 for never. -/
def BindRec.givenAt (b : BindRec) (slot : Nat) : Nat := (mget slot b.lastGiven).elim 0 (· + 1)
/-- The record of a slot's next activation: one whose logical core holds the minimum's item (R310), then lowest PRIO, then least recently given (R279). -/
def State.pickRecord (s : State) (t core sl : Nat) : Option Nat :=
  let slot := 4 * core + sl
  let bs := (s.tile t).binds.toList.zipIdx.filter fun e => e.1.strands.getLsbD slot && s.mayDispatch t e.1 && s.eligible t core e.1
  let cs := if bs.any fun e => s.holdsMin t core e.1 then bs.filter fun e => s.holdsMin t core e.1
    else if bs.any fun e => !e.1.yields.contains slot then bs.filter fun e => !e.1.yields.contains slot else bs
  let better (a b : BindRec) : Bool := decide (a.prio.toNat < b.prio.toNat) || (decide (a.prio = b.prio) && decide (a.givenAt slot < b.givenAt slot))
  (cs.foldl (fun (r : Option (BindRec × Nat)) e => match r with | none => some e | some x => if better e.1 x.1 then some e else some x) none).map (·.2)
/-- The records after a slot is given to the record `i`: another record's unbroken hold ends. -/
def giveSlot (bs : Vector BindRec 16) (i slot now : Nat) : Vector BindRec 16 :=
  Vector.ofFn fun n =>
    let b := bs[n]
    if n.val = i then { b with lastGiven := mset slot now b.lastGiven, heldSince := if (mget slot b.heldSince).isSome then b.heldSince else mset slot now b.heldSince, yields := b.yields.filter (· ≠ slot) }
    else { b with heldSince := mdel slot b.heldSince, yields := b.yields.filter (· ≠ slot) }

/-! ## Starting an activation (R103, R345, R443, R448) -/

/-- FSUP at entry: the kernel's supervisor core, channel 14 (R96, R134). -/
def Kernel.fsup (k : Kernel) : Word := w64 (k.slt + k.score * 2 ^ 12 + 14 * 2 ^ 16)
/-- The context of a new activation (R103). DESIGN CHOICE (log entry 84): the spec says nothing of an activation's first fetches; they see every code word
as stores before its dispatch left it (`oldWords` is empty), as after a FENCE (R48). -/
def State.newCtx (s : State) (lc sl : Nat) (m : Item) (pc : Word) : Ctx :=
  let k := s.kernelD (lcKid lc)
  let g : Vector Word 32 := (((((((Vector.replicate 32 0#64).set 2 (w64 (k.s - 512 * (4 * lcCore lc + sl)))).set 3 m.p0).set 4 m.p1).set 5 m.p2).set 6 m.p3).set 7 m.vrt).set 8 m.src
  { id := s.nextId, kid := lcKid lc, lt := lcLt lc, core := lcCore lc, homeLt := lcLt lc, homeCore := lcCore lc, strand := BitVec.ofNat 2 sl, pc := pc, g := g, fsup := k.fsup,
    item := m, prio := BitVec.ofNat 2 ((s.lcore lc).chanPrio m.chan), workId := m.p0, entryAt := pc, startedAt := s.tbase, stamp := (s.clock (s.homeCore lc)).t,
    acq := m.stamp, ackd := m.stamp }
/-- The item leaves its channel or the ring, which turns breadth-first below 512 tasks (R258). -/
def LCore.takeItem (c : LCore) (m : Item) : LCore :=
  if m.chan = 15 then
    let r := c.ring.eraseP fun x => x = m
    { c with ring := r, depthFirst := c.depthFirst && decide (512 ≤ r.length) }
  else { c with items := c.items.eraseP fun x => x = m }

/-- A stage that starts takes over the copies, collectives and unreported refusals of the contexts that ran it, and what its engine work and its fences follow: of
every stage in coil form (R176, R189, R197, R350). -/
def State.adoptStage (s : State) (id : Nat) (ch : Chain) (i : Nat) (coil : Bool) : State :=
  let c := s.ctxD id
  let kid := c.kid
  let strand := c.strand.toNat
  let act := c.alck
  let mine (j : Nat) : Bool := coil || decide (j = i)
  let old := (ch.last.filter fun e => mine e.1).map (·.2)
  let lcs := ((List.range ch.nst).filter mine).map fun j => ch.lc kid j
  let s1 := lcs.foldl (fun s lc => s.updLc lc fun l =>
    { l with copies := l.copies.map (fun r => if old.contains r.ctx then { r with ctx := id, strand := strand, act := act } else r)
             colls := l.colls.map (fun r => if old.contains r.ctx then { r with ctx := id, strand := strand } else r) }) s
  let latest (v : Vector (BitVec 48) 8) (t : BitVec 48) : BitVec 48 := ((List.range ch.nst).filter mine).foldl (fun t j => serialMax t (v.toList.getD j t)) t
  (s1.upd id fun c => { c with acq := latest ch.acqs c.acq, ackd := latest ch.ackds c.ackd, nacks := c.nacks ++ (ch.nacks.filter fun e => mine e.1).map (·.2) }).updChain kid ch.num fun x =>
    { x with nacks := x.nacks.filter fun e => !mine e.1 }
/-- The registers of a chain's stage come from its frame, which becomes current (R343, R345, R349). Nothing when the keep log has no room yet. -/
def State.startStage (s : State) (id n i : Nat) (coil : Bool) : Option State :=
  let c := s.ctxD id
  match s.chain? c.kid n with
  | none => some s
  | some ch =>
    let lt := ch.lt c.kid i
    match s.engKeep c.alck lt (some c.item.key) (s.spec c) (ch.frame i + 304) 8 with
    | (.wait, _) => none
    | (.overflow, s1) => some (s1.trap id cCommitOverflow (w64 ((ch.frame i + 304) / 64 * 64)))
    | (.ok, s1) =>
      some (s1.areaGet id lt (ch.frame i) 312 fun s2 b => ((s2.areaStore id lt (ch.frame i + 304) (leBytes 8 2)).loadStage id ch i coil b).adoptStage id ch i coil)

/-- Counts, times and traces the start of an activation: the wait of a ring task and its slot's search (R448), the tile's mean wait (R319). -/
def State.countStart (s : State) (lc : Nat) (c : Ctx) : State :=
  let t := s.homeTile c
  let wait := s.tbase - c.item.arrived
  let s1 := s.count t c.kid 3 1
  let s2 := if c.item.chan = 15 then s1.count t c.kid 15 wait else s1
  let slot := c.strand.toNat
  let s3 := s2.count t c.kid 16 ((mget slot (s.lcore lc).idle).getD 0)
  let eff := (s.lcore lc).effective s.tbase c.item
  (((s3.updLc lc fun l => { l with idle := mdel slot l.idle }).updTile t fun x => { x with waitSum := x.waitSum + wait, waitCount := x.waitCount + 1 }).traceRecord t c.kid 1 c.strand.toNat
    c.homeCore c.item.chan c.workId (w64 (c.homeLt + c.homeCore * 2 ^ 12 + eff % 4 * 2 ^ 16)) c.item.src c.entryAt c.item.vrt 0#64 0#64)

/-- Time passes for the searches of a tile whose counters count them: for each strand slot that a record gives its kernel, which is free while the record's logical core has no
eligible item (R448). -/
def State.searchOn (s : State) (t dt : Nat) : State :=
  let slots := (s.tile t).binds.toList.flatMap fun b => ((List.range 32).filter fun n => b.strands.getLsbD n).map fun n => (b, n)
  slots.foldl (fun s1 e => match s.recordLc t (e.2 / 4) e.1 with
    | some lc =>
      if s.counts t e.1.kid 16 && s.slotFree t (e.2 / 4) (e.2 % 4) && !s.eligible t (e.2 / 4) e.1 then
        s1.updLc lc fun l => { l with idle := mset (e.2 % 4) ((mget (e.2 % 4) l.idle).getD 0 + dt) l.idle }
      else s1
    | none => s1) s
def State.search (s : State) (dt : Nat) : State :=
  (s.tiles.filter fun e => e.2.banks.toList.any Option.isSome).foldl (fun s e => s.searchOn e.1 dt) s

/-- A stage task has nothing to start: its chain is gone or in the other form, or the stage runs or has ended. -/
def State.staleTask (s : State) (kid n i : Nat) (coil : Bool) : Bool :=
  match s.chain? kid n with
  | some ch => ch.pending || (ch.coiled != coil) || decide (2 ≤ s.stageState kid ch i)
  | none => true
/-- An item of a logical core starts its activation on a strand slot, whose core's clock follows the item's (R103, R180); a coil strand waits until its chain's
logical tiles share a tile (R351), and a stage task with nothing to start is discarded. -/
def State.startItem (s0 : State) (lc sl : Nat) (m : Item) : Option State :=
  let s := s0.raiseT (s0.homeCore lc) m.stamp
  let k := s.kernelD (lcKid lc)
  let pc := m.entry.getD (k.entries.toList.getD ((s.lcore lc).bindings.toList.getD m.chan {}).entry.toNat 0#64)
  let c := { s.newCtx lc sl m pc with prio := BitVec.ofNat 2 ((s.lcore lc).chanPrio m.chan) }
  let s1 := s.countStart lc c
  let c1 := { c with item := { m with promo := (s.lcore lc).chanPrio m.chan - (s.lcore lc).effective s.tbase m } }
  let s2 : State := { s1.updLc lc fun l => l.takeItem m with ctxs := mset s.nextId c1 s1.ctxs, nextId := s.nextId + 1 }
  match m.stage with
  | none => some s2
  | some (n, i) =>
    let ready := match s.chain? (lcKid lc) n with | some ch => !m.coil || s.oneTile (lcKid lc) ((List.range ch.nst).map ch.at) | none => true
    if s.staleTask (lcKid lc) n i m.coil then some (s.updLc lc fun l => l.takeItem m) else if ready then s2.startStage s.nextId n i m.coil else none

/-- DISPATCH (R243, R279): the free strand slot `ev.slot` of core `ev.idx` of tile `ev.id` gets an activation. -/
def execDispatch (s : State) : Host.Outcome State Fault Refusal :=
  let t := s.ev.id
  let core := s.ev.idx
  let sl := s.ev.slot
  if 8 ≤ core ∨ 4 ≤ sl ∨ !s.slotFree t core sl ∨ (s.tile t).debugStops.getLsbD (4 * core + sl) then .next s
  else match s.pickRecord t core sl with
    | none => .next s
    | some i =>
      match s.recordLc t core ((s.tile t).binds.toList.getD i {}) with
      | none => .next s
      | some lc =>
        match (s.lcore lc).choose (s.isWarp (lcKid lc)) s.tbase with
        | none => .next s
        | some m =>
          match s.startItem lc sl m with
          | none => .next s
          | some s1 => .next (s1.updTile t fun x => { x with binds := giveSlot x.binds i (4 * core + sl) s.tbase })

/-- PRIORITY_PROMOTION (R244): the promotions of logical core `ev.id`'s items are brought up to date. -/
def execPriorityPromotion (s : State) : Host.Outcome State Fault Refusal :=
  match mget s.ev.id s.lcores with
  | none => .next s
  | some _ => .next (s.updLc s.ev.id fun c => c.ageAll s.tbase)

/-- SLICE_EXPIRY (R279): the record `ev.idx` of tile `ev.id` has held the slot `ev.slot` for its SLICE; it gives it up at the next DONE. -/
def execSliceExpiry (s : State) : Host.Outcome State Fault Refusal :=
  let b := (s.tile s.ev.id).binds.toList.getD s.ev.idx {}
  match mget s.ev.slot b.heldSince with
  | some a =>
    if b.valid ∧ b.slice ≠ 0#32 ∧ a + b.slice.toNat ≤ s.tbase ∧ !b.yields.contains s.ev.slot then
      .next (s.updTile s.ev.id fun x => { x with binds := Vector.ofFn fun n => if n.val = s.ev.idx then { x.binds[n] with yields := s.ev.slot :: x.binds[n].yields } else x.binds[n] })
    else .next s
  | none => .next s

/-- A bind record of its two words. -/
def bindRecOf (w0 w1 : Word) : BindRec :=
  { kid := bits w0 58 6, j := bits w0 56 2, lt := bits w0 44 12, prio := BitVec.ofNat 2 (bits w0 42 2), valid := w0.getLsbD 41, strands := w0.setWidth 32, slice := w1.setWidth 32 }
/-- BIND_RECORD_WRITE (R279): firmware writes `ev.w0` and `ev.w1` to the record `ev.idx` of tile `ev.id`. -/
def execBindRecordWrite (s : State) : Host.Outcome State Fault Refusal :=
  let t := s.ev.id
  if h : s.ev.idx < 16 then
    if 1024 ≤ t then .next s
    else
      let b := bindRecOf s.ev.w0 s.ev.w1
      .next (s.updTile t fun x => { x with binds := x.binds.set s.ev.idx b })
  else .next s

end Sys2Proof.Machine
end

