-- ==== Sys2Proof/Machine/Codelet.lean ====
section
/-! DEFINITION. Tasks and codelets: SPAWN, CALLAT, RETV, codelet records and their updates, and steals (R258-R268). -/

namespace Sys2Proof.Machine

open Sys2Proof

/-! ## Tasks and calls (R260-R262) -/

/-- SPAWN (R260): a task for the issuing logical core's ring, sent and received there. -/
def execSpawn (a : Reg) (s : State) : Host.Outcome State Fault Refusal :=
  strandOp s (.spawn a) fun id c =>
    let i : Instr := .spawn a
    let v := s.sendVrt c
    if 27 < a.toNat then s.trap id cIllegal (a.setWidth 64)
    else if !vrtOk v then s.trap id cIllegal (w64 v)
    else if !s.ringRoom c.lck then s.park id i .ringSpace
    else s.emitRoom id i true (localDest c.lt c.core 15) fun s1 =>
      let seq := s1.seqNext c
      let key := c.sendKey v seq
      let warp := s.isWarp c.kid
      let m : Item := { chan := 15, p0 := c.getG (a + 1#5), p1 := c.getG (a + 2#5), p2 := c.getG (a + 3#5), p3 := c.getG (a + 4#5), vrt := w64 v, src := s1.sendSrc c 15 seq, key := key,
                        entry := some (c.getG a), colour := (s1.lcore c.lck).colour, arrived := s.tbase, agedAt := s.tbase,
                        stamp := (s.clock (s.coreNo c)).t }
      let s2 := if warp then s1.updLc c.alck fun l => { l with outLog := l.outLog ++ [{ by_ := c.item.key, hdr := mkHdr s.device.toNat 0 c.kid c.lt c.core 15 0 false false 0, key := key, rto := none }] } else s1
      let s3 := (s2.takeSeq id).updLc c.lck fun l => (l.countSent true warp (some key)).countReceived warp true l.colour
      let t := s.tileOf c
      (((s3.count t c.kid 4 1).count t c.kid 5 1).receiveTask c.lck m).advance id 4

/-- CALLAT (R261): a call to the ring of the target word's core; with D ≠ 0 gD waits for the return. -/
def execCallat (d a b : Reg) (s : State) : Host.Outcome State Fault Refusal :=
  strandOp s (.callat d a b) fun id c =>
    let i : Instr := .callat d a b
    let w := c.getG b
    let v := s.sendVrt c
    let rch := bits w 16 4
    if 27 < a.toNat then s.trap id cIllegal (a.setWidth 64)
    else if bits w 20 44 ≠ 0 ∨ w.getLsbD 15 ∨ rch = 15 ∨ (s.kernelD c.kid).tiles ≤ bits w 0 12 then s.trap id cIllegal w
    else if !vrtOk v then s.trap id cIllegal (w64 v)
    else if !s.sendOk c then s.park id i .sendSpace
    else s.emitRoom id i true (localDest (bits w 0 12) (bits w 12 3) 15) fun s1 =>
      let seq := s1.seqNext c
      let ret : RetTo := if d = 0#5 then .channel c.lck rch c.item.vrt else .pendReg id d c.calls
      let m : Outgoing := { dev := s.device.toNat, kid := c.kid, lt := bits w 0 12, core := bits w 12 3, chan := 15, vrt := v, p0 := c.getG (a + 1#5), p1 := c.getG (a + 2#5), p2 := c.getG (a + 3#5), p3 := c.getG (a + 4#5), carry := fun k => .call k (c.getG a) (some ret) none }
      (((s1.takeSeq id).emit id m seq).upd id fun c => { c with calls := c.calls + 1, pend := if d = 0#5 then c.pend else c.pend ++ [{ ctx := id, d := d, isCall := true, ref := c.calls }] }).advance id 4

/-- RETV (R262): the value goes to the caller's pending register or channel, or lets a strand go on after its exception message. -/
def execRetv (a : Reg) (s : State) : Host.Outcome State Fault Refusal :=
  strandOp s (.retv a) fun id c =>
    let i : Instr := .retv a
    let warp := s.isWarp c.kid
    match (if c.returned then none else c.item.ret) with
    | none => s.trap id cIllegal 0#64
    | some r =>
      let (lt, core, ch) : Nat × Nat × Nat := match r with | .channel lc ch _ => (lcLt lc, lcCore lc, ch) | _ => (srcLt c.item.src, srcCore c.item.src, 15)
      let v : Nat := if warp then s.sendVrt c else match r with | .channel _ _ x => x.toNat | _ => c.item.vrt.toNat
      if !vrtOk v then s.trap id cIllegal (w64 v)
      else if !s.sendOk c then s.park id i .sendSpace
      else s.emitRoom id i true (localDest lt core ch) fun s1 =>
        let seq := s1.seqNext c
        let m : Outgoing := { dev := s.device.toNat, kid := c.kid, lt := lt, core := core, chan := ch, vrt := v, p0 := c.getG a, p1 := 0#64, p2 := 0#64, p3 := 0#64, carry := fun k => .retval k r, rto := some r }
        (((s1.takeSeq id).emit id m seq).upd id fun c => { c with returned := true }).advance id 4

/-! ## Codelets (R263-R267) -/

/-- Fields of a handle (R263). -/
def clLt (h : Word) : Nat := bits h 0 12
def clCore (h : Word) : Nat := bits h 12 3
def clOff (h : Word) : Nat := bits h 16 20
/-- 64 bytes at a scratch offset lie wholly inside a keep region of a logical tile. -/
def LTile.inKeep (x : LTile) (off : Nat) : Bool :=
  x.keeps.toList.any fun r => match r with | some (o, n) => decide (o ≤ off) && decide (off + 64 ≤ o + n) | none => false
/-- The handle names a record of the kernel (R265). -/
def State.handleOk (s : State) (kid : Nat) (h : Word) : Bool :=
  decide (bits h 36 28 = 0) && !h.getLsbD 15 && decide (clLt h < (s.kernelD kid).tiles) && decide (clOff h % 64 = 0) && decide (clOff h + 64 ≤ (s.kernelD kid).s)
    && (s.ltile (ltKey kid (clLt h))).inKeep (clOff h)

/-- CLNEW (R264). -/
def execClnew (d a b : Reg) (s : State) : Host.Outcome State Fault Refusal :=
  strandOp s (.clnew d a b) fun id c =>
    let i : Instr := .clnew d a b
    let va := c.getG a
    if s.isWarp c.kid then s.trap id cIllegal 0#64
    else if va.toNat % 64 ≠ 0 then s.trap id cMisalign va
    else if s.sOf c ≤ va.toNat then s.trap id cPagePerm va
    else if !(s.ltile c.ltk).inKeep va.toNat then s.trap id cIllegal va
    else
      s.storeAll id i [(va.toNat, leBytes 8 (2 ^ 62)), (va.toNat + 8, leBytes 8 (c.getG b).toNat), (va.toNat + 48, leBytes 8 1)] fun s1 =>
        let s2 := ((s1.dropCodelets c.ltk va.toNat 64).scratchStore (s1.coreNo c) c.ltk (va.toNat + 56) (leBytes 8 0)).2
        (s2.updLt c.ltk fun x => { x with codelets := va.toNat :: x.codelets }).finishG id d (w64 (c.lt + c.core * 2 ^ 12 + va.toNat * 2 ^ 16)) 4

/-- Sends an update to the record that a handle names (R265). -/
def State.clSend (s : State) (id : Nat) (i : Instr) (h : Word) (publish : Option Word) : State :=
  let c := s.ctxD id
  if !s.retxRoom c.lck then s.park id i .sendSpace
  else
    let s1 := s.updLc c.lck fun l => (l.countSent true false none).countCut
    let hdr := mkHdr s.device.toNat (s.partOf c.kid) c.kid (clLt h) (clCore h) 0 6 (s.lcore c.lck).colour (s.lcore c.lck).cutFlag 0
    ((s1.launchFlit c.lck (mkFlit hdr 0#64 (srcWord 0 s.device.toNat c.kid 0 c.sendStrand c.core c.lt) h (publish.getD 0#64) 0#64 0#64 (.codelet h publish) (.codelet id)) (some (s.coreNo c))).count (s.tileOf c) c.kid 4 1).advance id 4
/-- CLPUB (R265). -/
def execClpub (a b : Reg) (s : State) : Host.Outcome State Fault Refusal :=
  strandOp s (.clpub a b) fun id c =>
    if s.isWarp c.kid then s.trap id cIllegal 0#64
    else if 2 ^ 40 < (c.getG b).toNat then s.trap id cIllegal (c.getG b)
    else s.clSend id (.clpub a b) (c.getG a) (some (c.getG b))
/-- CLDEC (R265). -/
def execCldec (a : Reg) (s : State) : Host.Outcome State Fault Refusal :=
  strandOp s (.cldec a) fun id c => if s.isWarp c.kid then s.trap id cIllegal 0#64 else s.clSend id (.cldec a) (c.getG a) none

/-- COUNT and the STATE word of a record after an update, and whether it fires (R265, R267). -/
def clUpdate (count state : Nat) (publish : Option Word) : Nat × Nat × Bool :=
  let st := state % 4
  let late := state / 2 ^ 16 % 2 ^ 16
  let stateWord (st : Nat) : Nat := st + late * 2 ^ 16
  let more : Nat := st + Nat.min (late + 1) 65535 * 2 ^ 16
  match publish with
  | some n =>
    if st = 1 then
      let c := (count + n.toNat + 2 ^ 64 - 2 ^ 62) % 2 ^ 64
      if c = 0 then (c, stateWord 3, true) else (c, stateWord 2, false)
    else (count, more, false)
  | none =>
    if st = 1 ∨ st = 2 then
      let c := (count + 2 ^ 64 - 1) % 2 ^ 64
      if st = 2 ∧ c = 0 then (c, stateWord 3, true) else (c, stateWord st, false)
    else (count, more, false)

/-- The task of a fired codelet; its source word names the record's owner (R265, notes/assumptions/14.md), and its activation is placed after the updates (R266). -/
def State.clTask (s : State) (kid : Nat) (h : Word) (lt : Nat) (stamp : BitVec 48) : Item :=
  let off := clOff h
  let f (o : Nat) : Word := w64 (leNat (s.scratchBytes lt (off + o) 8))
  { chan := 15, p0 := f 16, p1 := f 24, p2 := f 32, p3 := f 40, vrt := 0#64, src := srcWord 0 s.device.toNat kid 15 0 (clCore h) (clLt h), entry := some (f 8), arrived := s.tbase, agedAt := s.tbase,
    stamp := stamp }
/-- The update of a record, and whether it fires. -/
def State.clFires (s : State) (lt : Nat) (h : Word) (publish : Option Word) : Nat × Nat × Bool :=
  clUpdate (leNat (s.scratchBytes lt (clOff h) 8)) (leNat (s.scratchBytes lt (clOff h + 48) 8)) publish
/-- The update at the record's home: one single-copy-atomic access, and the task of a record that fires (R265, R266). -/
def State.clApply (s : State) (f : Flit) (h : Word) (publish : Option Word) : State :=
  let lt := f.lck / 8
  let off := clOff h
  let cn := engineCore (s.ltile lt).tile
  let (c, st, fire) := s.clFires lt h publish
  let s1 := (((s.stampAtomic cn (scratchLine lt off) true).2).scratchPut lt off (leBytes 8 c)).scratchPut lt (off + 48) (leBytes 8 st)
  if fire then (s1.updLc f.lck fun l => (l.countSent true false none).countReceived false true false).pushTask f.lck (s1.clTask f.kid h lt (s1.clock cn).t)
  else s1
/-- CODELET_UPDATE (R265): the arrived flit `ev.id` updates its record, or its handle is refused. An update that fires waits for room in the
owner's ring. -/
def execCodeletUpdate (s : State) : Host.Outcome State Fault Refusal :=
  match s.arrival? s.ev.id with
  | none => .next s
  | some f =>
    match f.carry with
    | .codelet h publish =>
      let took := ((s.accept f).updLc f.lck fun c => c.countReceived false true false).count (s.ltile (f.lck / 8)).tile f.kid 5 1
      .next (s.gate f (
        if !s.handleOk f.kid h then (took.noteAnswer f true none).reply f 5 h (.nack f.fid h)
        else if s.ringRoom f.lck || !(s.clFires (f.lck / 8) h publish).2.2 then (took.clApply f h publish).reply f 4 0#64 (.ack f.fid none)
        else s))
    | _ => .next s

/-! ## Steals (R259) -/

/-- The victims of a core, in rotation: the other cores of its logical tile, then the cores of the kernel's logical tiles on the four
neighbours of its tile. -/
def State.victims (s : State) (lc : Nat) : List Nat :=
  let lt := lc / 8
  let near := (neighbours (s.ltile lt).tile).flatMap fun e => (s.ltsOf (lcKid lc)).filter fun l => decide (l ≠ lt) && decide ((s.ltile l).tile = e.2)
  ((List.range 8).map fun i => 8 * lt + i).filter (· ≠ lc) ++ near.flatMap fun l => (List.range 8).map fun i => 8 * l + i
/-- A free strand slot that a bind record gives to the logical core. -/
def State.freeStrand (s : State) (lc : Nat) : Bool :=
  let t := (s.ltile (lc / 8)).tile
  (List.range 4).any fun sl => s.slotFree t (lcCore lc) sl && (s.tile t).binds.toList.any fun b => b.strands.getLsbD (4 * lcCore lc + sl) && decide (s.recordLc t (lcCore lc) b = some lc)
/-- One steal attempt of a logical core. DEDUCED (log entry 85): the task of a chain's stage belongs to the stage's placement (R345, R353) and is not given; the victim gives
its oldest other task. -/
def State.steal (s : State) (lc : Nat) : State :=
  let vs := s.victims lc
  let v := vs.getD ((s.lcore lc).stealFrom % Nat.max 1 vs.length) lc
  let s1 := s.updLc lc fun c => { c with stealFrom := (c.stealFrom + 1) % Nat.max 1 vs.length }
  match (s.lcore v).ring.find? fun m => m.stage.isNone with
  | some m =>
    if (s.lcore v).mask.getLsbD 15 || decide ((s.lcore v).ring.length < 2) then s1.count (s.ltile (lc / 8)).tile (lcKid lc) 14 1
    else (s1.updLc v fun c => c.takeItem m).pushTask lc (m.age s.tbase ((s.lcore v).chanOn 15))
  | none => s1.count (s.ltile (lc / 8)).tile (lcKid lc) 14 1
/-- STEAL_ATTEMPT (R259) by logical core `ev.id`. -/
def execStealAttempt (s : State) : Host.Outcome State Fault Refusal :=
  let lc := s.ev.id
  let k := s.kernelD (lcKid lc)
  if !k.warp ∧ k.state = .running ∧ s.kernelRuns (lcKid lc) ∧ lcLt lc < k.tiles ∧ (s.lcore lc).ring = [] ∧ !(s.lcore lc).mask.getLsbD 15 ∧ s.freeStrand lc then .next (s.steal lc)
  else .next s

end Sys2Proof.Machine
end

