-- ==== Sys2Proof/Machine/Acks.lean ====
section
/-! DEFINITION. Acknowledgements, refusals and returned values as they reach the issuer of a put-path access, a copy unit or a codelet update (R177, R196-R198, R209, R265). -/

namespace Sys2Proof.Machine

open Sys2Proof

/-- The stage, or stages, that a context which is gone has run. -/
def State.updGone (s : State) (kid id : Nat) (f : Chain → Nat → Chain) : State :=
  match s.stageWas kid id with
  | some (ch, i) => s.updChain kid ch.num fun x => f x i
  | none => s
/-- A fence of the strand orders what follows it after an access whose reply carries the place `t`; of a context that is gone, a fence of its stage does (R176, R189,
R350). -/
def State.noteAck (s : State) (kid id : Nat) (t : BitVec 48) : State :=
  if (s.ctx? id).isSome then s.upd id fun c => { c with ackd := serialMax c.ackd t }
  else s.updGone kid id fun x i => { x with ackds := Vector.ofFn fun j => if j.val = i then serialMax x.ackds[j] t else x.ackds[j] }
/-- A strand's put is no longer outstanding; of a context that is gone, its chain's (R350). -/
def State.putBack (s : State) (kid id : Nat) : State :=
  if (s.ctx? id).isSome then s.upd id fun c => { c with puts := c.puts - 1 } else s.updGone kid id fun x _ => { x with owed := x.owed - 1 }
/-- A refusal that a strand, or the stage that it has run, has to report (R197). -/
def State.noteNack (s : State) (kid id : Nat) (addr : Word) : State :=
  if (s.ctx? id).isSome then s.upd id fun c => { c with nacks := c.nacks ++ [addr] } else s.updGone kid id fun x i => { x with nacks := x.nacks ++ [(i, addr)] }
/-- An item that its own kernel has discarded counts as received at its sender (R268, R278, R280). -/
def LCore.lostWithin (c : LCore) (warp : Bool) (f : Flit) : LCore :=
  let c1 := c.countReceived warp true f.colour
  if f.cut then c1 else { c1 with cutRecv := c1.cutRecv + 1 }

/-- The acknowledgement of a write reaches its issuer (R177, R189, R209, R299). -/
def State.takeAck (s : State) (f : Flit) (of_ : Nat) : State :=
  let s1 := (s.dropArrival f.fid).dropRetx f.lck of_
  match f.issuer with
  | .strandPut id => (s1.noteAck f.kid id f.stamp).putBack f.kid id
  | .commit lc n _ => s1.commitBack lc n
  | .copyUnit lc slot u => (s1.raiseT (s1.engineOf lc) f.stamp).copyReply lc slot u of_ (some none)
  | _ => s1
/-- PUT_ACKNOWLEDGEMENT (R177): `ev.id` names the arrived acknowledgement, which carries no value. -/
def execPutAcknowledgement (s : State) : Host.Outcome State Fault Refusal :=
  match s.arrival? s.ev.id with
  | none => .next s
  | some f =>
    match f.carry with
    | .ack of_ none => .next (s.takeAck f of_)
    | _ => .next s

/-- A value that was read remotely reaches its issuer: it is written to the pending register, or to the copy's destination (R197, R207). -/
def State.takeValue (s : State) (f : Flit) (of_ : Nat) (v : Word) : State :=
  let s1 := (s.dropArrival f.fid).dropRetx f.lck of_
  match f.issuer with
  | .strandRld id _ => ((s1.noteAck f.kid id f.stamp).settlePend f.kid id of_ false v).getD s1
  | .copyUnit lc slot u => (s1.raiseT (s1.engineOf lc) f.stamp).copyReply lc slot u of_ (some (some v))
  | _ => s1
/-- RLD_RETURN (R197): `ev.id` names the arrived acknowledgement, which carries a value. -/
def execRldReturn (s : State) : Host.Outcome State Fault Refusal :=
  match s.arrival? s.ev.id with
  | none => .next s
  | some f =>
    match f.carry with
    | .ack of_ (some v) => .next (s.takeValue f of_ v)
    | _ => .next s

/-- The refusal of an access reaches its issuer: a strand keeps its address to report, an RLD's register is written 0, a commit entry's is
told to the supervisor, a copy's is its error NACK (R197, R198, R209, R265). DESIGN CHOICE (log entry 87): one whose activation has ended, as a WARP activation's
may have, is reported by nobody, since R197 names no point after its DONE. -/
def State.takeNack (s : State) (f : Flit) (of_ : Nat) (addr : Word) : State :=
  let s1 := (s.dropArrival f.fid).dropRetx f.lck of_
  match f.issuer with
  | .strandPut id => (s1.putBack f.kid id).noteNack f.kid id addr
  | .strandRld id _ => s1.refusePend f.kid id of_ addr
  | .commit lc n vrt => (s1.unitTrap lc cWindowNack addr vrt).commitBack lc n
  | .copyUnit lc slot u => s1.copyReply lc slot u of_ none
  | .codelet id =>
    let s2 := match (s.lcore f.lck).retx.find? fun g => g.fid = of_ with
      | some o => if (s.kernelD f.kid).tiles ≤ clLt addr then s1.updLc f.lck fun c => c.lostWithin (s.isWarp f.kid) o else s1
      | none => s1
    s2.noteNack f.kid id addr
  | _ => s1
/-- NEGATIVE_ACKNOWLEDGEMENT (R197): `ev.id` names the arrived refusal. -/
def execNegativeAcknowledgement (s : State) : Host.Outcome State Fault Refusal :=
  match s.arrival? s.ev.id with
  | none => .next s
  | some f =>
    match f.carry with
    | .nack of_ addr => .next (s.takeNack f of_ addr)
    | _ => .next s

end Sys2Proof.Machine
end

