-- ==== Sys2Proof/Machine/Atomic.lean ====
section
/-! DEFINITION. The atomics (R182-R186). -/

namespace Sys2Proof.Machine

open Sys2Proof

/-! ## Shared operations (R183-R186) -/

/-- The operand of an atomic: the low bits of gB, or the pair for Q (R182). -/
def amoOperand (c : Ctx) (r : Reg) (sz : Sz) : Nat :=
  match sz with
  | .q => (c.getG r).toNat + 2 ^ 64 * (c.getG (r + 1#5)).toNat
  | z => (c.getG r).toNat % 2 ^ (8 * szBytes z)

/-- The result of an atomic goes to gD, or the pair for Q; with D = 0 the whole pair is discarded (R183). -/
def Ctx.setAmo (c : Ctx) (d : Reg) (sz : Sz) (old : Nat) : Ctx :=
  match sz with
  | .q => if d = 0#5 then c else c.setPair d (loHalf old) (hiHalf old)
  | _ => c.setG d (w64 old)

/-- An atomic that writes f of the old value and its operand (R183). -/
def State.amo (s : State) (id : Nat) (i : Instr) (d a b : Reg) (sz : Sz) (f : Nat → Nat → Nat → Nat) : State :=
  let c := s.ctxD id
  let v := amoOperand c b sz
  let w := 8 * szBytes sz
  s.atomic id i (c.getG a).toNat (szBytes sz) (fun old => some (f w old v % 2 ^ w)) fun s1 old =>
    s1.upd id fun c => (c.setAmo d sz old).retired (c.pc + 4#64)

/-- The smaller and larger as INTw and as UINTw (R183). -/
def minSN (w x y : Nat) : Nat := if intOf w y < intOf w x then y else x
def maxSN (w x y : Nat) : Nat := if intOf w x < intOf w y then y else x

/-! ## Meanings -/

/-- AMOADD (R182, R183). -/
def execAmoadd (d a b : Reg) (sz : Sz) (s : State) : Host.Outcome State Fault Refusal :=
  strandOp s (.amoadd d a b sz) fun id _ => s.amo id (.amoadd d a b sz) d a b sz (fun _ x y => x + y)
/-- AMOSWAP (R182, R183). -/
def execAmoswap (d a b : Reg) (sz : Sz) (s : State) : Host.Outcome State Fault Refusal :=
  strandOp s (.amoswap d a b sz) fun id _ => s.amo id (.amoswap d a b sz) d a b sz (fun _ _ y => y)
/-- AMOAND (R182, R183). -/
def execAmoand (d a b : Reg) (sz : Sz) (s : State) : Host.Outcome State Fault Refusal :=
  strandOp s (.amoand d a b sz) fun id _ => s.amo id (.amoand d a b sz) d a b sz (fun _ x y => x &&& y)
/-- AMOOR (R182, R183). -/
def execAmoor (d a b : Reg) (sz : Sz) (s : State) : Host.Outcome State Fault Refusal :=
  strandOp s (.amoor d a b sz) fun id _ => s.amo id (.amoor d a b sz) d a b sz (fun _ x y => x ||| y)
/-- AMOXOR (R182, R183). -/
def execAmoxor (d a b : Reg) (sz : Sz) (s : State) : Host.Outcome State Fault Refusal :=
  strandOp s (.amoxor d a b sz) fun id _ => s.amo id (.amoxor d a b sz) d a b sz (fun _ x y => x ^^^ y)
/-- AMOMIN (R182, R183). -/
def execAmomin (d a b : Reg) (sz : Sz) (s : State) : Host.Outcome State Fault Refusal :=
  strandOp s (.amomin d a b sz) fun id _ => s.amo id (.amomin d a b sz) d a b sz (minSN)
/-- AMOMAX (R182, R183). -/
def execAmomax (d a b : Reg) (sz : Sz) (s : State) : Host.Outcome State Fault Refusal :=
  strandOp s (.amomax d a b sz) fun id _ => s.amo id (.amomax d a b sz) d a b sz (maxSN)
/-- AMOMINU (R182, R183). -/
def execAmominu (d a b : Reg) (sz : Sz) (s : State) : Host.Outcome State Fault Refusal :=
  strandOp s (.amominu d a b sz) fun id _ => s.amo id (.amominu d a b sz) d a b sz (fun _ x y => Nat.min x y)
/-- AMOMAXU (R182, R183). -/
def execAmomaxu (d a b : Reg) (sz : Sz) (s : State) : Host.Outcome State Fault Refusal :=
  strandOp s (.amomaxu d a b sz) fun id _ => s.amo id (.amomaxu d a b sz) d a b sz (fun _ x y => Nat.max x y)
/-- CAS (R184). DEDUCED (log entry 78): the compare is over the w bits at EA, gD's bits above them playing no part, as R183 reads gB. -/
def execCas (d a b : Reg) (sz : Sz) (s : State) : Host.Outcome State Fault Refusal :=
  strandOp s (.cas d a b sz) fun id c =>
    let cmp := amoOperand c d sz
    let new := amoOperand c b sz
    s.atomic id (.cas d a b sz) (c.getG a).toNat (szBytes sz) (fun old => if old = cmp then some new else none) fun s1 old =>
      s1.upd id fun c => (c.setAmo d sz old).retired (c.pc + 4#64)
/-- The sum that FAMOADD stores, and its flags (R186). -/
def famoSum (et : ET) (md : RM) (sat : Bool) (old v : Nat) : Nat × BitVec 5 :=
  let (x, f) := addNum md (numOf et old) (numOf et v)
  let (r, g) := roundNum et md sat false x
  (r, f ||| g)
/-- FAMOADD (R186). -/
def execFamoadd (d a b : Reg) (rm : RM) (et : ET) (s : State) : Host.Outcome State Fault Refusal :=
  strandOp s (.famoadd d a b rm et) fun id c =>
    let i : Instr := .famoadd d a b rm et
    let n := et.width / 8
    let md := modeOf rm c.sample
    let v := (c.getG b).toNat % 2 ^ et.width
    let sum := famoSum et md (satOf c.sample)
    s.atomicPre id i (c.getG a).toNat n (fun old => some (sum old v).1) (fun s1 old k => s1.flagsRoom id i (sum old v).2 k) fun s1 old =>
      s1.finishFlags id i 4 (sum old v).2 fun s2 k => k (s2.upd id fun c => c.setG d (w64 old))

end Sys2Proof.Machine
end

