-- ==== Sys2Proof/Machine/Matrix.lean ====
section
/-! DEFINITION. The matrix unit: its ownership and queue, the checks and the ten commands of its sequencer, gangs, the core instructions on it, and the format windows (R91-R94, R128, R213-R241). -/

namespace Sys2Proof.Machine

open Sys2Proof

/-! ## The record (R217, R218) -/

def MuRec.cmd (r : MuRec) : Nat := bits r.w0 0 4
def MuRec.rm (r : MuRec) : Nat := bits r.w0 4 3
def MuRec.sat (r : MuRec) : Bool := r.w0.getLsbD 7
def MuRec.int (r : MuRec) : Bool := r.w0.getLsbD 8
/-- N of an N-of-16 sparse B block. -/
def MuRec.n (r : MuRec) : Nat := if r.w0.getLsbD 9 then 8 else 4
def MuRec.tk (r : MuRec) : Bool := r.w0.getLsbD 11
def MuRec.ty (r : MuRec) : Nat := bits r.w0 12 3
def MuRec.roleB (r : MuRec) : Bool := r.w0.getLsbD 15
def MuRec.pa (r : MuRec) : Nat := bits r.w0 16 4 + 1
def MuRec.pb (r : MuRec) : Nat := bits r.w0 20 4 + 1
def MuRec.kb (r : MuRec) : Nat := bits r.w0 24 8 + 1
/-- The low and the high field of an address word. -/
def lowF (w : Word) : Nat := bits w 0 20
def highF (w : Word) : Nat := bits w 32 20
/-- Bytes of the command's element type. -/
def MuRec.esize (r : MuRec) : Nat := elemSize r.tk r.ty
/-- The rounding mode of a command (R81, R217). -/
def MuRec.mode (r : MuRec) : RM :=
  modeOf (match r.rm with | 0 => .rne | 1 => .rtz | 2 => .rdn | 3 => .rup | 4 => .rna | _ => .dyn) r.frm
/-- MSCL of MPACK: word 3's low half. -/
def MuRec.scl (r : MuRec) : Nat := bits r.w3 0 32

/-- Bytes of a sparse B block (R221). -/
def sparseBytes (n p : Nat) : Nat := (32 * n * (p + 4) + 5 + 63) / 64 * 64

/-- The bits of word 0 that a command uses (R217), and of words 1 to 3 (R218). -/
def MuRec.used (r : MuRec) : Nat × Nat × Nat × Nat :=
  let both := 0xFFFFF000FFFFF
  let low := 0xFFFFF
  match r.cmd with
  | 1 => (0xFFFF017F + bit r.int * 0x80, both, both, both)
  | 2 => (0xFFFF037F + bit r.int * 0x80, both, both, both)
  | 4 => (0xF, both, 0, 0)
  | 5 => (0x787F + bit r.tk * 0x80, both, 0, 0)
  | 6 => (0xFF87F, both, low, 0xFFFFFFFF)
  | 7 => (0xFF87F + bit r.tk * 0x80, low, both, 0)
  | 8 => (0xF, low, 2 ^ 64 - 1, 0)
  | _ => (0xF, 0, 0, 0)
/-- A word has a bit outside a mask. -/
def outside (w : Word) (mask : Nat) : Bool := decide (w &&& ~~~(w64 mask) ≠ 0#64)

/-- The limits on fields that R219's step 1 checks with the codes: strides that are too small. -/
def MuRec.limits (r : MuRec) : Bool :=
  match r.cmd with
  | 4 => decide (128 ≤ highF r.w1)
  | 5 => decide (32 * r.esize ≤ highF r.w1)
  | 7 => decide ((if r.roleB then 32 else 128) * r.esize ≤ highF r.w2)
  | _ => true
/-- R219's step 1 passes. -/
def MuRec.legal (r : MuRec) : Bool :=
  let u := r.used
  decide (r.cmd ≤ 9) && !outside r.w0 u.1 && !outside r.w1 u.2.1 && !outside r.w2 u.2.2.1 && !outside r.w3 u.2.2.2
    && decide (r.w4 = 0#64) && decide (r.w5 = 0#64) && decide (r.w6 = 0#64) && decide (r.w7 = 0#64)
    && decide (r.rm ≠ 5) && decide (r.rm ≠ 6)
    && (decide (r.cmd < 5) || decide (7 < r.cmd) || (if r.tk then decide (r.ty ≤ 2) else decide (r.ty ≤ 4)))
    && r.limits
/-- The values that R219's step 2 checks, with their alignments. -/
def MuRec.aligns (r : MuRec) : List (Nat × Nat) :=
  let a := lowF r.w1
  let b := highF r.w1
  let c := lowF r.w2
  let d := highF r.w2
  match r.cmd with
  | 1 => [a, b, c, d, lowF r.w3, highF r.w3].map fun x => (x, 64)
  | 2 => [a, b, c, d, lowF r.w3, highF r.w3].map fun x => (x, 64)
  | 4 => [(a, 16), (b, 16)]
  | 5 => [(a, 16), (b, 16)]
  | 6 => [(a, r.esize), (b, r.esize), (c, 64)] ++ (if r.roleB then [] else [(r.scl, 4)])
  | 7 => [(a, 64), (c, r.esize), (d, r.esize)]
  | 8 => [(a, 8)]
  | _ => []
/-- The end of the bytes that the command reads or writes, on `rr × cc` members (R219 step 3, R235). -/
def MuRec.reachEnd (r : MuRec) (rr cc : Nat) : Nat :=
  let a := lowF r.w1
  let b := highF r.w1
  let c := lowF r.w2
  let d := highF r.w2
  let mma (bsize : Nat) : Nat := Nat.max (a + (r.kb - 1) * b + (rr - 1) * lowF r.w3 + aBytes r.pa)
    (c + (r.kb - 1) * d + (cc - 1) * highF r.w3 + bsize)
  match r.cmd with
  | 1 => mma (bBytes r.pb)
  | 2 => mma (sparseBytes r.n r.pb)
  | 4 => a + (32 * rr - 1) * b + 128 * cc
  | 5 => a + (32 * rr - 1) * b + 32 * cc * r.esize
  | 6 => if r.roleB then Nat.max (a + 127 * b + 128 * r.esize) (c + 4 * bBytes r.pa)
      else Nat.max (Nat.max (a + 31 * b + 128 * r.esize) (r.scl + 128)) (c + aBytes r.pa)
  | 7 => if r.roleB then Nat.max (a + bBytes r.pa) (c + 127 * d + 32 * r.esize) else Nat.max (a + aBytes r.pa) (c + 31 * d + 128 * r.esize)
  | 8 => a + 8
  | _ => 0
/-- The checks of R219 before a command makes any access: the cause of the first that fails. -/
def MuRec.check (r : MuRec) (sz rr cc : Nat) : Option (BitVec 8) :=
  if !r.legal then some cIllegal
  else if r.aligns.any fun x => decide (x.1 % Nat.max 1 x.2 ≠ 0) then some cMisalign
  else if sz < r.reachEnd rr cc then some cPagePerm
  else none

/-! ## The unit (R213-R215) -/

/-- NACC and NDONE of R230. -/
def MuCtx.nacc (m : MuCtx) : Nat := (m.acc - m.accBase) % 65536
def MuCtx.ndone (m : MuCtx) : Nat := (m.done - m.accBase) % 65536
/-- A cell of a bank, and the bank that a function gives. -/
def bankCell (b : List (Nat × BitVec 32)) (i c : Nat) : Nat := (mgetD 0#32 (32 * i + c) b).toNat
def bankOf (f : Nat → Nat → Nat) : List (Nat × BitVec 32) :=
  (List.range 1024).filterMap fun x => let v := f (x / 32) (x % 32)
    if v = 0 then none else some (x, BitVec.ofNat 32 v)
/-- The shape of a gang, from its members. -/
def gangShape (ms : List (Nat × Nat × Nat)) : Nat × Nat :=
  ms.foldl (fun x m => (Nat.max x.1 (m.2.1 + 1), Nat.max x.2 (m.2.2 + 1))) (1, 1)

/-- The logical core whose context a logical core's physical unit holds, if another's (R214). -/
def State.muOther (s : State) (lc : Nat) : Option Nat :=
  let t := (s.ltile (lc / 8)).tile
  match mget (lcCore lc) (s.tile t).muOwner with
  | none => none
  | some o => if o = lc ∨ (s.ltile (o / 8)).tile ≠ t ∨ (s.kernel? (lcKid o)).isNone then none else some o
/-- The physical unit is this logical core's, or its owner's queue is empty and the owner is in nobody's gang. -/
def State.muFree (s : State) (lc : Nat) : Bool :=
  match s.muOther lc with
  | none => true
  | some o => (s.mu o).queue.isEmpty && (s.mu o).memberOf.isNone
/-- The handover: the physical unit holds this logical core's context (R214). -/
def State.muTake (s : State) (lc : Nat) : State :=
  s.updTile (s.ltile (lc / 8)).tile fun x => { x with muOwner := mset (lcCore lc) lc x.muOwner }
/-- A strand of the logical core may have the unit (R214, R236). -/
def State.muMine (s : State) (lc : Nat) : Bool := (s.mu lc).memberOf.isNone && s.muFree lc
/-- An instruction that needs the unit: it parks until a handover can be made (R214, R236). -/
def State.withMu (s : State) (id : Nat) (i : Instr) (k : State → State) : State :=
  let lc := (s.ctxD id).lck
  if s.muMine lc then k (s.muTake lc) else s.park id i .muOwner

/-- The running record has completed, or the queue was discarded: `done` records in all (R227, R228). -/
def State.muDone (s : State) (lc n : Nat) (q : List MuRec) : State :=
  let s1 := s.updMu lc fun m => { m with queue := q, done := n, kdone := 0 }
  s1.muSettle lc (s1.mu lc).swaps.length

/-- A strand parked in MXWAIT or MXSWAP whose place the fault has not let it reach. -/
def Ctx.atMu (c : Ctx) (lc done : Nat) : Bool :=
  decide (c.lck = lc) && decide (c.run = .parked) && match c.held with
    | some h => decide (h.stage = 1) && decide (done < h.mark) && (decide (h.instr = .mxswap) || decide (h.instr = .mxwait))
    | none => false
/-- A record fails: the unit, and its whole gang, is FAULTED, the queue is discarded, and one trap message is sent (R232). -/
def State.muFault (s : State) (lc : Nat) (r : MuRec) (cause : BitVec 8) (vrt : Word) : State :=
  let m := s.mu lc
  let info := w64 (bits r.w0 0 32 + ((m.done + 1 - m.accBase) % 65536) * 2 ^ 32)
  let set (m : MuCtx) : MuCtx := { m with faulted := true, fcause := cause.setWidth 4, fcmd := BitVec.ofNat 4 r.cmd, fInfo := info }
  let s1 := (m.members lc).foldl (fun s x => s.updMu x.1 set) s
  let s2 := s1.updMu lc fun m => { m with queue := [], done := m.acc, kdone := 0, swaps := [], drain := false }
  let s3 := s2.unitTrap lc cause info vrt
  ((s.ctxs.filter fun e => e.2.atMu lc m.done).map (·.1)).foldl (fun s id => s.trap id cause info) s3

/-! ## Accesses (R175, R215, R296) -/

/-- The activation that holds the unit is logged: it runs in a WARP kernel and is not irrevocable (R215, R298). -/
def State.muLogged (s : State) (lc : Nat) : Bool :=
  match (s.mu lc).hold with
  | none => false
  | some k => !(s.ctxs.any fun e => decide (e.2.alck = lc) && decide (e.2.item.key = k) && e.2.irrevocable)
/-- Scratchpad bytes read by the unit, in units that each have their place. -/
def State.muRead (s : State) (lc off n : Nat) : List Byte × State :=
  let (_, s1) := s.engKeep lc (lc / 8) (s.mu lc).hold false off n
  s1.engScratchRead (s1.engineOf lc) (lc / 8) off n
/-- Rows of bytes can be written at their offsets: in a WARP kernel every block of them is prepared and logged first (R215, R296). DESIGN CHOICE (log entry 124): of a command that
fails with COMMIT_OVERFLOW or MEM_ERROR no write is made, where R219 leaves open which have been. -/
def State.muRoom (s : State) (lc : Nat) : List (Nat × List Byte) → Room × State
  | [] => (.ok, s)
  | (off, bs) :: t =>
    match s.engKeep lc (lc / 8) (s.mu lc).hold (s.muLogged lc) off bs.length with
    | (.ok, s1) => s1.muRoom lc t
    | r => r
/-- Writes rows of bytes at their offsets, in order, once the logs have room for all of them; the flags that their conversion raises come with them. -/
def State.muRows (s : State) (lc : Nat) (f : BitVec 5) (rows : List (Nat × List Byte)) : Room × State :=
  match s.muRoom lc rows with
  | (.ok, s1) => (.ok, (rows.foldl (fun s r => s.engScratchWrite (s.engineOf lc) (lc / 8) r.1 r.2) s1).updMu lc fun m => { m with fl := m.fl ||| f })
  | r => r
/-- Reads `rows` rows of `n` bytes, `str` apart. -/
def State.muReadRows (s : State) (lc off str n : Nat) : Nat → List (List Byte) × State
  | 0 => ([], s)
  | rows + 1 =>
    let (b, s1) := s.muRead lc off n
    let (t, s2) := s1.muReadRows lc (off + str) str n rows
    (b :: t, s2)

/-! ## Arithmetic (R91-R94, R221) -/

/-- Byte `i` of bytes. -/
def byteAt (a : Array Byte) (i : Nat) : Byte := a.getD i 0#8
/-- An FP32 pattern, and an exponent byte, of a block. -/
def f32At (a : Array Byte) (i : Nat) : Nat :=
  (byteAt a i).toNat + 256 * (byteAt a (i + 1)).toNat + 65536 * (byteAt a (i + 2)).toNat + 16777216 * (byteAt a (i + 3)).toNat
/-- Mantissas of vector `v` of a dense block. -/
def denseVec (a : Array Byte) (p v : Nat) : Array Int := ((List.range 128).map (readMantissa (byteAt a) p 512 16 v)).toArray
/-- Entries of column `c` of a sparse block: K and mantissa (R221). -/
def sparseVec (a : Array Byte) (n p c : Nat) : List (Nat × Int) :=
  (List.range (8 * n)).map fun e =>
    let idx := (List.range 4).foldl (fun x b => x + ((byteAt a (32 * n * p + 32 * n * b + n * c + e / 8)).toNat / 2 ^ (e % 8) % 2) * 2 ^ b) 0
    (16 * (e / n) + idx, readMantissa (byteAt a) p (32 * n) n c e)
/-- The exact sum of a cell (R91, R221). -/
def cellSum (a : Array Int) (b : List (Nat × Int)) : Int := b.foldl (fun x e => x + a.getD e.1 0 * e.2) 0

/-- Promotion into an FP32 cell, with its flags (R92). -/
def promoteF (md : RM) (sum e : Int) (sa sb acc : Nat) : Nat × BitVec 5 :=
  let (t, f1) := roundNum .f32 md false false (scaled sum e)
  let (x, f2) := mulNum (numOf .f32 sa) (numOf .f32 sb)
  let (sc, f3) := roundNum .f32 md false false x
  let (y, f4) := mulNum (numOf .f32 t) (numOf .f32 sc)
  let (q, f5) := roundNum .f32 md false false y
  let (z, f6) := addNum md (numOf .f32 acc) (numOf .f32 q)
  let (r, f7) := roundNum .f32 md false false z
  (r, f1 ||| f2 ||| f3 ||| f4 ||| f5 ||| f6 ||| f7)
/-- Promotion into an INT32 cell, with NX and OF (R94). -/
def promoteI (md : RM) (sat : Bool) (sum e : Int) (acc : Nat) : Nat × BitVec 5 :=
  match scaled sum e with
  | .fin neg n d =>
    let v := roundInt md neg n d
    let x := intOf 32 acc + v
    let r := if sat then satInt 32 x else intOf 32 (wrapBits 32 x)
    (wrapBits 32 r, flagIf (v.natAbs * d ≠ n) fNX ||| flagIf (r ≠ x) fOF)
  | _ => (acc, 0#5)

/-- One K block on one member: the cells of its working bank and the flags (R220, R221). -/
def kBlock (r : MuRec) (work : List (Nat × BitVec 32)) (ab bb : Array Byte) : List (Nat × BitVec 32) × BitVec 5 :=
  let sparse := decide (r.cmd = 2)
  let rows := ((List.range 32).map fun i => denseVec ab r.pa i).toArray
  let cols := ((List.range 32).map fun c => if sparse then sparseVec bb r.n r.pb c
    else (denseVec bb r.pb c).toList.zipIdx.map fun x => (x.2, x.1)).toArray
  let bs := if sparse then 32 * r.n * (r.pb + 4) else 512 * r.pb
  let eb := (byteAt bb (bs + 4)).toInt
  let sb := f32At bb bs
  let old := ((List.range 1024).map fun x => bankCell work (x / 32) (x % 32)).toArray
  let cell (x : Nat) : Nat × BitVec 5 :=
    let i := x / 32
    let sum := cellSum (rows.getD i #[]) (cols.getD (x % 32) [])
    let e := (byteAt ab (512 * r.pa + 128 + i)).toInt + eb
    if r.int then promoteI r.mode r.sat sum e (old.getD x 0)
    else promoteF r.mode sum e (f32At ab (512 * r.pa + 4 * i)) sb (old.getD x 0)
  let cells := ((List.range 1024).map cell).toArray
  (bankOf fun i c => (cells.getD (32 * i + c) (0, 0#5)).1, cells.foldl (fun f x => f ||| x.2) 0#5)

/-! ## Running a record -/

/-- Raises flags in MXSTAT.FL of a unit (R82). -/
def MuCtx.raise (m : MuCtx) (f : BitVec 5) : MuCtx := { m with fl := m.fl ||| f }

/-- A debug stop holds the unit (R240). DEDUCED (log entry 90): it halts once the strand slots of its core that the stop names have ended their activations, since these run to
DONE first (R413). -/
def State.muHeld (s : State) (lc : Nat) : Bool :=
  let t := (s.ltile (lc / 8)).tile
  let named := (List.range 4).filter fun sl => (s.tile t).debugStops.getLsbD (4 * lcCore lc + sl)
  !named.isEmpty && named.all fun sl => s.slotFree t (lcCore lc) sl
/-- The unit of `lc` may run its next record: it has one, its kernel runs and no debug stop holds it, or a debug drain empties its queue (R413); it is not FAULTED, and
every member's physical unit is, or can become, the member's. -/
def State.muReady (s : State) (lc : Nat) : Bool :=
  let m := s.mu lc
  !m.queue.isEmpty && !m.faulted && ((s.kernelRuns (lcKid lc) && !s.muHeld lc) || m.drain)
    && (m.members lc).all fun x => s.muFree x.1
/-- VRT of the activation that holds the unit, for its trap messages; 0 when none does. -/
def State.muVrt (s : State) (lc : Nat) : Word := match (s.mu lc).hold with | some k => w64 k.vrt | none => 0#64

/-- A turn of the sequencer of logical core `s.ev.id` over a record of one of the given codes: the checks of R219 when it starts, then
`run`, which answers whether the record is complete. DESIGN CHOICE (log entry 124): the writes of different commands reach other agents in the order of the queue, of the two
orders that R227 allows where no MBAR or MSIG stands between. -/
def unitOp (s : State) (codes : Nat → Bool) (run : State → Nat → MuRec → Room × Bool × State) : State :=
  let lc := s.ev.id
  let m := s.mu lc
  match m.queue with
  | [] => s
  | r :: q =>
    if codes r.cmd && s.muReady lc then
      let ms := m.members lc
      let shape := gangShape ms
      let s1 := ms.foldl (fun s x => s.muTake x.1) s
      match (if m.kdone = 0 then r.check (s.kernelD (lcKid lc)).s shape.1 shape.2 else none) with
      | some cause => s1.muFault lc r cause (s.muVrt lc)
      | none =>
        if s.ev.flag && decide (r.cmd ≠ 0) && decide (r.cmd ≠ 3) && decide (r.cmd ≠ 5) && decide (r.cmd < 8) then
          s1.muFault lc r cMemError (s.muVrt lc)
        else
          match run s1 lc r with
          | (.ok, true, s2) => (s2.muDone lc (m.done + 1) q).updMu lc fun m => { m with drain := m.drain && !q.isEmpty }
          | (.ok, false, s2) => s2.updMu lc fun m => { m with kdone := m.kdone + 1 }
          | (.overflow, _, s2) => s2.muFault lc r cCommitOverflow (s.muVrt lc)
          | (.wait, _, s2) => s2
    else s

/-- Counts the plane-pair cycles of a K block on each member's tile: N of 16 of a dense product's for a sparse one (R19, R446). -/
def State.muCount (s : State) (r : MuRec) (ms : List (Nat × Nat × Nat)) : State :=
  let n := if r.cmd = 2 then r.pa * r.pb * r.n else r.pa * r.pb * 16
  ms.foldl (fun s x =>
    let p := (s.mu x.1).part16 + n
    (s.updMu x.1 fun m => { m with part16 := p % 16 }).count (s.ltile (x.1 / 8)).tile (lcKid x.1) 8 (p / 16)) s

/-- One K block of MMA or MMAS on every member (R220, R221, R233, R235). -/
def runMma (s : State) (lc : Nat) (r : MuRec) : Room × Bool × State :=
  let j := (s.mu lc).kdone
  let ms := (s.mu lc).members lc
  let asz := aBytes r.pa
  let bsz := if r.cmd = 2 then 32 * r.n * (r.pb + 4) + 5 else bBytes r.pb
  let s1 := ms.foldl (fun s x =>
    let (ab, s1) := s.muRead lc (lowF r.w1 + j * highF r.w1 + x.2.1 * lowF r.w3) asz
    let (bb, s2) := s1.muRead lc (lowF r.w2 + j * highF r.w2 + x.2.2 * highF r.w3) bsz
    let (w, f) := kBlock r (s.mu x.1).work ab.toArray bb.toArray
    s2.updMu x.1 fun m => { m with work := w, fl := m.fl ||| f }) s
  (.ok, decide (r.kb ≤ j + 1), s1.muCount r ms)

/-- MZERO on every member (R222). -/
def runMzero (s : State) (lc : Nat) (_ : MuRec) : Room × Bool × State :=
  (.ok, true, ((s.mu lc).members lc).foldl (fun s x => s.updMu x.1 fun m => { m with work := [] }) s)

/-- MLDB on every member (R222, R235). -/
def runMldb (s : State) (lc : Nat) (r : MuRec) : Room × Bool × State :=
  (.ok, true, ((s.mu lc).members lc).foldl (fun s x =>
    let (rows, s1) := s.muReadRows lc (lowF r.w1 + 32 * x.2.1 * highF r.w1 + 128 * x.2.2) (highF r.w1) 128 32
    let cells := (rows.map fun b => b.toArray).toArray
    s1.updMu x.1 fun m => { m with work := bankOf fun i c => f32At (cells.getD i #[]) (4 * c) }) s)

/-- The bytes of one cell of the visible bank as MSTB writes it, with its flags (R223). -/
def storeCell (r : MuRec) (v : Nat) : Nat × BitVec 5 :=
  if r.tk then
    if r.ty = 2 then (v, 0#5)
    else
      let n := 8 * r.esize
      let x := intOf 32 v
      let y := if r.sat then satInt n x else intOf n (wrapBits n x)
      (wrapBits n y, flagIf (y ≠ x) fOF)
  else match etOfNat r.ty with
    | some .f32 => (v, 0#5)
    | some t => roundNum t r.mode (satOf r.frm) false (numOf .f32 v)
    | none => (v, 0#5)
/-- MSTB on every member (R223, R235). -/
def runMstb (s : State) (lc : Nat) (r : MuRec) : Room × Bool × State :=
  let go (acc : Room × State) (x : Nat × Nat × Nat) : Room × State :=
    match acc with
    | (.ok, s) =>
      let vis := (s.mu x.1).vis
      let row (i : Nat) : List (Nat × BitVec 5) := (List.range 32).map fun c => storeCell r (bankCell vis i c)
      let rows := (List.range 32).map row
      let (room, s1) := s.muRows lc 0#5 (rows.zipIdx.map fun y => (lowF r.w1 + (32 * x.2.1 + y.2) * highF r.w1 + 32 * x.2.2 * r.esize, y.1.flatMap fun z => leBytes r.esize z.1))
      (room, if room = .ok then s1.updMu x.1 fun m => m.raise (rows.flatten.foldl (fun f y => f ||| y.2) 0#5) else s1)
    | acc => acc
  let (room, s1) := ((s.mu lc).members lc).foldl go (.ok, s)
  (room, true, s1)

/-- The elements of rows of bytes. -/
def elemsOf (r : MuRec) (b : List Byte) : List Num := (chunks r.esize (b.length / Nat.max 1 r.esize) b).map fun x => elemNum r.tk r.ty (leNat x)
/-- The transpose of 128 rows of 128: column by column. -/
def transpose128 (rows : List (List Num)) : List Num :=
  let a := (rows.map fun x => x.toArray).toArray
  (List.range 128).flatMap fun c => (List.range 128).map fun k => (a.getD k #[]).getD c (.fin false 0 1)
/-- MPACK on the leader's unit (R224). -/
def runMpack (s : State) (lc : Nat) (r : MuRec) : Room × Bool × State :=
  let n := if r.roleB then 128 else 32
  let (rows, s1) := s.muReadRows lc (lowF r.w1) (highF r.w1) (128 * r.esize) n
  if r.roleB then
    let (e, ms, f) := convertUnit r.mode r.pa (transpose128 (rows.map (elemsOf r)))
    let cols := chunks 128 128 ms
    let blocks := (List.range 4).map fun b => (lowF r.w2 + b * bBytes r.pa, bBlock r.pa e ((cols.drop (32 * b)).take 32) r.scl)
    let (room, s2) := s1.muRows lc f blocks
    (room, true, s2)
  else
    let us := rows.map fun b => convertUnit r.mode r.pa (elemsOf r b)
    let (sb, s2) := s1.muRead lc r.scl 128
    let scales := (chunks 4 32 sb).map leNat
    let (room, s3) := s2.muRows lc (us.foldl (fun f u => f ||| u.2.2) 0#5) [(lowF r.w2, aBlock r.pa (us.map fun u => (u.1, u.2.1)) scales)]
    (room, true, s3)

/-- MUNPK on the leader's unit (R225). -/
def runMunpk (s : State) (lc : Nat) (r : MuRec) : Room × Bool × State :=
  let p := r.pa
  let (bs, s1) := s.muRead lc (lowF r.w1) (if r.roleB then bBytes p else aBytes p)
  let a := bs.toArray
  let vecs := ((List.range 32).map (denseVec a p)).toArray
  let unp (v k e sc : Nat) : Nat × BitVec 5 := unpackElem r.mode (satOf r.frm) r.tk r.sat r.ty ((vecs.getD v #[]).getD k 0) (byteAt a e).toInt (f32At a sc)
  let rows := if r.roleB then (List.range 128).map fun k => (List.range 32).map fun c => unp c k (512 * p + 4) (512 * p)
    else (List.range 32).map fun i => (List.range 128).map fun k => unp i k (512 * p + 128 + i) (512 * p + 4 * i)
  let (room, s2) := s1.muRows lc (rows.flatten.foldl (fun f y => f ||| y.2) 0#5) (rows.zipIdx.map fun y => (lowF r.w2 + y.2 * highF r.w2, y.1.flatMap fun z => leBytes r.esize z.1))
  (room, true, s2)

/-- MSIG's signal write (R226). -/
def runMsig (s : State) (lc : Nat) (r : MuRec) : Room × Bool × State :=
  let (room, s1) := s.muRows lc 0#5 [(lowF r.w1, leBytes 8 r.w2.toNat)]
  (room, true, s1)

/-! ## The commands: a turn of the unit `ev.id`, `ev.flag` an uncorrectable error in what it reads -/

/-- MNOP (R226). -/
def execMnop (s : State) : Host.Outcome State Fault Refusal := .next (unitOp s (fun c => decide (c = 0)) fun s _ _ => (.ok, true, s))
/-- MMA (R220): one K block. -/
def execMma (s : State) : Host.Outcome State Fault Refusal := .next (unitOp s (fun c => decide (c = 1)) runMma)
/-- MMAS (R221): one K block. -/
def execMmas (s : State) : Host.Outcome State Fault Refusal := .next (unitOp s (fun c => decide (c = 2)) runMma)
/-- MZERO (R222). -/
def execMzero (s : State) : Host.Outcome State Fault Refusal := .next (unitOp s (fun c => decide (c = 3)) runMzero)
/-- MLDB (R222). -/
def execMldb (s : State) : Host.Outcome State Fault Refusal := .next (unitOp s (fun c => decide (c = 4)) runMldb)
/-- MSTB (R223). -/
def execMstb (s : State) : Host.Outcome State Fault Refusal := .next (unitOp s (fun c => decide (c = 5)) runMstb)
/-- MPACK (R224). -/
def execMpack (s : State) : Host.Outcome State Fault Refusal := .next (unitOp s (fun c => decide (c = 6)) runMpack)
/-- MUNPK (R225). -/
def execMunpk (s : State) : Host.Outcome State Fault Refusal := .next (unitOp s (fun c => decide (c = 7)) runMunpk)
/-- MSIG (R226). -/
def execMsig (s : State) : Host.Outcome State Fault Refusal := .next (unitOp s (fun c => decide (c = 8)) runMsig)
/-- MBAR (R226), and the records of illegal CMD codes, which fail R219 when they start. -/
def execMbar (s : State) : Host.Outcome State Fault Refusal := .next (unitOp s (fun c => decide (9 ≤ c)) fun s _ _ => (.ok, true, s))

/-! ## Core instructions on the unit -/

/-- MXQB of a context's logical core (R52): its queue window. -/
def State.mxqb (s : State) (c : Ctx) : Word := w64 ((s.part (s.partOf c.kid)).qbase + 64 * (8 * c.lt + c.core))
/-- The registers of an STQ. -/
def stqRegs (b : Reg) : List Reg := (List.range 8).map fun i => b + BitVec.ofNat 5 i
/-- The record of eight values and a sample. -/
def muRecOf (v : List Word) (frm : BitVec 4) : MuRec :=
  { w0 := v.getD 0 0#64, w1 := v.getD 1 0#64, w2 := v.getD 2 0#64, w3 := v.getD 3 0#64, w4 := v.getD 4 0#64, w5 := v.getD 5 0#64,
    w6 := v.getD 6 0#64, w7 := v.getD 7 0#64, frm := frm }
/-- The unit accepts a record of a strand; a FAULTED one discards it at once (R128, R189, R215, R232). -/
def MuCtx.accept (m : MuCtx) (r : MuRec) (strand : BitVec 2) (hold : Option Key) : MuCtx :=
  let m1 := { m with acc := m.acc + 1, marks := m.marks.set strand.toNat (m.acc + 1), hold := match m.hold with | some k => some k | none => hold }
  if m.faulted then { m1 with done := m1.acc } else { m1 with queue := m.queue ++ [r] }
/-- The unit is held by another activation (R215). -/
def State.heldByOther (s : State) (c : Ctx) : Bool :=
  s.isWarp c.kid && match (s.mu c.lck).hold with
    | some k => decide (k ≠ c.item.key)
    | none => false

/-- STQ (R128). -/
def execStq (a b : Reg) (s : State) : Host.Outcome State Fault Refusal :=
  strandOp s (.stq a b) fun id c =>
    let i : Instr := .stq a b
    let lc := c.lck
    if c.getG a ≠ s.mxqb c then s.trap id cPagePerm (c.getG a)
    else s.withMu id i fun s1 =>
      if s1.heldByOther c then s1.park id i .muOwner
      else if Config.muEntries ≤ (s1.mu lc).queue.length then s1.park id i .muSpace
      else s1.withF id i (stqRegs b) [] fun s2 vs => s2.putF id i (stqRegs b) [] fun s3 =>
        let s4 := s3.updMu lc fun m => m.accept (muRecOf vs c.sample) c.strand (if s.isWarp c.kid then some c.item.key else none)
        ((s4.upd id fun c => { c with muMark := (s4.mu lc).acc }).handEngine id).advance id 4

/-- MXSWAP (R228): it takes its place, and parks until the exchange. -/
def execMxswap (s : State) : Host.Outcome State Fault Refusal :=
  strandOp s .mxswap fun id c =>
    let lc := c.lck
    if c.stageOf = 2 then s.advance id 4
    else if c.stageOf = 1 then s.park id .mxswap (.muDone c.markOf)
    else s.withMu id .mxswap fun s1 =>
      let m := s1.mu lc
      if m.faulted then s1.trap id (m.fcause.setWidth 8) m.fInfo
      else
        let s2 := (s1.parkAt id .mxswap (.muDone m.acc) 1 m.acc []).updMu lc fun m => { m with swaps := m.swaps ++ [(m.acc, id)] }
        let s3 := s2.muSettle lc (m.swaps.length + 1)
        if (s3.ctxD id).stageOf = 2 then s3.advance id 4 else s3
/-- MXWAIT (R229). -/
def execMxwait (s : State) : Host.Outcome State Fault Refusal :=
  strandOp s .mxwait fun id c =>
    let lc := c.lck
    if c.stageOf = 1 then (if c.markOf ≤ (s.mu lc).done then s.advance id 4 else s.park id .mxwait (.muDone c.markOf))
    else s.withMu id .mxwait fun s1 =>
      let m := s1.mu lc
      if m.faulted then s1.trap id (m.fcause.setWidth 8) m.fInfo
      else if m.acc ≤ m.done then s1.advance id 4
      else s1.parkAt id .mxwait (.muDone m.acc) 1 m.acc []

/-- The units of a logical core's gang: its own, the leader's and the members'. -/
def State.gangOf (s : State) (lc : Nat) : List Nat :=
  match (s.mu lc).memberOf with
  | some (l, _, _) => ((s.mu l).members l).map (·.1)
  | none => ((s.mu lc).members lc).map (·.1)
/-- MXSTAT's word (R230). -/
def State.mxstat (s : State) (lc : Nat) : Word :=
  let m := s.mu lc
  let fl := (s.gangOf lc).foldl (fun f x => f ||| (s.mu x).fl) 0#5
  w64 (bit m.faulted * 2 ^ 63 + bit m.memberOf.isSome * 2 ^ 62 + bit (m.leads ≠ []) * 2 ^ 61 + fl.toNat * 2 ^ 56 + m.fcause.toNat * 2 ^ 52
    + m.fcmd.toNat * 2 ^ 48 + m.nacc * 2 ^ 32 + m.ndone * 2 ^ 16 + m.queue.length)
/-- MXSTAT (R230). -/
def execMxstat (d : Reg) (clr : Bool) (s : State) : Host.Outcome State Fault Refusal :=
  strandOp s (.mxstat d clr) fun id c =>
    let s1 := if clr then (s.gangOf c.lck).foldl (fun s x => s.updMu x fun m => { m with fl := 0#5 }) s else s
    s1.finishG id d (s.mxstat c.lck) 4

/-- A gang dissolves: every member keeps its banks (R234). -/
def State.dissolve (s : State) (lc : Nat) : State :=
  (((s.mu lc).leads).foldl (fun s x => s.updMu x.1 fun m => { m with memberOf := none }) s).updMu lc fun m => { m with leads := [] }
/-- MXRST's effect: queues discarded, banks and status at zero, on every member; the gang dissolves (R231). -/
def MuCtx.reset (m : MuCtx) : MuCtx :=
  { m with work := [], vis := [], queue := [], fl := 0#5, fcause := 0#4, fcmd := 0#4, faulted := false, fInfo := 0#64, done := m.acc,
           accBase := m.acc, kdone := 0 }
def State.muReset (s : State) (lc : Nat) : State :=
  let s1 := ((s.mu lc).members lc).foldl (fun s x => s.updMu x.1 MuCtx.reset) s
  (s1.muSettle lc (s1.mu lc).swaps.length).dissolve lc
/-- MXRST (R231). -/
def execMxrst (s : State) : Host.Outcome State Fault Refusal :=
  strandOp s .mxrst fun id c => s.withMu id .mxrst fun s1 => (s1.muReset c.lck).advance id 4

/-- Reads `n` table entries of MXGANG (R234). -/
def State.gangTable (s : State) (id : Nat) (i : Instr) (t : Nat) : Nat → List Word → (State → List Word → State) → State
  | 0, vs, k => k s vs
  | n + 1, vs, k => s.load id i t 2 fun s1 v => s1.gangTable id i (t + 2) n (vs ++ [w64 v]) k
/-- The logical core of an entry. -/
def entryLc (kid : Nat) (e : Word) : Nat := lcKey kid (bits e 0 12) (bits e 12 3)
/-- Some value occurs twice. -/
def hasDup : List Nat → Bool
  | [] => false
  | x :: t => t.contains x || hasDup t
/-- MXGANG's refusal, if any (R234): its WHY. -/
def State.gangRefusal (s : State) (kid lc : Nat) (es : List Word) : Option Nat :=
  let ms := es.map (entryLc kid)
  if es.any fun e => decide ((s.kernelD kid).tiles ≤ bits e 0 12) || e.getLsbD 15 then some 2
  else if hasDup ms then some 3
  else if ms.head? ≠ some lc then some 4
  else if ms.any fun x => (s.mu x).memberOf.isSome || decide ((s.mu x).leads ≠ []) then some 1
  else none
/-- The gang of a table of entries with `cc` columns forms. DESIGN CHOICE (log entry 124): a FAULTED unit joins like an IDLE one and stays FAULTED, where R234 names no refusal
for it and R241 joins IDLE ones. -/
def State.formGang (s : State) (kid lc cc : Nat) (es : List Word) : State :=
  let ms := es.zipIdx.map fun x => (entryLc kid x.1, x.2 / cc, x.2 % cc)
  let s1 := ms.foldl (fun s x => (s.muTake x.1).updMu x.1 fun m => { m with memberOf := if x.1 = lc then none else some (lc, x.2) }) s
  s1.updMu lc fun m => { m with leads := ms }
/-- Every member's queue is empty, and its physical unit can be its own (R234). -/
def State.gangIdle (s : State) (kid : Nat) (es : List Word) : Bool :=
  es.all fun e => (s.mu (entryLc kid e)).queue.isEmpty && s.muFree (entryLc kid e)

/-- MXGANG (R234): fields rows − 1 and columns − 1. -/
def execMxgang (d a : Reg) (dis : Bool) (cm1 : BitVec 4) (rm1 : BitVec 3) (imm32 : BitVec 32) (s : State) : Host.Outcome State Fault Refusal :=
  strandOp s (.mxgang d a dis cm1 rm1 imm32) fun id c =>
    let i : Instr := .mxgang d a dis cm1 rm1 imm32
    let lc := c.lck
    if s.isWarp c.kid then s.trap id cIllegal 0#64
    else if dis then
      s.withMu id i fun s1 =>
        if (s1.mu lc).leads = [] then s1.finishG id d 0#64 12
        else if (s1.mu lc).queue.isEmpty then (s1.dissolve lc).finishG id d 0#64 12
        else s1.park id i (.muDone (s1.mu lc).acc)
    else
      let n := (rm1.toNat + 1) * (cm1.toNat + 1)
      let t := c.getG a + sext32 imm32
      let form (s1 : State) (es : List Word) : State :=
        match s1.gangRefusal c.kid lc es with
        | some why => s1.finishG id d (refusal why) 12
        | none => if s1.gangIdle c.kid es then (s1.formGang c.kid lc (cm1.toNat + 1) es).finishG id d 0#64 12
            else s1.parkAt id i .gangIdle 1 0 es
      if c.stageOf = 1 then s.withMu id i fun s1 => form s1 c.valsOf
      else if t.toNat % 2 ≠ 0 then s.trap id cMisalign t
      else if s.sOf c < t.toNat + 2 * n then s.trap id cPagePerm t
      else s.withMu id i fun s1 => s1.gangTable id i t.toNat n [] form

/-! ## Format windows (R237-R239) -/

/-- FORMAT_WINDOW_FILL (R239): view block `ev.slot` of window `ev.idx` of controller `ev.id` is filled into the home L2. -/
def execFormatWindowFill (s : State) : Host.Outcome State Fault Refusal :=
  let w := (s.ctrl s.ev.id).wins.toList.getD s.ev.idx {}
  if s.ev.id < 12 ∧ s.ev.idx < 16 ∧ w.en ∧ s.ev.slot < w.blocks then .next (s.fillView s.ev.id s.ev.idx s.ev.slot) else .next s
/-- FORMAT_WINDOW_CTL_WRITE (R237): firmware writes CTL of window `ev.idx` of controller `ev.id` with `ev.w0`; an invalid TY or L = 0
leaves EN at 0, and reserved bits stay 0. -/
def execFormatWindowCtlWrite (s : State) : Host.Outcome State Fault Refusal :=
  if s.ev.id < 12 ∧ s.ev.idx < 16 then
    .next (s.updCtrl s.ev.id fun x =>
      let w := x.wins.toList.getD s.ev.idx {}
      let w1 := { w with ctl := s.ev.w0 &&& 0x8000FFFF00000FF8#64 }
      let w2 := if w1.tyOk && decide (w1.len ≠ 0) then w1 else { w1 with ctl := w1.ctl &&& 0x7FFFFFFFFFFFFFFF#64 }
      { x with wins := x.wins.set (s.ev.idx % 16) w2 (Nat.mod_lt _ (by decide)) })
  else .next s

end Sys2Proof.Machine
end

