-- ==== Sys2Proof/Machine/System.lean ====
section
/-! DEFINITION. Control registers, traps and what supervisors do about them, breaks, cuts asked for, switches asked for, the hint space and illegal words (R62, R64, R65, R96-R99, R408-R411, R420, R424, R426). -/

namespace Sys2Proof.Machine

open Sys2Proof

/-! ## Control registers (R96-R98, R411) -/

/-- STATUS (R97). -/
def State.status (s : State) (c : Ctx) : Word :=
  w64 (c.prio.toNat * 2 ^ 14 + c.item.chan % 16 * 2 ^ 10 + bit (s.isWarp c.kid) * 2 ^ 9 + bit c.shipped.isSome * 2 ^ 8 + bit c.rep.isSome * 2 ^ 7 + c.strand.toNat * 2 ^ 5)
/-- A control register's value; none for a number outside the map (R96). -/
def State.readCr (s : State) (c : Ctx) (n : BitVec 5) : Option Word :=
  match n.toNat with
  | 0x00 => some (s.status c)
  | 0x01 => some (c.frm.setWidth 64)
  | 0x02 => some (c.fflags.setWidth 64)
  | 0x03 => some (c.fen.setWidth 64)
  | 0x04 => some c.fsup
  | 0x05 => some c.item.vrt
  | 0x06 => some (if s.isWarp c.kid then w64 (s.lcore c.lck).gvt else 0#64)
  | 0x07 => some (w64 s.tbase)
  | 0x08 => some (w64 c.lt)
  | 0x09 => some (w64 c.core)
  | 0x0A => some (w64 c.kid)
  | 0x0B => some (w64 (s.partOf c.kid))
  | 0x0C => some c.waitlim
  | 0x0D => some (s.mxqb c)
  | 0x0E => some (w64 (s.cpyn c.lck))
  | 0x0F => some c.epc
  | 0x10 => some (c.ecause.setWidth 64)
  | 0x11 => some c.einfo
  | 0x12 => some c.scratchReg
  | _ => none
/-- FRM as a write leaves it: RM 101, 110 and 111 leave RM as it was (R77). -/
def frmWrite (old : BitVec 4) (v : Word) : BitVec 4 := v.extractLsb' 3 1 ++ (if 5 ≤ bits v 0 3 then old.extractLsb' 0 3 else v.extractLsb' 0 3)
/-- FSUP as a write leaves it (R134). -/
def fsupWrite (k : Kernel) (old v : Word) : Word :=
  let chan := if bits v 16 4 = 15 then fsupChan old else bits v 16 4
  let lt := if k.tiles ≤ bits v 0 12 then k.slt else bits v 0 12
  w64 (lt + bits v 12 3 * 2 ^ 12 + chan * 2 ^ 16)
/-- WAITLIM as a write leaves it (R96). -/
def waitlimWrite (v : Word) : Word := if v.toNat < 1000 then 1000#64 else if 10000000 < v.toNat then 10000000#64 else v
/-- A write of a control register; a read-only one ignores it (R96). -/
def Ctx.writeCr (c : Ctx) (k : Kernel) (n : BitVec 5) (v : Word) : Ctx :=
  match n.toNat with
  | 0x01 => { c with frm := frmWrite c.frm v }
  | 0x02 => { c with fflags := v.setWidth 5 }
  | 0x03 => { c with fen := v.setWidth 5 }
  | 0x04 => { c with fsup := fsupWrite k c.fsup v }
  | 0x0C => { c with waitlim := waitlimWrite v }
  | 0x12 => { c with scratchReg := v }
  | _ => c
/-- CRR, CRW, CRS and CRC: gD takes the old value, and `f` gives what is written, if anything. -/
def State.crOp (s : State) (id : Nat) (d : Reg) (n : BitVec 5) (f : Word → Option Word) : State :=
  let c := s.ctxD id
  match s.readCr c n with
  | none => s.trap id cIllegal 0#64
  | some old =>
    let s1 := match f old with
      | some v => s.upd id fun c => c.writeCr (s.kernelD c.kid) n v
      | none => s
    s1.finishG id d old 4
/-- CRR (R411). -/
def execCrr (d : Reg) (cr : BitVec 5) (s : State) : Host.Outcome State Fault Refusal :=
  strandOp s (.crr d cr) fun id _ => s.crOp id d cr fun _ => none
/-- CRW (R411). -/
def execCrw (d a : Reg) (cr : BitVec 5) (s : State) : Host.Outcome State Fault Refusal :=
  strandOp s (.crw d a cr) fun id c => s.crOp id d cr fun _ => some (c.getG a)
/-- CRS (R411). -/
def execCrs (d a : Reg) (cr : BitVec 5) (s : State) : Host.Outcome State Fault Refusal :=
  strandOp s (.crs d a cr) fun id c => s.crOp id d cr fun old => some (old ||| c.getG a)
/-- CRC (R411). -/
def execCrc (d a : Reg) (cr : BitVec 5) (s : State) : Host.Outcome State Fault Refusal :=
  strandOp s (.crc d a cr) fun id c => s.crOp id d cr fun old => some (old &&& ~~~(c.getG a))

/-! ## Traps and breaks (R65, R408-R410) -/

/-- ILLEGAL_WORD (R65): `ev.w0` is word 0 of an unassigned or malformed word. -/
def execIllegalWord (s : State) : Host.Outcome State Fault Refusal :=
  strandOp s .illegalWord fun id _ => s.trap id cIllegal s.ev.w0
/-- A word of the hint space (R64). -/
def execHint (hlen : BitVec 2) (hraw : BitVec 21) (s : State) : Host.Outcome State Fault Refusal :=
  strandOp s (.hint hlen hraw) fun id _ => s.advance id (4 * wordCount hlen)
/-- TRAP (R409): stage 1 waits for the resident kernel's answer. The SEQ of the request's source word is a free value (log entry 17). -/
def execTrap (d a : Reg) (s : State) : Host.Outcome State Fault Refusal :=
  strandOp s (.trap d a) fun id c =>
    if 28 < a.toNat then s.trap id cIllegal (a.setWidth 64)
    else if s.spec c then s.trap id cIllegal 0#64
    else if c.stageOf = 0 then
      let m : Item := { chan := 15, p0 := c.getG a, p1 := c.getG (a + 1#5), p2 := c.getG (a + 2#5), p3 := c.getG (a + 3#5), vrt := c.item.vrt,
                        src := s.sendSrc c 15 (Config.freeSeq s.free), arrived := s.tbase, agedAt := s.tbase }
      { s.parkAt id (.trap d a) .answer 1 0 [] with free := s.free + 1, resident := s.resident ++ [{ part := s.partOf c.kid, item := m, ctx := some id }] }
    else match c.answer? with
      | some fw => s.finishG id d fw.value 4
      | none => s.park id (.trap d a) .answer

/-- The context that a trap handle names in a kernel (R406, R408). -/
def State.trapped? (s : State) (kid : Nat) (h : Word) : Option Nat :=
  if h.getLsbD 31 then (s.ctxs.find? fun e => decide (e.2.kid = kid) && decide (e.2.run = .trapped) && decide (e.2.trapHandle = h)).map (·.1) else none
/-- A trapped activation goes on at `pc`, or, at 0, ends as DONE ends it: the module completes DONE's parks (R408). -/
def State.release (s : State) (id : Nat) (pc : Word) : State :=
  if pc = 0#64 then (s.resumeTrapped id (s.ctxD id).pc).upd id fun c => { c with held := some { instr := .done, sample := c.frm } }
  else s.resumeTrapped id pc
/-- ERET (R408). -/
def execEret (d a b : Reg) (s : State) : Host.Outcome State Fault Refusal :=
  strandOp s (.eret d a b) fun id c =>
    let pc := c.getG b
    if pc.toNat % 4 ≠ 0 then s.trap id cMisalign pc
    else match s.trapped? c.kid (c.getG a) with
      | none => s.finishG id d (refusal 1) 4
      | some x => (s.release x pc).finishG id d 0#64 4

/-- BRK (R410). -/
def execBrk (n : BitVec 5) (s : State) : Host.Outcome State Fault Refusal :=
  strandOp s (.brk n) fun id _ => s.trap id cBrk (n.setWidth 64)
/-- HALT (R410): with a debug agent the strand completes it, stops, and the agent gets a halt record. -/
def execHalt (s : State) : Host.Outcome State Fault Refusal :=
  strandOp s .halt fun id c =>
    if (s.part (s.partOf c.kid)).debugAgent then
      { (s.advance id 4).upd id fun c => { c with stopped := true } with hostSide := { s.hostSide with halts := s.hostSide.halts ++ [id] } }
    else s.trap id cBrk 32#64

/-! ## MARK and SWSET (R414, R420, R424) -/

/-- MARK (R424): stage 1 waits for the cut. -/
def execMark (d a : Reg) (s : State) : Host.Outcome State Fault Refusal :=
  strandOp s (.mark d a) fun id c =>
    let v := c.getG a
    if s.spec c then s.trap id cIllegal 0#64
    else if v ≠ 0#64 then s.trap id cIllegal v
    else if c.stageOf = 0 then
      let k := s.kernelD c.kid
      if k.cut.isSome then s.finishG id d (refusal 1) 4
      else if !k.cutSpace then s.finishG id d (refusal 2) 4
      else (s.parkAt id (.mark d a) .cut 1 0 []).beginCut c.kid (some id)
    else match c.answer? with
      | some fw => s.finishG id d (if fw.accept then fw.value else refusal 4) 4
      | none => s.park id (.mark d a) .cut

/-- A gang switch of a partition is set, or the partition is away (R414). -/
def Partition.switchSet (p : Partition) : Bool :=
  decide (p.gang = .armed) || (decide (p.gang = .stopped) && decide (p.gangBefore = .armed)) || decide (p.gang = .saving) || decide (p.gang = .switched) || decide (p.gang = .restoring)
/-- Sets a gang switch for a time: what SWSET's gD takes (R414, R420). `late` is the WHY of a time that has come too near to be set (R414). -/
def State.setSwitch (s : State) (part t : Nat) (willing : Bool) (late : Nat) : Word × State :=
  let p := s.part part
  if p.switchSet then (refusal 1, s)
  else if !willing || decide (p.gang = .frozen) then (refusal 3, s)
  else if t < s.tbase + 50000 then (refusal late, s)
  else (w64 t, s.updPart part fun p => if p.gang = .stopped then { p with gangBefore := .armed, switchAt := t } else { p with gang := .armed, switchAt := t })
/-- SWSET (R420): stage 1 waits for firmware. DEDUCED (log entry 97): where T has come nearer than 50,000 ns when firmware answers, it cannot set the switch (R414), and the answer is
WHY 3, since R420 answers WHY 2 at issue only. -/
def execSwset (d a : Reg) (imm32 : BitVec 32) (s : State) : Host.Outcome State Fault Refusal :=
  strandOp s (.swset d a imm32) fun id c =>
    let i : Instr := .swset d a imm32
    let t := (if c.getG a = 0#64 then w64 s.tbase else c.getG a) + zext32 imm32
    if s.spec c then s.trap id cIllegal 0#64
    else if c.stageOf = 0 then
      if t.toNat < s.tbase + 50000 then s.finishG id d (refusal 2) 12 else s.parkAt id i .answer 1 0 [t]
    else match c.answer? with
      | none => s.park id i .answer
      | some fw => let (w, s1) := s.setSwitch (s.partOf c.kid) (c.valsOf.getD 0 0#64).toNat fw.accept 3
        s1.finishG id d w 12

end Sys2Proof.Machine
end

