-- ==== Sys2Proof/Machine/Boot.lean ====
section
/-! DEFINITION. Bring-up: BOOT, the registers that the host reads, attestation, the resident kernel's requests, and firmware's register writes (R4, R237, R318, R410, R439, R443, R446, R451-R457, R461). -/

namespace Sys2Proof.Machine

open Sys2Proof

/-! ## Boot (R451, R452) -/

/-- A die's border configuration from its register value (R318). -/
def Die.border (d : Die) (w : Word) : Die :=
  { d with en := w.getLsbD 63, lvt := w.extractLsb' 40 10, h := (if w.extractLsb' 24 16 = 0#16 then 1#16 else w.extractLsb' 24 16), ws := w.extractLsb' 16 8, ww := w.extractLsb' 8 8,
           wr := w.extractLsb' 0 8 }
/-- A partition as the image defines it, with its quotas on each die and a key of its own (R456, R457). -/
def Partition.ofCfg (old : Partition) (c : PartCfg) : Partition :=
  { present := true, quota := c.quota, root := c.root, qbase := c.qbase, memory := c.memory, l2Quota := (List.range 4).map fun d => (d, c.l2Quota.getD d 0),
    rdcQuota := (List.range 4).map fun d => (d, c.rdcQuota.getD d 0), area := c.area, xtsKey := old.xtsKey + 1 }
/-- The values that R363 and R461 admit for a partition's page-table root and its queue-window base. -/
def rootOk (n : Nat) : Bool := decide (n % 2048 = 0)
def qbaseOk (n : Nat) : Bool := decide (n % 2 ^ 21 = 0) && decide (2 ^ 21 ≤ n) && decide (n ≤ 2 ^ 56 - 2 ^ 21)
/-- The digest of an image's body, and whether its public keys have the digests that boot ROM holds (R452). -/
def Image.digest (i : Image) : BitVec 384 := sha384 i.body
def Image.keysMatch (i : Image) (rom : BitVec 384 × BitVec 384) : Bool := decide (sha384 i.rsaKey = rom.1) && decide (sha384 i.slhKey = rom.2)
/-- The first check of a boot that fails, as ERR names it (R451-R453). DEDUCED (log entry 92): an image whose partitions break R363 or R461 has a bad
format. -/
def Image.err (i : Image) (rom : BitVec 384 × BitVec 384) : Nat :=
  if !i.selfTest then 6
  else if !i.fetched then 1
  else if !(i.format && decide (1 ≤ i.parts.length) && decide (i.parts.length ≤ 16) && i.parts.all fun p => rootOk p.root && qbaseOk p.qbase) then 5
  else if !i.keysMatch rom then 4
  else if !i.rsa then 2
  else if !i.slhDsa then 3
  else 0
/-- The module as a reset of the host port leaves it, before the image is applied: as after power-on, but for memory, TBASE and what the outside has seen. The
novena cycles go on counting phases of 100 us on TBASE (R319). -/
def State.restart (s : State) : State :=
  { ({} : State) with
    rom := s.rom, sched := s.sched, free := s.free, nextId := s.nextId, tbase := s.tbase, bootAt := s.tbase, novenaCycle := s.tbase / 900000, latchedAt := s.tbase, glob := s.glob, dram := s.dram, dirty := s.dirty, dirtyGranules := s.dirtyGranules
    hostSide := { s.hostSide with stage := 0#8, err := 0#8, version := 0#16, ready := false, imageDigest := 0#384, hdmBase := 0, hdmLimit := 0, boots := s.hostSide.boots + 1 } }
/-- BOOT (R451): power-on or a reset of the host port, with the image `ev.image`. A failure stops the boot in FAILED with its error code. -/
def execBoot (s : State) : Host.Outcome State Fault Refusal :=
  let i := s.ev.image
  let s1 := s.restart
  if i.err s.rom ≠ 0 then .next { s1 with hostSide := { s1.hostSide with stage := 5#8, err := BitVec.ofNat 8 (i.err s.rom) } }
  else
    .next { s1 with
      parts := i.parts.zipIdx.map fun e => (e.2, (s.part e.2).ofCfg e.1)
      dies := (List.range 4).map fun d => (d, ({} : Die).border i.border)
      routes := i.routes, device := BitVec.ofNat 6 i.device, tempLimit := i.tempLimit
      hostSide := { s1.hostSide with stage := 4#8, ready := true, version := i.version, imageDigest := i.digest } }

/-! ## What the host reads (R453-R455) -/

/-- The status register. -/
def HostSide.status (h : HostSide) : Word := w64 (h.err.toNat * 2 ^ 32 + h.version.toNat * 2 ^ 16 + h.stage.toNat * 2 ^ 8 + bit h.ready)
/-- The private half of the module's identity key, which never leaves the security block, and the public half (R454, notes/assumptions/130.md). -/
def identityKey : Nat := Config.pufValue % (n384 - 1) + 1
def identityPublic : List Byte := publicKey identityKey
/-- The 64 bytes of the identity registers. -/
def identityBytes : List Byte := sha384Bytes identityPublic ++ leBytes 16 (Config.serialNumber 0).toNat
/-- Partitions that the image defines, and ports that are enabled. -/
def State.partCount (s : State) : Nat := (s.parts.filter fun e => e.2.present).length
def State.portMask (s : State) : Nat := ((List.range 16).map fun p => bit (decide ((s.ports.toList.getD p {}).state ≠ .down)) * 2 ^ p).sum
/-- DATA of the capability list's entry of an ID. -/
def State.capDataOf (s : State) (id : Nat) : Word :=
  match id with
  | 1 => (Config.capData 1 &&& ~~~0xF#64) ||| w64 ((s.partCount - 1) % 16)
  | 2 => (Config.capData 2 &&& ~~~0xFFFF#64) ||| w64 (s.portMask % 65536)
  | n => Config.capData n
/-- The BAR0 offset of the entry of an ID. DESIGN CHOICE (notes/assumptions/3.md): the entries stand at rising offsets, with gaps of free sizes. -/
def capAt : Nat → Nat
  | 0 => 0x100
  | 1 => 0x100
  | id + 1 => capAt id + 16 + 8 * (Config.capGap id).toNat
/-- The capability list's entries with their offsets, in ascending ID order: 16 bytes each, NEXT 0 in the last. -/
def State.capList (s : State) : List (Nat × List Byte) :=
  [1, 2, 3, 4, 5].map fun id =>
    (capAt id, leBytes 8 (id + (Config.capVersion id).toNat * 2 ^ 24 + (if id = 5 then 0 else capAt (id + 1)) * 2 ^ 32) ++ leBytes 8 (s.capDataOf id).toNat)
/-- What a host read of 8 bytes of BAR0 returns, where the spec says it: the status and identity registers always, all ones elsewhere until READY. -/
def State.bar0 (s : State) (off : Nat) : Option Word :=
  if off = 0 then some s.hostSide.status
  else if 0x40 ≤ off ∧ off + 8 ≤ 0x80 then some (w64 (leNat ((identityBytes.drop (off - 0x40)).take 8)))
  else if !s.hostSide.ready then some (BitVec.allOnes 64)
  else (s.capList.find? fun e => decide (e.1 ≤ off) && decide (off + 8 ≤ e.1 + 16)).map fun e => w64 (leNat ((e.2.drop (off - e.1)).take 8))

/-- The partition table as the security block digests it; its layout is the model's. -/
def State.partTable (s : State) : List Byte :=
  s.parts.flatMap fun e => leBytes 8 e.1 ++ leBytes 8 e.2.quota ++ leBytes 8 e.2.root ++ leBytes 8 e.2.qbase ++ (e.2.memory.flatMap fun r => leBytes 8 r.1 ++ leBytes 8 r.2)
    ++ (e.2.l2Quota ++ e.2.rdcQuota).flatMap fun q => leBytes 8 q.1 ++ leBytes 8 q.2
/-- ATTESTATION_REQUEST (R454): the report for the nonce `ev.bytes`, signed with the identity key. -/
def execAttestationRequest (s : State) : Host.Outcome State Fault Refusal :=
  if s.hostSide.ready ∧ s.ev.bytes.length = 32 then
    let body := s.ev.bytes ++ beBytes 48 s.hostSide.imageDigest.toNat ++ leBytes 2 s.hostSide.version.toNat ++ sha384Bytes s.partTable
    let k := Config.signNonce s.hostSide.reports.length % (n384 - 1) + 1
    .next { s with hostSide := { s.hostSide with reports := s.hostSide.reports ++ [body ++ ecdsaSign identityKey k body] } }
  else .next s

/-! ## The resident kernel (R407-R409, R456) -/

/-- The resident kernel's answer to a message: a message from KID 63 to its sender, on whatever device, on the channel that payload word 3 names, with the words `ev.answers`. -/
def State.residentAnswer (s : State) (m : Item) : State :=
  let ch := bits m.p3 0 4
  if ch = 15 then s
  else
    let w (i : Nat) : Word := (s.ev.answers.map (·.2)).getD i 0#64
    s.sendMsg (lcKey 63 0 0) 0 (srcDev m.src) (srcKid m.src) (srcLt m.src) (srcCore m.src) ch 0#64 (srcWord 0 (srcDev m.src) 63 ch 0 0 0) (w 0) (w 1) (w 2) (w 3) (.message {} none) {}
/-- RESIDENT_KERNEL_REQUEST (R456): message `ev.idx` of those at the resident kernels is served. A TRAP's strand gets its answer `ev.fw` (R409); a trapped
strand is released when `ev.fw` says so (R408); what the module reports asks for no answer. -/
def execResidentKernelRequest (s : State) : Host.Outcome State Fault Refusal :=
  match s.resident[s.ev.idx]? with
  | none => .next s
  | some r =>
    if !s.gangRuns r.part then .next s
    else
      let s1 : State := { s with resident := s.resident.eraseIdx s.ev.idx }
      match r.ctx with
      | none => .next (if r.notice then s1 else s1.residentAnswer r.item)
      | some id =>
        if r.notice then
          .next (if s.ev.fw.accept && decide ((s.ctxD id).run = .trapped) && decide ((s.ctxD id).trapHandle = r.item.p3) && decide (s.ev.fw.value.toNat % 4 = 0) then s1.release id s.ev.fw.value else s1)
        else .next (s1.upd id fun c => { c with held := c.held.map fun h => { h with answered := true, ans := s.ev.fw } })

/-! ## Firmware's register writes (R4) -/

/-- Changes a window of a controller, or a tile's bank. -/
def State.updWin (s : State) (j i : Nat) (f : FmtWin → FmtWin) : State :=
  s.updCtrl j fun x => { x with wins := x.wins.set (i % 16) (f (x.wins[i % 16]'(Nat.mod_lt _ (by decide)))) (Nat.mod_lt _ (by decide)) }
/-- Tracing of a kernel on a tile is switched; the ring's room is `room` records, and the next record is the first after tracing is enabled (R443,
R444). -/
def Tile.setTrace (x : Tile) (kid : Nat) (on : Bool) (room : Nat) : Tile :=
  if on then { x with traceKids := (if x.traceKids.contains kid then x.traceKids else kid :: x.traceKids), traceRoom := room, traceAt := (if x.traceKids.contains kid then x.traceAt else none) }
  else { x with traceKids := x.traceKids.filter (· ≠ kid) }
/-- Firmware sends a message of the host, of the words `ev.answers`, with KID 63 to the core and channel that a destination word names (R104, R290, R441). -/
def State.hostMessage (s : State) (w : Word) : State :=
  let ch := destChan w
  let p (i : Nat) : Word := (s.ev.answers.map (·.2)).getD i 0#64
  if ch = 15 ∨ (s.kernel? (bits w 52 6)).isNone then s
  else s.sendMsg (lcKey 63 0 0) 0 s.device.toNat (bits w 52 6) (destLt w) (destCore w) ch 0#64 (srcWord 0 s.device.toNat 63 ch 0 0 0) (p 0) (p 1) (p 2) (p 3) (.message {} none) {}
/-- The new state of a register write; a value that breaks its register's rule is not written, since firmware keeps the rule. -/
def State.writeReg (s : State) (r : FwReg) (v : Word) : State :=
  let n := v.toNat
  match r with
  | .borderConfig d => if d < 4 then s.updDie d fun x => x.border v else s
  | .phaseLength =>
    let p := Nat.min 10000 (Nat.max 10 (n % 2 ^ 32))
    { s with phaseLen := p, novenaCycle := s.tbase / (1000 * p) / 9, latchedAt := s.tbase,
             tiles := s.tiles.map fun e => (e.1, { e.2 with ringNs := 0, waitSum := 0, waitCount := 0, spills := 0 }) }
  | .claim kid => s.updK kid fun k => { k with claim := n % 65536 }
  | .winEbase j i => if j < 12 ∧ i < 16 ∧ n % 128 = 0 ∧ homeOf n = some j then s.updWin j i fun w => { w with ebase := v } else s
  | .winElimit j i => if j < 12 ∧ i < 16 then s.updWin j i fun w => { w with elimit := v } else s
  | .winVbase j i => if j < 12 ∧ i < 16 ∧ n % 4096 = 0 ∧ apertureCtrl n = some j then s.updWin j i fun w => { w with vbase := v } else s
  | .winSbase j i => if j < 12 ∧ i < 16 then s.updWin j i fun w => { w with sbase := v } else s
  | .winErr j i => if j < 12 ∧ i < 16 then s.updWin j i fun w => { w with err := w.err &&& ~~~v.extractLsb' 0 3 } else s
  | .qbase p => if (s.part p).present ∧ qbaseOk n ∧ (s.kernels.all fun e => decide (e.2.part ≠ p)) then s.updPart p fun x => { x with qbase := n } else s
  | .root p => if (s.part p).present ∧ rootOk n then s.updPart p fun x => { x with root := n } else s
  | .l2Quota p d => if (s.part p).present ∧ d < 4 then s.updPart p fun x => { x with l2Quota := mset d n x.l2Quota } else s
  | .rdcQuota p d => if (s.part p).present ∧ d < 4 then s.updPart p fun x => { x with rdcQuota := mset d n x.rdcQuota } else s
  | .route d => if d < 64 then { s with routes := mset d (v.setWidth 16) s.routes } else s
  | .traceEnable kid t => if t < 1024 ∧ kid < 63 then s.updTile t fun x => x.setTrace kid (v.getLsbD 0) (n / 2 ^ 32) else s
  | .bankOwner t b => if t < 1024 then s.updTile t fun x => { x with banks := x.banks.set (b % 4) (if v.getLsbD 63 then some (bits v 6 4, bits v 0 6) else none) (Nat.mod_lt _ (by decide)) } else s
  | .eventCode t i => if t < 1024 then s.updTile t fun x => { x with codes := x.codes.set (i % 16) (v.setWidth 8) (Nat.mod_lt _ (by decide)) } else s
  | .debugAgent p => if (s.part p).present then s.updPart p fun x => { x with debugAgent := v.getLsbD 0 } else s
  | .checkpointSpace kid => s.updK kid fun k => { k with cutSpace := v.getLsbD 0, cutBase := n / 512 * 512 }
  | .tileQuota p => if (s.part p).present then s.updPart p fun x => { x with quota := n } else s
  | .traceRing t => if t < 1024 then s.updTile t fun x => { x with traceBase := n } else s
  | .launchRecord kid => s.updK kid fun k => { k with recordAt := n }
  | .area p => if (s.part p).present then s.updPart p fun x => { x with area := n / 512 * 512 } else s
  | .doorbell i => { s with hostSide := { s.hostSide with doorbells := mset i v s.hostSide.doorbells } }
  | .hostConfig off => { s with hostSide := { s.hostSide with config := mset off v s.hostSide.config } }
  | .hostMessage => s.hostMessage v
  | .hdmRange w => { s with hostSide := (if w = 0 then { s.hostSide with hdmBase := n } else { s.hostSide with hdmLimit := n }) }
/-- REGISTER_WRITE (R4): firmware, or the host by CXL.io (R441), writes `ev.w0` to the register `ev.fwreg`. -/
def execRegisterWrite (s : State) : Host.Outcome State Fault Refusal := if s.hostSide.ready then .next (s.writeReg s.ev.fwreg s.ev.w0) else .next s

end Sys2Proof.Machine
end

