-- ==== Sys2Proof/Machine/Branch.lean ====
section
/-! DEFINITION. Branches, jumps and REP (R116-R120). -/

namespace Sys2Proof.Machine

open Sys2Proof

/-- A branch is taken to its target, or execution goes on (R116). -/
def State.branch (s : State) (id : Nat) (taken : Bool) (off : BitVec 14) : State :=
  s.upd id fun c => c.retired (if taken then c.pc + offset14 off else c.pc + 4#64)

/-- BEQ (R116). -/
def execBeq (a b : Reg) (off14 : BitVec 14) (s : State) : Host.Outcome State Fault Refusal :=
  strandOp s (.beq a b off14) fun id c => s.branch id (decide (c.getG a = c.getG b)) off14
/-- BNE (R116). -/
def execBne (a b : Reg) (off14 : BitVec 14) (s : State) : Host.Outcome State Fault Refusal :=
  strandOp s (.bne a b off14) fun id c => s.branch id (decide (c.getG a ≠ c.getG b)) off14
/-- BLT (R116). -/
def execBlt (a b : Reg) (off14 : BitVec 14) (s : State) : Host.Outcome State Fault Refusal :=
  strandOp s (.blt a b off14) fun id c => s.branch id (decide ((c.getG a).toInt < (c.getG b).toInt)) off14
/-- BGE (R116). -/
def execBge (a b : Reg) (off14 : BitVec 14) (s : State) : Host.Outcome State Fault Refusal :=
  strandOp s (.bge a b off14) fun id c => s.branch id (decide ((c.getG b).toInt ≤ (c.getG a).toInt)) off14
/-- BLTU (R116). -/
def execBltu (a b : Reg) (off14 : BitVec 14) (s : State) : Host.Outcome State Fault Refusal :=
  strandOp s (.bltu a b off14) fun id c => s.branch id (decide ((c.getG a).toNat < (c.getG b).toNat)) off14
/-- BGEU (R116). -/
def execBgeu (a b : Reg) (off14 : BitVec 14) (s : State) : Host.Outcome State Fault Refusal :=
  strandOp s (.bgeu a b off14) fun id c => s.branch id (decide ((c.getG b).toNat ≤ (c.getG a).toNat)) off14
/-- JAL (R117). -/
def execJal (d : Reg) (imm19 : BitVec 19) (s : State) : Host.Outcome State Fault Refusal :=
  strandOp s (.jal d imm19) fun id _ => s.upd id fun c => (c.setG d (c.pc + 4#64)).retired (c.pc + offset19 imm19)
/-- JALR (R118). -/
def execJalr (d a : Reg) (s : State) : Host.Outcome State Fault Refusal :=
  strandOp s (.jalr d a) fun id c =>
    let t := c.getG a
    if t.toNat % 4 ≠ 0 then s.trap id cMisalign t
    else s.upd id fun c => (c.setG d (c.pc + 4#64)).retired t
/-- REP (R120): the body is skipped with a count of 0, and otherwise REP state is set; its own completion takes no step
of an earlier REP, since REP state is clear. -/
def execRep (a : Reg) (n : BitVec 5) (s : State) : Host.Outcome State Fault Refusal :=
  strandOp s (.rep a n) fun id c =>
    if c.rep.isSome then s.trap id cIllegal 0#64
    else
      let start := c.pc + 4#64
      let stop := start + w64 (4 * n.toNat)
      if c.getG a = 0#64 then s.upd id fun c => { c.completed with pc := stop, rep := none }
      else s.upd id fun c => { c.completed with pc := start, rep := some { count := c.getG a, start := start, stop := stop } }

end Sys2Proof.Machine
end

