-- ==== Sys2Proof/Machine/Cache.lean ====
section
/-! DEFINITION. Retention registers, cache maintenance, window registers and waiting on a word (R192, R195, R200-R204, R212). -/

namespace Sys2Proof.Machine

open Sys2Proof

/-- An instruction that a WARP activation may execute only when irrevocable: otherwise ILLEGAL with EINFO 0 (R298). -/
def State.notSpec (s : State) (id : Nat) (k : State) : State :=
  if s.spec (s.ctxD id) then s.trap id cIllegal 0#64 else k

/-- Where PIN's range lies, or WHY not (R202): the physical base and limit. The order of the checks is the model's
(notes/assumptions/10.md). -/
def State.pinRange (s : State) (part : Nat) (a b : Word) : Nat ⊕ (Nat × Nat) :=
  let base := bits a 7 49 * 128
  if bits a 4 3 ≠ 0 then .inl 3
  else if 8 < bits a 0 4 then .inl 4
  else match s.walk part base with
    | .leaf t l _ _ =>
      let pa := t.frame + base % 65536
      if farPa pa then .inl 5
      else
        let size := 2 ^ levelShift l
        if b.toNat ≤ base ∨ b.toNat % 128 ≠ 0 ∨ (b.toNat - 1) / size ≠ base / size then .inl 3
        else .inr (pa, pa + (b.toNat - base))
    | _ => .inl 5

/-- Reserved ways of a die's valid registers. -/
def Die.waysUsed (d : Die) : Nat := (d.retain.toList.map fun r => match r with | some x => x.ways | none => 0).sum
/-- The lowest free register of a die. -/
def Die.freeRetain (d : Die) : Option (Fin 8) := (List.finRange 8).find? fun i => d.retain[i].isNone

/-- PIN's result word and the state with the register taken (R202). -/
def State.pin (s : State) (part kid : Nat) (a b : Word) : Word × State :=
  match s.pinRange part a b with
  | .inl why => (refusal why, s)
  | .inr (lo, hi) =>
    let d := dieOfPa lo
    match (s.die d).freeRetain with
    | none => (refusal 1, s)
    | some i =>
      if 12 < (s.die d).waysUsed + bits a 0 4 then (refusal 2, s)
      else (w64 (d * 8 + i.val), (s.updDie d fun x =>
        { x with retain := x.retain.set i (some { base := lo, limit := hi, ways := bits a 0 4, part := part, kid := kid }) }).l2Trim d)

/-- PIN (R202). -/
def execPin (d a b : Reg) (s : State) : Host.Outcome State Fault Refusal :=
  strandOp s (.pin d a b) fun id c => s.notSpec id
    (let r := s.pin (s.partOf c.kid) c.kid (c.getG a) (c.getG b)
     r.2.finishG id d r.1 4)
/-- UNPIN (R203). -/
def execUnpin (a : Reg) (s : State) : Host.Outcome State Fault Refusal :=
  strandOp s (.unpin a) fun id c => s.notSpec id
    (let n := bits (c.getG a) 0 5
     let i : Fin 8 := ⟨n % 8, Nat.mod_lt _ (by decide)⟩
     (s.updDie (n / 8) fun x => match x.retain[i] with
       | some r => if r.part = s.partOf c.kid then { x with retain := x.retain.set i none } else x
       | none => x).advance id 4)

/-! ## FLSH and INVL (R204) -/

/-- The physical ranges of the mapped near pages of a virtual range, granule by granule; scratch addresses are skipped. -/
def State.physRanges (s : State) (part lo hi : Nat) : Nat → List (Nat × Nat)
  | 0 => []
  | n + 1 =>
    let g := lo / 65536 + n
    let a := Nat.max (Nat.max lo (g * 65536)) (2 ^ 20)
    let b := Nat.min hi ((g + 1) * 65536)
    let rest := s.physRanges part lo hi n
    if b ≤ a ∨ 2 ^ 56 ≤ a then rest
    else match s.walk part a with
      | .leaf t _ _ _ => if farPa t.frame then rest else (t.frame + a % 65536, t.frame + a % 65536 + (b - a)) :: rest
      | _ => rest
/-- The lines of a virtual range, as physical lines [first, last). -/
def State.rangeLines (s : State) (part : Nat) (a n : Word) : List (Nat × Nat) :=
  let lo := a.toNat
  let hi := Nat.min (lo + n.toNat) (2 ^ 56)
  (s.physRanges part lo hi (if hi ≤ lo then 0 else (hi - 1) / 65536 - lo / 65536 + 1)).map fun r => (r.1 / 128, (r.2 + 127) / 128)
/-- A line lies in the ranges. -/
def inRanges (rs : List (Nat × Nat)) (l : Nat) : Bool := rs.any fun r => decide (r.1 ≤ l) && decide (l < r.2)

/-- Every dirty line of the ranges is written back to its DRAM. -/
def State.flush (s : State) (rs : List (Nat × Nat)) : State :=
  let ls := s.dirty.filter (inRanges rs)
  { s with dram := ls.foldl (fun m l => memCopyRange m s.glob (128 * l) (128 * l + 128)) s.dram,
           dirty := s.dirty.filter fun l => !inRanges rs l }
/-- The lines of the ranges leave the home L2, every RDC and one core's data cache; a later access reads DRAM. -/
def State.invalidate (s : State) (cn : Nat) (rs : List (Nat × Nat)) : State :=
  { s with glob := rs.foldl (fun m r => memCopyRange m s.dram (128 * r.1) (128 * r.2)) s.glob,
           viewLines := s.viewLines.filter fun e => !inRanges rs e.1,
           l2s := s.l2s.map fun e => (e.1, e.2.filter fun x => !inRanges rs x.line),
           rdcs := s.rdcs.map fun e => (e.1, e.2.filter fun x => !inRanges rs x.line),
           copies := mset cn ((mgetD [] cn s.copies).filter fun x => !inRanges rs x.line) s.copies }

/-- FLSH (R204). -/
def execFlsh (a b : Reg) (s : State) : Host.Outcome State Fault Refusal :=
  strandOp s (.flsh a b) fun id c => s.notSpec id
    ((s.flush (s.rangeLines (s.partOf c.kid) (c.getG a) (c.getG b))).advance id 4)
/-- INVL (R204). -/
def execInvl (a b : Reg) (s : State) : Host.Outcome State Fault Refusal :=
  strandOp s (.invl a b) fun id c => s.notSpec id
    (let rs := s.rangeLines (s.partOf c.kid) (c.getG a) (c.getG b)
     ((s.flush rs).invalidate (s.coreNo c) rs).advance id 4)

/-! ## Windows and waits -/

/-- The window that WINSET's operands describe (R192, R195). -/
def winOf (a b : Word) (imm : BitVec 32) : Window :=
  { kida := imm.extractLsb' 4 6, anyk := imm.getLsbD 10, devok := imm.getLsbD 11, rights := imm.extractLsb' 0 4,
    size64 := BitVec.ofNat 15 (b.toNat / 64), base64 := BitVec.ofNat 15 (a.toNat / 64) }
/-- WINSET (R195). DESIGN CHOICE (log entry 113): with both gA and gB unaligned, EINFO is gA. -/
def execWinset (a b : Reg) (win : BitVec 3) (imm32 : BitVec 32) (s : State) : Host.Outcome State Fault Refusal :=
  strandOp s (.winset a b win imm32) fun id c =>
    let va := c.getG a
    let vb := c.getG b
    if va.toNat % 64 ≠ 0 then s.trap id cMisalign va
    else if vb.toNat % 64 ≠ 0 then s.trap id cMisalign vb
    else if 2 ^ 20 < vb.toNat ∨ (vb ≠ 0#64 ∧ s.sOf c < va.toNat + vb.toNat) then s.trap id cPagePerm (va + vb)
    else if s.isWarp c.kid ∧ vb ≠ 0#64 then s.trap id cIllegal 0#64
    else (s.updLt c.ltk fun x => { x with windows := x.windows.set win.toNat (winOf va vb imm32) win.isLt }).advance id 12
/-- WAITA (R212): it loads, and completes on the awaited value or waits for a store. -/
def execWaita (a b : Reg) (s : State) : Host.Outcome State Fault Refusal :=
  strandOp s (.waita a b) fun id c =>
    let i : Instr := .waita a b
    let ea := (c.getG a).toNat
    s.aligned id i ea 8 (s.load id i ea 8 fun s1 v =>
      if w64 v = c.getG b then s1.advance id 4 else s1.park id i (.word (c.getG a) (c.getG b)))

end Sys2Proof.Machine
end

