-- ==== Sys2Proof/Machine/Chain.lean ====
section
/-! DEFINITION. Chains: their creation, switch requests and the switch at an equivalence point, and CFORM (R341-R357). -/

namespace Sys2Proof.Machine

open Sys2Proof

/-! ## The descriptor (R341) -/

/-- Fields of a descriptor's bytes. -/
def descNst (b : List Byte) : Nat := hdrField b 0 8 % 8 + 1
def descForm (b : List Byte) : Nat := hdrField b 0 8 / 256 % 2
def descCa (b : List Byte) : Nat := hdrField b 0 8 / 2 ^ 32 % 2 ^ 20
def descEntry (b : List Byte) (i : Nat) : Nat := hdrField b (8 + 8 * i) 8
def descPlace (b : List Byte) (i : Nat) : Nat := hdrField b (72 + 4 * i) 4
def descAt (b : List Byte) (i : Nat) : Nat × Nat := (descPlace b i % 4096, descPlace b i / 4096 % 8)
/-- The descriptor breaks a rule that traps ILLEGAL (R354). -/
def descBad (b : List Byte) (tiles : Nat) : Bool :=
  let n := descNst b
  let ctl := w64 (hdrField b 0 8)
  decide (bits ctl 3 5 ≠ 0) || decide (bits ctl 9 23 ≠ 0) || decide (bits ctl 52 12 ≠ 0) || decide (hdrField b 104 24 ≠ 0) || decide (descCa b % 64 ≠ 0)
    || (List.range 8).any fun i =>
      if i < n then decide (descEntry b i = 0) || decide (descEntry b i % 4 ≠ 0) || decide (2 ^ 15 ≤ descPlace b i) || decide (tiles ≤ (descAt b i).1)
      else decide (descEntry b i ≠ 0) || decide (descPlace b i ≠ 0)

/-! ## Creation (R345, R352, R354) -/

/-- The stages of a chain. -/
def Chain.stages (ch : Chain) : List Nat := List.range ch.nst
/-- The lowest chain number that the kernel does not use. DESIGN CHOICE (log entry 121): R354 says no more of the number than that it is one of 0 to 255. -/
def Kernel.freeChain (k : Kernel) : Option Nat := (List.range 256).find? fun n => k.chains.all fun ch => ch.num ≠ n
/-- The save area of a stage that has not started (R345). -/
def Chain.firstFrame (ch : Chain) (i : Nat) (arg vrt src : Word) (stamp : BitVec 48) : List Byte :=
  let g := (((((((Vector.replicate 32 0#64).set 2 (w64 (ch.frame i + 1024))).set 3 (w64 ch.num)).set 4 (w64 i)).set 5 arg).set 7 vrt).set 8 src)
  ({ g := g, stamp := stamp } : Ctx).frameBytes (ch.entries.toList.getD i 0#64) 0 ++ leBytes 200 0
/-- What CHAIN writes, as logical tile, offset and bytes: every save area with its reserved bytes zero, and every ring's control word and the reserved word in
the logical tiles that hold them (R4, R343, R345, R354). -/
def Chain.firstWrites (ch : Chain) (kid : Nat) (arg vrt : Word) (src : Nat → Word) (stamp : BitVec 48) : List (Nat × Nat × List Byte) :=
  (List.range ch.nst).flatMap fun n =>
    [(ch.lt kid n, ch.frame n, ch.firstFrame n arg vrt (src n) stamp), (ch.lt kid n, ch.ca + 504, leBytes 8 0)]
      ++ (if n = 0 then [] else [(ch.lt kid n, ch.ctlAt (n - 1), leBytes 8 0)])

/-- The task that starts or resumes stage `i`: its payload for the trace is R345's g3 to g6. -/
def Chain.taskOut (ch : Chain) (s : State) (kid i : Nat) (coil : Bool) (arg : Word) (vrt : Nat) : Outgoing :=
  let p := ch.at (if coil then 0 else i)
  { dev := s.device.toNat, kid := kid, lt := p.1, core := p.2, chan := 15, vrt := vrt, p0 := w64 ch.num, p1 := w64 i, p2 := arg, p3 := 0#64,
    carry := fun k => .call k (ch.entries.toList.getD i 0#64) none (some (ch.num, i, coil)) }
/-- Sends the start tasks of a new chain: one for each stage, or one for the coil strand (R353). -/
def State.startChain (s : State) (id : Nat) (ch : Chain) (arg : Word) (vrt : Nat) : List Nat → State
  | [] => s
  | i :: t =>
    let seq := s.seqNext (s.ctxD id)
    ((s.takeSeq id).emit id (ch.taskOut s (s.ctxD id).kid i ch.coiled arg vrt) seq).startChain id ch arg vrt t

/-- CHAIN with its descriptor read (R354). -/
def State.chainMake (s : State) (id : Nat) (i : Instr) (d : Reg) (va arg : Word) (b : List Byte) : State :=
  let c := s.ctxD id
  let k := s.kernelD c.kid
  let nst := descNst b
  let ps := (List.range nst).map (descAt b)
  let coil := decide (descForm b = 1)
  let v := s.sendVrt c
  if descBad b k.tiles then s.trap id cIllegal va
  else if k.warp ∧ (!coil ∨ ps.any fun p => p.1 ≠ c.lt) then s.trap id cChainForm va
  else if k.s < descCa b + 8704 then s.trap id cPagePerm (w64 (descCa b))
  else if ps.dedup.length ≠ nst then s.finishG id d (refusal 2) 4
  else if ps.any fun p => s.hostsStage (lcKey c.kid p.1 p.2) then s.finishG id d (refusal 1) 4
  else if coil ∧ !s.oneTile c.kid ps then s.finishG id d (refusal 3) 4
  else match k.freeChain with
    | none => s.finishG id d (refusal 4) 4
    | some n =>
      let tasks := if coil then [0] else List.range nst
      if !vrtOk v then s.trap id cIllegal (w64 v)
      else if Config.retransmitEntries < (s.lcore c.lck).retx.length + tasks.length ∨ s.agedSend c then s.parkAt id i .sendSpace 0 tasks.length []
      else
        let seq := s.seqNext c
        let src (x : Nat) : Word := s.sendSrc c 15 (if coil then seq else seq + x)
        let ch : Chain := { num := n, nst := nst, ca := descCa b, entries := Vector.ofFn fun x => w64 (if x.val < nst then descEntry b x.val else 0), places := Vector.ofFn fun x => if x.val < nst then descAt b x.val else (0, 0),
                            form := if coil then .coil else .stake, commonG := Vector.ofFn fun x => c.g.toList.getD (16 + x.val) 0#64, commonF := Vector.ofFn fun x => c.f.toList.getD (16 + x.val) 0#64, vrt := w64 v, src := src 0, madeBy := if s.spec c then some c.item.key else none,
                            acqs := Vector.replicate 8 (s.clock (s.coreNo c)).t, ackds := Vector.replicate 8 (s.clock (s.coreNo c)).t }
        let ws := ch.firstWrites c.kid arg (w64 v) src (s.clock (s.coreNo c)).t
        s.areaReady id i (ws.map fun w => (w.1, w.2.1, w.2.2.length)) fun s1 =>
          s1.emitRoom id i true (localDest (ps.headD (0, 0)).1 (ps.headD (0, 0)).2 15) fun s2 =>
            let s3 := ws.foldl (fun s w => s.areaStore id w.1 w.2.1 w.2.2) s2
            ((s3.updK c.kid fun k => { k with chains := k.chains ++ [ch] }).startChain id ch arg v tasks).finishG id d (w64 n) 4

/-- CHAIN (R354). -/
def execChain (d a b : Reg) (s : State) : Host.Outcome State Fault Refusal :=
  strandOp s (.chain d a b) fun id c =>
    let va := c.getG a
    if va.toNat % 64 ≠ 0 then s.trap id cMisalign va
    else if s.sOf c < va.toNat + 128 then s.trap id cPagePerm va
    else s.loadHdr id (.chain d a b) va.toNat 16 [] fun s1 bs => s1.chainMake id (.chain d a b) d va (c.getG b) bs

/-! ## Requests (R351, R355) -/

/-- A switch request is posted, by a program or by the border unit. -/
def State.postSwitch (s : State) (kid n : Nat) (form : ChainForm) (origin : Bool) : State :=
  s.updChain kid n fun ch => { ch with form := form, reqOrigin := origin }
/-- RECOIL (R355). -/
def execRecoil (d a : Reg) (s : State) : Host.Outcome State Fault Refusal :=
  strandOp s (.recoil d a) fun id c =>
    let v := c.getG a
    if 255 < v.toNat then s.trap id cIllegal v
    else match s.chain? c.kid v.toNat with
      | none => s.finishG id d (refusal 3) 4
      | some ch =>
        if ch.form ≠ .stake then s.finishG id d (refusal 1) 4
        else if !s.oneTile c.kid (ch.stages.map ch.at) then s.finishG id d (refusal 2) 4
        else (s.postSwitch c.kid v.toNat .toCoil false).finishG id d 0#64 4
/-- UNCOIL (R352, R355). -/
def execUncoil (d a : Reg) (s : State) : Host.Outcome State Fault Refusal :=
  strandOp s (.uncoil d a) fun id c =>
    let v := c.getG a
    if 255 < v.toNat then s.trap id cIllegal v
    else if s.isWarp c.kid then s.trap id cChainForm v
    else match s.chain? c.kid v.toNat with
      | none => s.finishG id d (refusal 3) 4
      | some ch =>
        if ch.form ≠ .coil then s.finishG id d (refusal 1) 4
        else (s.postSwitch c.kid v.toNat .toStake false).finishG id d 0#64 4
/-- EQPT (R356). -/
def execEqpt (s : State) : Host.Outcome State Fault Refusal :=
  strandOp s .eqpt fun id c =>
    if s.mustHalt c ∧ c.shipped.isSome then s.goHome id .eqpt else (s.advance id 4).haltAfter id

/-! ## Halted stages (R348, R357) -/

/-- The context that runs a stage of the chain, in stake form, or the coil strand. -/
def State.stageCtx (s : State) (kid : Nat) (ch : Chain) (i : Nat) : Option Ctx :=
  ((s.ctxs.find? fun e => decide (e.2.kid = kid) && (match e.2.stage with | some (n, j) => decide (n = ch.num) && (e.2.coil || decide (j = i)) | none => false)).map (·.2))
/-- A stage's strand stands at a QGET, QPEEK, QPUT or EQPT: it has halted, or is parked at one. -/
def Ctx.standsHalted (c : Ctx) : Bool :=
  c.halted || (decide (c.run = .parked) && (match c.held with
    | some h => (match h.instr with | .qget _ _ => true | .qpeek _ _ => true | .qput _ _ => true | _ => false)
    | none => false))
/-- Stage `i` is halted (R348). -/
def State.stageHalted (s : State) (kid : Nat) (ch : Chain) (i : Nat) : Bool :=
  let st := s.stageState kid ch i
  decide (st = 3) || decide (st = 0) || ((ch.pending || ch.single.getLsbD i) &&
    match s.stageCtx kid ch i with
    | none => true
    | some c => if c.coil ∧ ch.cur ≠ i then true else c.standsHalted)
/-- The status word of a chain (R357). -/
def State.chainStatus (s : State) (kid : Nat) (ch : Chain) : Word :=
  let st : Nat := if ch.stalled then 5 else match ch.form with | .stake => 1 | .coil => 2 | .toCoil => 3 | .toStake => 4
  let mask (p : Nat → Bool) : Nat := (ch.stages.map fun i => bit (p i) * 2 ^ i).sum
  w64 (st * 2 ^ 60 + bit ch.origin * 2 ^ 59 + (if ch.coiled then ch.cur else 0) % 8 * 2 ^ 56 + mask (fun i => decide (s.stageState kid ch i = 3)) * 2 ^ 48
    + mask (s.stageHalted kid ch) * 2 ^ 40 + ch.switches.toNat * 2 ^ 32 + (ch.nst - 1))
/-- CFORM (R357). -/
def execCform (d a : Reg) (s : State) : Host.Outcome State Fault Refusal :=
  strandOp s (.cform d a) fun id c =>
    let v := c.getG a
    if 255 < v.toNat then s.trap id cIllegal v
    else s.finishG id d (match s.chain? c.kid v.toNat with | some ch => s.chainStatus c.kid ch | none => 0#64) 4

/-! ## The switch (R349) -/

/-- A stage's strand is saved to its frame, with STATE 1 unless it has ended, and freed (R343, R349). What it has put and not seen acknowledged, what it has
issued, what its engine work follows and what it has still to report stays with its chain (R350); the frame's stamp lies after the puts that are acknowledged. -/
def State.saveStage (s : State) (kid : Nat) (ch : Chain) (i : Nat) : State :=
  match s.stageCtx kid ch i with
  | none => s
  | some c =>
    let lt := ch.lt kid i
    let st := s.stageState kid ch i
    let c1 := { c with stamp := serialMax c.stamp c.ackd }
    let s1 := if st = 3 then s else s.areaWrite lt (ch.frame i) (c1.frameBytes c.pc 1)
    let s2 := (s1.leaveStage c.id).updChain kid ch.num fun x =>
      let own (j : Nat) : Bool := c.coil || decide (j = i)
      { x with nacks := x.nacks ++ c.nacks.map fun a => (i, a), owed := x.owed + c.puts,
               acqs := Vector.ofFn fun j => if own j.val then serialMax x.acqs[j] c.acq else x.acqs[j],
               ackds := Vector.ofFn fun j => if own j.val then serialMax x.ackds[j] c.ackd else x.ackds[j],
               last := x.last ++ (if c.coil then ch.stages else [i]).map fun j => (j, c.id) }
    ((s2.unbindAll c.id).countRun c).dropCtx c.id
/-- The stage tasks of a chain that wait in ready rings; one still under way has nothing to start when it is dispatched. -/
def Item.ofChain (m : Item) (n : Nat) : Bool := match m.stage with | some (x, _) => decide (x = n) | none => false
def State.dropTasks (s : State) (kid n : Nat) : State :=
  { s with lcores := s.lcores.map fun e => if lcKid e.1 = kid then (e.1, e.2.keepTasks fun m => !m.ofChain n) else e }
/-- A task that the module pushes for a stage: counted as sent and received at its logical core (R268, R280). What it starts follows what the stage has acquired. -/
def State.pushStage (s : State) (kid : Nat) (ch0 : Chain) (i : Nat) (coil : Bool) : State :=
  let ch := (s.chain? kid ch0.num).getD ch0
  let lc := ch.lc kid (if coil then 0 else i)
  let pc := w64 (leNat (s.scratchBytes (ch.lt kid i) (ch.frame i + 120) 8))
  let m : Item := { chan := 15, p0 := w64 ch.num, p1 := w64 i, vrt := ch.vrt, src := ch.src, entry := some pc, arrived := s.tbase, agedAt := s.tbase, stage := some (ch.num, i), coil := coil, stamp := ch.acqs.toList.getD i 0#48 }
  (s.updLc lc fun l => (l.countSent true false none).countReceived false true false).pushTask lc m
/-- Link `n`'s words go from port 15 of the consumer's logical core to its ring, and back (R349); who takes a word follows who put it (R253, R350). -/
def State.linkToRing (s0 : State) (kid : Nat) (ch : Chain) (n : Nat) : State :=
  let lc := ch.lc kid (n + 1)
  let s := s0.raiseT (s0.engineOf lc) (s0.port lc 15).stamp
  let ws := (s.port lc 15).words
  let s1 := ws.zipIdx.foldl (fun s e => s.areaWrite (ch.lt kid (n + 1)) (ch.ring n + 8 * e.2) (leBytes 8 e.1.toNat)) s
  (s1.areaWrite (ch.lt kid (n + 1)) (ch.ctlAt n) (leBytes 8 (ringWord 0 ws.length))).updPort lc 15 fun p => { p with words := [] }
def State.linkToPort (s : State) (kid : Nat) (ch : Chain) (n : Nat) : State :=
  let lt := ch.lt kid (n + 1)
  let cn := engineCore (s.ltile lt).tile
  let (b, s1) := s.engScratchLoad cn lt (ch.ctlAt n) 8
  let w := leNat b
  let (r, s2) := s1.engScratchLoad cn lt (ch.ring n) 64
  let ws := (List.range (Nat.min 8 (ringCount w))).map fun j => w64 (leNat ((r.drop (8 * ((ringHead w + j) % 8))).take 8))
  (s2.areaWrite lt (ch.ctlAt n) (leBytes 8 0)).updPort (ch.lc kid (n + 1)) 15 fun p => { p with words := p.words ++ ws, stamp := serialMax p.stamp (s2.clock cn).t }
/-- The links of a chain. -/
def Chain.linkNos (ch : Chain) : List Nat := List.range (ch.nst - 1)
/-- The stages that have not ended. -/
def State.liveStages (s : State) (kid : Nat) (ch : Chain) : List Nat := ch.stages.filter fun i => decide (s.stageState kid ch i ≠ 3)
/-- The chain takes its new form; SWITCHES rises by one (R349). -/
def State.switched (s : State) (kid : Nat) (ch : Chain) (form : ChainForm) (cur : Nat) : State :=
  s.updChain kid ch.num fun x => { x with form := form, cur := cur, switches := x.switches + 1#8, origin := x.reqOrigin, stalled := false }
/-- The switch to coil form and the switch to stake form at an equivalence point (R349). -/
def State.toCoil (s : State) (kid : Nat) (ch : Chain) : State :=
  let s1 := ch.stages.foldl (fun s i => s.saveStage kid ch i) (ch.linkNos.foldl (fun s n => s.linkToRing kid ch n) s)
  let cur := (s1.liveStages kid ch).headD 0
  (((s1.dropTasks kid ch.num).switched kid ch .coil cur)).pushStage kid ch cur true
def State.toStake (s : State) (kid : Nat) (ch : Chain) : State :=
  let s1 := ch.linkNos.foldl (fun s n => s.linkToPort kid ch n) ((s.saveStage kid ch ch.cur).dropTasks kid ch.num)
  (s1.liveStages kid ch).foldl (fun s i => s.pushStage kid ch i false) (s1.switched kid ch .stake 0)
/-- The chain is at an equivalence point (R348). -/
def State.atEquivalence (s : State) (kid : Nat) (ch : Chain) : Bool :=
  ch.pending && ch.stages.all (s.stageHalted kid ch) && ch.stages.all fun i => decide ((s.port (ch.lc kid i) 15).inflight = 0)

/-- A coiled chain stands apart: its logical tiles are on different tiles, and none of them is about to move. -/
def State.apart (s : State) (kid : Nat) (ch : Chain) : Bool :=
  ch.overBy.isNone && decide (ch.form = .coil) && !s.oneTile kid (ch.stages.map ch.at)
    && ch.stages.all fun i => let x := s.ltile (ch.lt kid i)
      x.moving.isNone && decide ((s.tile x.tile).ts ≠ .ceding)
/-- Chains of a kernel that were recoiled for a move which has been given up are uncoiled again: a chain in coil form needs its logical tiles on one tile (R346, R351).
DEDUCED (log entry 122): the border unit posts the request, as before a move that would part them. -/
def State.uncoilApart (s : State) (kid : Nat) : State :=
  (s.kernelD kid).chains.foldl (fun s ch => if s.apart kid ch then s.postSwitch kid ch.num .toStake true else s) s

/-- CHAIN_SWITCH (R349): the chain `ev.idx` of kernel `ev.id` switches at its equivalence point. DEDUCED (log entry 86): the switch waits until the ready rings of its stages
have room for the tasks that it pushes, as every push does (R257, R260). -/
def execChainSwitch (s : State) : Host.Outcome State Fault Refusal :=
  match s.chain? s.ev.id s.ev.idx with
  | none => .next s
  | some ch =>
    if s.kernelRuns s.ev.id && s.atEquivalence s.ev.id ch && ch.stages.all (fun i => s.ringRoom (ch.lc s.ev.id i)) then .next (if ch.form = .toCoil then (s.toCoil s.ev.id ch).uncoilApart s.ev.id else s.toStake s.ev.id ch) else .next s

end Sys2Proof.Machine
end

