-- ==== Sys2Proof/Machine/Page.lean ====
section
/-! DEFINITION. The page instructions, shipping's arrival and return, the flush of the page-request queue, and page moves (R366-R375). -/

namespace Sys2Proof.Machine

open Sys2Proof

/-! ## TLBI (R366, R374) -/

/-- Two ranges of virtual addresses meet; a length of 0 stands for every address. -/
def vaMeets (lo n at_ size : Nat) : Bool := decide (n = 0) || (decide (at_ < lo + n) && decide (lo < at_ + size))
/-- Every cached translation of a partition for a range is dropped. -/
def State.dropTlb (s : State) (part lo n : Nat) : State :=
  { s with tlbs := s.tlbs.map fun e => (e.1, e.2.filter fun t => !(decide (t.part = part) && vaMeets lo n (t.vpn * 65536) 65536)) }
/-- A strand on its way to another cluster holds the translation of a pair's second half there, for a frame (R126, R368). -/
def Ctx.holdsFar (c : Ctx) (lo size : Nat) : Bool := match c.held.bind (·.far) with | some (pa, _) => decide (lo ≤ pa) && decide (pa < lo + size) | none => false
/-- An access of the partition that holds its translation for the range has yet to be performed: a store in a commit queue (R298, R374), or the second half of a pair
whose strand is on its way to it, of any address. -/
def State.xlatesHeld (s : State) (c : Ctx) (lo n : Nat) : Bool :=
  (s.ctxs.any fun e => decide (s.partOf e.2.kid = s.partOf c.kid) && e.2.holdsFar 0 (2 ^ 52)) || s.lcores.any fun e => decide (s.partOf (lcKid e.1) = s.partOf c.kid) && e.2.commitQ.any fun q =>
    match q.op with
    | .store _ bs ea _ _ => vaMeets lo n ea.toNat bs.length
    | _ => false
/-- TLBI (R374). -/
def execTlbi (a b : Reg) (s : State) : Host.Outcome State Fault Refusal :=
  strandOp s (.tlbi a b) fun id c =>
    let lo := (c.getG a).toNat
    let n := (c.getG b).toNat
    let s1 := s.dropTlb (s.partOf c.kid) lo n
    if s.xlatesHeld c lo n then s1.park id (.tlbi a b) (.xlates (c.getG a) (c.getG b)) else s1.advance id 4

/-! ## Page-table entries (R364, R371) -/

/-- The module's own write of an 8-byte page-table entry, after every access of its line so far. -/
def State.writePte (s : State) (pa : Nat) (e : Word) : State :=
  let l := lineOf pa
  let ts := s.rts l + 1#48
  { s.setTimes l ts ts ts with glob := memStore s.glob pa 8 e.toNat, dirty := insertOnce l s.dirty }
/-- The entry at an address. -/
def State.pteAt (s : State) (pa : Nat) : Word := w64 (memLoad s.glob pa 8)
/-- An entry with another KIND, and with another frame. -/
def pteKind (e : Word) (k : BitVec 2) : Word := (e &&& ~~~0x30#64) ||| (k.setWidth 64 <<< 4)
def pteFrame (e : Word) (pa : Nat) : Word := (e &&& 0xFFF00000000000FF#64) ||| (w64 (pa / 256) <<< 8)
/-- The frame of a leaf's page, and its size. -/
def leafFrame (t : Tlb) (level va : Nat) : Nat := t.frame - va % 2 ^ levelShift level / 65536 * 65536

/-! ## PMIG (R371, R372, R374, R375) -/

/-- An access to a virtual address that needs a mapping and no right: page faults trap, an unmapped page parks. -/
def State.mapped (s : State) (id : Nat) (i : Instr) (ea kind : Nat) (k : State → Nat → State) : State :=
  let c := s.ctxD id
  if 2 ^ 56 ≤ ea then s.trap id cPageFault (w64 ea)
  else match s.xlate (s.partOf c.kid) (s.xlUnit c) true (s.coreNo c) ea 4 with
    | (.ok pa _, s1) => k s1 pa
    | (.miss l, s1) => s1.pageMiss id (some i) ea kind l
    | (.walker, s1) => s1.parkAny id (some i) .walker
    | (_, s1) => s1.trap id cPageFault (w64 ea)
/-- The virtual addresses that a copy with a global destination writes, as ranges. -/
def State.copyWrites (s : State) (lc : Nat) (r : CopyRec) : List (Int × Int) :=
  if r.dk ≠ 1 then [] else match r.dstRange with
    | some x => [x]
    | none => (List.range r.len).map fun i =>
        let a : Int := (r.dstAt i (leNat (s.scratchBytes (lc / 8) (r.aux + 4 * i) 4))).toNat
        (a, a + r.e)
/-- A commit-queue entry holds the page of frame `lo`, which partition `part` has mapped at `va` (R298, R372), or a strand on its way to make a pair's second half. -/
def State.pageHeld (s : State) (part va lo size : Nat) : Bool :=
  (s.ctxs.any fun e => e.2.holdsFar lo size) || s.lcores.any fun e => e.2.commitQ.any fun q => match q.op with
    | .store pa bs _ _ _ => decide (pa < lo + size) && decide (lo < pa + bs.length)
    | .copy lc slot => decide (s.partOf (lcKid lc) = part) && ((s.lcore lc).copies.filter fun r => r.slot = slot).any fun r =>
        (s.copyWrites lc r).any fun x => decide (x.1 < ((va + size : Nat) : Int)) && decide ((va : Int) < x.2)
    | _ => false
/-- The frame that the resident kernel found is a whole aligned one at the controller (R364). -/
def frameOk (fw : FwAns) (j size : Nat) : Bool :=
  fw.accept && decide (fw.frame % size = 0) && decide (homeOf fw.frame = some j) && decide (homeOf (fw.frame + size - 1) = some j)
/-- The resident kernel's answer to PMIG: a word, and the state in which an accepted move has begun; none while the page is held. -/
def State.answerMove (s : State) (part ea j : Nat) (fw : FwAns) : Option (Word × State) :=
  match s.walk part ea with
  | .leaf t l at_ pin =>
    let frame := leafFrame t l ea
    let size := 2 ^ levelShift l
    if homeOf frame = some j then some (refusal 1, s)
    else if pin then some (refusal 2, s)
    else if t.kind = 2 then some (refusal 3, s)
    else if !frameOk fw j size then some (refusal 4, s)
    else if s.pageHeld part (ea / size * size) frame size then none
    else some (0#64, { s.writePte at_ (pteKind (s.pteAt at_) 2#2) with moves := s.moves ++ [{ part := part, pteAt := at_, src := frame, dst := fw.frame, size := size }] })
  | _ => some (refusal 4, s)
/-- PMIG (R374): stage 1 waits for the resident kernel. -/
def execPmig (d a b : Reg) (s : State) : Host.Outcome State Fault Refusal :=
  strandOp s (.pmig d a b) fun id c =>
    let i : Instr := .pmig d a b
    let va := c.getG a
    let vb := c.getG b
    if s.spec c then s.trap id cIllegal va
    else if 11 < vb.toNat then s.trap id cIllegal vb
    else s.mapped id i va.toNat aStore fun s1 _ =>
      match c.answer? with
      | none => s1.parkAt id i .answer 1 0 []
      | some fw =>
        match s1.answerMove (s1.partOf c.kid) va.toNat vb.toNat fw with
        | some (w, s2) => s2.finishG id d w 4
        | none => s1.parkAt id i .answer 1 0 []

/-! ## PDIRTY, PSHIP, PHOME (R373-R375) -/

/-- The granule of a virtual address, when its page is dirty-tracked. -/
def State.dtGranule (s : State) (part va : Nat) : Option Nat :=
  if 2 ^ 56 ≤ va then none
  else match s.walk part va with
    | .leaf t _ _ _ => if t.dt then some (t.frame / 65536) else none
    | _ => none
/-- The dirty bits of 64 granules. -/
def State.dirtyBits (s : State) (part va : Nat) : Nat :=
  ((List.range 64).map fun i => match s.dtGranule part (va + i * 65536) with
    | some g => bit (s.dirtyGranules.contains g) * 2 ^ i
    | none => 0).sum
/-- The same bits cleared, each by an atomic access at the granule's home: after every write that has set it and every atomic that has read it, and before every
write that sets it from now on (R183, R373, R374). -/
def State.clearDirty (s : State) (id part va : Nat) : State :=
  let gs := (List.range 64).filterMap fun i => s.dtGranule part (va + i * 65536)
  let cn := s.coreNo (s.ctxD id)
  let s1 := gs.foldl (fun s g => (s.stampAtomic cn (bitLine g) true).2) s
  { s1.stamped id (s1.clock cn).t with dirtyGranules := s1.dirtyGranules.filter fun g => !gs.contains g }
/-- PDIRTY (R374). -/
def execPdirty (d a : Reg) (s : State) : Host.Outcome State Fault Refusal :=
  strandOp s (.pdirty d a) fun id c =>
    let v := c.getG a
    let part := s.partOf c.kid
    if s.spec c then s.trap id cIllegal v
    else if v.toNat % 2 ^ 22 ≠ 0 then s.trap id cMisalign v
    else (s.clearDirty id part v.toNat).finishG id d (w64 (s.dirtyBits part v.toNat)) 4
/-- PSHIP (R374): the strand ships home, or to the cluster of the page's controller. A scratch address is home's (R368). -/
def execPship (a : Reg) (s : State) : Host.Outcome State Fault Refusal :=
  strandOp s (.pship a) fun id c =>
    let i : Instr := .pship a
    let v := (c.getG a).toNat
    if v < 2 ^ 20 then (if c.shipped.isSome then s.goHome id i else s.advance id 4)
    else s.mapped id i v aLoad fun s1 pa =>
      match homeOf pa with
      | none => s1.advance id 4
      | some j => if c.shipped.map nearCtrl = some j then s1.advance id 4 else s1.shipTo id (some i) j
/-- What PHOME reads (R374). -/
def State.homeWord (s : State) (part va : Nat) : Word :=
  if 2 ^ 56 ≤ va then 0#64
  else match s.walk part va with
    | .leaf t l _ pin =>
      let st : Nat := if t.kind = 2 then 3 else if farPa t.frame then 2 else 1
      w64 (st * 2 ^ 62 + bit pin * 2 ^ 61 + bit t.dt * 2 ^ 60 + l % 4 * 2 ^ 58 + (homeOf t.frame).getD 0 % 16 * 2 ^ 52)
    | _ => 0#64
/-- PHOME (R374). -/
def execPhome (d a : Reg) (s : State) : Host.Outcome State Fault Refusal :=
  strandOp s (.phome d a) fun id c =>
    let v := c.getG a
    if s.spec c then s.trap id cFrozenLoad v else s.finishG id d (s.homeWord (s.partOf c.kid) v.toNat) 4

/-! ## Arrival and return of a shipped strand (R367, R368) -/

/-- SHIP_ARRIVAL (R367): the strand that waits longest at the cluster of controller `ev.id` takes its lowest free strand. -/
def execShipArrival (s : State) : Host.Outcome State Fault Refusal :=
  let j := s.ev.id
  let x := s.ctrl j
  match x.waiting, (List.range 16).find? fun n => (x.slots.toList.getD n none).isNone with
  | id :: rest, some n =>
    if 12 ≤ j ∨ !s.kernelRuns (s.ctxD id).kid then .next s
    else
      let s1 := s.updCtrl j fun x => { x with waiting := rest, slots := x.slots.set (n % 16) (some id) (Nat.mod_lt _ (by decide)) }
      let s2 := s1.upd id fun c => { c with shipped := some (16 * j + n), shipWait := false, awayCount := 0 }
      .next (s2.raiseT (s2.coreNo (s2.ctxD id)) (s2.ctxD id).stamp)
  | _, _ => .next s
/-- SHIP_BACK_COUNT (R368): context `ev.id` has completed 4,096 instructions away without an access to its cluster's pages. -/
def execShipBackCount (s : State) : Host.Outcome State Fault Refusal :=
  let c := s.ctxD s.ev.id
  if (s.ctx? s.ev.id).isSome ∧ c.shipped.isSome ∧ 4096 ≤ c.awayCount ∧ c.run = .ready ∧ s.kernelRuns c.kid then .next (s.shipHome s.ev.id) else .next s

/-! ## The flush (R370) -/

/-- The waiting access's effective address, for a context that waits at a die. -/
def State.pageWait (s : State) (die : Nat) (c : Ctx) : Option Word :=
  match c.wait with
  | .page va _ => if s.dieOf c = die then some va else none
  | _ => none
/-- The ANSWER words that firmware writes into records (R369). -/
def Die.answered (d : Die) (answers : List (Nat × Word)) : Die :=
  { d with pages := d.pages.map fun r => match mget r.slot answers with
      | some a => { r with answer := a.setWidth 2, ansGen := a.extractLsb' 16 16 }
      | none => r }
/-- The page of an address has a record that firmware refuses in this generation. -/
def Die.refuses (d : Die) (part va : Nat) : Bool :=
  d.pages.any fun r => decide (r.part = part) && decide (r.va = w64 (va / 65536 * 65536)) && decide (r.answer = 2#2) && decide (r.ansGen = d.pageGen)
/-- The strands that wait at a die go on: refused ones trap, the others walk again. A FROZEN context is kept as it is (R102). -/
def State.flushCtxs (s : State) (die : Nat) (d : Die) : State :=
  s.ctxs.foldl (fun s e => match s.pageWait die e.2 with
    | some va => if (s.kernelD e.2.kid).state = .frozen then s else if d.refuses (s.partOf e.2.kid) va.toNat then s.trap e.1 cPageFault va else s.upd e.1 fun c => { c with wait := .none }
    | none => s) s
/-- The copies that wait at a die go on, but for a FROZEN kernel's. -/
def State.flushCopies (s : State) (die : Nat) (d : Die) : State :=
  s.lcores.foldl (fun s e => e.2.copies.foldl (fun s r =>
    if r.state = 3 ∧ s.copyDie e.1 = die ∧ (s.kernelD (lcKid e.1)).state ≠ .frozen then s.copyAnswered e.1 r.slot (d.refuses (s.partOf (lcKid e.1)) r.pageVa.toNat) else s) s) s
/-- PAGE_REQUEST_FLUSH (R370): firmware writes `ev.answers` to the ANSWER words of the records of die `ev.id`, and `ev.w0` to its flush register. -/
def execPageRequestFlush (s0 : State) : Host.Outcome State Fault Refusal :=
  let die := s0.ev.id
  let s := if die < 4 then s0.updDie die fun d => d.answered s0.ev.answers else s0
  let d := s.die die
  if 4 ≤ die ∨ s.ev.w0 ≠ d.pageGen.setWidth 64 then .next s
  else .next (((s.flushCtxs die d).flushCopies die d).updDie die fun x => { x with pages := [], pageGen := x.pageGen + 1#16 })

/-- A context's page wait ends. -/
def State.leavePage (s : State) (id : Nat) : State :=
  let c := s.ctxD id
  match c.wait with
  | .page va _ => (s.updDie (s.dieOf c) fun d => d.leave (s.partOf c.kid) va.toNat).upd id fun c => { c with wait := .none }
  | _ => s
/-- Every page wait of a logical core's copies ends. -/
def State.copiesLeavePages (s : State) (lc : Nat) : State := (s.lcore lc).copies.foldl (fun s r => s.copyLeavePage lc r.slot) s

/-! ## The end of a move (R371, R372) -/

/-- What a list has for a moved range, it has for the target too. -/
def copyKeys {α : Type} (lo len to_ : Nat) (m : List (Nat × α)) : List (Nat × α) :=
  (m.filter fun e => decide (lo ≤ e.1) && decide (e.1 < lo + len)).foldl (fun r e => mset (to_ + (e.1 - lo)) e.2 r)
    (m.filter fun e => !(decide (to_ ≤ e.1) && decide (e.1 < to_ + len)))
def copyNums (lo len to_ : Nat) (m : List Nat) : List Nat :=
  (m.filter fun a => !(decide (to_ ≤ a) && decide (a < to_ + len))) ++ (m.filter fun a => decide (lo ≤ a) && decide (a < lo + len)).map fun a => to_ + (a - lo)
/-- What lies in a moved range stands at the target instead. -/
def shiftNums (lo len to_ : Nat) (m : List Nat) : List Nat :=
  (m.filter fun a => !(decide (to_ ≤ a) && decide (a < to_ + len))).map fun a => if lo ≤ a ∧ a < lo + len then to_ + (a - lo) else a
/-- The page stands at its target with its values, its line times and its dirty bits, with what fetches may still see of it and with its signal writes (R48, R179); leased
copies of the target's lines are gone, and what either frame held before is in no access's reach any more, since the move takes its place after every access at the
source. The source frame keeps its line times, which order what it holds next after the leases that are still out on it (R165, R372). -/
def State.movePage (s : State) (m : Move) : State :=
  let l := lineOf m.src
  let n := m.size / 128
  let t := lineOf m.dst
  let keep (x : Lease) : Bool := !(decide (t ≤ x.line) && decide (x.line < t + n))
  let inside (lo a : Nat) : Bool := decide (lo ≤ a) && decide (a < lo + m.size)
  let at_ (lo len to_ a : Nat) : Nat := if lo ≤ a ∧ a < lo + len then to_ + (a - lo) else a
  let a := homeKey l
  let b := homeKey t
  { s with
    glob := memMove s.glob m.src m.size m.dst
    dram := memMove s.dram m.src m.size m.dst
    dirty := copyNums l n t s.dirty
    times := copyKeys (bitLine (m.src / 65536)) (m.size / 65536) (bitLine (m.dst / 65536)) (copyKeys l n t s.times)
    past := s.past.filter fun p => !inside m.src (128 * p.line) && !inside m.dst (128 * p.line)
    signals := (s.signals.filter fun g => !inside m.dst (128 * g.line)).map fun g => ({ g with line := at_ l n t g.line } : Signal)
    ctxs := s.ctxs.map fun e => (e.1, { e.2 with oldWords := (e.2.oldWords.filter fun w => !inside m.dst w.1).map fun w => (at_ m.src m.size m.dst w.1, w.2) })
    homes := mset b (serialMax (s.home b).1 (s.home a).1, serialMax (s.home b).2 (s.home a).2) s.homes
    dirtyGranules := shiftNums (m.src / 65536) (m.size / 65536) (m.dst / 65536) s.dirtyGranules
    copies := s.copies.map fun e => (e.1, e.2.filter keep)
    rdcs := s.rdcs.map fun e => (e.1, e.2.filter keep)
    bars := (s.bars.filter fun x => !inside m.dst x.place).map fun x => if inside m.src x.place then { x with place := m.dst + (x.place - m.src) } else x }
/-- MIGRATION_COMPLETE (R371): the move `ev.idx` of the moves under way ends, once no access on its way to the source holds a translation: the frame changes, the
hardware drops the page's translations. -/
def execMigrationComplete (s : State) : Host.Outcome State Fault Refusal :=
  match s.moves[s.ev.idx]? with
  | none => .next s
  | some m =>
    if s.ctxs.any fun e => e.2.holdsFar m.src m.size then .next s else
    let s1 := s.movePage m
    let s2 := s1.writePte m.pteAt (pteFrame (pteKind (s1.pteAt m.pteAt) 0#2) m.dst)
    .next { s2 with
      moves := s2.moves.eraseIdx s.ev.idx
      tlbs := s2.tlbs.map fun e => (e.1, e.2.filter fun t => !(decide (t.part = m.part) && decide (m.src ≤ t.frame) && decide (t.frame < m.src + m.size))) }
/-- MIGRATION_ABANDON (R371): the target of the move `ev.idx` has an uncorrectable error. -/
def execMigrationAbandon (s : State) : Host.Outcome State Fault Refusal :=
  match s.moves[s.ev.idx]? with
  | none => .next s
  | some m => .next { s.writePte m.pteAt (pteKind (s.pteAt m.pteAt) 0#2) with moves := s.moves.eraseIdx s.ev.idx }

/-- PAGE_TABLE_ENTRY_WRITE (R371): the resident kernel of partition `ev.id` writes `ev.w1` to the level `ev.idx` entry at `ev.w0`. The page of a move
under way keeps its frame and its KIND; DT newly set clears the page's dirty bits. With `ev.flag` a TLBI of the resident kernel follows, for the range of virtual
addresses that `ev.picks` gives as its first address and its length, 0 for every address (R366). -/
def execPageTableEntryWrite (s : State) : Host.Outcome State Fault Refusal :=
  let pa := s.ev.w0.toNat
  let new := s.ev.w1
  let old := s.pteAt pa
  let fixed := 0x000FFFFFFFFFFFF0#64
  if pa % 8 ≠ 0 ∨ (homeOf pa).isNone ∨ (apertureCtrl pa).isSome ∨ 4 < s.ev.idx ∨ !(s.part s.ev.id).present then .next s
  else if s.moves.any (fun m => decide (m.pteAt = pa)) && decide (new &&& fixed ≠ old &&& fixed) then .next s
  else
    let s1 := s.writePte pa new
    let lo := bits new 8 44 * 256 / 65536
    let n := 2 ^ levelShift s.ev.idx / 65536
    let s2 := if s.ev.flag then s1.dropTlb s.ev.id (s.ev.picks.getD 0 0) (s.ev.picks.getD 1 0) else s1
    .next (if new.getLsbD 7 && new.getLsbD 6 && new.getLsbD 2 && !(old.getLsbD 7 && old.getLsbD 2) then
      { s2 with dirtyGranules := s2.dirtyGranules.filter fun g => !(decide (lo ≤ g) && decide (g < lo + n)) } else s2)

end Sys2Proof.Machine
end

