-- ==== Sys2Proof/Machine/Sfu.lean ====
section
/-! DEFINITION. The special-function unit (R147-R150). -/

namespace Sys2Proof.Machine

open Sys2Proof

/-- The SFU that serves a context: its tile's, or 1,024 + j for a near-memory cluster's (R148). -/
def State.sfuNo (s : State) (c : Ctx) : Nat := s.xlUnit c
/-- The request queue of an SFU, oldest first. -/
def State.sfuQueue (s : State) (n : Nat) : List Nat := if n < 1024 then (s.tile n).sfu else (s.ctrl (n - 1024)).sfu
/-- Replaces the queue of an SFU. -/
def State.setSfu (s : State) (n : Nat) (q : List Nat) : State :=
  if n < 1024 then s.updTile n fun x => { x with sfu := q } else s.updCtrl (n - 1024) fun x => { x with sfu := q }
/-- An entry of the context's SFU is free. -/
def State.sfuRoom (s : State) (id : Nat) : Bool := decide ((s.sfuQueue (s.sfuNo (s.ctxD id))).length < Config.sfuEntries)

/-- The module number of the strand that runs a context (R11, R163). -/
def State.strandNo (s : State) (c : Ctx) : Nat := 4 * s.coreNo c + (match c.shipped with | some n => n % 4 | none => c.strand.toNat)
/-- A queue with a request that enters now: behind all but those that enter in the same cycle from strands of higher numbers (R148). DEDUCED (log entry 119):
requests that enter in one nanosecond of TBASE, the model's unit of time, enter in the same cycle. -/
def State.sfuInsert (s : State) (id : Nat) : List Nat → List Nat
  | [] => [id]
  | x :: t =>
    if (s.ctxD x).parkedAt = s.tbase ∧ s.strandNo (s.ctxD id) < s.strandNo (s.ctxD x) then id :: x :: t else x :: s.sfuInsert id t
/-- The request enters the queue at its tail, or the strand waits for an entry; the operands and the sample stay (R148). -/
def State.sfuEnter (s : State) (id : Nat) (i : Instr) (vals : List Word) : State :=
  let n := s.sfuNo (s.ctxD id)
  let c := s.ctxD id
  if s.sfuRoom id then ((s.parkAt id i .sfuResult 1 0 vals).setSfu n (s.sfuInsert id (s.sfuQueue n))).count (s.tileOf c) c.kid 11 1
  else s.parkAt id i .sfuEntry 1 0 vals

/-- A spill, switch or shipping withdraws the request, which is reissued at the tail (R149). -/
def State.sfuReissue (s : State) (id : Nat) : State :=
  (s.sfuWithdraw id).upd id fun c => if c.wait = .sfuResult then { c with wait := .sfuEntry } else c

/-- Completes with the result that the SFU has returned (R148): fD, FFLAGS and R133. -/
def State.sfuFinish (s : State) (id : Nat) (i : Instr) (d a : Reg) (vals : List Word) : State :=
  s.finishFlags id i 4 ((vals.getD 1 0#64).setWidth 5) fun s1 k => s1.putPopped id i [a] [(d, vals.getD 0 0#64)] k

/-- An SFU instruction: it issues once with its operands; after that the request waits, or its result is written. -/
def State.sfuOp (s : State) (id : Nat) (i : Instr) (d a : Reg) : State :=
  let c := s.ctxD id
  match c.stageOf with
  | 0 => s.withF id i [a] [d] fun s1 vs => (s1.popF id [a]).sfuEnter id i vs
  | 1 => s.sfuEnter id i c.valsOf
  | _ => s.sfuFinish id i d a c.valsOf

/-- FUNC, the rounding and the registers of an SFU instruction (R147). -/
def sfuForm (i : Instr) : Option (Nat × RM × Reg × Reg) :=
  match i with
  | .fexp2 d a rm => some (0, rm, d, a)
  | .flog2 d a rm => some (1, rm, d, a)
  | .frcp d a rm => some (2, rm, d, a)
  | .frsq d a rm => some (3, rm, d, a)
  | .fsin d a rm => some (4, rm, d, a)
  | .fcos d a rm => some (5, rm, d, a)
  | .ftanh d a rm => some (6, rm, d, a)
  | .flgst d a rm => some (7, rm, d, a)
  | _ => none

/-- Both lanes of a function (R147). -/
def sfuWord (func : Nat) (md : RM) (v : Word) : Word × BitVec 5 := mapLanes 32 2 fun i => sfuLane func md (lane 32 v i)

/-- The SFU's oldest request returns: with an uncorrectable error the strand traps SFU_ERROR and its streams stay (R150,
R153); otherwise its result and flags are written (R148). -/
def State.sfuReturn (s : State) (n id : Nat) (err : Bool) : State :=
  let c := s.ctxD id
  match c.held with
  | none => s
  | some h =>
    match sfuForm h.instr with
    | none => s
    | some (func, rm, d, a) =>
      let s1 := s.setSfu n ((s.sfuQueue n).drop 1)
      if err then s1.trap id cSfuError (w64 func)
      else
        let r := sfuWord func (modeOf rm h.sample) (h.vals.getD 0 0#64)
        let vals := [r.1, r.2.setWidth 64]
        (s1.upd id fun c => { c with held := some { h with stage := 2, vals := vals } }).sfuFinish id h.instr d a vals

/-- SFU_RESULT (R148, R150): `ev.id` names the SFU and `ev.flag` an uncorrectable error. A stop halts the SFU (R149). -/
def execSfuResult (s : State) : Host.Outcome State Fault Refusal :=
  match s.sfuQueue s.ev.id with
  | [] => .next s
  | id :: _ =>
    let c := s.ctxD id
    if c.wait = .sfuResult ∧ s.kernelRuns c.kid ∧ !(decide (s.ev.id < 1024) && s.leasedOut s.ev.id (s.partOf c.kid)) then .next (s.sfuReturn s.ev.id id s.ev.flag) else .next s

/-- FEXP2 (R147). -/
def execFexp2 (d a : Reg) (rm : RM) (s : State) : Host.Outcome State Fault Refusal :=
  strandOp s (.fexp2 d a rm) fun id _ => s.sfuOp id (.fexp2 d a rm) d a
/-- FLOG2 (R147). -/
def execFlog2 (d a : Reg) (rm : RM) (s : State) : Host.Outcome State Fault Refusal :=
  strandOp s (.flog2 d a rm) fun id _ => s.sfuOp id (.flog2 d a rm) d a
/-- FRCP (R147). -/
def execFrcp (d a : Reg) (rm : RM) (s : State) : Host.Outcome State Fault Refusal :=
  strandOp s (.frcp d a rm) fun id _ => s.sfuOp id (.frcp d a rm) d a
/-- FRSQ (R147). -/
def execFrsq (d a : Reg) (rm : RM) (s : State) : Host.Outcome State Fault Refusal :=
  strandOp s (.frsq d a rm) fun id _ => s.sfuOp id (.frsq d a rm) d a
/-- FSIN (R147). -/
def execFsin (d a : Reg) (rm : RM) (s : State) : Host.Outcome State Fault Refusal :=
  strandOp s (.fsin d a rm) fun id _ => s.sfuOp id (.fsin d a rm) d a
/-- FCOS (R147). -/
def execFcos (d a : Reg) (rm : RM) (s : State) : Host.Outcome State Fault Refusal :=
  strandOp s (.fcos d a rm) fun id _ => s.sfuOp id (.fcos d a rm) d a
/-- FTANH (R147). -/
def execFtanh (d a : Reg) (rm : RM) (s : State) : Host.Outcome State Fault Refusal :=
  strandOp s (.ftanh d a rm) fun id _ => s.sfuOp id (.ftanh d a rm) d a
/-- FLGST (R147). -/
def execFlgst (d a : Reg) (rm : RM) (s : State) : Host.Outcome State Fault Refusal :=
  strandOp s (.flgst d a rm) fun id _ => s.sfuOp id (.flgst d a rm) d a

end Sys2Proof.Machine
end

