-- ==== Sys2Proof/Machine/Territory.lean ====
section
/-! DEFINITION. The territory: its instructions, upcalls, the latch of the novena, and how logical tiles move (R316-R320, R326, R330, R333-R338, R351). -/

namespace Sys2Proof.Machine

open Sys2Proof

/-! ## The shape (R333) -/

/-- Extremes of a list of numbers, 0 for none. -/
def leastOf (l : List Nat) : Nat := match l with | [] => 0 | x :: t => t.foldl Nat.min x
def mostOf (l : List Nat) : Nat := l.foldl Nat.max 0
/-- The shape summary word of a territory. -/
def State.shapeWord (s : State) (kid : Nat) : Word :=
  let k := s.kernelD kid
  let ts := s.terr kid
  let xs := ts.map (· % 32)
  let ys := ts.map (· / 32)
  w64 (k.gen.toNat * 2 ^ 48 + ts.length % 2048 * 2 ^ 37 + k.anchor / 32 % 32 * 2 ^ 32 + k.anchor % 32 * 2 ^ 27
    + mostOf ys * 2 ^ 22 + mostOf xs * 2 ^ 17 + leastOf ys * 2 ^ 12 + leastOf xs * 2 ^ 7)
/-- The row of a territory at a y (R333). -/
def State.rowWord (s : State) (kid y : Nat) : Word :=
  let ts := s.terr kid
  w64 ((s.kernelD kid).gen.toNat * 2 ^ 48 + ((List.range 32).map fun x => bit (ts.contains (32 * y + x)) * 2 ^ x).sum)

/-- What TSHAPE, TMAP and TPRESS meet first, and what TUPC and TPIN meet first (R338). -/
def State.warpRead (s : State) (id : Nat) (k : State) : State := if s.spec (s.ctxD id) then s.trap id cFrozenLoad 0#64 else k
def State.warpWrite (s : State) (id : Nat) (k : State) : State := if s.spec (s.ctxD id) then s.trap id cIllegal 0#64 else k

/-- TSHAPE (R333). -/
def execTshape (d a : Reg) (s : State) : Host.Outcome State Fault Refusal :=
  strandOp s (.tshape d a) fun id c => s.warpRead id (
    let v := c.getG a
    if v = 0#64 then s.finishG id d (s.shapeWord c.kid) 4
    else if v.toNat ≤ 32 then s.finishG id d (s.rowWord c.kid (v.toNat - 1)) 4
    else s.trap id cIllegal v)
/-- The logical tile is being rehomed (R334). -/
def State.isMoving (s : State) (lt : Nat) : Bool := (s.ltile lt).moving.isSome
/-- TMAP (R334). -/
def execTmap (d a : Reg) (s : State) : Host.Outcome State Fault Refusal :=
  strandOp s (.tmap d a) fun id c => s.warpRead id (
    let v := c.getG a
    let k := s.kernelD c.kid
    if k.tiles ≤ v.toNat then s.trap id cIllegal v
    else
      let x := s.ltile (ltKey c.kid v.toNat)
      s.finishG id d (w64 (k.gen.toNat * 2 ^ 48 + bit (s.isMoving (ltKey c.kid v.toNat)) * 2 ^ 47 + x.j % 4 * 2 ^ 10 + x.tile % 1024)) 4)
/-- TPRESS (R335). -/
def execTpress (d a : Reg) (s : State) : Host.Outcome State Fault Refusal :=
  strandOp s (.tpress d a) fun id c => s.warpRead id (
    let v := c.getG a
    let k := s.kernelD c.kid
    let t := s.tileOf c
    match v.toNat with
    | 0 => s.finishG id d (w64 k.pressure) 4
    | 1 => s.finishG id d (w64 k.loadSum) 4
    | 2 => s.finishG id d (w64 k.claimLatched) 4
    | 3 => s.finishG id d (w64 (s.tile t).load) 4
    | 4 => s.finishG id d ((s.die (dieOfTile t)).hLatched.setWidth 64) 4
    | _ => s.trap id cIllegal v)
/-- Fields of an upcall setting (R336). -/
def upChan (w : Word) : Nat := bits w 16 4
def upLt (w : Word) : Nat := bits w 0 12
def upCore (w : Word) : Nat := bits w 12 3
/-- TUPC (R336). -/
def execTupc (d a : Reg) (s : State) : Host.Outcome State Fault Refusal :=
  strandOp s (.tupc d a) fun id c => s.warpWrite id (
    let v := c.getG a
    if bits v 20 44 ≠ 0 ∨ upChan v = 15 ∨ (s.kernelD c.kid).tiles ≤ upLt v then s.trap id cIllegal v
    else (s.updK c.kid fun k => { k with upcall := v }).finishG id d (s.kernelD c.kid).upcall 4)
/-- TPIN (R337). -/
def execTpin (d a b : Reg) (s : State) : Host.Outcome State Fault Refusal :=
  strandOp s (.tpin d a b) fun id c => s.warpWrite id (
    let va := c.getG a
    let vb := c.getG b
    let lt := ltKey c.kid va.toNat
    let pins := ((s.ltsOf c.kid).filter fun l => (s.ltile l).pinned).length
    let old := (s.ltile lt).pinned
    if (s.kernelD c.kid).tiles ≤ va.toNat then s.trap id cIllegal va
    else if 1 < vb.toNat then s.trap id cIllegal vb
    else if vb = 1#64 ∧ !old ∧ 4 ≤ pins then s.finishG id d (refusal 1) 4
    else (s.updLt lt fun x => { x with pinned := decide (vb = 1#64) }).finishG id d (w64 (bit old)) 4)

/-! ## Upcalls (R330) -/

/-- An upcall to a kernel that has a target: 1 gain, 2 loss, 3 forced loss of a tile, and the other territory's owner id. -/
def State.sendUpcall (s : State) (kid kind t other : Nat) : State :=
  let k := s.kernelD kid
  if k.upcall.getLsbD 15 then
    s.sendMsg (lcKey 63 0 0) 0 s.device.toNat kid (upLt k.upcall) (upCore k.upcall) (upChan k.upcall) 0#64
      (srcWord 0 s.device.toNat 63 (upChan k.upcall) 0 0 0) (w64 kind) (w64 (t + other * 2 ^ 16)) (s.shapeWord kid) (k.gen.setWidth 64) (.message {} none) {}
  else s
/-- A territory has gained or lost a tile: its generation rises, and the sweep under way is void (R281, R330). -/
def State.shapeChanged (s : State) (kid : Nat) : State := s.updK kid fun k => { k with gen := k.gen + 1#16, swVoid := true }

/-! ## The sweep tree (R320) -/

/-- The tiles from a tile up to its territory's anchor. -/
def State.ancestors (s : State) : Nat → Nat → List Nat
  | 0, t => [t]
  | n + 1, t => match neighbour t (s.tile t).parent.toNat with
    | some u => t :: s.ancestors n u
    | none => [t]
/-- Distance of two tiles of a territory in its tree. -/
def State.treeDist (s : State) (a b : Nat) : Nat :=
  let x := s.ancestors 1024 a
  let y := s.ancestors 1024 b
  let common := x.filter y.contains
  (x.length - common.length) + (y.length - common.length)
/-- DEPTH of every tile of a territory follows from the parents. -/
def State.redepth (s : State) (kid : Nat) : State :=
  (s.terr kid).foldl (fun s' t => s'.updTile t fun x => { x with depth := (s.ancestors 1024 t).length - 1 }) s
/-- TREE_PARENT_CHANGE (R320): in its phase, MEMBER tile `ev.id` takes its neighbour in direction `ev.idx` as its parent. -/
def execTreeParentChange (s : State) : Host.Outcome State Fault Refusal :=
  let t := s.ev.id
  let x := s.tile t
  let n := s.tbase / (1000 * Nat.max 1 s.phaseLen)
  match neighbour t s.ev.idx with
  | none => .next s
  | some u =>
    let y := s.tile u
    if t < 1024 ∧ x.ts = .member ∧ (t % 32) % 3 = n % 3 ∧ (t / 32) % 3 = n / 3 % 3 ∧ !x.anchor ∧ y.owner = x.owner ∧ y.ts = .member ∧ y.depth < x.depth ∧ s.ev.idx ≠ x.parent.toNat then
      .next ((s.updTile t fun x => { x with parent := BitVec.ofNat 3 s.ev.idx }).redepth x.owner.toNat)
    else .next s

/-! ## The novena (R318, R319) -/

/-- The phase that a time lies in. -/
def State.phase (s : State) : Nat := s.tbase / (1000 * Nat.max 1 s.phaseLen)
/-- LOAD of a tile from what it measured over `len` ns. -/
def Tile.loadOf (x : Tile) (d : Die) (len : Nat) : Nat :=
  let r := x.ringNs / Nat.max 1 len
  let w := if x.waitCount = 0 then 0 else Nat.min 65535 (x.waitSum / (1000 * x.waitCount))
  Nat.min (d.wr.toNat * r + d.ww.toNat * w + d.ws.toNat * x.spills) (2 ^ 24 - 1)
/-- The latch of every tile, and the sums of every territory (R319, R339); R is a mean over the time since the measures began. -/
def State.latch (s : State) (cycle : Nat) : State :=
  let len := s.tbase - s.latchedAt
  let s1 : State := { s with
    novenaCycle := cycle
    latchedAt := s.tbase
    dies := s.dies.map fun e => (e.1, { e.2 with hLatched := e.2.h })
    tiles := s.tiles.map fun e => let l := e.2.loadOf (s.die (dieOfTile e.1)) len
      (e.1, { e.2 with load := l, levLoad := l, ringNs := 0, waitSum := 0, waitCount := 0, spills := 0 }) }
  { s1 with kernels := s1.kernels.map fun e =>
      let ts := s1.terr e.1
      let l := (ts.map fun t => (s1.tile t).load).sum
      (e.1, { e.2 with loadSum := l, claimLatched := e.2.claim, pressure := e.2.claim * l / Nat.max 1 ts.length }) }
/-- NOVENA_LATCH (R319): at the first phase of a new cycle. -/
def execNovenaLatch (s : State) : Host.Outcome State Fault Refusal :=
  if s.novenaCycle < s.phase / 9 then .next (s.latch (s.phase / 9)) else .next s

/-! ## Stop records (R412) -/

/-- The 32-byte stop record of a core: its cycle counter, TBASE, and the counts of the kernel that it hosts, zero on a core of a free tile. DESIGN CHOICE (log entry 123): the cycle
counter, of which the spec gives no width, start or rate, is a free value. -/
def State.stopRecord (s : State) (n core : Nat) : Nat × List Byte :=
  let ls := (s.hosted (core / 8)).map fun lt => s.lcore (8 * lt + core % 8)
  (core, wordBytes (w64 (Config.freeChoice (s.free + n))) ++ leBytes 8 s.tbase ++ leBytes 8 (ls.map (·.sent)).sum ++ leBytes 8 (ls.map (·.received)).sum)
/-- The stop records of the cores of some tiles. -/
def State.stopRecords (s : State) (tiles : List Nat) : List (Nat × List Byte) :=
  (tiles.flatMap fun t => (List.range 8).map fun c => 8 * t + c).zipIdx.map fun e => s.stopRecord e.2 e.1
/-- The cores of some tiles write their stop records. -/
def State.writeStops (s : State) (tiles : List Nat) : State :=
  let rs := s.stopRecords tiles
  { s with free := s.free + rs.length, hostSide := { s.hostSide with stops := s.hostSide.stops ++ rs } }

/-! ## Moving logical tiles (R326, R327, R351, R434) -/

/-- Contexts whose activation belongs to a logical tile. -/
def State.ctxsOf (s : State) (lt : Nat) : List Ctx := (s.ctxs.map (·.2)).filter fun c => decide (ltKey c.kid c.homeLt = lt)
/-- The activations of a logical tile have run to DONE, apart from those parked, trapped or saved (R325 step 2). -/
def State.quiet (s : State) (lt : Nat) : Bool :=
  (s.ctxsOf lt).all fun c => c.spilled || c.switched || (decide (c.shipped = none) && !c.shipWait && (decide (c.run = .parked) || decide (c.run = .trapped) || c.halted))
/-- A context's record is written, and it has no slot any more (R102). -/
def State.saveSpilled (s : State) (id : Nat) : State := (s.saveRecord id false).upd id fun c => { c with spilled := true }
/-- A team spill on a tile is counted (R319, R446). -/
def State.countSpill (s : State) (t kid : Nat) : State := (s.updTile t fun x => { x with spills := x.spills + 1 }).count t kid 10 1
/-- The clocks of the cores that host a logical tile, or those kept with it while it stands on no tile (R181). -/
def State.clocksOf (s : State) (lt : Nat) : List (BitVec 48) :=
  let t := (s.ltile lt).tile
  if t < noTile then (List.range 8).map fun i => (s.clock (8 * t + i)).t else (s.ltile lt).clocks
/-- What a logical tile brings raises the clocks of the cores that host it now (R181, R327). -/
def State.bringClocks (s : State) (lt : Nat) (ks : List (BitVec 48)) : State :=
  let t := (s.ltile lt).tile
  if t < noTile then (ks.zipIdx.foldl (fun s e => s.raiseT (8 * t + e.2) e.1) s).updLt lt fun x => { x with clocks := [] }
  else s.updLt lt fun x => { x with clocks := ks }
/-- One logical tile moves to slot `j` of tile `u`, or to no tile: the accesses accepted for it take their places first, its parked teams are spilled, with their SFU
requests withdrawn, until slots are given again, page waits end, also of strands spilled before, since another die may serve the new tile (R370), the map changes,
and the old tile holds a stub. What follows at the new place comes after what was performed at the old one (R327). -/
def State.moveLt (s0 : State) (lt u j : Nat) : State :=
  let s := s0.landTaken fun f => decide (ltKey f.kid f.lt = lt)
  let old := (s.ltile lt).tile
  let ks := s.clocksOf lt
  let teams := (((s.ctxsOf lt).filter fun c => c.holdsSlot && decide (c.run = .parked)).map s.teamNo).eraseDups
  let s1 := (s.ctxsOf lt).foldl (fun s c => let s' := s.leavePage c.id
    if c.spilled then s' else (s'.sfuReissue c.id).saveSpilled c.id) ((List.range 8).foldl (fun s i => s.copiesLeavePages (8 * lt + i)) s)
  let s2 := teams.foldl (fun s _ => s.countSpill old (lt / 4096)) s1
  let s3 := s2.updLt lt fun x => { x with tile := u, j := j, moving := none, moveJ := 0, mapGen := x.mapGen + 1#32 }
  let s4 := if old < noTile then s3.updTile old fun x => { x with stubs := x.stubs.filter (fun b => b.lt ≠ lt) ++ [{ lt := lt, pending := List.range 1024 }], muOwner := x.muOwner.filter fun o => o.2 / 8 ≠ lt } else s3
  (if u < noTile then s4.updTile u fun x => { x with stubs := x.stubs.filter fun b => b.lt ≠ lt } else s4).bringClocks lt ks

/-- A plan: which logical tile goes to which tile and slot. -/
abbrev Plan := List (Nat × Nat × Nat)
/-- The tile of a logical tile of a kernel after a plan. -/
def State.tileAfter (s : State) (p : Plan) (lt : Nat) : Nat := match p.find? fun e => e.1 = lt with | some e => e.2.1 | none => (s.ltile lt).tile
/-- A chain's stages stand on one tile after a plan. -/
def State.gathered (s : State) (kid : Nat) (ch : Chain) (p : Plan) : Bool :=
  match ch.stages.map fun i => s.tileAfter p (ch.lt kid i) with
  | [] => true
  | t :: r => r.all (· = t)
/-- The number of logical tiles that a tile hosts after a plan. -/
def State.hostedAfter (s : State) (p : Plan) (t : Nat) : Nat := (s.ltiles.filter fun e => decide (s.tileAfter p e.1 = t)).length
/-- Stages of a chain on logical tiles that a plan moves. -/
def Chain.movedStages (ch : Chain) (kid : Nat) (p : Plan) : List Nat := ch.stages.filter fun i => p.any fun e => e.1 = ch.lt kid i

/-- What a move has still to do with a chain: nothing, wait, or a request that it posts first (R351). -/
inductive ChainPrep where
  | ready | wait
  | request (form : ChainForm)
  | halt
  deriving DecidableEq, Repr
/-- How a chain stands before a move of its stages' logical tiles, or of others to the tile that hosts them all. -/
def State.chainPrep (s : State) (kid : Nat) (ch : Chain) (p : Plan) : ChainPrep :=
  let moved := ch.movedStages kid p
  let host := s.tileAfter p (ch.lt kid 0)
  let meets := !moved.isEmpty || (decide (ch.form ≠ .coil) && s.gathered kid ch p && p.any fun e => e.2.1 = host)
  if ch.overBy.isSome || !meets then .ready
  else if ch.pending then .wait
  else if ch.form = .coil then
    if s.gathered kid ch p then .ready else .request .toStake
  else if s.gathered kid ch p && decide (2 ≤ s.hostedAfter p host) && !s.isWarp kid then .request .toCoil
  else
    let runs := moved.filter fun i => (s.stageCtx kid ch i).isSome && decide (s.stageState kid ch i ≠ 3)
    if runs.all fun i => ch.single.getLsbD i then (if runs.all (s.stageHalted kid ch) then .ready else .wait) else .halt
/-- The chains of a kernel are made ready for a move: `none` when the move can go on, else the state that waits. -/
def State.prepChains (s : State) (kid : Nat) (p : Plan) : List Chain → Option State
  | [] => none
  | ch :: t =>
    match s.chainPrep kid ch p with
    | .ready => s.prepChains kid p t
    | .wait => some s
    | .request f => some (s.postSwitch kid ch.num f true)
    | .halt => some (s.updChain kid ch.num fun x => { x with single := (ch.movedStages kid p).foldl (fun b i => b ||| BitVec.ofNat 8 (2 ^ i)) x.single })
/-- The stages of a kernel's chains on some logical tiles halt alone no more: a move of these is over or given up (R351). -/
def State.unsingle (s : State) (kid : Nat) (lts : List Nat) : State :=
  let free (ch : Chain) (i : Nat) : Bool := lts.contains (ch.lt kid i)
  let s1 := s.updK kid fun k => { k with chains := k.chains.map fun ch => { ch with single := (ch.stages.filter (free ch)).foldl (fun b i => b &&& ~~~ BitVec.ofNat 8 (2 ^ i)) ch.single } }
  { s1 with ctxs := s1.ctxs.map fun e => if decide (e.2.kid = kid) && e.2.halted && !s1.mustHalt e.2 then (e.1, { e.2 with halted := false }) else e }
/-- The stages that halted alone are saved, to resume at the new host (R351). -/
def State.saveSingles (s : State) (kid : Nat) (p : Plan) : State :=
  let saved := (s.kernelD kid).chains.foldl (fun s ch =>
    if ch.form ≠ .stake then s
    else (ch.movedStages kid p).foldl (fun s i => if ch.single.getLsbD i && (s.stageCtx kid ch i).isSome then (s.saveStage kid ch i).pushStage kid ch i false else s) s) s
  saved.unsingle kid (p.map (·.1))
/-- A compact coiled chain with ORIGIN 1 whose logical tile has a tile of its own is uncoiled (R351). -/
def State.uncoilLone (s : State) (kid : Nat) : State :=
  (s.kernelD kid).chains.foldl (fun s ch =>
    let lts := (ch.stages.map (ch.lt kid)).dedup
    if ch.overBy.isNone && decide (ch.form = .coil) && ch.origin && decide (lts.length = 1) && decide ((s.hosted (s.ltile (lts.headD 0)).tile).length = 1) then
      s.postSwitch kid ch.num .toStake true
    else s) s
/-- A plan is carried out once its chains are ready. -/
def State.movePlan (s : State) (kid : Nat) (p : Plan) : State :=
  (p.foldl (fun s e => s.moveLt e.1 e.2.1 e.2.2) (s.saveSingles kid p)).uncoilLone kid

/-- The tiles of a territory that a giving tile's logical tiles may go to, in R326's order. -/
def State.heirs (s : State) (kid t : Nat) : List Nat :=
  let parent := neighbour t (s.tile t).parent.toNat
  let cs := (s.terr kid).filter fun u => decide (u ≠ t) && decide ((s.tile u).ts = .member)
  let key (u : Nat) : Nat := (s.treeDist t u * 2 + bit (decide (some u ≠ parent))) * 1024 + u
  cs.foldl (fun l u => (l.takeWhile fun v => decide (key v ≤ key u)) ++ u :: (l.dropWhile fun v => decide (key v ≤ key u))) []
/-- Free slots of a tile under a plan so far. -/
def State.slotsLeft (s : State) (kid : Nat) (p : Plan) (u : Nat) : List Nat :=
  (List.range (s.kernelD kid).k).filter fun j => !(s.slotsTaken u).contains j && !(p.any fun e => decide (e.2 = (u, j)))
/-- Places a group of logical tiles together on the first heir with slots for all of them. -/
def State.planGroup (s : State) (kid : Nat) (us : List Nat) (p : Plan) (g : List Nat) : Option Plan :=
  (us.find? fun u => decide (g.length ≤ (s.slotsLeft kid p u).length)).map fun u => p ++ (g.zip (s.slotsLeft kid p u)).map fun e => (e.1, u, e.2)
/-- A group of logical tiles that must stay together joins those that it shares one with. -/
def joinGroup (gs : List (List Nat)) (g : List Nat) : List (List Nat) :=
  ((gs.filter fun h => g.any h.contains).flatten ++ g).dedup :: gs.filter fun h => !(g.any h.contains)
/-- The logical tiles of a kernel's coiled chains among `lts`, in groups that share no tile (R351). -/
def State.coilGroups (s : State) (kid : Nat) (lts : List Nat) : List (List Nat) :=
  let coils := ((s.kernelD kid).chains.filter fun ch => ch.overBy.isNone && decide (ch.form = .coil)).map fun ch => ((ch.stages.map (ch.lt kid)).dedup).filter lts.contains
  (coils.foldl joinGroup []).filter fun g => 2 ≤ g.length
/-- The groups that move together: coiled chains' logical tiles, and every other alone (R351). -/
def State.moveGroups (s : State) (kid t : Nat) : List (List Nat) :=
  let lts := s.hosted t
  let gs := s.coilGroups kid lts
  gs ++ (lts.filter fun l => !(gs.any fun g => g.contains l)).map fun l => [l]
/-- The plan of a cede: every hosted logical tile goes to its heir (R326). A group that no tile can take goes one by one. -/
def State.cedePlan (s : State) (kid t : Nat) : Option Plan :=
  let us := s.heirs kid t
  (s.moveGroups kid t).foldl (fun r g => r.bind fun p =>
    match s.planGroup kid us p g with
    | some q => some q
    | none => g.foldl (fun r l => r.bind fun p => s.planGroup kid us p [l]) (some p)) (some [])

end Sys2Proof.Machine
end

