-- ==== Sys2Proof/Machine/Cede.lean ====
section
/-! DEFINITION. Border moves: proposals and grants, the cede, levelling, the forced cede, and corrected errors (R321-R332, R339, R459). -/

namespace Sys2Proof.Machine

open Sys2Proof

/-! ## The annexation rule (R321-R323) -/

/-- The tile is a candidate in a phase. -/
def candidate (n t : Nat) : Bool := decide ((t % 32) % 3 = n % 3) && decide ((t / 32) % 3 = n / 3 % 3)
/-- The time lies in the first 5 µs of a phase. -/
def State.early (s : State) : Bool := decide (s.tbase % (1000 * Nat.max 1 s.phaseLen) < 5000)
/-- Condition 1: the tile is a simple point of its territory. -/
def State.simplePoint (s : State) (t : Nat) : Bool :=
  let as := (block t).filter fun u => decide ((s.tile u).owner = (s.tile t).owner) && decide ((s.tile u).ts = .member)
  !as.isEmpty && connected as
/-- A gang switch of the partition is set, and T has not come (R414, R419). -/
def Partition.armed (p : Partition) : Bool := decide (p.gang = .armed) || (decide (p.gang = .stopped) && decide (p.gangBefore = .armed))
/-- Condition 5 for a kernel: it is RUNNING and not SWITCHED (R322). -/
def State.borderOpen (s : State) (kid : Nat) : Bool :=
  match s.kernel? kid with
  | some k => decide (k.state = .running) && (s.gangRuns k.part || decide ((s.part k.part).gang = .stopped))
  | none => false
/-- ⌈TILES / k⌉. -/
def Kernel.least (k : Kernel) : Nat := (k.tiles + k.k - 1) / k.k
/-- The pressure that a territory would have with a number of tiles. -/
def Kernel.projected (k : Kernel) (n : Nat) : Nat := k.claimLatched * k.loadSum / Nat.max 1 n
/-- What the tile itself must satisfy: conditions 1 to 5 of R322, or R323's for a free tile. From the setting of a gang switch on, a territory proposes nothing (R329). -/
def State.mayPass (s : State) (t : Nat) : Bool :=
  let x := s.tile t
  let a := x.owner.toNat
  let quietBlock := (t :: block t).all fun u => decide ((s.tile u).ts ≠ .ceding)
  if x.isFree then quietBlock && (s.die (dieOfTile t)).en
  else
    decide (x.ts = .member) && s.simplePoint t && decide (s.children t = []) && !x.anchor && decide ((s.kernelD a).least ≤ (s.terr a).length - 1)
      && (s.hosted t).all (fun l => !(s.ltile l).pinned) && quietBlock && !x.levSource && !x.levTarget && (s.die (dieOfTile t)).en && s.borderOpen a && !(s.part (s.partOf a)).armed
/-- The excess of R322 condition 6 for a taker. -/
def State.excess (s : State) (t b : Nat) : Int :=
  let x := s.tile t
  let a := x.owner.toNat
  let pa : Nat := if x.isFree then 0 else (s.kernelD a).projected ((s.terr a).length - 1)
  ((s.kernelD b).projected ((s.terr b).length + 1) : Int) - pa
/-- The takers of a tile: owners of its neighbours that pass conditions 5 and 6. -/
def State.takers (s : State) (t : Nat) : List Nat :=
  let h : Int := (s.die (dieOfTile t)).h.toNat
  ((neighbours t).filterMap fun e =>
    let y := s.tile e.2
    if y.ts = .member ∧ y.owner ≠ (s.tile t).owner ∧ y.owner ≠ 63#6 ∧ s.borderOpen y.owner.toNat ∧ h ≤ s.excess t y.owner.toNat then some y.owner.toNat else none).dedup
/-- The proposal of a candidate: the taker of greatest excess, then lowest id, and its neighbour of lowest number. -/
def State.proposes (s : State) (t : Nat) : Option (Nat × Nat) :=
  if !s.mayPass t then none
  else
    let best := (s.takers t).foldl (fun (r : Option Nat) b => match r with
      | none => some b
      | some x => if s.excess t x < s.excess t b ∨ (s.excess t x = s.excess t b ∧ b < x) then some b else some x) none
    best.bind fun b =>
      let us := ((neighbours t).map (·.2)).filter fun u => decide ((s.tile u).owner.toNat = b) && decide ((s.tile u).ts = .member)
      if us = [] then none else some (b, leastOf us)
/-- BORDER_PROPOSAL (R321): candidate `ev.id` sends its proposal. -/
def execBorderProposal (s : State) : Host.Outcome State Fault Refusal :=
  let t := s.ev.id
  if t < 1024 ∧ candidate s.phase t ∧ s.early then
    match s.proposes t with
    | some (b, u) => .next (s.updTile t fun x => { x with proposal := some (b, u, s.phase) })
    | none => .next s
  else .next s

/-- The proposals of this phase in which a territory takes part, as giver or taker. -/
def State.proposalsOf (s : State) (kid : Nat) : List (Nat × Nat) :=
  s.tiles.filterMap fun e => match e.2.proposal with
    | some (b, _, n) => if n = s.phase ∧ (b = kid ∨ (e.2.owner.toNat = kid ∧ e.2.ts = .member)) then some (e.1, b) else none
    | none => none
/-- Every candidate of the phase that has a proposal in which the territory takes part has sent it (R321). -/
def State.allProposed (s : State) (kid : Nat) : Bool :=
  (List.range 1024).all fun t => !candidate s.phase t || (match s.proposes t with
    | some (b, _) => !(decide (b = kid) || decide ((s.tile t).owner.toNat = kid)) || (s.proposalsOf kid).any fun p => p.1 = t
    | none => true)
/-- An anchor grants the proposal of tile `t` (R321): it is the best of all that its territory has, and it has moved in no other this phase. -/
def State.grants (s : State) (kid t b : Nat) : Bool :=
  decide ((s.kernelD kid).movedPhase ≠ some s.phase) && s.allProposed kid && (s.proposalsOf kid).all fun p =>
    decide (p.1 = t) || decide (s.excess p.1 p.2 < s.excess t b) || (decide (s.excess p.1 p.2 = s.excess t b) && decide (t < p.1))
/-- A tile becomes a leaf of a territory next to `u` (R323, R325 step 6). -/
def State.joinTile (s : State) (t b u : Nat) : State :=
  let d := (s.tile u).depth + 1
  (s.updTile t fun x => { x with owner := BitVec.ofNat 6 b, ts := .member, anchor := false, parent := BitVec.ofNat 3 (directionTo t u), depth := d, load := 0, levLoad := 0, proposal := none, ceding := none, cedeTo := 63 }).startPacket t b
/-- The move of a granted proposal begins: a free tile joins at once, another enters CEDING (R323, R325 step 1). -/
def State.beginMove (s : State) (t b u : Nat) : State :=
  let x := s.tile t
  let a := x.owner.toNat
  if x.isFree then
    (((s.joinTile t b u).updK b fun k => { k with movedPhase := some s.phase }).shapeChanged b).sendUpcall b 1 t 63
  else
    ((s.updTile t fun x => { x with ts := .ceding, ceding := some u, cedeTo := b, proposal := none }).updK a fun k => { k with movedPhase := some s.phase }).updK b fun k => { k with movedPhase := some s.phase }
/-- BORDER_GRANT (R321): both anchors grant the proposal of tile `ev.id`. -/
def execBorderGrant (s : State) : Host.Outcome State Fault Refusal :=
  let t := s.ev.id
  let x := s.tile t
  match x.proposal with
  | some (b, u, n) =>
    if n = s.phase ∧ s.early ∧ s.proposes t = some (b, u) ∧ s.grants b t b ∧ (x.isFree ∨ s.grants x.owner.toNat t b) then .next (s.beginMove t b u) else .next s
  | none => .next s
/-- PROPOSAL_DROP (R321): the proposal of tile `ev.id` was not granted in the first 5 µs of its phase. -/
def execProposalDrop (s : State) : Host.Outcome State Fault Refusal :=
  match (s.tile s.ev.id).proposal with
  | some (_, _, n) => if n ≠ s.phase ∨ !s.early then .next (s.updTile s.ev.id fun x => { x with proposal := none }) else .next s
  | none => .next s

/-! ## The cede (R325) -/

/-- Steps 4 to 6 for a tile that nothing is hosted on any more. -/
def State.passTile (s : State) (t a b u : Nat) : State :=
  let s1 := (s.stopPacket t a).clearTile t (s.partOf a)
  let s2 := ((s1.joinTile t b u).shapeChanged a).shapeChanged b
  (s2.sendUpcall a 2 t b).sendUpcall b 1 t a
/-- A cede before its step 3 is given up: the tile is MEMBER again, and chains that were made ready for the move are as before it (R329, R331, R351). -/
def State.abandonCede (s : State) (t : Nat) : State :=
  let kid := (s.tile t).owner.toNat
  ((s.updTile t fun x => { x with ts := .member, ceding := none, cedeTo := 63 }).unsingle kid (s.hosted t)).uncoilApart kid
/-- Steps 2 and 3 for a tile whose logical tiles have the places of a plan: the chains are made ready, the activations have ended, and the logical tiles rehome;
then `k` goes on. Until then the cede waits. -/
def State.vacate (s : State) (kid t : Nat) (p : Plan) (k : State → State) : State :=
  match s.prepChains kid p (s.kernelD kid).chains with
  | some s1 => s1
  | none => if (s.hosted t).all s.quiet then k (s.movePlan kid p) else s

/-! ## Levelling (R328, R339) -/

/-- The number of the 2 µs in which the time lies. -/
def State.levWindow (s : State) : Nat := s.tbase / 2000
/-- The neighbours of a tile that a levelling move could go to. -/
def State.levelTargets (s : State) (t : Nat) : List Nat :=
  let x := s.tile t
  let kid := x.owner.toNat
  ((neighbours t).map (·.2)).filter fun u =>
    let y := s.tile u
    decide (y.ts = .member) && decide (y.owner = x.owner) && !y.levSource && !y.levTarget && decide (y.levUsed ≠ s.levWindow + 1) && (s.freeSlotOn kid u).isSome && decide ((s.die (dieOfTile t)).lvt.toNat + y.levLoad < x.levLoad)
/-- The target that R339 picks. -/
def State.levelPick (s : State) (t : Nat) : Option Nat :=
  let better (a b : Nat) : Bool :=
    let ya := s.tile a
    let yb := s.tile b
    decide (ya.levLoad < yb.levLoad) || (decide (ya.levLoad = yb.levLoad) && (decide ((s.hosted a).length < (s.hosted b).length) || (decide ((s.hosted a).length = (s.hosted b).length) && decide (a < b))))
  (s.levelTargets t).foldl (fun r u => match r with | none => some u | some v => if better u v then some u else some v) none
/-- The lowest-numbered unpinned logical tile of a tile. -/
def State.levelTile (s : State) (t : Nat) : Option Nat :=
  let ls := (s.hosted t).filter fun l => !(s.ltile l).pinned && (s.ltile l).moving.isNone
  if ls = [] then none else some (leastOf ls)
/-- A levelling move starts: the slot is reserved, and the share changes sides (R339). -/
def State.startLevel (s : State) (t u lt j : Nat) : State :=
  let share := (s.tile t).levLoad / Nat.max 1 (s.hosted t).length
  let s1 := s.updLt lt fun x => { x with moving := some u, moveJ := j }
  let now := s.levWindow + 1
  (s1.updTile t fun x => { x with levSource := true, levLoad := x.levLoad - share, levUsed := now }).updTile u fun x => { x with levTarget := true, levLoad := x.levLoad + share, levUsed := now }
/-- A tile has its levelling check of these 2 µs to make, whatever its kernel does; the move then waits until the kernel runs (R328). -/
def State.levDue (s : State) (t : Nat) : Bool := decide (t < 1024) && decide ((s.tile t).ts = .member) && decide ((s.tile t).levAt / 2000 < s.levWindow)
/-- The levelling move that a tile would make: its target, logical tile and slot. A tile takes part in one move in 2 µs, and in none while another is under way (R328, R339). -/
def State.levelMove (s : State) (t : Nat) : Option (Nat × Nat × Nat) :=
  let x := s.tile t
  if x.levSource ∨ x.levTarget ∨ x.levUsed = s.levWindow + 1 ∨ (s.hosted t).length < 2 then none
  else match s.levelPick t, s.levelTile t with
    | some u, some lt => (s.freeSlotOn x.owner.toNat u).map fun j => (u, lt, j)
    | _, _ => none
/-- LEVELLING_CHECK (R328): every 2 µs, MEMBER tile `ev.id`, after every tile of its territory of lower number that has a move to make. -/
def execLevellingCheck (s : State) : Host.Outcome State Fault Refusal :=
  let t := s.ev.id
  let first := (s.terr (s.tile t).owner.toNat).all fun u => decide (t ≤ u) || !s.levDue u || (s.levelMove u).isNone
  if s.levDue t && first then
    let s1 := s.updTile t fun x => { x with levAt := s.tbase }
    match s.levelMove t with
    | some (u, lt, j) => .next (s1.startLevel t u lt j)
    | none => .next s1
  else .next s
/-- LEVELLING_MOVE_COMPLETE (R339): the logical tile `ev.id`, by its key, arrives at its target. -/
def execLevellingMoveComplete (s : State) : Host.Outcome State Fault Refusal :=
  let lt := s.ev.id
  let x := s.ltile lt
  let kid := lt / 4096
  match x.moving with
  | none => .next s
  | some u =>
    if !s.kernelRuns kid then .next s
    else
      let p : Plan := [(lt, u, x.moveJ)]
      match s.prepChains kid p (s.kernelD kid).chains with
      | some s1 => .next s1
      | none =>
        if s.quiet lt then
          .next (((s.movePlan kid p).updTile x.tile fun y => { y with levSource := false }).updTile u fun y => { y with levTarget := false })
        else .next s

/-! ## Forced cede (R329, R425, R459) -/

/-- The levelling moves from or to a tile are given up. -/
def State.dropLevel (s : State) (t : Nat) : State :=
  let ms := s.ltiles.filter fun e => e.2.moving.isSome && (decide (e.2.tile = t) || decide (e.2.moving = some t))
  ms.foldl (fun s e => ((((s.updLt e.1 fun x => { x with moving := none, moveJ := 0 }).updTile e.2.tile fun y => { y with levSource := false }).updTile (e.2.moving.getD 0) fun y => { y with levTarget := false }).unsingle (e.1 / 4096) [e.1]).uncoilApart (e.1 / 4096)) s
/-- The logical tiles of a tile go to heirs as far as there is room, those that move together to one heir where one has room for them; one that finds none stands
nowhere until its kernel is restored (R316, R351, R425). -/
def State.evict (s : State) (kid t : Nat) : State :=
  let go (s : State) (g : List Nat) : Option State := (s.planGroup kid (s.heirs kid t) [] g).map fun p => p.foldl (fun s e => s.moveLt e.1 e.2.1 e.2.2) s
  (s.moveGroups kid t).foldl (fun s g => (go s g).getD (g.foldl (fun s l => (go s [l]).getD (s.moveLt l noTile 0)) s)) s
/-- The tiles of a territory that no cede under way takes from it. -/
def State.stays (s : State) (kid : Nat) : List Nat := (s.terr kid).filter fun t => (s.tile t).ceding.isNone
/-- The tree of a territory is built again from an anchor (R329). A tile that passes to another territory is a leaf of it, as it was, so that the tree spans the
territory after its step 6 too (R320, R324). -/
def State.rebuild (s : State) (kid anchor : Nat) : State :=
  let ts := s.stays kid
  let root := if ts.contains anchor then anchor else ts.headD anchor
  let tree := sweepTree ts root
  let leaves := ((s.terr kid).filter fun t => !ts.contains t).filterMap fun t =>
    ((neighbours t).findSome? fun e => (tree.find? fun x => x.1 = e.2).map fun x => (t, e.1, x.2.2 + 1))
  if ts = [] then s
  else (tree ++ leaves).foldl (fun s e => s.updTile e.1 fun x => { x with anchor := decide (e.1 = root), parent := BitVec.ofNat 3 e.2.1, depth := e.2.2 })
    (s.updK kid fun k => { k with anchor := root })
/-- A territory of which no tile would stay gives up the cedes under way (R320, R322 condition 3). -/
def State.keepLast (s : State) (kid : Nat) : State := if s.stays kid = [] then (s.terr kid).foldl (fun s t => s.abandonCede t) s else s
/-- Steps 4 and 5 for a tile that leaves its territory by force: it is cleared, it is RETIRED or in the free region, the tree is built again from the anchor, and the
territory gets its upcall (R329, R330). -/
def State.expel (s : State) (kid t anchor : Nat) (retire : Bool) : State :=
  let s1 := (s.stopPacket t kid).clearTile t (s.partOf kid)
  let s2 := s1.updTile t fun x => { x with owner := 63#6, ts := (if retire then .retired else .free), anchor := false, parent := 0#3, depth := 0, load := 0, levLoad := 0, proposal := none,
                                           ceding := none, cedeTo := 63, forced := none, muOwner := [] }
  (((s2.keepLast kid).rebuild kid anchor).shapeChanged kid).sendUpcall kid 3 t 63
/-- The anchor of a territory without a tile: itself, or, when that tile goes, its heir, the nearest tile of the tree. -/
def State.anchorWithout (s : State) (kid t : Nat) : Nat :=
  if (s.kernelD kid).anchor ≠ t then (s.kernelD kid).anchor else (s.heirs kid t).headD (((s.terr kid).filter (· ≠ t)).headD t)
/-- The tiles that a forced cede of `t` cuts off from the anchor, farthest first: those that would not be joined to it by tiles that stay (R316, R324). -/
def State.cutOff (s : State) (kid t anchor : Nat) : List Nat :=
  let rest := (s.stays kid).filter (· ≠ t)
  let kept := spread rest rest.length [anchor]
  let joined (u : Nat) : Bool := kept.contains u || (!rest.contains u && (neighbours u).any fun e => kept.contains e.2)
  let off := ((s.terr kid).filter (· ≠ t)).filter fun u => !joined u
  off.foldl (fun l u => (l.takeWhile fun v => decide ((s.tile u).depth ≤ (s.tile v).depth)) ++ u :: (l.dropWhile fun v => decide ((s.tile u).depth ≤ (s.tile v).depth))) []
/-- A tile enters CEDING for a forced cede, from the step at which a cede under way stands (R329, R459). -/
def State.force (s : State) (retire : Bool) (t : Nat) : State :=
  s.updTile t fun x => { x with ts := .ceding, ceding := none, cedeTo := 63, proposal := none, forced := some (retire || decide (x.forced = some true)) }
/-- Firmware gang-stops the kernel, to restore it from a cut: its cores write their stop records (R412, R425). -/
def State.toRestore (s : State) (kid : Nat) (lost : List Nat) : State :=
  if lost = [] then s
  else (if (s.kernelD kid).restoring then s else s.writeStops (s.terr kid)).updK kid fun k => { k with restoring := true, failed := k.failed ++ lost }
/-- What a forced cede meets: the tiles that it cuts off from the anchor are ceded by force before it, the farthest of them first (R329). -/
def State.mayLeave (s : State) (kid t anchor : Nat) (retire : Bool) : Bool :=
  if retire then s.cutOff kid t anchor = []
  else (s.terr kid).all fun u => decide ((s.tile u).forced ≠ some false) || decide ((s.tile u).depth < (s.tile t).depth) || (decide ((s.tile u).depth = (s.tile t).depth) && decide (t ≤ u))
/-- A forced cede goes on (R329, R425): its logical tiles rehome as in a cede, and the tile leaves. A tile that retires takes its kernel's logical tiles with it: firmware
stops the kernel, to restore it. So it does when the territory has no room for them, and then nothing that runs is waited for. -/
def State.forcedCede (s : State) (t : Nat) (retire : Bool) : State :=
  let kid := (s.tile t).owner.toNat
  let anchor := s.anchorWithout kid t
  let lost := s.hosted t
  let fresh := (s.cutOff kid t anchor).filter fun u => decide ((s.tile u).forced = none)
  if retire && !fresh.isEmpty then fresh.foldl (fun s u => s.force false u) s
  else if !s.mayLeave kid t anchor retire || (s.tile t).levSource || (s.tile t).levTarget then s
  else match (if (s.kernelD kid).restoring then none else s.cedePlan kid t) with
    | some p => if s.kernelRuns kid then s.vacate kid t p fun s1 => (s1.expel kid t anchor retire).toRestore kid (if retire then lost else []) else s
    | none => ((s.evict kid t).expel kid t anchor retire).toRestore kid lost
/-- A lasting fault retires a tile, whatever its state (R329, R331, R459). -/
def State.retireTile (s : State) (t : Nat) : State :=
  let x := s.tile t
  if x.ts = .retired ∨ x.forced = some true then s
  else if x.owner = 63#6 then s.updTile t fun x => { x with ts := .retired }
  else (s.force true t).forcedCede t true
/-- CEDE_COMPLETE (R325, R329): the activations on CEDING tile `ev.id` have ended; its chains are made ready, its logical tiles rehome, and the tile
passes to the taker, or by force to nobody. A taker that has ended leaves the tile with the giver; so does a forced cede that has left the giver fewer tiles than
condition 3 of R322 asks for (DESIGN CHOICE, log entry 63). -/
def execCedeComplete (s : State) : Host.Outcome State Fault Refusal :=
  let t := s.ev.id
  let x := s.tile t
  let a := x.owner.toNat
  if x.ts ≠ .ceding then .next s
  else match x.forced, x.ceding with
    | some retire, _ => .next (s.forcedCede t retire)
    | none, some u =>
      if !s.kernelRuns a then .next s
      else if x.cedeTo = 63 ∨ (s.tile u).owner.toNat ≠ x.cedeTo ∨ (s.terr a).length - 1 < (s.kernelD a).least then .next (s.abandonCede t)
      else match s.cedePlan a t with
        | none => .next s
        | some p => .next (s.vacate a t p fun s1 => s1.passTile t a x.cedeTo u)
    | none, none => .next s
/-- FORCED_CEDE (R329): tile `ev.id` has a lasting fault. -/
def execForcedCede (s : State) : Host.Outcome State Fault Refusal := if s.ev.id < 1024 then .next (s.retireTile s.ev.id) else .next s
/-- CORRECTED_ERROR (R459): tile `ev.id` corrects an error; the eighth within 60 s makes the fault lasting. -/
def execCorrectedError (s : State) : Host.Outcome State Fault Refusal :=
  let t := s.ev.id
  if t < 1024 then
    let es := ((s.tile t).errors.filter fun a => s.tbase < a + 60000000000) ++ [s.tbase]
    let s1 := s.updTile t fun x => { x with errors := es }
    .next (if 8 ≤ es.length then s1.retireTile t else s1)
  else .next s
/-- TILE_RETURN_AFTER_REPAIR (R331): RETIRED tile `ev.id` is free again. -/
def execTileReturnAfterRepair (s : State) : Host.Outcome State Fault Refusal :=
  if (s.tile s.ev.id).ts = .retired then .next (s.updTile s.ev.id fun x => { x with ts := .free, owner := 63#6, errors := [] }) else .next s

end Sys2Proof.Machine
end

