-- ==== Sys2Proof/Machine/Clocks.lean ====
section
/-! DEFINITION. The clocks: a logical clock's tick, the raise of line times at a home, a core clock that stops or restarts, and the lowering of a die's clock (R165-R168, R444, R450, R460). -/

namespace Sys2Proof.Machine

open Sys2Proof

/-- LOGICAL_CLOCK_TICK (R165): the clock `ev.id`, of a module core or of a tile's engines, takes the ticks that have come due. -/
def execLogicalClockTick (s : State) : Host.Outcome State Fault Refusal := if s.ev.id < clockCount then .next (s.tickCore s.ev.id) else .next s

/-- The times of the lines of home `h`, the unlisted ones with them, are raised to no more than 2^40 below its latest stamp (R168). -/
def State.raiseHome (s : State) (h : Nat) : State :=
  let x := s.home h
  { s with times := s.times.map fun e => if homeKey e.1 = h then (e.1, raiseTo x.1 e.2.1, raiseTo x.1 e.2.2) else e
           homes := mset h (x.1, raiseTo x.1 x.2) s.homes }
/-- HOME_TIME_RAISE (R168): the background pass of home `ev.id`, as `homeKey` numbers them. -/
def execHomeTimeRaise (s : State) : Host.Outcome State Fault Refusal := .next (s.raiseHome s.ev.id)

/-- A clock change or restart on a tile, or in a near-memory cluster: it counts, and a traced tile writes a RESYNC record (R444, R450). -/
def State.tileClockEvent (s : State) (t : Nat) : State :=
  let s1 := s.updTile t fun x => { x with clockEvents := x.clockEvents + 1 }
  match (s.tile t).traceKids with
  | k :: _ => s1.traceResync t k
  | [] => s1
def State.clockEvent (s : State) (core : Nat) : State :=
  if core < 8192 then s.tileClockEvent (core / 8) else s.updCtrl ((core - 8192) / 4) fun x => { x with clockEvents := x.clockEvents + 1 }

/-- CORE_CLOCK_STOP (R166): the clock of module core `ev.id` stops, and with it its logical clock. -/
def execCoreClockStop (s : State) : Host.Outcome State Fault Refusal :=
  let n := s.ev.id
  if n < 8240 ∧ !(s.clock n).stopped then
    let c := (s.clock n).upTo s.tbase
    .next { s with clocks := mset n { c with tickAt := s.tbase - c.tickAt, stopped := true, stopAt := s.tbase } s.clocks }
  else .next s
/-- The copies of a core whose clock restarts: of the time for which they may still serve its loads, the standstill since `at_` does not count (R166). -/
def State.pauseCopies (s : State) (n at_ : Nat) : State :=
  { s with copies := mset n ((mgetD [] n s.copies).map fun x => { x with oldAt := x.oldAt.map fun a => if a < at_ then a + (s.tbase - at_) else s.tbase }) s.copies }
/-- CORE_CLOCK_RESTART (R166, R444). -/
def execCoreClockRestart (s : State) : Host.Outcome State Fault Refusal :=
  let n := s.ev.id
  if n < 8240 ∧ (s.clock n).stopped then
    let s1 := s.pauseCopies n (s.clock n).stopAt
    .next (State.clockEvent { s1 with clocks := mset n { s.clock n with tickAt := s.tbase - (s.clock n).tickAt, stopped := false } s.clocks } n)
  else .next s

/-- DIE_CLOCK_STEP (R460): the temperature `ev.w0` of die `ev.id` has passed the image's limit, and firmware lowers the die's core clock by 100 MHz, to no less than 500 MHz. -/
def execDieClockStep (s : State) : Host.Outcome State Fault Refusal :=
  let d := s.ev.id
  if d < 4 ∧ 600 ≤ (s.die d).mhz ∧ s.tempLimit < s.ev.w0.toNat then
    .next (((List.range 1024).filter fun t => dieOfTile t = d).foldl (fun s t => s.tileClockEvent t) (s.updDie d fun x => { x with mhz := x.mhz - 100 }))
  else .next s

end Sys2Proof.Machine
end

