-- ==== Sys2Proof/Machine/Float.lean ====
section
/-! DEFINITION. Packed floating-point instructions (R130-R146). -/

namespace Sys2Proof.Machine

open Sys2Proof

/-! ## Shared operations -/

/-- An instruction that reads f registers and writes one (R131, R153). -/
def State.fOp (s : State) (id : Nat) (i : Instr) (reads : List Reg) (d : Reg) (f : List Word → Word × BitVec 5) : State :=
  s.withF id i reads [d] fun s1 vs => s1.finishF id i 4 reads [(d, (f vs).1)] (f vs).2

/-- The lanes of a type over words (R130): `g` gives lane `i`'s bits and flags from the operands' lanes. -/
def lanes1 (t : ET) (a : Word) (g : Nat → Nat × BitVec 5) : Word × BitVec 5 :=
  mapLanes t.width (lanesOf t.width) fun i => g (lane t.width a i)
def lanes2 (t : ET) (a b : Word) (g : Nat → Nat → Nat × BitVec 5) : Word × BitVec 5 :=
  mapLanes t.width (lanesOf t.width) fun i => g (lane t.width a i) (lane t.width b i)
def lanes3 (t : ET) (a b d : Word) (g : Nat → Nat → Nat → Nat × BitVec 5) : Word × BitVec 5 :=
  mapLanes t.width (lanesOf t.width) fun i => g (lane t.width a i) (lane t.width b i) (lane t.width d i)
/-- Rounds a value with flags of its own into a lane (R74, R131). -/
def roundLane (t : ET) (md : RM) (sat : Bool) (x : Num × BitVec 5) : Nat × BitVec 5 :=
  let (r, f) := roundNum t md sat false x.1
  (r, x.2 ||| f)

/-- The sign bit of a lane. -/
def laneNeg (t : ET) (v : Nat) : Bool := decide (signBit t ≤ v)
/-- Strictly smaller with −0 < +0 (R138). -/
def lessLane (t : ET) (x y : Nat) : Bool :=
  ltNum (numOf t x) (numOf t y) || (eqNum (numOf t x) (numOf t y) && laneNeg t x && !laneNeg t y)
/-- FMIN's and FMAX's lane (R138). -/
def minMaxLane (t : ET) (least : Bool) (x y : Nat) : Nat :=
  if numOf t x = .nan then (if numOf t y = .nan then nanBits t else y)
  else if numOf t y = .nan then x
  else if (if least then lessLane t y x else lessLane t x y) then y else x
/-- A compare mask lane. -/
def maskLane (t : ET) (p : Bool) : Nat := if p then 2 ^ t.width - 1 else 0
/-- FCMPLT's and FCMPLE's lane: a NaN operand gives 0 and raises NV (R138). -/
def orderLane (t : ET) (eq : Bool) (x y : Nat) : Nat × BitVec 5 :=
  if numOf t x = .nan ∨ numOf t y = .nan then (0, fNV)
  else (maskLane t (ltNum (numOf t x) (numOf t y) || (eq && eqNum (numOf t x) (numOf t y))), 0#5)
/-- FCLASS's code (R138). -/
def classLane (t : ET) (v : Nat) : Nat :=
  match numOf t v with
  | .nan => 8
  | .inf neg => if neg then 0 else 7
  | .fin neg n _ =>
    if n = 0 then (if neg then 3 else 4)
    else if v % signBit t < 2 ^ fracW t then (if neg then 2 else 5)
    else (if neg then 1 else 6)
/-- A converted lane of another format (R74, R140, R143). -/
def cvtLane (src dst : ET) (md : RM) (satE satAll : Bool) (v : Nat) : Nat × BitVec 5 :=
  roundNum dst md satE satAll (numOf src v)
/-- FCVTI's lane of `k` bits (R144). -/
def cvtiLane (src : ET) (k : Nat) (md : RM) (sat : Bool) (v : Nat) : Nat × BitVec 5 :=
  match numOf src v with
  | .nan => (0, fNV)
  | .inf neg => (if sat then wrapBits k (if neg then -(2 : Int) ^ (k - 1) else 2 ^ (k - 1) - 1) else 0, fNV)
  | .fin neg n d =>
    let y := roundInt md neg n d
    let z := satInt k y
    if z = y then (wrapBits k y, flagIf (decide (y.natAbs * d ≠ n)) fNX)
    else (wrapBits k (if sat then z else y), fNV)
/-- FCVTF's lane (R145). -/
def cvtfLane (k : Nat) (dst : ET) (md : RM) (satE satAll : Bool) (v : Nat) : Nat × BitVec 5 :=
  roundNum dst md satE satAll (numOfInt (intOf k v))
/-- Width of an integer element type. -/
def itBits (t : IT) : Nat := match t with | .i8 => 8 | .i16 => 16 | .i32 => 32 | .i64 => 64
/-- A conversion of the lower lanes: the lanes from the smaller count upward are zero (R142). -/
def cvtLanes (sw dw : Nat) (a : Word) (g : Nat → Nat × BitVec 5) : Word × BitVec 5 :=
  mapLanes dw (Nat.min (lanesOf sw) (lanesOf dw)) fun i => g (lane sw a i)
/-- The sum of lanes: the exact sum of the finite ones, and the signs of zeros and infinities (R137). -/
def sumLanes (md : RM) (xs : List Num) : Num × BitVec 5 :=
  match xs with
  | [] => (.fin false 0 1, 0#5)
  | x :: t =>
    let pos := (x :: t).any (· = .inf false)
    let neg := (x :: t).any (· = .inf true)
    if pos && neg then (.nan, fNV)
    else if (x :: t).any (· = .nan) then (.nan, 0#5)
    else
      if pos then (.inf false, 0#5)
      else if neg then (.inf true, 0#5)
      else
        let r := t.foldl (fun a b => (addNum md a b).1) x
        match r with
        | .fin _ 0 d =>
          -- an exact zero: the common sign of lanes that are all zeros of one sign, else that of the mode
          let z (s : Bool) : Bool := (x :: t).all fun y => match y with | .fin s' 0 _ => s' == s | _ => false
          (.fin (if z true then true else if z false then false else decide (md = .rdn)) 0 d, 0#5)
        | y => (y, 0#5)
/-- The broadcast of an immediate (R54). -/
def broadcast (t : ET) (imm : BitVec 16) : Word :=
  match t with
  | .f32 => w64 (packLanes 32 (fun _ => imm.toNat * 2 ^ 16) 2)
  | .bf16 => w64 (packLanes 16 (fun _ => imm.toNat) 4)
  | .f16 => w64 (packLanes 16 (fun _ => imm.toNat) 4)
  | .e4m3 => w64 (packLanes 16 (fun _ => imm.toNat) 4)
  | .e5m2 => w64 (packLanes 16 (fun _ => imm.toNat) 4)
/-- The k-th operand read. -/
def opnd (vs : List Word) (k : Nat) : Word := vs.getD k 0#64

/-! ## Arithmetic (R135-R137) -/

/-- The exact result of FADD, FSUB, FMUL, FDIV with flags. -/
def faddLane (t : ET) (md : RM) (sat : Bool) (x y : Nat) : Nat × BitVec 5 := roundLane t md sat (addNum md (numOf t x) (numOf t y))
def fsubLane (t : ET) (md : RM) (sat : Bool) (x y : Nat) : Nat × BitVec 5 := roundLane t md sat (addNum md (numOf t x) (negNum (numOf t y)))
def fmulLane (t : ET) (md : RM) (sat : Bool) (x y : Nat) : Nat × BitVec 5 := roundLane t md sat (mulNum (numOf t x) (numOf t y))
def fdivLane (t : ET) (md : RM) (sat : Bool) (x y : Nat) : Nat × BitVec 5 := roundLane t md sat (divNum (numOf t x) (numOf t y))
/-- The fused forms, by the signs of the product and the addend. -/
def fmaLane (np nd : Bool) (t : ET) (md : RM) (sat : Bool) (x y d : Nat) : Nat × BitVec 5 :=
  roundLane t md sat (fmaNum md np nd (numOf t x) (numOf t y) (numOf t d))

/-- FADD (R135, R136). -/
def execFadd (d a b : Reg) (rm : RM) (et : ET) (s : State) : Host.Outcome State Fault Refusal :=
  strandOp s (.fadd d a b rm et) fun id c => s.fOp id (.fadd d a b rm et) [a, b] d fun vs =>
    lanes2 et (opnd vs 0) (opnd vs 1) (faddLane et (modeOf rm c.sample) (satOf c.sample))
/-- FSUB (R135, R136). -/
def execFsub (d a b : Reg) (rm : RM) (et : ET) (s : State) : Host.Outcome State Fault Refusal :=
  strandOp s (.fsub d a b rm et) fun id c => s.fOp id (.fsub d a b rm et) [a, b] d fun vs =>
    lanes2 et (opnd vs 0) (opnd vs 1) (fsubLane et (modeOf rm c.sample) (satOf c.sample))
/-- FMUL (R135, R136). -/
def execFmul (d a b : Reg) (rm : RM) (et : ET) (s : State) : Host.Outcome State Fault Refusal :=
  strandOp s (.fmul d a b rm et) fun id c => s.fOp id (.fmul d a b rm et) [a, b] d fun vs =>
    lanes2 et (opnd vs 0) (opnd vs 1) (fmulLane et (modeOf rm c.sample) (satOf c.sample))
/-- FDIV (R135, R136). -/
def execFdiv (d a b : Reg) (rm : RM) (et : ET) (s : State) : Host.Outcome State Fault Refusal :=
  strandOp s (.fdiv d a b rm et) fun id c => s.fOp id (.fdiv d a b rm et) [a, b] d fun vs =>
    lanes2 et (opnd vs 0) (opnd vs 1) (fdivLane et (modeOf rm c.sample) (satOf c.sample))
/-- FMA (R135, R136). -/
def execFma (d a b : Reg) (rm : RM) (et : ET) (s : State) : Host.Outcome State Fault Refusal :=
  strandOp s (.fma d a b rm et) fun id c => s.fOp id (.fma d a b rm et) [a, b, d] d fun vs =>
    lanes3 et (opnd vs 0) (opnd vs 1) (opnd vs 2) (fmaLane false false et (modeOf rm c.sample) (satOf c.sample))
/-- FMS (R135, R136). -/
def execFms (d a b : Reg) (rm : RM) (et : ET) (s : State) : Host.Outcome State Fault Refusal :=
  strandOp s (.fms d a b rm et) fun id c => s.fOp id (.fms d a b rm et) [a, b, d] d fun vs =>
    lanes3 et (opnd vs 0) (opnd vs 1) (opnd vs 2) (fmaLane false true et (modeOf rm c.sample) (satOf c.sample))
/-- FNMA (R135, R136). -/
def execFnma (d a b : Reg) (rm : RM) (et : ET) (s : State) : Host.Outcome State Fault Refusal :=
  strandOp s (.fnma d a b rm et) fun id c => s.fOp id (.fnma d a b rm et) [a, b, d] d fun vs =>
    lanes3 et (opnd vs 0) (opnd vs 1) (opnd vs 2) (fmaLane true false et (modeOf rm c.sample) (satOf c.sample))
/-- FNMS (R135, R136). -/
def execFnms (d a b : Reg) (rm : RM) (et : ET) (s : State) : Host.Outcome State Fault Refusal :=
  strandOp s (.fnms d a b rm et) fun id c => s.fOp id (.fnms d a b rm et) [a, b, d] d fun vs =>
    lanes3 et (opnd vs 0) (opnd vs 1) (opnd vs 2) (fmaLane true true et (modeOf rm c.sample) (satOf c.sample))
/-- FSQRT (R137). -/
def execFsqrt (d a : Reg) (rm : RM) (et : ET) (s : State) : Host.Outcome State Fault Refusal :=
  strandOp s (.fsqrt d a rm et) fun id c => s.fOp id (.fsqrt d a rm et) [a] d fun vs =>
    lanes1 et (opnd vs 0) fun x => roundLane et (modeOf rm c.sample) (satOf c.sample) (sqrtNum (numOf et x))
/-- FSUM (R137): the sum into lane 0, and +0 in the other lanes. -/
def execFsum (d a : Reg) (rm : RM) (et : ET) (s : State) : Host.Outcome State Fault Refusal :=
  strandOp s (.fsum d a rm et) fun id c => s.fOp id (.fsum d a rm et) [a] d fun vs =>
    let md := modeOf rm c.sample
    let r := roundLane et md (satOf c.sample) (sumLanes md ((List.range (lanesOf et.width)).map fun i => numOf et (lane et.width (opnd vs 0) i)))
    (w64 r.1, r.2)

/-! ## Compare, sign and lane operations (R138-R141) -/

/-- FMIN (R138). -/
def execFmin (d a b : Reg) (et : ET) (s : State) : Host.Outcome State Fault Refusal :=
  strandOp s (.fmin d a b et) fun id _ => s.fOp id (.fmin d a b et) [a, b] d fun vs =>
    lanes2 et (opnd vs 0) (opnd vs 1) fun x y => (minMaxLane et true x y, 0#5)
/-- FMAX (R138). -/
def execFmax (d a b : Reg) (et : ET) (s : State) : Host.Outcome State Fault Refusal :=
  strandOp s (.fmax d a b et) fun id _ => s.fOp id (.fmax d a b et) [a, b] d fun vs =>
    lanes2 et (opnd vs 0) (opnd vs 1) fun x y => (minMaxLane et false x y, 0#5)
/-- FABS (R138). -/
def execFabs (d a : Reg) (et : ET) (s : State) : Host.Outcome State Fault Refusal :=
  strandOp s (.fabs d a et) fun id _ => s.fOp id (.fabs d a et) [a] d fun vs =>
    lanes1 et (opnd vs 0) fun x => (x % signBit et, 0#5)
/-- FNEG (R138). -/
def execFneg (d a : Reg) (et : ET) (s : State) : Host.Outcome State Fault Refusal :=
  strandOp s (.fneg d a et) fun id _ => s.fOp id (.fneg d a et) [a] d fun vs =>
    lanes1 et (opnd vs 0) fun x => (withSign et (!laneNeg et x) (x % signBit et), 0#5)
/-- FSGNJ (R138). -/
def execFsgnj (d a b : Reg) (et : ET) (s : State) : Host.Outcome State Fault Refusal :=
  strandOp s (.fsgnj d a b et) fun id _ => s.fOp id (.fsgnj d a b et) [a, b] d fun vs =>
    lanes2 et (opnd vs 0) (opnd vs 1) fun x y => (withSign et (laneNeg et y) (x % signBit et), 0#5)
/-- FCMPEQ (R138). -/
def execFcmpeq (d a b : Reg) (et : ET) (s : State) : Host.Outcome State Fault Refusal :=
  strandOp s (.fcmpeq d a b et) fun id _ => s.fOp id (.fcmpeq d a b et) [a, b] d fun vs =>
    lanes2 et (opnd vs 0) (opnd vs 1) fun x y => (maskLane et (eqNum (numOf et x) (numOf et y)), 0#5)
/-- FCMPLT (R138). -/
def execFcmplt (d a b : Reg) (et : ET) (s : State) : Host.Outcome State Fault Refusal :=
  strandOp s (.fcmplt d a b et) fun id _ => s.fOp id (.fcmplt d a b et) [a, b] d fun vs =>
    lanes2 et (opnd vs 0) (opnd vs 1) fun x y => orderLane et false x y
/-- FCMPLE (R138). -/
def execFcmple (d a b : Reg) (et : ET) (s : State) : Host.Outcome State Fault Refusal :=
  strandOp s (.fcmple d a b et) fun id _ => s.fOp id (.fcmple d a b et) [a, b] d fun vs =>
    lanes2 et (opnd vs 0) (opnd vs 1) fun x y => orderLane et true x y
/-- FCLASS (R138). -/
def execFclass (d a : Reg) (et : ET) (s : State) : Host.Outcome State Fault Refusal :=
  strandOp s (.fclass d a et) fun id _ => s.fOp id (.fclass d a et) [a] d fun vs =>
    lanes1 et (opnd vs 0) fun x => (classLane et x, 0#5)
/-- FMV fD, fA (R139). -/
def execFmvFF (d a : Reg) (s : State) : Host.Outcome State Fault Refusal :=
  strandOp s (.fmvFF d a) fun id _ => s.fOp id (.fmvFF d a) [a] d fun vs => (opnd vs 0, 0#5)
/-- FMV fD, gA (R139). -/
def execFmvFG (d a : Reg) (s : State) : Host.Outcome State Fault Refusal :=
  strandOp s (.fmvFG d a) fun id c => s.fOp id (.fmvFG d a) [] d fun _ => (c.getG a, 0#5)
/-- FMV gD, fA (R139). -/
def execFmvGF (d a : Reg) (s : State) : Host.Outcome State Fault Refusal :=
  strandOp s (.fmvGF d a) fun id _ => s.withF id (.fmvGF d a) [a] [] fun s1 vs =>
    s1.finishFlags id (.fmvGF d a) 4 0#5 fun s2 k => s2.putF id (.fmvGF d a) [a] [] fun s3 => k (s3.upd id fun c => c.setG d (opnd vs 0))
/-- FPACK (R140). -/
def execFpack (d a b : Reg) (dst et : ET) (s : State) : Host.Outcome State Fault Refusal :=
  strandOp s (.fpack d a b dst et) fun id c => s.fOp id (.fpack d a b dst et) [a, b] d fun vs =>
    let n := lanesOf et.width
    mapLanes dst.width (2 * n) fun i =>
      cvtLane et dst (modeOf .dyn c.sample) (satOf c.sample) false (if i < n then lane et.width (opnd vs 0) i else lane et.width (opnd vs 1) (i - n))
/-- FUNPK (R140): exact widening, which raises no flag. -/
def execFunpk (d a : Reg) (hi : Bool) (dst et : ET) (s : State) : Host.Outcome State Fault Refusal :=
  strandOp s (.funpk d a hi dst et) fun id _ => s.fOp id (.funpk d a hi dst et) [a] d fun vs =>
    let n := lanesOf et.width
    mapLanes dst.width (n / 2) fun i => ((cvtLane et dst .rne false false (lane et.width (opnd vs 0) (bit hi * (n / 2) + i))).1, 0#5)
/-- FSHUF (R141). -/
def execFshuf (d a b : Reg) (et : ET) (s : State) : Host.Outcome State Fault Refusal :=
  strandOp s (.fshuf d a b et) fun id c => s.fOp id (.fshuf d a b et) [a] d fun vs =>
    let n := lanesOf et.width
    mapLanes et.width n fun i =>
      let v := bits (c.getG b) (4 * i) 4
      (if v < n then lane et.width (opnd vs 0) v else 0, 0#5)

/-! ## Conversions (R142-R145) -/

/-- FCVT (R143). -/
def execFcvt (d a : Reg) (sat : Bool) (rm : RM) (dst et : ET) (s : State) : Host.Outcome State Fault Refusal :=
  strandOp s (.fcvt d a sat rm dst et) fun id c => s.fOp id (.fcvt d a sat rm dst et) [a] d fun vs =>
    cvtLanes et.width dst.width (opnd vs 0) (cvtLane et dst (modeOf rm c.sample) (satOf c.sample) sat)
/-- FCVTI (R144). -/
def execFcvti (d a : Reg) (sat : Bool) (rm : RM) (idst : IT) (et : ET) (s : State) : Host.Outcome State Fault Refusal :=
  strandOp s (.fcvti d a sat rm idst et) fun id c => s.fOp id (.fcvti d a sat rm idst et) [a] d fun vs =>
    cvtLanes et.width (itBits idst) (opnd vs 0) (cvtiLane et (itBits idst) (modeOf rm c.sample) sat)
/-- FCVTF (R145). -/
def execFcvtf (d a : Reg) (sat : Bool) (rm : RM) (dst : ET) (isrc : IT) (s : State) : Host.Outcome State Fault Refusal :=
  strandOp s (.fcvtf d a sat rm dst isrc) fun id c => s.fOp id (.fcvtf d a sat rm dst isrc) [a] d fun vs =>
    cvtLanes (itBits isrc) dst.width (opnd vs 0) (cvtfLane (itBits isrc) dst (modeOf rm c.sample) (satOf c.sample) sat)

/-! ## Immediate forms (R146) -/

/-- FADD with an immediate. -/
def execFaddImm (d : Reg) (et : ET) (imm16 : BitVec 16) (s : State) : Host.Outcome State Fault Refusal :=
  strandOp s (.faddImm d et imm16) fun id c => s.fOp id (.faddImm d et imm16) [d] d fun vs =>
    lanes2 et (opnd vs 0) (broadcast et imm16) (faddLane et (modeOf .dyn c.sample) (satOf c.sample))
/-- FMUL with an immediate. -/
def execFmulImm (d : Reg) (et : ET) (imm16 : BitVec 16) (s : State) : Host.Outcome State Fault Refusal :=
  strandOp s (.fmulImm d et imm16) fun id c => s.fOp id (.fmulImm d et imm16) [d] d fun vs =>
    lanes2 et (opnd vs 0) (broadcast et imm16) (fmulLane et (modeOf .dyn c.sample) (satOf c.sample))
/-- FMV with an immediate. -/
def execFmvImm (d : Reg) (et : ET) (imm16 : BitVec 16) (s : State) : Host.Outcome State Fault Refusal :=
  strandOp s (.fmvImm d et imm16) fun id _ => s.fOp id (.fmvImm d et imm16) [] d fun _ => (broadcast et imm16, 0#5)

end Sys2Proof.Machine
end

