-- ==== Sys2Proof/Machine/Group.lean ====
section
/-! DEFINITION. Groups and collectives: joining, leaving and the view, the collectives and their completion, and the timeout (R379-R390). -/

namespace Sys2Proof.Machine

open Sys2Proof

/-! ## GJOIN, GLEAVE, GGEN (R389, R390) -/

/-- Puts a request for a group engine into the fabric. -/
def State.sendGroup (s : State) (lc dev : Nat) (part : Nat) (op : GroupOp) : State :=
  s.launchFlit lc (mkFlit (mkHdr dev part 63 0 0 0 10 false (s.lcore lc).cutFlag 0) 0#64 (srcWord 0 s.device.toNat (lcKid lc) 0 0 (lcCore lc) (lcLt lc)) 0#64 0#64 0#64 0#64 (.group op) .none)
/-- A request of a strand: the home on this device answers at once, another device's by a flit (R389). -/
def State.groupAsk (s : State) (id : Nat) (i : Instr) (d : Reg) (name : Word) (here : State → HomeAns × State) (op : GroupOp) : State :=
  let c := s.ctxD id
  if s.homeHere name then
    let (a, s1) := here s
    (s1.takeView name c.kid c.lt a).finishG id d a.gd 4
  else match c.answer? with
    | some a => s.finishG id d a.value 4
    | none =>
      if c.stageOf = 1 then s.park id i .group
      else if !s.retxRoom c.lck then s.park id i .sendSpace
      else (s.sendGroup c.lck (gDev name) (s.partOf c.kid) op).parkAt id i .group 1 0 []
/-- What every instruction of the chapter meets first (R390). -/
def State.groupGuard (s : State) (id : Nat) (k : State) : State := if s.spec (s.ctxD id) then s.trap id cIllegal 0#64 else k

/-- GJOIN (R389). -/
def execGjoin (d a b : Reg) (s : State) : Host.Outcome State Fault Refusal :=
  strandOp s (.gjoin d a b) fun id c => s.groupGuard id (
    let name := c.getG a
    let v := c.getG b
    let who := s.asMember c.kid c.lt
    if gNameBad name then s.trap id cIllegal name
    else if bits v 48 16 ≠ 0 then s.trap id cIllegal v
    else s.groupAsk id (.gjoin d a b) d name (fun s => s.homeJoin (s.partOf c.kid) name (v.setWidth 32) (bits v 32 16) who) (.join name (v.setWidth 32) (bits v 32 16) who id))
/-- GLEAVE (R389). -/
def execGleave (d a : Reg) (s : State) : Host.Outcome State Fault Refusal :=
  strandOp s (.gleave d a) fun id c => s.groupGuard id (
    let name := c.getG a
    let who := s.asMember c.kid c.lt
    let old := s.oldView name c.kid c.lt
    if gNameBad name then s.trap id cIllegal name
    else s.groupAsk id (.gleave d a) d name (fun s => s.homeLeave (s.partOf c.kid) name who old) (.leave name who id))
/-- GGEN (R389). -/
def execGgen (d a : Reg) (s : State) : Host.Outcome State Fault Refusal :=
  strandOp s (.ggen d a) fun id c => s.groupGuard id (
    let name := c.getG a
    let who := s.asMember c.kid c.lt
    let old := s.oldView name c.kid c.lt
    if gNameBad name then s.trap id cIllegal name
    else s.groupAsk id (.ggen d a) d name (fun s => s.homeGen (s.partOf c.kid) name who old) (.gen name who id))

/-! ## Issue of a collective (R381, R382) -/

/-- Bytes of an element. -/
def dtBytes (t : DT) : Nat := match t with | .f32 => 4 | .i32 => 4 | .i64 => 8
/-- Bytes that a member reads at SRC and writes at DST; `m` members, `root` says that the member is the root of a CBCST. -/
def Coll.srcBytes (c : Coll) (m : Nat) (root : Bool) : Nat :=
  match c.kind with
  | 0 => c.count * dtBytes c.dt
  | 1 => if root then c.count * dtBytes c.dt else 0
  | 2 => c.count * dtBytes c.dt
  | _ => m * c.count * dtBytes c.dt
def Coll.dstBytes (c : Coll) (m : Nat) : Nat := if c.kind = 2 then m * c.count * dtBytes c.dt else c.count * dtBytes c.dt

/-- The lowest free slot of a logical core's collectives. -/
def LCore.freeColl (c : LCore) : Option Nat := (List.range Config.collSlots).find? fun n => (c.colls.filter fun r => collLive r.state).all fun r => r.slot ≠ n

/-- A collective with its descriptor read (R382 steps 4 to 7). -/
def State.collIssue (s : State) (id : Nat) (i : Instr) (d : Reg) (name vb : Word) (op : Coll) (bs : List Byte) : State :=
  let c := s.ctxD id
  let src := hdrField bs 0 8
  let dst := hdrField bs 8 8
  let n := hdrField bs 16 8
  let root := hdrField bs 24 8
  let e := dtBytes op.dt
  let v := s.view? name c.kid c.lt
  let m := (v.map fun v => v.view.members.length).getD 65536
  if n = 0 ∨ 65536 < n ∨ src % e ≠ 0 ∨ dst % e ≠ 0 ∨ (if op.kind = 1 then m ≤ root ∨ 65536 ≤ root else root ≠ 0) then s.trap id cIllegal vb
  else match v with
    | none => s.trap id cGroupRefused name
    | some v =>
      if op.mode ∧ op.dt = .f32 ∧ op.rop = 0 ∧ 512 < m then s.trap id cIllegal (w64 m)
      else
        let o : Coll := { op with name := name, gen := v.view.gen, k := v.count, count := n, root := root, frm := c.sample }
        let reads := o.srcBytes m (decide (v.view.rank = root))
        match ([((src : Int), (src : Int) + reads), ((dst : Int), (dst : Int) + o.dstBytes m)] : List (Int × Int)).findSome? (firstOutside (s.sOf c)) with
        | some a => s.trap id cPagePerm a
        | none =>
          match (s.lcore c.lck).freeColl with
          | none => s.park id i .collSlot
          | some slot =>
            let seq := (s.lcore c.lck).collSeq
            let r : CollRec := { slot := slot, seqno := seq, ctx := id, op := o, src := src, dst := dst, rank := v.view.rank, total := m, state := 1, strand := c.strand.toNat, order := s.nextId }
            let s1 := s.updLc c.lck fun l => { l with colls := l.colls.filter (fun x => x.slot ≠ slot) ++ [r], collSeq := l.collSeq + 1 }
            let s2 : State := { s1 with views := s1.views.map fun x => if x.name = name ∧ x.kid = c.kid ∧ x.lt = c.lt then { x with count := x.count + 1 } else x }
            (s2.handEngine id).finishG id d (w64 (slot + seq % 4096 * 16)) 12
/-- A collective instruction (R381, R382 steps 2 and 3). -/
def State.collOp (s : State) (id : Nat) (i : Instr) (d a b : Reg) (op : Coll) : State :=
  let c := s.ctxD id
  let name := c.getG a
  let vb := c.getG b
  s.groupGuard id (
    if gNameBad name then s.trap id cIllegal name
    else if vb.toNat % 32 ≠ 0 then s.trap id cMisalign vb
    else if s.sOf c < vb.toNat + 32 then s.trap id cPagePerm vb
    else s.loadHdr id i vb.toNat 4 [] fun s1 bs => s1.collIssue id i d name vb op bs)

/-- CRED (R383). -/
def execCred (d a b : Reg) (rm : RM) (mode : Bool) (dt : DT) (s : State) : Host.Outcome State Fault Refusal :=
  strandOp s (.cred d a b rm mode dt) fun id _ => s.collOp id (.cred d a b rm mode dt) d a b { kind := 0, rop := 0, mode := mode, dt := dt, rm := rm }
/-- CREDMIN (R383). -/
def execCredmin (d a b : Reg) (rm : RM) (mode : Bool) (dt : DT) (s : State) : Host.Outcome State Fault Refusal :=
  strandOp s (.credmin d a b rm mode dt) fun id _ => s.collOp id (.credmin d a b rm mode dt) d a b { kind := 0, rop := 1, mode := mode, dt := dt, rm := rm }
/-- CREDMAX (R383). -/
def execCredmax (d a b : Reg) (rm : RM) (mode : Bool) (dt : DT) (s : State) : Host.Outcome State Fault Refusal :=
  strandOp s (.credmax d a b rm mode dt) fun id _ => s.collOp id (.credmax d a b rm mode dt) d a b { kind := 0, rop := 2, mode := mode, dt := dt, rm := rm }
/-- CREDAND (R383). -/
def execCredand (d a b : Reg) (rm : RM) (mode : Bool) (dt : DT) (s : State) : Host.Outcome State Fault Refusal :=
  strandOp s (.credand d a b rm mode dt) fun id _ => s.collOp id (.credand d a b rm mode dt) d a b { kind := 0, rop := 3, mode := mode, dt := dt, rm := rm }
/-- CREDOR (R383). -/
def execCredor (d a b : Reg) (rm : RM) (mode : Bool) (dt : DT) (s : State) : Host.Outcome State Fault Refusal :=
  strandOp s (.credor d a b rm mode dt) fun id _ => s.collOp id (.credor d a b rm mode dt) d a b { kind := 0, rop := 4, mode := mode, dt := dt, rm := rm }
/-- CBCST (R383). -/
def execCbcst (d a b : Reg) (rm : RM) (dt : DT) (s : State) : Host.Outcome State Fault Refusal :=
  strandOp s (.cbcst d a b rm dt) fun id _ => s.collOp id (.cbcst d a b rm dt) d a b { kind := 1, dt := dt, rm := rm }
/-- CAGTH (R383). -/
def execCagth (d a b : Reg) (rm : RM) (dt : DT) (s : State) : Host.Outcome State Fault Refusal :=
  strandOp s (.cagth d a b rm dt) fun id _ => s.collOp id (.cagth d a b rm dt) d a b { kind := 2, dt := dt, rm := rm }
/-- CRSCT (R383). -/
def execCrsct (d a b : Reg) (rm : RM) (mode : Bool) (dt : DT) (s : State) : Host.Outcome State Fault Refusal :=
  strandOp s (.crsct d a b rm mode dt) fun id _ => s.collOp id (.crsct d a b rm mode dt) d a b { kind := 3, mode := mode, dt := dt, rm := rm }

/-- The status word of a collective (R386). -/
def CollRec.status (r : CollRec) : Word :=
  w64 (bit r.fin.wdr * 2 ^ 62 + r.fin.fl.toNat * 2 ^ 56 + r.fin.err % 16 * 2 ^ 52 + r.state % 8 * 2 ^ 48 + r.fin.nc1 % 65536 * 2 ^ 32 + r.op.gen.toNat)
/-- CSTAT (R386). -/
def execCstat (d a : Reg) (s : State) : Host.Outcome State Fault Refusal :=
  strandOp s (.cstat d a) fun id c => s.groupGuard id (
    match (s.lcore c.lck).colls.find? fun r => decide ((c.getG a).toNat = r.slot + r.seqno % 4096 * 16) with
    | some r => (if r.state = 3 ∨ r.state = 4 then s.syncEngine id else s).finishG id d r.status 4
    | none => s.finishG id d 0#64 4)

/-! ## Reductions (R383-R385) -/

/-- An F32 sum of two elements, rounded (R384). -/
def addF32 (md : RM) (a b : Nat) : Nat × BitVec 5 := roundLane .f32 md false (addNum md (numOf .f32 a) (numOf .f32 b))
/-- The exponent of the largest power of two below `n`: ⌈log2 n⌉ − 1. -/
def splitAt (n : Nat) : Nat := 2 ^ Nat.log2 (n - 1)
/-- An F32 element as a reduction delivers it: any NaN is the canonical one (R71). -/
def canonF32 (v : Nat) : Nat := match numOf .f32 v with | .nan => nanBits .f32 | _ => v
/-- The canonical tree over the elements of a list (R384). -/
def treeSum (md : RM) : Nat → List Nat → Nat × BitVec 5
  | 0, _ => (0, 0#5)
  | fuel + 1, xs =>
    match xs with
    | [] => (0, 0#5)
    | [x] => (x, 0#5)
    | _ =>
      let m := splitAt xs.length
      let (a, f) := treeSum md fuel (xs.take m)
      let (b, g) := treeSum md fuel (xs.drop m)
      let (r, h) := addF32 md a b
      (r, f ||| g ||| h)
/-- A long sum (R385): an integer in units of 2^−149, or a special value. -/
inductive LongSum where
  | fin (z : Int)
  | inf (neg : Bool)
  | nan
  deriving DecidableEq, Repr
def longOf (v : Nat) : LongSum :=
  match numOf .f32 v with
  | .fin neg n d => .fin (signedN neg (n * 2 ^ 149 / d))
  | .inf neg => .inf neg
  | .nan => .nan
/-- Two long sums combined, with the flag that it raises. -/
def longAdd (a b : LongSum) : LongSum × BitVec 5 :=
  match a, b with
  | .nan, _ => (.nan, 0#5)
  | _, .nan => (.nan, 0#5)
  | .fin x, .fin y => (.fin (x + y), 0#5)
  | .inf x, .inf y => if x = y then (.inf x, 0#5) else (.nan, fNV)
  | .inf x, _ => (.inf x, 0#5)
  | _, .inf y => (.inf y, 0#5)
/-- The exact sum of a list of elements, rounded once (R385). -/
def exactSum (md : RM) (xs : List Nat) : Nat × BitVec 5 :=
  let (t, f) := (xs.drop 1).foldl (fun r x => let (y, g) := longAdd r.1 (longOf x)
    (y, r.2 ||| g)) (longOf (xs.headD 0), (0#5 : BitVec 5))
  let num : Num := match t with
    | .fin z => ofInt z (2 ^ 149) (decide (md = .rdn))
    | .inf neg => .inf neg
    | .nan => .nan
  let (r, g) := roundNum .f32 md false false num
  (r, f ||| g)

/-- The reduction of one element over the contributors, in rank order. -/
def Coll.reduce (c : Coll) (xs : List Nat) : Nat × BitVec 5 :=
  let w := 8 * dtBytes c.dt
  let md := modeOf c.rm c.frm
  let fold (f : Nat → Nat → Nat) : Nat := match xs with | [] => 0 | x :: t => t.foldl f x
  let canon (v : Nat) : Nat := if c.dt = .f32 then canonF32 v else v
  match c.rop with
  | 0 =>
    match c.dt with
    | .f32 => if c.mode then exactSum md xs else let (r, f) := treeSum md xs.length xs
      (canonF32 r, f)
    | _ => (wrapBits w ((xs.map fun x => intOf w x).foldl (· + ·) 0), 0#5)
  | 1 => (canon (fold fun a b => if c.dt = .f32 then minMaxLane .f32 true a b else if intOf w b < intOf w a then b else a), 0#5)
  | 2 => (canon (fold fun a b => if c.dt = .f32 then minMaxLane .f32 false a b else if intOf w a < intOf w b then b else a), 0#5)
  | 3 => (fold fun a b => a &&& b, 0#5)
  | _ => (fold fun a b => a ||| b, 0#5)

/-- Element `i` of a contribution. -/
def Contrib.elem (c : Contrib) (i : Nat) : Nat := let e := dtBytes c.op.dt
  leNat ((c.data.drop (i * e)).take e)
/-- `n` reduced elements from index `at_` on: their bytes and flags. -/
def reduceRun (o : Coll) (cs : List Contrib) (at_ n : Nat) : List Byte × BitVec 5 :=
  (List.range n).foldl (fun r i => let (v, f) := o.reduce (cs.map fun c => c.elem (at_ + i))
    (r.1 ++ leBytes (dtBytes o.dt) v, r.2 ||| f)) ([], 0#5)

/-! ## Completion (R378, R382, R383, R386) -/

/-- Two collectives of an instance differ (R382). CBCST and CAGTH ignore their RM. -/
def Coll.differs (a b : Coll) : Bool :=
  decide (a.kind ≠ b.kind) || decide (a.dt ≠ b.dt) || decide (a.rop ≠ b.rop) || decide (a.mode ≠ b.mode) || decide (a.count ≠ b.count) || decide (a.root ≠ b.root)
    || (decide (a.kind ≠ 1) && decide (a.kind ≠ 2) && decide (a.rm ≠ b.rm))
/-- The results of an instance for a contributor of rank `m`, with the flags. DESIGN CHOICE (log entry 89): where the members' collectives name DYN and their samples
differ, each member's result is reduced under the mode of its own collective (R81), and FL holds the flags of all. -/
def instBlocks (o : Coll) (ms : List Member) (cs : List Contrib) (m : Nat) : List (Nat × List Byte) × BitVec 5 :=
  let size := o.count * dtBytes o.dt
  match o.kind with
  | 0 => let (b, f) := reduceRun o cs 0 o.count
    ([(0, b)], f)
  | 1 => ((cs.filter fun c => rankIn c.who ms = o.root).map fun c => (0, c.data), 0#5)
  | 2 => (cs.map fun c => (rankIn c.who ms * size, c.data), 0#5)
  | _ => let (b, f) := reduceRun o cs (m * o.count) o.count
    ([(0, b)], f)

/-- An instance completes: every member that must contribute has (R383). -/
def State.instComplete (s : State) (g : Group) (x : Inst) : State :=
  let ms := g.ofGen x.gen
  let cs := ms.filterMap fun m => x.contribs.find? fun c => c.who = m
  match cs with
  | [] => s
  | c :: _ =>
    let o := c.op
    let outs (f : Contrib → List (Nat × List Byte)) : List (Member × List (Nat × List Byte)) := cs.map fun c => (c.who, f c)
    let of (y : Contrib) : List (Nat × List Byte) × BitVec 5 := instBlocks y.op ms cs (rankIn y.who ms)
    let stamp := cs.foldl (fun t y => serialMax t y.stamp) c.stamp
    let fin (err : Nat) (fl : BitVec 5) : CollEnd := { err := err, fl := fl, nc1 := cs.length - 1, wdr := decide (cs.length ≠ ms.length), stamp := stamp }
    if cs.any fun y => y.op.differs o then s.instEnd x (fin 2 0#5) (outs fun _ => [])
    else if cs.any (·.memErr) then s.instEnd x (fin 4 0#5) (outs fun _ => [])
    else if o.kind = 1 ∧ cs.all fun y => rankIn y.who ms ≠ o.root then s.instEnd x (fin 3 0#5) (outs fun _ => [])
    else s.instEnd x (fin 0 (cs.foldl (fun f y => f ||| (of y).2) 0#5)) (outs fun y => (of y).1)

/-- A contribution reaches the home: it opens its instance or joins it. -/
def State.addContrib (s : State) (part : Nat) (c : Contrib) : State :=
  let isIt (x : Inst) : Bool := decide (x.name = c.op.name) && decide (x.part = part) && decide (x.gen = c.op.gen) && decide (x.k = c.op.k)
  match s.group? part c.op.name with
  | none => s.collResult c.who c.op.name c.op.gen c.op.k { err := 6 } []
  | some _ =>
    if s.insts.any isIt then { s with insts := s.insts.map fun x => if isIt x then { x with contribs := x.contribs ++ [c] } else x }
    else { s with insts := s.insts ++ [{ name := c.op.name, part := part, gen := c.op.gen, k := c.op.k, firstAt := s.tbase, contribs := [c] }] }
/-- The engine reads the contribution of a logical core's collective and hands it to the home, with the place of its reads (R381, R387). One whose member has been
withdrawn from its instance ends with WITHDRAWN (R388). -/
def State.contribute (s : State) (lc slot : Nat) (memErr : Bool) : State :=
  let set (s : State) (f : CollRec → CollRec) : State := s.updLc lc fun l => { l with colls := l.colls.map fun x => if x.slot = slot then f x else x }
  match (s.lcore lc).colls.find? fun r => decide (r.slot = slot) && decide (r.state = 1) with
  | none => s
  | some r =>
    let here := s.homeHere r.op.name
    if r.gone then set s fun x => { x with state := 4, fin := { err := 5, wdr := true } }
    else if !here && !s.retxRoom lc then s
    else
      let n := r.op.srcBytes r.total (decide (r.rank = r.op.root))
      let (b, s1) := s.engScratchRead (s.engineOf lc) (lc / 8) r.src n
      let s2 := set s1 fun x => { x with state := 2 }
      let who := s.asMember (lcKid lc) (lcLt lc)
      if here then s2.addContrib (s.partOf (lcKid lc)) { who := who, op := r.op, data := b, memErr := memErr, stamp := (s1.clock (s.engineOf lc)).t }
      else (s2.noteRead (s.partOf (lcKid lc)) r.op (s1.clock (s.engineOf lc)).t).sendGroup lc (gDev r.op.name) (s.partOf (lcKid lc)) (.contribute r.op who b memErr)

/-- COLLECTIVE_COMPLETE (R383). With `ev.flag` the engine reads the contribution of the collective in slot `ev.slot` of logical core
`ev.id` (`ev.idx` 1: an uncorrectable read); without it, the instance `ev.idx` of generation `ev.id` of the group `ev.w0` of partition
`ev.slot` completes, when every member that must contribute has. -/
def execCollectiveComplete (s : State) : Host.Outcome State Fault Refusal :=
  if s.ev.flag then
    if s.kernelRuns (lcKid s.ev.id) then .next (s.contribute s.ev.id s.ev.slot (decide (s.ev.idx = 1))) else .next s
  else
    let is := s.insts.find? fun x => decide (x.name = s.ev.w0) && decide (x.part = s.ev.slot) && decide (x.gen.toNat = s.ev.id) && decide (x.k = s.ev.idx)
    match is, s.group? s.ev.slot s.ev.w0 with
    | some x, some g => if g.awaited x = [] then .next (s.instComplete g x) else .next s
    | _, _ => .next s

/-! ## Timeout and withdrawal (R379) -/

/-- An instance has waited TMO since its first contribution, or since its timeout was armed again. -/
def Group.late (g : Group) (s : State) (x : Inst) : Bool := decide (g.tmo ≠ 0) && decide (x.firstAt + 1000000 * g.tmo ≤ s.tbase)
/-- A member is away: its kernel is SWITCHED, or its logical tile stood on a retired tile; of a member of another device, that device's resident kernel says so. -/
def State.memberAway (s : State) (who : Member) (told : Bool) : Bool :=
  if who.dev ≠ s.device.toNat then told
  else match s.kernel? who.kid with
    | some k => decide (k.state = .switched) || (k.restoring && k.failed.contains (ltKey who.kid who.lt))
    | none => true
/-- The timeout record of a member that an instance has waited for. What it holds is the model's (notes/assumptions/15.md). -/
def State.timeoutRecord (s : State) (x : Inst) (m : Member) : Item :=
  { chan := 14, p0 := x.name, p1 := w64 (m.dev * 2 ^ 18 + m.kid * 2 ^ 12 + m.lt), p2 := x.gen.setWidth 64, p3 := w64 x.k, arrived := s.tbase, agedAt := s.tbase }
/-- GROUP_TIMEOUT (R379): the instance `ev.idx` of generation `ev.id` of the group `ev.w0` of partition `ev.slot` has waited TMO for the members that have not contributed. The
resident kernel gets a record of each, and withdraws each that is away (`ev.picks` names those of other devices, as the records do); if another one is left, the timeout is armed again. -/
def execGroupTimeout (s : State) : Host.Outcome State Fault Refusal :=
  let isIt (x : Inst) : Bool := decide (x.name = s.ev.w0) && decide (x.part = s.ev.slot) && decide (x.gen.toNat = s.ev.id) && decide (x.k = s.ev.idx)
  match s.insts.find? isIt, s.group? s.ev.slot s.ev.w0 with
  | some x, some g =>
    let ms := g.awaited x
    if ms = [] ∨ !g.late s x then .next s
    else
      let gone := ms.filter fun m => s.memberAway m (s.ev.picks.contains (m.dev * 2 ^ 18 + m.kid * 2 ^ 12 + m.lt))
      let again := gone.length < ms.length
      let s1 : State := { s with insts := s.insts.map (fun y => if isIt y && again then { y with firstAt := s.tbase } else y)
                                 resident := s.resident ++ ms.map fun m => { part := s.ev.slot, item := s.timeoutRecord x m, ctx := none, notice := true } }
      .next (gone.foldl (fun s m => s.withdraw s.ev.slot s.ev.w0 m) s1)
  | _, _ => .next s
/-- The resident kernel has a ground to withdraw a member: its kernel has ended, its logical tile is lost, or an instance has waited TMO for it while it is away (R379). -/
def State.mayWithdraw (s : State) (part : Nat) (name : Word) (who : Member) (told : Bool) : Bool :=
  let ended : Bool := decide (who.dev = s.device.toNat) && (match s.kernel? who.kid with
    | some k => decide (k.part ≠ part) || decide (k.state = .ended) || (k.restoring && k.failed.contains (ltKey who.kid who.lt))
    | none => true)
  let late : Bool := match s.group? part name with
    | some g => s.insts.any fun x => decide (x.name = name) && decide (x.part = part) && g.late s x && (g.awaited x).contains who
    | none => false
  ended || (late && s.memberAway who told)
/-- MEMBER_WITHDRAWAL (R379): the resident kernel of partition `ev.slot` withdraws `ev.member` from the group `ev.w0`, whose home is here or which the member of this
device knows. -/
def execMemberWithdrawal (s : State) : Host.Outcome State Fault Refusal :=
  let who := s.ev.member
  let known := (match s.group? s.ev.slot s.ev.w0 with | some g => g.has who | none => false) || (decide (who.dev = s.device.toNat) && (s.view? s.ev.w0 who.kid who.lt).isSome)
  if known && s.mayWithdraw s.ev.slot s.ev.w0 who s.ev.flag then .next (s.withdraw s.ev.slot s.ev.w0 who) else .next s

/-! ## Flits of kind 10 (R389) -/

/-- The answer of the home to a request that came from another device. -/
def State.answerGroup (s : State) (part : Nat) (name : Word) (who : Member) (ctx : Nat) (a : HomeAns) : State :=
  s.sendMember part who (.answer name who ctx a.gd a.view a.left)
/-- A member takes the answer of a home on another device; when its view has left a generation, it tells the final count (R378, R389). -/
def State.takeAnswer (s : State) (part : Nat) (name : Word) (who : Member) (ctx : Nat) (a : HomeAns) : State :=
  let old := s.oldView name who.kid who.lt
  let s1 := (s.takeView name who.kid who.lt a).upd ctx fun c =>
    if c.wait = .group then { c with held := c.held.map fun h => { h with answered := true, ans := { accept := true, value := a.gd } } } else c
  match old with
  | some (v, n) => if (s1.oldView name who.kid who.lt).map (·.1) = some v then s1 else s1.sendHome part name (.final name who v n [])
  | none => s1
/-- The home has withdrawn a member of this device. -/
def State.takeUnview (s : State) (part : Nat) (name : Word) (who : Member) : State :=
  match s.oldView name who.kid who.lt with
  | some (v, n) => (((s.markGone name (ltKey who.kid who.lt)).dropView name who.kid who.lt)).sendHome part name (.final name who v n (s.unread name (ltKey who.kid who.lt)))
  | none => s
/-- What an accepted flit of kind 10 does; `stamp` is the flit's. -/
def State.groupFlit (s : State) (part : Nat) (stamp : BitVec 48) (op : GroupOp) : State :=
  match op with
  | .join name key tmo who ctx => let r := s.homeJoin part name key tmo who; r.2.answerGroup part name who ctx r.1
  | .leave name who ctx => let r := s.homeLeave part name who none; r.2.answerGroup part name who ctx r.1
  | .gen name who ctx => let r := s.homeGen part name who none; r.2.answerGroup part name who ctx r.1
  | .final name who gen n missing => s.updGroup part name fun g => g.takeFinal who gen n missing
  | .withdraw name who gen n missing => ((s.homeLeave part name who (some (gen, n))).2).updGroup part name fun g => g.takeFinal who gen n missing
  | .answer name who ctx gd view left => s.takeAnswer part name who ctx { gd := gd, view := view, left := left }
  | .unview name who => s.takeUnview part name who
  | .contribute c who data memErr => s.addContrib part { who := who, op := c, data := data, memErr := memErr, stamp := stamp }
  | .result name gen k who fin blocks => ((s.collResult who name gen k { fin with stamp := s.afterReads part name gen k stamp } blocks).collFlush (ltKey who.kid who.lt)).dropReads

end Sys2Proof.Machine
end

