-- ==== Sys2Proof/Machine/IntOps.lean ====
section
/-! DEFINITION. Integer register operations, immediates and addresses (R107-R115). -/

namespace Sys2Proof.Machine

open Sys2Proof

/-! ## Results (R107-R112) -/

/-- SEL: a when the old gD is non-zero, else b. -/
def selVal (d a b : Word) : Word := if d = 0#64 then b else a
def minS (a b : Word) : Word := if b.slt a then b else a
def maxS (a b : Word) : Word := if a.slt b then b else a
def minU (a b : Word) : Word := if b.ult a then b else a
def maxU (a b : Word) : Word := if a.ult b then b else a
/-- 1 when a condition holds, else 0. -/
def boolWord (p : Bool) : Word := if p then 1#64 else 0#64
/-- The shifts count by b[5:0] (R108). -/
def shlVal (a b : Word) : Word := a <<< (bits b 0 6)
def shrVal (a b : Word) : Word := a >>> (bits b 0 6)
def sraVal (a b : Word) : Word := a.sshiftRight (bits b 0 6)
def rotrVal (a b : Word) : Word := a.rotateRight (bits b 0 6)
/-- Bits 127:64 of the exact product as INT64 (MULH) and as UINT64 (MULHU) (R109). -/
def mulhVal (a b : Word) : Word := BitVec.ofInt 64 (a.toInt * b.toInt / 2 ^ 64)
def mulhuVal (a b : Word) : Word := w64 (a.toNat * b.toNat / 2 ^ 64)
/-- The quotients and remainders of R110. -/
def divVal (a b : Word) : Word :=
  if b = 0#64 then 0xFFFFFFFFFFFFFFFF#64 else BitVec.ofInt 64 (a.toInt.tdiv b.toInt)
def remVal (a b : Word) : Word := if b = 0#64 then a else BitVec.ofInt 64 (a.toInt.tmod b.toInt)
def divuVal (a b : Word) : Word := if b = 0#64 then 0xFFFFFFFFFFFFFFFF#64 else w64 (a.toNat / b.toNat)
def remuVal (a b : Word) : Word := if b = 0#64 then a else w64 (a.toNat % b.toNat)
/-- Counts and permutations of bits (R111). -/
def clzVal (a : Word) : Word := if a = 0#64 then 64#64 else w64 (63 - a.toNat.log2)
def ctzVal (a : Word) : Word := w64 (((List.range 64).find? fun i => a.getLsbD i).getD 64)
def popcVal (a : Word) : Word := w64 ((List.range 64).countP fun i => a.getLsbD i)
def brevVal (a : Word) : Word := w64 ((List.range 64).foldl (fun n i => 2 * n + bit (a.getLsbD i)) 0)
def bswapVal (a : Word) : Word := w64 (leNat (leBytes 8 a.toNat).reverse)
/-- A width or length field of 6 bits, 0 meaning 64 (R112). -/
def width64 (n : Nat) : Nat := if n = 0 then 64 else n
def sextVal (a b : Word) : Word := let k := 64 - width64 (bits b 0 6)
  (a <<< k).sshiftRight k
def zextVal (a b : Word) : Word := let k := 64 - width64 (bits b 0 6)
  (a <<< k) >>> k
def bfxVal (a b : Word) : Word := w64 (a.toNat / 2 ^ bits b 0 6 % 2 ^ width64 (bits b 8 6))
def bfiVal (d a b : Word) : Word :=
  let mask := w64 ((2 ^ width64 (bits b 8 6) - 1) * 2 ^ bits b 0 6)
  (d &&& ~~~mask) ||| ((a <<< bits b 0 6) &&& mask)

/-! ## Meanings -/

/-- ADD (R107). -/
def execAdd (d : Reg) (a : Reg) (b : Reg) (s : State) : Host.Outcome State Fault Refusal :=
  strandOp s (.add d a b) fun id c => s.finishG id d (c.getG a + c.getG b) 4
/-- ADD_L (R107). -/
def execAddL (d : Reg) (a : Reg) (lit : Word) (s : State) : Host.Outcome State Fault Refusal :=
  strandOp s (.addL d a lit) fun id c => s.finishG id d ((c.getG a) + lit) 12
/-- SUB (R107). -/
def execSub (d : Reg) (a : Reg) (b : Reg) (s : State) : Host.Outcome State Fault Refusal :=
  strandOp s (.sub d a b) fun id c => s.finishG id d (c.getG a - c.getG b) 4
/-- SUB_L (R107). -/
def execSubL (d : Reg) (a : Reg) (lit : Word) (s : State) : Host.Outcome State Fault Refusal :=
  strandOp s (.subL d a lit) fun id c => s.finishG id d ((c.getG a) - lit) 12
/-- AND (R107). -/
def execAnd (d : Reg) (a : Reg) (b : Reg) (s : State) : Host.Outcome State Fault Refusal :=
  strandOp s (.and d a b) fun id c => s.finishG id d (c.getG a &&& c.getG b) 4
/-- AND_L (R107). -/
def execAndL (d : Reg) (a : Reg) (lit : Word) (s : State) : Host.Outcome State Fault Refusal :=
  strandOp s (.andL d a lit) fun id c => s.finishG id d ((c.getG a) &&& lit) 12
/-- OR (R107). -/
def execOr (d : Reg) (a : Reg) (b : Reg) (s : State) : Host.Outcome State Fault Refusal :=
  strandOp s (.or d a b) fun id c => s.finishG id d (c.getG a ||| c.getG b) 4
/-- OR_L (R107). -/
def execOrL (d : Reg) (a : Reg) (lit : Word) (s : State) : Host.Outcome State Fault Refusal :=
  strandOp s (.orL d a lit) fun id c => s.finishG id d ((c.getG a) ||| lit) 12
/-- XOR (R107). -/
def execXor (d : Reg) (a : Reg) (b : Reg) (s : State) : Host.Outcome State Fault Refusal :=
  strandOp s (.xor d a b) fun id c => s.finishG id d (c.getG a ^^^ c.getG b) 4
/-- XOR_L (R107). -/
def execXorL (d : Reg) (a : Reg) (lit : Word) (s : State) : Host.Outcome State Fault Refusal :=
  strandOp s (.xorL d a lit) fun id c => s.finishG id d ((c.getG a) ^^^ lit) 12
/-- ANDN (R107). -/
def execAndn (d : Reg) (a : Reg) (b : Reg) (s : State) : Host.Outcome State Fault Refusal :=
  strandOp s (.andn d a b) fun id c => s.finishG id d (c.getG a &&& ~~~c.getG b) 4
/-- ANDN_L (R107). -/
def execAndnL (d : Reg) (a : Reg) (lit : Word) (s : State) : Host.Outcome State Fault Refusal :=
  strandOp s (.andnL d a lit) fun id c => s.finishG id d ((c.getG a) &&& ~~~lit) 12
/-- ORN (R107). -/
def execOrn (d : Reg) (a : Reg) (b : Reg) (s : State) : Host.Outcome State Fault Refusal :=
  strandOp s (.orn d a b) fun id c => s.finishG id d (c.getG a ||| ~~~c.getG b) 4
/-- ORN_L (R107). -/
def execOrnL (d : Reg) (a : Reg) (lit : Word) (s : State) : Host.Outcome State Fault Refusal :=
  strandOp s (.ornL d a lit) fun id c => s.finishG id d ((c.getG a) ||| ~~~lit) 12
/-- SEL (R107). -/
def execSel (d : Reg) (a : Reg) (b : Reg) (s : State) : Host.Outcome State Fault Refusal :=
  strandOp s (.sel d a b) fun id c => s.finishG id d (selVal (c.getG d) (c.getG a) (c.getG b)) 4
/-- SEL_L (R107). -/
def execSelL (d : Reg) (a : Reg) (lit : Word) (s : State) : Host.Outcome State Fault Refusal :=
  strandOp s (.selL d a lit) fun id c => s.finishG id d (selVal (c.getG d) (c.getG a) lit) 12
/-- SHL (R108). -/
def execShl (d : Reg) (a : Reg) (b : Reg) (s : State) : Host.Outcome State Fault Refusal :=
  strandOp s (.shl d a b) fun id c => s.finishG id d (shlVal (c.getG a) (c.getG b)) 4
/-- SHR (R108). -/
def execShr (d : Reg) (a : Reg) (b : Reg) (s : State) : Host.Outcome State Fault Refusal :=
  strandOp s (.shr d a b) fun id c => s.finishG id d (shrVal (c.getG a) (c.getG b)) 4
/-- SRA (R108). -/
def execSra (d : Reg) (a : Reg) (b : Reg) (s : State) : Host.Outcome State Fault Refusal :=
  strandOp s (.sra d a b) fun id c => s.finishG id d (sraVal (c.getG a) (c.getG b)) 4
/-- ROTR (R108). -/
def execRotr (d : Reg) (a : Reg) (b : Reg) (s : State) : Host.Outcome State Fault Refusal :=
  strandOp s (.rotr d a b) fun id c => s.finishG id d (rotrVal (c.getG a) (c.getG b)) 4
/-- MUL (R109). -/
def execMul (d : Reg) (a : Reg) (b : Reg) (s : State) : Host.Outcome State Fault Refusal :=
  strandOp s (.mul d a b) fun id c => s.finishG id d (c.getG a * c.getG b) 4
/-- MUL_L (R109). -/
def execMulL (d : Reg) (a : Reg) (lit : Word) (s : State) : Host.Outcome State Fault Refusal :=
  strandOp s (.mulL d a lit) fun id c => s.finishG id d ((c.getG a) * lit) 12
/-- MULH (R109). -/
def execMulh (d : Reg) (a : Reg) (b : Reg) (s : State) : Host.Outcome State Fault Refusal :=
  strandOp s (.mulh d a b) fun id c => s.finishG id d (mulhVal (c.getG a) (c.getG b)) 4
/-- MULH_L (R109). -/
def execMulhL (d : Reg) (a : Reg) (lit : Word) (s : State) : Host.Outcome State Fault Refusal :=
  strandOp s (.mulhL d a lit) fun id c => s.finishG id d (mulhVal (c.getG a) lit) 12
/-- MULHU (R109). -/
def execMulhu (d : Reg) (a : Reg) (b : Reg) (s : State) : Host.Outcome State Fault Refusal :=
  strandOp s (.mulhu d a b) fun id c => s.finishG id d (mulhuVal (c.getG a) (c.getG b)) 4
/-- MULHU_L (R109). -/
def execMulhuL (d : Reg) (a : Reg) (lit : Word) (s : State) : Host.Outcome State Fault Refusal :=
  strandOp s (.mulhuL d a lit) fun id c => s.finishG id d (mulhuVal (c.getG a) lit) 12
/-- DIV (R110). -/
def execDiv (d : Reg) (a : Reg) (b : Reg) (s : State) : Host.Outcome State Fault Refusal :=
  strandOp s (.div d a b) fun id c => s.finishG id d (divVal (c.getG a) (c.getG b)) 4
/-- DIV_L (R110). -/
def execDivL (d : Reg) (a : Reg) (lit : Word) (s : State) : Host.Outcome State Fault Refusal :=
  strandOp s (.divL d a lit) fun id c => s.finishG id d (divVal (c.getG a) lit) 12
/-- DIVU (R110). -/
def execDivu (d : Reg) (a : Reg) (b : Reg) (s : State) : Host.Outcome State Fault Refusal :=
  strandOp s (.divu d a b) fun id c => s.finishG id d (divuVal (c.getG a) (c.getG b)) 4
/-- DIVU_L (R110). -/
def execDivuL (d : Reg) (a : Reg) (lit : Word) (s : State) : Host.Outcome State Fault Refusal :=
  strandOp s (.divuL d a lit) fun id c => s.finishG id d (divuVal (c.getG a) lit) 12
/-- REM (R110). -/
def execRem (d : Reg) (a : Reg) (b : Reg) (s : State) : Host.Outcome State Fault Refusal :=
  strandOp s (.rem d a b) fun id c => s.finishG id d (remVal (c.getG a) (c.getG b)) 4
/-- REM_L (R110). -/
def execRemL (d : Reg) (a : Reg) (lit : Word) (s : State) : Host.Outcome State Fault Refusal :=
  strandOp s (.remL d a lit) fun id c => s.finishG id d (remVal (c.getG a) lit) 12
/-- REMU (R110). -/
def execRemu (d : Reg) (a : Reg) (b : Reg) (s : State) : Host.Outcome State Fault Refusal :=
  strandOp s (.remu d a b) fun id c => s.finishG id d (remuVal (c.getG a) (c.getG b)) 4
/-- REMU_L (R110). -/
def execRemuL (d : Reg) (a : Reg) (lit : Word) (s : State) : Host.Outcome State Fault Refusal :=
  strandOp s (.remuL d a lit) fun id c => s.finishG id d (remuVal (c.getG a) lit) 12
/-- MIN (R107). -/
def execMin (d : Reg) (a : Reg) (b : Reg) (s : State) : Host.Outcome State Fault Refusal :=
  strandOp s (.min d a b) fun id c => s.finishG id d (minS (c.getG a) (c.getG b)) 4
/-- MIN_L (R107). -/
def execMinL (d : Reg) (a : Reg) (lit : Word) (s : State) : Host.Outcome State Fault Refusal :=
  strandOp s (.minL d a lit) fun id c => s.finishG id d (minS (c.getG a) lit) 12
/-- MAX (R107). -/
def execMax (d : Reg) (a : Reg) (b : Reg) (s : State) : Host.Outcome State Fault Refusal :=
  strandOp s (.max d a b) fun id c => s.finishG id d (maxS (c.getG a) (c.getG b)) 4
/-- MAX_L (R107). -/
def execMaxL (d : Reg) (a : Reg) (lit : Word) (s : State) : Host.Outcome State Fault Refusal :=
  strandOp s (.maxL d a lit) fun id c => s.finishG id d (maxS (c.getG a) lit) 12
/-- MINU (R107). -/
def execMinu (d : Reg) (a : Reg) (b : Reg) (s : State) : Host.Outcome State Fault Refusal :=
  strandOp s (.minu d a b) fun id c => s.finishG id d (minU (c.getG a) (c.getG b)) 4
/-- MINU_L (R107). -/
def execMinuL (d : Reg) (a : Reg) (lit : Word) (s : State) : Host.Outcome State Fault Refusal :=
  strandOp s (.minuL d a lit) fun id c => s.finishG id d (minU (c.getG a) lit) 12
/-- MAXU (R107). -/
def execMaxu (d : Reg) (a : Reg) (b : Reg) (s : State) : Host.Outcome State Fault Refusal :=
  strandOp s (.maxu d a b) fun id c => s.finishG id d (maxU (c.getG a) (c.getG b)) 4
/-- MAXU_L (R107). -/
def execMaxuL (d : Reg) (a : Reg) (lit : Word) (s : State) : Host.Outcome State Fault Refusal :=
  strandOp s (.maxuL d a lit) fun id c => s.finishG id d (maxU (c.getG a) lit) 12
/-- SLT (R107). -/
def execSlt (d : Reg) (a : Reg) (b : Reg) (s : State) : Host.Outcome State Fault Refusal :=
  strandOp s (.slt d a b) fun id c => s.finishG id d (boolWord ((c.getG a).slt (c.getG b))) 4
/-- SLT_L (R107). -/
def execSltL (d : Reg) (a : Reg) (lit : Word) (s : State) : Host.Outcome State Fault Refusal :=
  strandOp s (.sltL d a lit) fun id c => s.finishG id d (boolWord (((c.getG a)).slt lit)) 12
/-- SLTU (R107). -/
def execSltu (d : Reg) (a : Reg) (b : Reg) (s : State) : Host.Outcome State Fault Refusal :=
  strandOp s (.sltu d a b) fun id c => s.finishG id d (boolWord ((c.getG a).ult (c.getG b))) 4
/-- SLTU_L (R107). -/
def execSltuL (d : Reg) (a : Reg) (lit : Word) (s : State) : Host.Outcome State Fault Refusal :=
  strandOp s (.sltuL d a lit) fun id c => s.finishG id d (boolWord (((c.getG a)).ult lit)) 12
/-- SEQ (R107). -/
def execSeq (d : Reg) (a : Reg) (b : Reg) (s : State) : Host.Outcome State Fault Refusal :=
  strandOp s (.seq d a b) fun id c => s.finishG id d (boolWord (c.getG a = c.getG b)) 4
/-- SEQ_L (R107). -/
def execSeqL (d : Reg) (a : Reg) (lit : Word) (s : State) : Host.Outcome State Fault Refusal :=
  strandOp s (.seqL d a lit) fun id c => s.finishG id d (boolWord ((c.getG a) = lit)) 12
/-- CLZ (R111). -/
def execClz (d : Reg) (a : Reg) (s : State) : Host.Outcome State Fault Refusal :=
  strandOp s (.clz d a) fun id c => s.finishG id d (clzVal (c.getG a)) 4
/-- CTZ (R111). -/
def execCtz (d : Reg) (a : Reg) (s : State) : Host.Outcome State Fault Refusal :=
  strandOp s (.ctz d a) fun id c => s.finishG id d (ctzVal (c.getG a)) 4
/-- POPC (R111). -/
def execPopc (d : Reg) (a : Reg) (s : State) : Host.Outcome State Fault Refusal :=
  strandOp s (.popc d a) fun id c => s.finishG id d (popcVal (c.getG a)) 4
/-- BREV (R111). -/
def execBrev (d : Reg) (a : Reg) (s : State) : Host.Outcome State Fault Refusal :=
  strandOp s (.brev d a) fun id c => s.finishG id d (brevVal (c.getG a)) 4
/-- BSWAP (R111). -/
def execBswap (d : Reg) (a : Reg) (s : State) : Host.Outcome State Fault Refusal :=
  strandOp s (.bswap d a) fun id c => s.finishG id d (bswapVal (c.getG a)) 4
/-- SEXT (R112). -/
def execSext (d : Reg) (a : Reg) (b : Reg) (s : State) : Host.Outcome State Fault Refusal :=
  strandOp s (.sext d a b) fun id c => s.finishG id d (sextVal (c.getG a) (c.getG b)) 4
/-- ZEXT (R112). -/
def execZext (d : Reg) (a : Reg) (b : Reg) (s : State) : Host.Outcome State Fault Refusal :=
  strandOp s (.zext d a b) fun id c => s.finishG id d (zextVal (c.getG a) (c.getG b)) 4
/-- BFX (R112). -/
def execBfx (d : Reg) (a : Reg) (b : Reg) (s : State) : Host.Outcome State Fault Refusal :=
  strandOp s (.bfx d a b) fun id c => s.finishG id d (bfxVal (c.getG a) (c.getG b)) 4
/-- BFI (R112). -/
def execBfi (d : Reg) (a : Reg) (b : Reg) (s : State) : Host.Outcome State Fault Refusal :=
  strandOp s (.bfi d a b) fun id c => s.finishG id d (bfiVal (c.getG d) (c.getG a) (c.getG b)) 4
/-- ADDI (R113). -/
def execAddi (d : Reg) (a : Reg) (imm14 : BitVec 14) (s : State) : Host.Outcome State Fault Refusal :=
  strandOp s (.addi d a imm14) fun id c => s.finishG id d ((c.getG a) + (sext14 imm14)) 4
/-- ADDI_L (R113). -/
def execAddiL (d : Reg) (a : Reg) (lit : Word) (s : State) : Host.Outcome State Fault Refusal :=
  strandOp s (.addiL d a lit) fun id c => s.finishG id d ((c.getG a) + lit) 12
/-- ANDI (R113). -/
def execAndi (d : Reg) (a : Reg) (imm14 : BitVec 14) (s : State) : Host.Outcome State Fault Refusal :=
  strandOp s (.andi d a imm14) fun id c => s.finishG id d ((c.getG a) &&& (zext14 imm14)) 4
/-- ANDI_L (R113). -/
def execAndiL (d : Reg) (a : Reg) (lit : Word) (s : State) : Host.Outcome State Fault Refusal :=
  strandOp s (.andiL d a lit) fun id c => s.finishG id d ((c.getG a) &&& lit) 12
/-- ORI (R113). -/
def execOri (d : Reg) (a : Reg) (imm14 : BitVec 14) (s : State) : Host.Outcome State Fault Refusal :=
  strandOp s (.ori d a imm14) fun id c => s.finishG id d ((c.getG a) ||| (zext14 imm14)) 4
/-- ORI_L (R113). -/
def execOriL (d : Reg) (a : Reg) (lit : Word) (s : State) : Host.Outcome State Fault Refusal :=
  strandOp s (.oriL d a lit) fun id c => s.finishG id d ((c.getG a) ||| lit) 12
/-- XORI (R113). -/
def execXori (d : Reg) (a : Reg) (imm14 : BitVec 14) (s : State) : Host.Outcome State Fault Refusal :=
  strandOp s (.xori d a imm14) fun id c => s.finishG id d ((c.getG a) ^^^ (zext14 imm14)) 4
/-- XORI_L (R113). -/
def execXoriL (d : Reg) (a : Reg) (lit : Word) (s : State) : Host.Outcome State Fault Refusal :=
  strandOp s (.xoriL d a lit) fun id c => s.finishG id d ((c.getG a) ^^^ lit) 12
/-- SLTI (R113). -/
def execSlti (d : Reg) (a : Reg) (imm14 : BitVec 14) (s : State) : Host.Outcome State Fault Refusal :=
  strandOp s (.slti d a imm14) fun id c => s.finishG id d (boolWord (((c.getG a)).slt (sext14 imm14))) 4
/-- SLTI_L (R113). -/
def execSltiL (d : Reg) (a : Reg) (lit : Word) (s : State) : Host.Outcome State Fault Refusal :=
  strandOp s (.sltiL d a lit) fun id c => s.finishG id d (boolWord (((c.getG a)).slt lit)) 12
/-- SLTIU (R113). -/
def execSltiu (d : Reg) (a : Reg) (imm14 : BitVec 14) (s : State) : Host.Outcome State Fault Refusal :=
  strandOp s (.sltiu d a imm14) fun id c => s.finishG id d (boolWord (((c.getG a)).ult (sext14 imm14))) 4
/-- SLTIU_L (R113). -/
def execSltiuL (d : Reg) (a : Reg) (lit : Word) (s : State) : Host.Outcome State Fault Refusal :=
  strandOp s (.sltiuL d a lit) fun id c => s.finishG id d (boolWord (((c.getG a)).ult lit)) 12
/-- SHLI (R113). -/
def execShli (d : Reg) (a : Reg) (imm14 : BitVec 14) (s : State) : Host.Outcome State Fault Refusal :=
  strandOp s (.shli d a imm14) fun id c => s.finishG id d (shlVal (c.getG a) (zext14 imm14)) 4
/-- SHRI (R113). -/
def execShri (d : Reg) (a : Reg) (imm14 : BitVec 14) (s : State) : Host.Outcome State Fault Refusal :=
  strandOp s (.shri d a imm14) fun id c => s.finishG id d (shrVal (c.getG a) (zext14 imm14)) 4
/-- SRAI (R113). -/
def execSrai (d : Reg) (a : Reg) (imm14 : BitVec 14) (s : State) : Host.Outcome State Fault Refusal :=
  strandOp s (.srai d a imm14) fun id c => s.finishG id d (sraVal (c.getG a) (zext14 imm14)) 4
/-- LIM (R114). -/
def execLim (d : Reg) (imm19 : BitVec 19) (s : State) : Host.Outcome State Fault Refusal :=
  strandOp s (.lim d imm19) fun id _ => s.finishG id d (sext19 imm19) 4
/-- LIM_L (R114). -/
def execLimL (d : Reg) (lit : Word) (s : State) : Host.Outcome State Fault Refusal :=
  strandOp s (.limL d lit) fun id _ => s.finishG id d (lit) 12
/-- ADDPC (R115). -/
def execAddpc (d : Reg) (imm19 : BitVec 19) (s : State) : Host.Outcome State Fault Refusal :=
  strandOp s (.addpc d imm19) fun id c => s.finishG id d (c.pc + offset19 imm19) 4

end Sys2Proof.Machine
end

