-- ==== Sys2Proof/Machine/Link.lean ====
section
/-! DEFINITION. The fabric: routing and translation, forwarding stubs, hints and map updates, acceptance in streams and acknowledgements, retransmission, device links, die-to-die links and the host's CXL.mem (R278, R430-R441). -/

namespace Sys2Proof.Machine

open Sys2Proof

/-! ## Routing and translation (R431, R433, R434) -/

/-- The router keeps the flit: its check holds, its kind is none that is reserved or idle, and its reserved bits are zero. -/
def Flit.good (f : Flit) : Bool := decide (f.crc = f.check) && decide (f.kind ≤ 10) && decide (bits f.hdr 16 7 = 0)
/-- The territory map's entry for a flit's logical tile: tile, slot, map generation. None for the management complex, for a logical tile that no
kernel of the device has, and for one of a switched kernel, which all take the flit where it is. -/
def State.locate (s : State) (f : Flit) : Option (Nat × Nat × Nat) :=
  match s.kernel? f.kid with
  | none => none
  | some k =>
    let x := s.ltile (ltKey f.kid f.lt)
    if f.kid = 63 ∨ k.tiles ≤ f.lt ∨ x.saved then none else some (x.tile, x.j, x.mapGen.toNat)
/-- The tile hosts the logical tile of a flit, or nothing does. -/
def State.hereFor (s : State) (f : Flit) : Bool := match s.locate f with | some (t, _, _) => decide (t = f.at_) | none => true

/-- A flit of the fabric; the first when several copies bear its number. -/
def State.flit? (s : State) (fid : Nat) : Option Flit := s.flits.find? fun f => f.fid = fid
/-- Replaces a flit of the fabric. -/
def State.putFlit (s : State) (fid : Nat) (f : Flit) : State := { s with flits := (s.flits.eraseP fun x => x.fid = fid) ++ [f] }

/-- A router's map cache takes an entry that is not older than its own (R433, R434). -/
def State.cacheMap (s : State) (t lt : Nat) (e : Nat × Nat × Nat) : State :=
  s.updTile t fun x =>
    { x with mapCache := match mget lt x.mapCache with
        | some o => if o.2.2 ≤ e.2.2 then mset lt e x.mapCache else x.mapCache
        | none => mset lt e x.mapCache }
/-- The first router of the device translates the flit (R433). -/
def State.translate (s : State) (f : Flit) : State :=
  let lt := ltKey f.kid f.lt
  match s.locate f with
  | none => s.putFlit f.fid { f with dst := some (f.at_, 0), router := f.at_ }
  | some e =>
    match mget lt (s.tile f.at_).mapCache with
    | some o => s.putFlit f.fid { f with dst := some (o.1, o.2.1), router := f.at_ }
    | none => (s.cacheMap f.at_ lt e).putFlit f.fid { f with dst := some (e.1, e.2.1), router := f.at_ }

/-- A link of the mesh works: no die-to-die module of it has failed (R438). -/
def State.linkAlive (s : State) (a b : Nat) : Bool := !s.deadLinks.contains (Nat.min a b, Nat.max a b)
/-- A mesh router forwards a flit to a neighbour. -/
def State.hop (s : State) (f : Flit) (d : Nat) : State :=
  match neighbour f.at_ d with
  | some u => if s.linkAlive f.at_ u then s.putFlit f.fid { f with at_ := u } else s
  | none => s

/-- A hint (kind 9) goes back to the router that translated a flit which a stub forwards, once for each router (R434); its source is the management complex, whose routers and border
units keep the map. -/
def State.hintBack (s : State) (f : Flit) (lt : Nat) : State :=
  let hdr := mkHdr s.device.toNat f.part 63 0 0 0 9 false false 0
  let h : Flit := { mkFlit hdr 0#64 (srcWord 0 s.device.toNat 63 0 0 0 0) (w64 lt) 0#64 0#64 0#64 (.mapHint lt) .none with fid := s.nextId, at_ := f.at_, dst := some (f.router, 0), router := f.at_, sentAt := s.tbase }
  { s with nextId := s.nextId + 1, flits := s.flits ++ [{ h with crc := h.check }] }
/-- A flit at a tile that does not host its logical tile: a stub forwards it, and any other router translates it again (R433, R434). -/
def State.forward (s : State) (f : Flit) (e : Nat × Nat × Nat) : State :=
  let lt := ltKey f.kid f.lt
  match (s.tile f.at_).stubs.find? fun b => b.lt = lt with
  | none => s.putFlit f.fid { f with dst := some (e.1, e.2.1), router := f.at_ }
  | some b =>
    let s1 := s.putFlit f.fid { f with dst := some (e.1, e.2.1) }
    let s2 := s1.updTile f.at_ fun x => { x with stubs := x.stubs.map fun b => if b.lt = lt then { b with fwd := true, hinted := insertOnce f.router b.hinted } else b }
    if b.hinted.contains f.router then s2 else s2.hintBack f lt

/-- The device link ports that may carry a flit and can do so now (R439, R440). -/
def LinkPort.carries (p : LinkPort) : Bool := decide (p.state = .up) || decide (p.state = .degraded)
def State.portFor (s : State) (dev p : Nat) : Bool := (mgetD 0#16 dev s.routes).getLsbD p && (s.ports.toList.getD p {}).carries
def State.updPortLink (s : State) (p : Nat) (f : LinkPort → LinkPort) : State :=
  { s with ports := s.ports.set (p % 16) (f (s.ports[p % 16]'(Nat.mod_lt _ (by decide)))) (Nat.mod_lt _ (by decide)) }
/-- An idle flit: KIND 15, every other byte zero, and a valid check (R439). -/
def idleFlit : Flit :=
  let f := mkFlit (w64 (15 * 2 ^ 25)) 0#64 0#64 0#64 0#64 0#64 0#64 .idle .none
  { f with crc := f.check }
/-- The beat of four slots that a flit leaves in, the others idle. -/
def beatOf (f : Flit) : List Flit := [f, idleFlit, idleFlit, idleFlit]
/-- A flit for another device leaves in a beat; the port keeps its last 64 beats (R439). -/
def State.sendBeat (s : State) (f : Flit) (p : Nat) : State :=
  { (s.dropFlit f.fid).updPortLink p fun x => { x with replay := (x.replay ++ [beatOf f]).drop (x.replay.length + 1 - Config.replayBeats) } with outbox := s.outbox ++ [(p, beatOf f)] }

/-- FLIT_ROUTING (R431): the router that holds the flit `ev.id` discards it, translates it, forwards it to the neighbour in direction `ev.idx`,
or, for another device, sends it out on port `ev.idx`. A flit that has arrived waits for its acceptance. -/
def execFlitRouting (s : State) : Host.Outcome State Fault Refusal :=
  match s.flit? s.ev.id with
  | none => .next s
  | some f =>
    if !f.good then .next (s.dropFlit f.fid)
    else if f.dst.isNone ∧ lcKid f.sender ≠ 63 ∧ f.at_ = (s.ltile (f.sender / 8)).tile ∧ s.leasedOut f.at_ (s.partOf (lcKid f.sender)) then .next s
    else if f.dev ≠ s.device.toNat then .next (if s.ev.idx < 16 ∧ s.portFor f.dev s.ev.idx then s.sendBeat f s.ev.idx else s)
    else match f.dst with
      | none => .next (s.translate f)
      | some (t, _) =>
        if t ≠ f.at_ then .next (s.hop f s.ev.idx)
        else if f.kind = 9 then .next s
        else match s.locate f with
          | some e => if e.1 = f.at_ then .next s else .next (s.forward f e)
          | none => .next s

/-- MAP_HINT (R434): the hint `ev.id` has reached its router, which takes the current entry. -/
def execMapHint (s : State) : Host.Outcome State Fault Refusal :=
  match s.flit? s.ev.id with
  | none => .next s
  | some f =>
    match f.carry, f.dst with
    | .mapHint lt, some (t, _) =>
      if t = f.at_ then
        let x := s.ltile lt
        .next ((s.dropFlit f.fid).cacheMap t lt (x.tile, x.j, x.mapGen.toNat))
      else .next s
    | _, _ => .next s

/-- Flits that the router translated for a logical tile under an older entry and that are still inside it. -/
def State.staleAt (s : State) (t lt : Nat) : Bool :=
  let x := s.ltile lt
  s.flits.any fun f => decide (f.at_ = t) && decide (f.router = t) && decide (ltKey f.kid f.lt = lt) && (match f.dst with | some (u, _) => decide (u ≠ x.tile) | none => false)
/-- MAP_UPDATE (R434): the update for the stub that tile `ev.id` holds for the logical tile `ev.slot` reaches the router of tile `ev.idx`, which
acknowledges it when no flit translated under the old entry is left inside it. -/
def execMapUpdate (s : State) : Host.Outcome State Fault Refusal :=
  let lt := s.ev.slot
  let x := s.ltile lt
  if (s.tile s.ev.id).stubs.any fun b => decide (b.lt = lt) && b.pending.contains s.ev.idx then
    let s1 := s.cacheMap s.ev.idx lt (x.tile, x.j, x.mapGen.toNat)
    if s1.staleAt s.ev.idx lt then .next s1
    else
      .next (s1.updTile s.ev.id fun y => { y with stubs := y.stubs.map fun b =>
        if b.lt = lt then { b with pending := b.pending.filter (· ≠ s.ev.idx), ackedAt := s.tbase, fwd := if b.pending.all (· = s.ev.idx) then false else b.fwd } else b })
  else .next s

/-! ## Acceptance (R435, R436) -/

/-- A flit that its sender counted when it sent it (R280), and whether it counts as one within its kernel. -/
def Flit.counted (f : Flit) : Bool := decide (f.kind ≤ 2) || decide (f.kind = 6)
def State.sentWithin (s : State) (lc : Nat) (f : Flit) : Bool :=
  if f.kind ≤ 1 then s.countsWithin (lcKid lc) f.dev f.kid f.carry.key else true
/-- The counts of a sender whose item was accepted outside its kernel (R280); one that its own kernel has admitted was counted there (R314). -/
def LCore.sentOut (c : LCore) (own : Bool) : LCore :=
  if own then { c with awaiting := c.awaiting - 1 } else { c with awaiting := c.awaiting - 1, sent := c.sent + 1, received := c.received + 1 }

/-- An acknowledgement or refusal whose issuer needs nothing more than its counts. -/
def State.settleItem (s : State) (lc : Nat) (o : Flit) (nack : Bool) : State :=
  let s1 := s.dropRetx lc o.fid
  match o.issuer with
  | .endOf kid => if (s1.kernelD kid).state = .ended then s1.freeKid kid else s1
  | _ =>
    let s2 := if !o.counted then s1
      else if !s.sentWithin lc o then s1.updLc lc fun c => c.sentOut (decide (o.kid = lcKid lc) && decide (o.dev = s.device.toNat))
      else if nack then s1.updLc lc fun c => c.lostWithin (s.isWarp (lcKid lc)) o
      else s1
    if nack ∧ (o.kind = 0 ∨ o.kind = 2) ∧ lcKid lc ≠ 63 then s2.unitTrap lc cQueueUnbound (w64 (2 ^ 63 + o.kid * 2 ^ 40)) o.vrt else s2
/-- An acknowledgement or refusal reaches the sending logical core; one for a flit that it no longer keeps is dropped. What an issuer must take
in goes to its own step. -/
def State.replyTaken (s : State) (f : Flit) (of_ : Nat) (nack : Bool) : State :=
  let lc := f.lck
  match (s.lcore lc).retx.find? fun g => g.fid = of_ with
  | none => s
  | some o =>
    let up : State := { s with arrivals := s.arrivals ++ [{ f with issuer := o.issuer }] }
    let known (l : Nat) : State := if (mget l s.lcores).isSome then up else s
    match o.issuer with
    | .strandPut _ => up
    | .strandRld _ _ => up
    | .commit l _ _ => known l
    | .copyUnit l _ _ => known l
    | .codelet _ => if nack then up else s.settleItem lc o false
    | _ => s.settleItem lc o nack

/-- A flit whose number was accepted before is acknowledged again, an access or a codelet update as it was answered (R194, R265, R435); one whose access has not taken its place yet
will be. -/
def State.ackAgain (s : State) (f : Flit) : State :=
  match f.carry with
  | .access _ addr _ _ =>
    match (s.lcore f.lck).answers.find? fun a => decide (a.stream = streamFrom f) && decide (a.num = f.chseq) with
    | some a => if a.refused then s.reply f 5 addr (.nack f.fid addr) else s.reply f 4 (a.value.getD 0#64) (.ack f.fid a.value)
    | none =>
      if s.taken.any fun e => decide (e.1.lck = f.lck) && decide (streamFrom e.1 = streamFrom f) && decide (e.1.chseq = f.chseq) then s
      else s.reply f 4 0#64 (.ack f.fid none)
  | .codelet h _ =>
    if (s.lcore f.lck).answers.any fun a => decide (a.stream = streamFrom f) && decide (a.num = f.chseq) && a.refused then s.reply f 5 h (.nack f.fid h)
    else s.reply f 4 0#64 (.ack f.fid none)
  | _ => s.reply f 4 0#64 (.ack f.fid none)

/-- The kernel of a flit takes what arrives for it in stream order; anything else is refused, or kept for a switched kernel, as it comes. -/
def State.ordered (s : State) (f : Flit) : Bool :=
  decide (f.kid = 63) || match s.accessState f.part f.kid with
    | some .switched => false
    | some _ => decide (f.lt < (s.kernelD f.kid).tiles)
    | none => false
/-- A flit at its destination's input buffer (R435). -/
def State.bufferFlit (s : State) (f : Flit) : State :=
  let same (g : Flit) : Bool := decide (g.lck = f.lck) && decide (streamFrom g = streamFrom f) && decide (g.chseq = f.chseq)
  let x := s.rxOf f
  if s.arrivals.any same || (s.lcore f.lck).reorder.any same || (s.ltile (ltKey f.kid f.lt)).fallout.any (fun g => g.fid = f.fid) then s
  else if !s.ordered f then { s with arrivals := s.arrivals ++ [f] }
  else if x.has f.chseq then s.ackAgain f
  else if s.inOrder f && !x.ready f.chseq then
    if (s.lcore f.lck).reorder.length < Config.reorderEntries then s.updLc f.lck fun c => { c with reorder := c.reorder ++ [f] } else s
  else { s with arrivals := s.arrivals ++ [f] }
/-- A flit of kind 10 that has arrived in order is accepted, acknowledged, and does its work (R389). -/
def State.takeGroup (s : State) (f : Flit) : State :=
  match f.carry with
  | .group op => (s.acceptAck f).groupFlit f.part f.stamp op
  | _ => s

/-- FLIT_ACCEPTANCE (R435): the flit `ev.id`, at the tile that its logical tile stands on, is taken in. -/
def execFlitAcceptance (s : State) : Host.Outcome State Fault Refusal :=
  match s.arrival? s.ev.id with
  | some f => .next (if f.kind = 10 then s.takeGroup f else s)
  | none =>
    match s.flit? s.ev.id with
    | none => .next s
    | some f =>
      if f.good ∧ f.dev = s.device.toNat ∧ f.dst.map (·.1) = some f.at_ ∧ s.hereFor f then
        let s1 := s.dropFlit f.fid
        .next (match f.carry with
          | .ack of_ _ => s1.replyTaken f of_ false
          | .nack of_ _ => s1.replyTaken f of_ true
          | .mapHint _ => s
          | .idle => s1
          | .group _ => let s2 := s1.bufferFlit f
            match s2.arrival? f.fid with
            | some g => s2.takeGroup g
            | none => s2
          | _ => s1.bufferFlit f)
      else .next s

/-- RETRANSMIT (R436): logical core `ev.id` sends the flit `ev.idx` of its retransmit buffer again, 2 µs after its last sending. -/
def execRetransmit (s : State) : Host.Outcome State Fault Refusal :=
  let lc := s.ev.id
  match ((s.lcore lc).retx.take Config.retransmitEntries).find? fun f => f.fid = s.ev.idx with
  | none => .next s
  | some f =>
    if f.sentAt + 2000 ≤ s.tbase ∧ (lcKid lc = 63 ∨ s.kernelRuns (lcKid lc)) then
      .next { s.updLc lc fun c => { c with retx := c.retx.map fun x => if x.fid = f.fid then { x with sentAt := s.tbase } else x } with
        flits := s.flits ++ [f.fresh (s.ltile (lc / 8)).tile s.tbase] }
    else .next s

/-- ROUTER_RESET (R437): the flits inside the router of tile `ev.id` are lost, and it forgets its map cache. -/
def execRouterReset (s : State) : Host.Outcome State Fault Refusal :=
  if s.ev.id < 1024 then .next { s.updTile s.ev.id fun x => { x with mapCache := [] } with flits := s.flits.filter fun f => f.at_ ≠ s.ev.id } else .next s

/-! ## Device links (R439, R440) -/

/-- The kind that a flit's content goes with. -/
def Carry.fits (c : Carry) (kind : Nat) : Bool :=
  match c with
  | .message _ _ => decide (kind = 0)
  | .call _ _ _ _ => decide (kind = 0)
  | .retval _ _ => decide (kind = 0)
  | .anti _ => decide (kind = 1)
  | .antiReturn _ _ => decide (kind = 1)
  | .queueWord _ => decide (kind = 2)
  | .access op _ _ _ => (match op with | .copyWrite _ => decide (kind = 7) | .copyRead _ => decide (kind = 7) | _ => decide (kind = 3))
  | .ack _ _ => decide (kind = 4)
  | .nack _ _ => decide (kind = 5)
  | .codelet _ _ => decide (kind = 6)
  | .mapHint _ => false
  | .group _ => decide (kind = 10)
  | .idle => decide (kind = 15)
/-- One slot of a beat: an idle flit is dropped, and so is one that no router forwards (R431); any other enters at the router of a tile, whatever its source. Its place follows that tile's clock: clocks of different devices
are never compared (R172). -/
def State.enterFlit (s : State) (t : Nat) (f : Flit) : State :=
  if f.kind = 15 || !f.good || !f.carry.fits f.kind then s
  else { s with nextId := s.nextId + 1, flits := s.flits ++ [{ f with fid := s.nextId, at_ := t, dst := none, issuer := .remote (srcDev f.src), sentAt := s.tbase, stamp := (s.clock (engineCore t)).t }] }
/-- BEAT_RECEIVE (R439): port `ev.id`, whose router is that of tile `ev.idx`, receives the beat of four slots `ev.flits`. A beat that fails the link layer's check, as `ev.flag`
says, is refused: nothing of it enters, and the port tells its neighbour. -/
def execBeatReceive (s : State) : Host.Outcome State Fault Refusal :=
  if s.ev.id < 16 ∧ s.ev.idx < 1024 ∧ (s.ports.toList.getD s.ev.id {}).carries ∧ s.ev.flits.length = 4 then
    .next (if s.ev.flag then s.updPortLink s.ev.id fun p => { p with refused := p.refused + 1 } else s.ev.flits.foldl (fun s f => s.enterFlit s.ev.idx f) s)
  else .next s
/-- BEAT_REFUSAL (R439): the beat `ev.idx` of port `ev.id`'s replay buffer was refused; it and those after it are sent again. -/
def execBeatRefusal (s : State) : Host.Outcome State Fault Refusal :=
  let p := s.ports.toList.getD s.ev.id {}
  if s.ev.id < 16 ∧ p.carries ∧ s.ev.idx < p.replay.length then
    let again := p.replay.drop s.ev.idx
    .next { s.updPortLink s.ev.id fun x => { x with replay := again, replays := x.replays ++ [s.tbase] } with outbox := s.outbox ++ again.map fun b => (s.ev.id, b) }
  else .next s

/-- A step of port `ev.id` that its state must allow. -/
def State.portStep (s : State) (ok : LinkPort → Bool) (f : LinkPort → LinkPort) : Host.Outcome State Fault Refusal :=
  if s.ev.id < 16 ∧ ok (s.ports.toList.getD s.ev.id {}) then .next (s.updPortLink s.ev.id f) else .next s
/-- PORT_ENABLE (R440). -/
def execPortEnable (s : State) : Host.Outcome State Fault Refusal :=
  s.portStep (fun p => decide (p.state = .down) || decide (p.state = .failed)) fun p => { p with state := .train, trainAt := s.tbase }
/-- LANE_TRAINING_DONE (R440): `ev.idx` lanes have trained. -/
def execLaneTrainingDone (s : State) : Host.Outcome State Fault Refusal :=
  s.portStep (fun p => decide (p.state = .train) && decide (s.ev.idx ≤ 4) && decide (s.tbase < p.trainAt + 100000000)) fun p =>
    if s.ev.idx = 4 then { p with state := .up, lanes := 4 } else if 2 ≤ s.ev.idx then { p with state := .degraded, lanes := 2 } else { p with state := .failed }
/-- TRAINING_TIMEOUT (R440). -/
def execTrainingTimeout (s : State) : Host.Outcome State Fault Refusal :=
  s.portStep (fun p => decide (p.state = .train) && decide (p.trainAt + 100000000 ≤ s.tbase)) fun p => { p with state := .failed }
/-- REPLAY_STORM (R440): more than 16 replays in 1 ms. -/
def execReplayStorm (s : State) : Host.Outcome State Fault Refusal :=
  s.portStep (fun p => p.carries && decide (16 < (p.replays.filter fun t => s.tbase < t + 1000000).length)) fun p => { p with state := .train, trainAt := s.tbase, replay := [], replays := [] }
/-- LANE_LOST (R440). -/
def execLaneLost (s : State) : Host.Outcome State Fault Refusal :=
  s.portStep (fun p => decide (p.state = .up)) fun p => { p with state := .train, trainAt := s.tbase }
/-- PORT_DISABLE (R440). -/
def execPortDisable (s : State) : Host.Outcome State Fault Refusal := s.portStep (fun _ => true) fun p => { p with state := .down }

/-- D2D_MODULE_FAILURE (R438): the module that joins the facing edge tiles `ev.id` and `ev.idx` of two dies goes out of service. -/
def execD2dModuleFailure (s : State) : Host.Outcome State Fault Refusal :=
  let a := s.ev.id
  let b := s.ev.idx
  if a < 1024 ∧ b < 1024 ∧ directionTo a b ≠ 0 ∧ dieOfTile a ≠ dieOfTile b ∧ s.linkAlive a b then .next { s with deadLinks := s.deadLinks ++ [(Nat.min a b, Nat.max a b)] } else .next s

/-! ## The host (R441) -/

/-- Until READY, a CXL.mem request completes with an error (R453). -/
def State.cxlError (s : State) : State := { s with hostSide := { s.hostSide with cxlErrors := s.hostSide.cxlErrors ++ [s.ev.id] } }
/-- A range of `n` bytes lies in the HDM decoder range, in LPDDR memory. -/
def State.hdmOk (s : State) (pa n : Nat) : Bool :=
  decide (s.hostSide.hdmBase ≤ pa) && decide (pa + n ≤ s.hostSide.hdmLimit) && (List.range n).all fun i => farPa (pa + i)
/-- CXL_MEM_READ (R441): the host reads `ev.idx` bytes at the physical address `ev.id`, as the DRAM has them. -/
def execCxlMemRead (s : State) : Host.Outcome State Fault Refusal :=
  if !s.hostSide.ready then .next s.cxlError
  else if s.ev.idx ≤ 64 ∧ s.hdmOk s.ev.id s.ev.idx then .next { s with hostSide := { s.hostSide with reads := s.hostSide.reads ++ [(s.ev.id, memBytes s.dram s.ev.id s.ev.idx)] } } else .next s
/-- CXL_MEM_WRITE (R441): the host writes `ev.bytes` at the physical address `ev.id`, in the DRAM. -/
def execCxlMemWrite (s : State) : Host.Outcome State Fault Refusal :=
  if !s.hostSide.ready then .next s.cxlError
  else if s.ev.bytes.length ≤ 64 ∧ s.hdmOk s.ev.id s.ev.bytes.length then .next { s with dram := memPut s.dram s.ev.id s.ev.bytes } else .next s

end Sys2Proof.Machine
end

