-- ==== Sys2Proof/Machine/Park.lean ====
section
/-! DEFINITION. The end of a park, and the spill and resumption of a team (R102, R404, R405, R417). -/

namespace Sys2Proof.Machine

open Sys2Proof

/-! ## What a parked strand waits for (R7, R102) -/

/-- The instruction sends a message, whose send sequence must also not be held (R432). -/
def isSend (i : Instr) : Bool :=
  match i with
  | .send _ _ _ => true
  | .sendt _ _ _ _ _ => true
  | .callat _ _ _ => true
  | .retv _ => true
  | .chain _ _ _ => true
  | _ => false
/-- The retransmit buffer has the room that an instruction waits for: of a CHAIN, for all its tasks. -/
def State.roomFor (s : State) (c : Ctx) (i : Instr) : Bool :=
  let need : Nat := match i with | .chain _ _ _ => Nat.max 1 c.markOf | _ => 1
  decide ((s.lcore c.lck).retx.length + need ≤ Config.retransmitEntries) && (!isSend i || !s.agedSend c)
/-- The word that WAITA awaits stands in memory, or its address no longer translates (R212). -/
def State.wordIs (s : State) (c : Ctx) (ea : Nat) (v : Word) : Bool :=
  if ea < 2 ^ 20 then decide (w64 (leNat (s.scratchBytes c.ltk ea 8)) = v)
  else match s.walk (s.partOf c.kid) ea with
    | .leaf t _ _ _ => decide (w64 (leNat (s.paBytes (t.frame + ea % 65536) 8)) = v)
    | _ => true
/-- The barrier's phase that BWAIT awaits has ended, or there is no such barrier any more (R397). -/
def State.phaseOver (s : State) (c : Ctx) (a : Word) (ph : BitVec 32) : Bool :=
  match s.placeOf (s.partOf c.kid) c.ltk a.toNat with
  | some p => (s.bar p).done ph.toNat || (s.bar p).empty || !(s.bar p).valid
  | none => true
/-- The phase that a waiting arrival names has ended, or its record is no barrier any more: an arrival whose phase becomes the current one is performed by that completion
itself (R393, R396). -/
def State.barGone (s : State) (c : Ctx) (a : Word) (ph : BitVec 32) : Bool :=
  match s.placeOf (s.partOf c.kid) c.ltk a.toNat with
  | some p => (s.bar p).done ph.toNat || (s.bar p).empty || !(s.bar p).valid
  | none => true
/-- No store of a page waits any more for the end of its move (R372). -/
def State.moveOver (s : State) (part va : Nat) : Bool :=
  match s.walk part va with
  | .leaf t _ _ _ => !s.migrating part (t.frame + va % 65536)
  | _ => true
/-- The words that a queue register's end waits for have arrived (R250, R255). -/
def State.drained (s : State) (c : Ctx) (i : Option Instr) : Bool :=
  match i with
  | some (.qcfg _ q _) => !s.wordsOut c (c.qw q)
  | _ => c.q.toList.all fun w => !s.wordsOut c w

/-- The condition that a parked strand waits for holds; a wait that an event ends has then become `none`. -/
def State.holds (s : State) (c : Ctx) : Bool :=
  let l := s.lcore c.lck
  let i : Option Instr := c.held.map (·.instr)
  let answered := match c.held with | some h => h.answered | none => false
  match c.wait with
  | .none => true
  | .page _ _ => false
  | .migrating va => s.moveOver (s.partOf c.kid) va.toNat
  | .muOwner => s.muMine c.lck && ((match i with | some (.stq _ _) => false | _ => true) || !s.heldByOther c)
  | .muSpace => decide (l.mu.queue.length < Config.muEntries)
  | .muDone n => decide (n ≤ l.mu.done) && (decide (i ≠ some .mxswap) || decide (c.stageOf = 2))
  | .gangIdle => s.muMine c.lck && s.gangIdle c.kid c.valsOf
  | .sfuEntry => s.sfuRoom c.id
  | .sfuResult => false
  | .copySlot => l.freeSlot.isSome
  | .copyStop slot => l.copies.all fun r => decide (r.slot ≠ slot) || !copyLive r.state
  | .portWord p => !(s.port c.lck p).words.isEmpty || s.mustHalt c
  | .portSpace q => decide ((s.port (c.portLc (c.qw q)) (qPort (c.qw q))).space ≠ 0) || s.mustHalt c
  | .portDrain => s.drained c i
  | .ringSpace => s.ringRoom c.lck
  | .sendSpace => s.roomFor c (i.getD .done) || ((match i with | some (.qput _ _) => true | _ => false) && s.mustHalt c)
  | .sendOld => !s.agedSend c
  | .pathDone p => s.pathDone c.id p
  | .puts => match i with
    | some (.launch _ _ _) => decide (c.puts = 0)
    | _ => !s.putsOut c
  | .word ea v => s.wordIs c ea.toNat v
  | .answer => answered
  | .arrival a ph => s.barGone c a ph
  | .phase a ph => s.phaseOver c a ph
  | .collSlot => l.freeColl.isSome
  | .group => answered
  | .excReturn => false
  | .irrev => decide (2 ≤ c.irrevHits)
  | .gvt v => decide (v.toNat < (s.lcore c.alck).gvt)
  | .logRoom => false
  | .pendReg d => c.pend.all fun p => decide (p.d ≠ d) || p.refused
  | .muRecords => !(decide (l.mu.hold = some c.item.key) && !l.mu.queue.isEmpty)
  | .cut => answered
  | .stall => false
  | .chainHalt => false
  | .xlates lo n => !s.xlatesHeld c lo.toNat n.toNat
  | .walker => !(decide (s.xlUnit c < 1024) && s.leasedOut (s.xlUnit c) (s.partOf c.kid))

/-- The strand waits for firmware or for the resident kernel, whose answer the step brings; TRAP's comes with RESIDENT_KERNEL_REQUEST. -/
def Ctx.asks (c : Ctx) : Bool :=
  decide (c.wait = .answer) && match c.held with
    | some h => !h.answered && (match h.instr with | .trap _ _ => false | _ => true)
    | none => false
/-- A parked strand becomes READY (R102). -/
def State.wake (s : State) (id : Nat) : State := s.upd id fun c => { c with run := .ready, wait := .none }
/-- PARK_RESUME (R102): the condition that context `ev.id` waits for holds, or its answer `ev.fw` has come. -/
def execParkResume (s : State) : Host.Outcome State Fault Refusal :=
  match s.ctx? s.ev.id with
  | none => .next s
  | some c =>
    if c.run = .parked ∧ !c.spilled ∧ !c.switched ∧ (s.kernelRuns c.kid ∨ c.stepping) then
      if c.asks then .next ((s.wake c.id).upd c.id fun c => { c with held := c.held.map fun h => { h with answered := true, ans := s.ev.fw } })
      else if s.holds c then .next (s.wake c.id) else .next s
    else .next s

/-! ## Teams (R102, R404, R405) -/

/-- The strands of a context's team: those of its logical tile whose slots the same bind record gives. -/
def State.team (s : State) (c : Ctx) : List Nat :=
  (s.ctxs.filter fun e => decide (e.2.kid = c.kid) && decide (e.2.homeLt = c.homeLt) && e.2.holdsSlot && decide (s.teamNo e.2 = s.teamNo c)).map (·.1)
/-- A context that is shipped, or on its way, stands at home again, where what it was doing is issued; a page that it waited for at the cluster is asked for at home
(R368, R370, R405). -/
def State.unship (s : State) (id : Nat) : State :=
  let c := s.ctxD id
  if c.shipped.isSome then (s.leavePage id).shipHome id
  else if c.shipWait then
    { s.upd id fun c => { c with shipWait := false } with ctrls := s.ctrls.map fun e => (e.1, { e.2 with waiting := e.2.waiting.filter (· ≠ id) }) }
  else s
/-- One strand's context goes to memory: the record notes the state before the save, which a shipped strand leaves for its home core (R405). -/
def State.spillOne (s : State) (id : Nat) : State :=
  (((s.saveRecord id false).unship id).sfuReissue id).upd id fun c => { c with spilled := true }
/-- TEAM_SPILL (R102): the park of context `ev.id` has lasted longer than its WAITLIM; a TRAPPED strand counts as parked (R406). -/
def execTeamSpill (s : State) : Host.Outcome State Fault Refusal :=
  match s.ctx? s.ev.id with
  | none => .next s
  | some c =>
    if (c.run = .parked ∨ c.run = .trapped) ∧ c.holdsSlot ∧ c.parkedAt + c.waitlim.toNat < s.tbase ∧ s.kernelRuns c.kid then
      let t := s.homeTile c
      .next (((s.team c).foldl (fun s id => s.spillOne id) s).countSpill t c.kid)
    else .next s

/-- The strand slots of a core that a bind record gives the logical tile. -/
def State.slotGiven (s : State) (t : Nat) (c : Ctx) (sl : Nat) : Bool :=
  (s.tile t).binds.toList.any fun b => b.strands.getLsbD (4 * c.homeCore + sl) && decide (b.kid = c.kid) && decide (b.lt = c.homeLt) && (s.recordLc t c.homeCore b).isSome
/-- The slot that a returning context takes: its own when that is free, otherwise the lowest free one (R405). -/
def State.slotFor (s : State) (c : Ctx) : Option Nat :=
  let t := s.homeTile c
  let ok (sl : Nat) : Bool := s.slotGiven t c sl && s.slotFree t c.homeCore sl
  if ok c.strand.toNat then some c.strand.toNat else (List.range 4).find? ok
/-- A saved context comes back on a slot; its clock stamp goes with it (R167). With no slot free it stays in memory. -/
def State.unspill (s : State) (id : Nat) : State :=
  let c := s.ctxD id
  match s.slotFor c with
  | some sl => ((s.dropRecord id).upd id fun c => { c with spilled := false, strand := BitVec.ofNat 2 sl }).raiseT (s.coreNo { c with shipped := none }) (serialMax c.stamp c.acq)
  | none => s
/-- The cores of the kernels among `kids` that run now go on after a stop: the items that they held do their work, and results of collectives that waited are written (R388,
R412). -/
def State.goOn (s : State) (kids : List Nat) : State :=
  let run := kids.filter fun k => s.kernelRuns k
  let s1 := (run.flatMap s.lcsOf).foldl (fun s lc => s.takeHeld lc) s
  (run.flatMap s1.ltsOf).foldl (fun s lt => s.collFlush lt) s1
/-- The spilled contexts of a logical tile, by their numbers. -/
def State.spilledOf (s : State) (lt : Nat) : List Nat := (s.ctxs.filter fun e => decide (ltKey e.2.kid e.2.homeLt = lt) && e.2.spilled && !e.2.switched).map (·.1)
/-- TEAM_RESUME (R102): the spilled contexts of logical tile `ev.id`, by its key, are given slots again, and results that waited for them are
written (R388). -/
def execTeamResume (s : State) : Host.Outcome State Fault Refusal :=
  if s.kernelRuns (s.ev.id / 4096) then .next (((s.spilledOf s.ev.id).foldl (fun s id => s.unspill id) s).collFlush s.ev.id) else .next s

end Sys2Proof.Machine
end

