-- ==== Sys2Proof/Machine/Stop.lean ====
section
/-! DEFINITION. Gang stops, debug stops, steps and drains, setting and withdrawing a gang switch, and the monitor's freeze (R407, R412-R414, R419). -/

namespace Sys2Proof.Machine

open Sys2Proof

/-- The kernels of a partition. -/
def State.kidsOf (s : State) (part : Nat) : List Nat := (s.kernels.filter fun e => e.2.part = part).map (·.1)
/-- The tiles of a partition's territories. -/
def State.tilesOf (s : State) (part : Nat) : List Nat := (s.kidsOf part).flatMap s.terr
/-- The contexts of a partition. -/
def State.idsOf (s : State) (part : Nat) : List Nat := (s.ctxs.filter fun e => s.partOf e.2.kid = part).map (·.1)
/-- The logical cores of a partition. -/
def State.lcsOfPart (s : State) (part : Nat) : List Nat := (s.kidsOf part).flatMap s.lcsOf

/-! ## Gang stop (R412) -/

/-- The tiles that a gang stop of a partition reaches: its own, and, their cores' records being zero counts, the free ones (R412). -/
def State.stopTiles (s : State) (part : Nat) : List Nat := s.tilesOf part ++ (List.range 1024).filter fun t => (s.tile t).isFree
/-- GANG_STOP (R412): partition `ev.id`, RUNNING or ARMED, stops. -/
def execGangStop (s : State) : Host.Outcome State Fault Refusal :=
  let part := s.ev.id
  let p := s.part part
  if p.present ∧ (p.gang = .running ∨ p.gang = .armed) then .next ((s.writeStops (s.stopTiles part)).updPart part fun p => { p with gang := .stopped, gangBefore := p.gang })
  else .next s
/-- The strand slots of a tile that a mask names. -/
def State.slotsAt (s : State) (t : Nat) (mask : BitVec 32) (c : Ctx) : Bool := c.holdsSlot && decide (s.homeTile c = t) && mask.getLsbD (4 * c.homeCore + c.strand.toNat)
/-- Debug drains of some logical cores' units are over (R240, R241). -/
def State.endDrains (s : State) (lcs : List Nat) : State := lcs.foldl (fun s lc => s.updMu lc fun m => { m with drain := false }) s
/-- STOP_RELEASE (R412, R413): the stopped gang of partition `ev.id` goes on; with `ev.flag`, the strand slots `ev.w0` of tile `ev.idx` do. A strand that was stopped while it was
shipped goes on on its home core (R368). DESIGN CHOICE (log entry 123): one that waits on its cluster's SFU goes home with its request still in the cluster's queue (R149), which
serves it there. -/
def execStopRelease (s : State) : Host.Outcome State Fault Refusal :=
  if s.ev.flag then
    let t := s.ev.idx
    let m := s.ev.w0.setWidth 32
    let ids := (s.ctxs.filter fun e => s.slotsAt t m e.2 && e.2.stopped).map (·.1)
    let lcs := ((s.hosted t).flatMap fun lt => (List.range 8).map fun i => 8 * lt + i).filter fun lc => bits (m.setWidth 64) (4 * lcCore lc) 4 ≠ 0
    let s1 := (ids.foldl (fun s id => s.unship id) s).endDrains lcs
    .next ((s1.updAll (s.slotsAt t m) fun c => { c with stopped := false }).updTile t fun x => { x with debugStops := x.debugStops &&& ~~~m })
  else if (s.part s.ev.id).gang = .stopped then
    let s1 := ((s.idsOf s.ev.id).foldl (fun s id => s.unship id) s).endDrains (s.lcsOfPart s.ev.id)
    .next ((s1.updPart s.ev.id fun p => { p with gang := p.gangBefore, gangBefore := .running }).goOn (s.kidsOf s.ev.id))
  else .next s

/-! ## Debug stop, step and drain (R413) -/

/-- DEBUG_STOP (R413): the strand slots `ev.w0` of tile `ev.id` start no activation; what runs there runs to DONE. -/
def execDebugStop (s : State) : Host.Outcome State Fault Refusal :=
  if s.ev.id < 1024 then .next (s.updTile s.ev.id fun x => { x with debugStops := x.debugStops ||| s.ev.w0.setWidth 32 }) else .next s
/-- The cores of a kernel are stopped by a gang stop, of its partition or of the kernel alone (R412, R425). -/
def State.kernelStopped (s : State) (kid : Nat) : Bool := decide ((s.part (s.partOf kid)).gang = .stopped) || (s.kernelD kid).restoring
/-- The context shows STOPPED (R102). -/
def State.isStopped (s : State) (c : Ctx) : Bool := c.stopped || s.kernelStopped c.kid
/-- DEBUG_STEP (R413): one instruction of the stopped context `ev.id` is released. -/
def execDebugStep (s : State) : Host.Outcome State Fault Refusal :=
  match s.ctx? s.ev.id with
  | some c => if s.isStopped c ∧ c.run ≠ .trapped ∧ !c.spilled ∧ !c.switched then .next (s.upd c.id fun c => { c with stepping := true }) else .next s
  | none => .next s
/-- A stop holds the unit of a logical core: a gang stop, a debug stop of its slots, or one in which a strand of the core stands (R240, R241). A unit of a gang that is away is
SAVED, and no drain runs it. -/
def State.unitStopped (s : State) (lc : Nat) : Bool :=
  let kid := lcKid lc
  !(s.part (s.partOf kid)).away && decide ((s.kernelD kid).state ≠ .switched) && decide ((s.kernelD kid).state ≠ .frozen)
    && (s.kernelStopped kid || s.muHeld lc || s.ctxs.any fun e => decide (e.2.lck = lc) && s.isStopped e.2 && !e.2.switched)
/-- DEBUG_DRAIN (R413): the MU queue of logical core `ev.id`, whose unit or a strand of which is stopped, runs to empty. -/
def execDebugDrain (s : State) : Host.Outcome State Fault Refusal :=
  let lc := s.ev.id
  if s.unitStopped lc ∧ !(s.mu lc).queue.isEmpty then .next (s.updMu lc fun m => { m with drain := true }) else .next s

/-! ## Setting a switch (R414) -/

/-- GANG_SWITCH_SET (R414): firmware sets a switch of partition `ev.id` for the time `ev.w0`. -/
def execGangSwitchSet (s : State) : Host.Outcome State Fault Refusal :=
  if (s.part s.ev.id).present then
    let (w, s1) := s.setSwitch s.ev.id s.ev.w0.toNat true 2
    .next { s1 with hostSide := { s1.hostSide with launches := s1.hostSide.launches ++ [w] } }
  else .next s
/-- GANG_SWITCH_WITHDRAW (R414): until 10 µs before T. -/
def execGangSwitchWithdraw (s : State) : Host.Outcome State Fault Refusal :=
  let p := s.part s.ev.id
  if s.tbase + 10000 < p.switchAt then
    if p.gang = .armed then .next (s.updPart s.ev.id fun p => { p with gang := .running })
    else if p.gang = .stopped ∧ p.gangBefore = .armed then .next (s.updPart s.ev.id fun p => { p with gangBefore := .running })
    else .next s
  else .next s

/-! ## The monitor's freeze (R407) -/

/-- PARTITION_FREEZE (R407): the monitor freezes partition `ev.id` and keeps the resident kernel's faulting frame `ev.bytes`. -/
def execPartitionFreeze (s : State) : Host.Outcome State Fault Refusal :=
  let part := s.ev.id
  if (s.part part).present ∧ (s.part part).gang ≠ .frozen then
    let s1 := (s.kidsOf part).foldl (fun s k => s.updK k fun k => { k with state := .frozen }) (s.endDrains (s.lcsOfPart part))
    .next { s1.updPart part fun p => { p with gang := .frozen } with hostSide := { s1.hostSide with frames := s1.hostSide.frames ++ [(part, s.ev.bytes)] } }
  else .next s

end Sys2Proof.Machine
end

