-- ==== Sys2Proof/Machine/Switch.lean ====
section
/-! DEFINITION. The gang switch: the save, the release of the tiles, the resume, and the partition's power cycle (R414-R420, R427, R428, R447, R458). -/

namespace Sys2Proof.Machine

open Sys2Proof

/-! ## Copies at T (R415 step 2, R416) -/

/-- How far a running copy goes on at T: the units that begin below the next multiple of 4,096 bytes of its progress. -/
def CopyRec.toBoundary (r : CopyRec) : Nat :=
  let us := r.units
  ((List.range us.length).filter fun u => decide (bytesBelow us u < (r.progress + 4095) / 4096 * 4096)).length
/-- A live copy gets its stopping point: a running one its next 4 KiB boundary, one in page wait what it has written; one that ends already, or is being cancelled, goes on to its
end (R415, R427). -/
def State.copySwitch (s : State) (lc : Nat) (r : CopyRec) : State :=
  if r.state = 3 then s.copyUnwait lc r.slot
  else if r.state = 2 ∧ r.ending = 0 then s.copyStopAt lc r.slot r.toBoundary
  else s
/-- What is left below its stopping point is written, if it can be, and a copy that has come to its end ends, with its signal write. -/
def State.copyToStop (s : State) (lc : Nat) (r : CopyRec) : State := if r.state = 2 then (s.copyRest lc r.slot).copyUnwait lc r.slot else s
/-- A copy as it is saved: any live one is a replay entry, but for one that waits in a commit queue (R415, R428). -/
def State.saveCopies (s : State) (lc : Nat) : State :=
  let s1 := s.copiesLeavePages lc
  let queued (r : CopyRec) : Bool := (s1.copyEntry lc r).any fun e => !e.sent
  s1.updLc lc fun l => { l with copies := l.copies.map fun r => if copyLive r.state && !queued r then { r with state := 7 } else r }

/-! ## Accesses and messages in flight (R415 steps 3 and 4) -/

/-- The kind of replay entry that a flit in a retransmit buffer becomes; none for messages and queue words, which fall out, for copy units, which the save waits for, and for what a
group engine has in its hands, a contribution that has been read with it (R388). -/
def replayKind (f : Flit) : Option Nat :=
  match f.kind with
  | 3 => some 2
  | 6 => some 3
  | _ => none
/-- Every access of a logical core that is not acknowledged becomes a replay entry; its flits leave the fabric. -/
def State.takeReplays (s : State) (lc : Nat) : State :=
  let l := s.lcore lc
  let es := l.retx.filterMap fun f => (replayKind f).map fun k => ({ kind := k, core := lcCore lc, order := f.fid, flit := f } : Replay)
  let gone (f : Flit) : Bool := es.any fun e => e.flit.fid = f.fid || (match f.carry with | .ack n _ => n = e.flit.fid | .nack n _ => n = e.flit.fid | _ => false)
  let s1 := (s.updLc lc fun l => { l with retx := l.retx.filter fun f => (replayKind f).isNone }).updLt (lc / 8) fun x => { x with replays := x.replays ++ es }
  { s1 with flits := s1.flits.filter fun f => !gone f, arrivals := s1.arrivals.filter fun f => !gone f }
/-- A message or queue word in flight to a logical tile of a kernel of this device. -/
def State.itemFor (s : State) (f : Flit) (p : Kernel → Bool) : Bool :=
  decide (f.kind ≤ 2) && decide (f.dev = s.device.toNat) && (match s.kernel? f.kid with | some k => decide (k.part = f.part) && p k && decide (f.lt < k.tiles) | none => false)
/-- Messages and queue words in flight to a partition fall out into the fallout areas of their destinations, each once. DESIGN CHOICE (log entry 125): one that the partition has
sent to a kernel which is not away falls out into that one's area and is injected again at once, at its tile; one to another device, or to the management complex, goes on. -/
def State.fallOut (s : State) (part : Nat) : State :=
  let goes (f : Flit) : Bool := s.itemFor f fun k => decide (k.part = part)
  let out (f : Flit) : Bool := s.itemFor f fun k => decide (k.part ≠ part) && decide (s.partOf (lcKid f.sender) = part) && decide (lcKid f.sender ≠ 63)
  let fs := (s.arrivals ++ s.flits).filter goes
  let s1 : State := { s with flits := (s.flits.filter fun f => !goes f).map fun f => if out f then f.fresh (s.ltile (f.lck / 8)).tile f.sentAt else f, arrivals := s.arrivals.filter fun f => !goes f }
  fs.foldl (fun s f => s.updLt (f.lck / 8) fun x => if x.fallout.any fun g => g.fid = f.fid then x else { x with fallout := x.fallout ++ [f] }) s1

/-! ## GANG_SWITCH (R415, R418) -/

/-- One context is taken: its page wait and its SFU request are given up, its record is written, with a stop noted, and it will go on at home. -/
def State.saveCtx (s : State) (stopped : Bool) (id : Nat) : State :=
  let s1 := (s.leavePage id).sfuReissue id
  ((s1.saveRecord id (stopped || (s1.ctxD id).stopped)).unship id).upd id fun c => { c with switched := true, stepping := false }
/-- Collectives whose contribution has not been read become replay entries (R388). -/
def LCore.saveColls (l : LCore) : LCore := { l with colls := l.colls.map fun r => if r.state = 1 then { r with state := 5 } else r }
/-- A cut that is being recorded is abandoned; its MARK completes at resume with WHY 4 (R418, R424). -/
def State.dropCut (s : State) (kid : Nat) : State :=
  match (s.kernelD kid).cut with
  | none => s
  | some ct =>
    let s1 := (s.lcsOf kid).foldl (fun s lc => s.updLc lc fun l => { l with cutFlag := false, chanLog := [] }) (s.updK kid fun k => { k with cut := none })
    match ct.by_ with
    | some id => s1.upd id fun c => if c.wait = .cut then { c with wait := .none, held := c.held.map fun h => { h with answered := true, ans := { accept := false } } } else c
    | none => s1
/-- The moves of a territory's tiles that have not rehomed are abandoned: cedes from and to it, and levelling; a forced cede stands (R329, R418). -/
def State.dropMoves (s : State) (kid : Nat) : State :=
  let s1 := (s.terr kid).foldl (fun s t => s.dropLevel t) s
  ((s1.tiles.filter fun e => decide (e.2.ts = .ceding) && e.2.ceding.isSome && (decide (e.2.owner.toNat = kid) || decide (e.2.cedeTo = kid))).map (·.1)).foldl (fun s t => s.abandonCede t) s1
/-- GANG_SWITCH (R415): TBASE has reached T. -/
def execGangSwitch (s : State) : Host.Outcome State Fault Refusal :=
  let part := s.ev.id
  let p := s.part part
  let stopped := decide (p.gang = .stopped)
  if (p.gang = .armed ∨ (stopped ∧ p.gangBefore = .armed)) ∧ p.switchAt ≤ s.tbase then
    let kids := s.kidsOf part
    let lcs := s.lcsOfPart part
    let s0 := s.landTaken fun f => kids.contains f.kid
    let s1 := (s0.idsOf part).foldl (fun s id => s.saveCtx stopped id) (kids.foldl (fun s k => (s.dropCut k).dropMoves k) s0)
    let s2 := lcs.foldl (fun s lc => (s.lcore lc).copies.foldl (fun s r => s.copySwitch lc r) s) s1
    let s3 := lcs.foldl (fun s lc => ((s.takeReplays lc).updLc lc LCore.saveColls).updMu lc fun m => { m with drain := false }) s2
    .next ((s3.fallOut part).updPart part fun p => { p with gang := .saving, gangBefore := if stopped then .stopped else .running })
  else .next s

/-! ## SAVE_COMPLETE (R415 step 5, R419) -/

/-- A kernel's images are written and its tiles go back to firmware: the stop packets are sent (R447). A kernel that was ENDING ends. -/
def State.saveKernel (s : State) (kid : Nat) : State :=
  let k := s.kernelD kid
  if k.state = .ending then s.endKernel kid k.cause
  else
    let s0 := (s.lcsOf kid).foldl (fun s lc => s.saveCopies lc) (s.landTaken fun f => f.kid = kid)
    let s1 := (s.ltsOf kid).foldl (fun s lt => s.updLt lt fun x => { x with replayArea := s0.replayEntries lt }) s0
    let s2 := (s1.terr kid).foldl (fun s t => s.freeTile t kid) s1
    let s3 := (s.ltsOf kid).foldl (fun s lt => s.updLt lt fun x => { x with tile := noTile, j := 0, saved := true, clocks := s1.clocksOf lt }) s2
    { s3.updK kid fun k => { k with state := .switched, heldBefore := decide (k.state = .held) } with
      tiles := s3.tiles.map fun e => (e.1, { e.2 with stubs := e.2.stubs.filter fun b => b.lt / 4096 ≠ kid }) }
/-- No access of a copy of the partition is under way any more. -/
def State.copiesQuiet (s : State) (part : Nat) : Bool := (s.lcsOfPart part).all fun lc => (s.lcore lc).copies.all fun r => r.waitFid.isEmpty
/-- SAVE_COMPLETE (R415, R419): the copies of partition `ev.id` have come to their stopping points, and the last record and image are written; while an access of a copy is
under way, the save goes on. -/
def execSaveComplete (s : State) : Host.Outcome State Fault Refusal :=
  let part := s.ev.id
  let s0 := (s.lcsOfPart part).foldl (fun s lc => (s.lcore lc).copies.foldl (fun s r => s.copyToStop lc r) s) s
  if (s.part part).gang ≠ .saving then .next s
  else if !s0.copiesQuiet part then .next s0
  else
    let live := (s.kidsOf part).filter fun k => decide ((s.kernelD k).state ≠ .ended)
    .next ((live.foldl (fun s k => s.saveKernel k) s0).updPart part fun p => { p with gang := .switched })

/-! ## GANG_RESUME (R417, R419) -/

/-- Places the logical tiles of a switched kernel (R274, R417). -/
def State.placeKernel (s : State) (kid : Nat) (fw : FwAns) : Option State :=
  let k := s.kernelD kid
  if s.placeOk k.part k.tiles k.k fw then
    let s1 := fw.place.zipIdx.foldl (fun s e => let lt := ltKey kid e.2
      (s.updLt lt fun x => { x with tile := e.1.1, j := e.1.2, saved := false, mapGen := x.mapGen + 1#32 }).bringClocks lt (s.ltile lt).clocks) s
    let s2 := s1.updK kid fun k => { k with state := if k.heldBefore then .held else .running, heldBefore := false, gen := k.gen + 1#16 }
    some (s2.assignTerritory kid fw.territory fw.anchor)
  else none
/-- Every switched kernel of a partition gets a territory, or none does. -/
def State.placeAll (s : State) (fws : List (Nat × FwAns)) : List Nat → Option State
  | [] => some s
  | k :: t => match mget k fws with
    | some fw => (s.placeKernel k fw).bind fun s1 => s1.placeAll fws t
    | none => none
/-- A context comes back in the state that it was saved in (R405, R417 step 1). -/
def State.loadCtx (s : State) (id : Nat) : State :=
  let s1 := s.upd id fun c => { c with switched := false, spilled := true }
  if (s.ctxD id).spilled then s1 else s1.unspill id
/-- Inserts by issue order, and by channel and channel sequence number. -/
def byOrder (l : List Replay) (r : Replay) : List Replay := l.takeWhile (fun x => decide (x.order ≤ r.order)) ++ r :: l.dropWhile (fun x => decide (x.order ≤ r.order))
def byChseq (l : List Flit) (f : Flit) : List Flit :=
  let before (g : Flit) : Bool := decide (streamFrom g ≠ streamFrom f) || !(f.chseq - g.chseq).msb
  l.takeWhile before ++ f :: l.dropWhile before
/-- The fallout of a logical tile is re-injected, per channel in channel-sequence order (R417 step 2). -/
def State.reinject (s : State) (lt : Nat) : State :=
  let x := s.ltile lt
  { s.updLt lt fun x => { x with fallout := [] } with flits := s.flits ++ (x.fallout.foldl byChseq []).map fun f => f.fresh x.tile s.tbase }
/-- The replay entries of a logical tile are issued again, in issue order; copies go on from their progress (R416, R417 step 3). -/
def State.reissue (s : State) (lt : Nat) : State :=
  let x := s.ltile lt
  let s1 := (x.replays.foldl byOrder []).foldl (fun s e =>
    let f := e.flit.fresh x.tile s.tbase
    let s' := s.updLc e.flit.sender fun l => { l with retx := l.retx ++ [f] }
    if (s.lcore e.flit.sender).retx.length < Config.retransmitEntries then { s' with flits := s'.flits ++ [f] } else s') (s.updLt lt fun x => { x with replays := [], replayArea := [] })
  (List.range 8).foldl (fun s i => s.updLc (8 * lt + i) fun l =>
    { l with copies := l.copies.map fun r => if r.state = 7 then { r with state := 1, waitFid := [], stopAt := if r.ending = 6 then r.stopAt else none } else r }) s1
/-- The collectives of a logical core are issued again, but for one whose member has been withdrawn from its instance (R388). -/
def State.reissueColls (s : State) (lc : Nat) : State :=
  s.updLc lc fun l => { l with colls := l.colls.map fun r =>
    if r.state = 5 then (if r.gone then { r with state := 4, fin := { err := 5, wdr := true } } else { r with state := 1 }) else r }
/-- One kernel comes back. -/
def State.resumeKernel (s : State) (kid : Nat) : State :=
  let s1 := ((s.ctxs.filter fun e => decide (e.2.kid = kid) && e.2.switched).map (·.1)).foldl (fun s id => s.loadCtx id) s
  let s2 := (s.ltsOf kid).foldl (fun s lt => s.reinject lt) s1
  let s3 := (s.ltsOf kid).foldl (fun s lt => s.reissue lt) s2
  (s.lcsOf kid).foldl (fun s lc => s.reissueColls lc) s3
/-- GANG_RESUME (R417, R419) of partition `ev.id`: SWITCHED, its kernels get the territories `ev.fws`; RESTORING, its cores take the steps of R417 and
the gang runs, or is STOPPED when STOPMARK was saved. -/
def execGangResume (s : State) : Host.Outcome State Fault Refusal :=
  let part := s.ev.id
  let p := s.part part
  let live := (s.kidsOf part).filter fun k => decide ((s.kernelD k).state ≠ .ended)
  if p.gang = .switched then
    match s.placeAll s.ev.fws live with
    | some s1 => .next (s1.updPart part fun p => { p with gang := .restoring })
    | none => .next s
  else if p.gang = .restoring then
    let marked := decide (p.gangBefore = .stopped) && s.ctxs.any fun e => decide (s.partOf e.2.kid = part) && s.stopMarked e.1
    let s1 := (live.foldl (fun s k => s.resumeKernel k) s).updPart part fun p => { p with gang := if marked then .stopped else .running, gangBefore := .running }
    .next (s1.goOn live)
  else .next s

/-! ## The partition's power cycle (R458) -/

/-- A physical address lies in a partition's memory. -/
def Partition.owns (p : Partition) (pa : Nat) : Bool := p.memory.any fun r => decide (r.1 ≤ pa) && decide (pa < r.1 + r.2)
/-- The partition's memory is scrubbed to zero, and nothing cached of it is left. -/
def State.scrub (s : State) (part : Nat) : State :=
  let p := s.part part
  let keep (x : Lease) : Bool := !p.owns (128 * x.line)
  { s with
    glob := s.glob.filter fun c => !p.owns c.1
    dram := s.dram.filter fun c => !p.owns c.1
    dirty := s.dirty.filter fun l => !p.owns (128 * l)
    dirtyGranules := s.dirtyGranules.filter fun g => !p.owns (65536 * g)
    viewLines := s.viewLines.filter fun e => !p.owns (128 * e.1)
    past := s.past.filter fun x => !p.owns (128 * x.line)
    signals := s.signals.filter fun x => !p.owns (128 * x.line)
    l2s := s.l2s.map fun e => (e.1, e.2.filter fun x => !p.owns (128 * x.line))
    copies := s.copies.map fun e => (e.1, e.2.filter keep)
    rdcs := s.rdcs.map fun e => (e.1, e.2.filter keep)
    tlbs := s.tlbs.map fun e => (e.1, e.2.filter fun t => t.part ≠ part)
    moves := s.moves.filter fun m => m.part ≠ part }
/-- Flits addressed to a partition are dropped, and their senders get negative acknowledgements (R458). -/
def State.refuseFlits (s : State) (part : Nat) : State :=
  let mine (f : Flit) : Bool := decide (f.dev = s.device.toNat) && decide (f.part = part) && streamKind f.kind
  let told (f : Flit) : Word := match f.carry with | .codelet h _ => h | .access _ addr _ _ => addr | _ => 0#64
  let once (l : List Flit) (f : Flit) : List Flit := if l.any fun g => g.fid = f.fid then l else l ++ [f]
  let fs := ((s.flits ++ s.arrivals ++ s.taken.map (·.1)).filter mine).foldl once []
  let s1 : State := { s with flits := s.flits.filter fun f => !mine f, arrivals := s.arrivals.filter fun f => !mine f, taken := s.taken.filter fun e => !mine e.1 }
  fs.foldl (fun s f => s.reply f 5 (told f) (.nack f.fid (told f))) s1
/-- A kernel is discarded with no end message, and its tiles return FREE and zeroed, whatever state they were in; clock-event counts stay (R276, R331, R450, R458). -/
def State.discardForGood (s : State) (kid : Nat) : State :=
  let ts := s.terr kid
  let s1 := s.releaseKernel kid
  let s2 : State := { s1 with kernels := mdel kid s1.kernels }
  ts.foldl (fun s t => s.updTile t fun x => { x with ts := .free, counters := Vector.replicate 16 0#64, trace := [], traceLost := 0, traceAt := none, debugStops := 0#32 }) s2
/-- PARTITION_POWER_CYCLE (R458) of partition `ev.id`. -/
def execPartitionPowerCycle (s : State) : Host.Outcome State Fault Refusal :=
  let part := s.ev.id
  if !(s.part part).present then .next s
  else
    let s1 := ((s.groups.filter fun g => g.part = part).map (·.name)).foldl (fun s n => s.dropGroup part n) s
    let s2 := (s1.kidsOf part).foldl (fun s k => s.discardForGood k) s1
    let s3 : State := { s2 with
      resident := s2.resident.filter fun m => m.part ≠ part
      insts := s2.insts.filter fun x => x.part ≠ part
      dies := s2.dies.map fun e => (e.1, { e.2 with pages := e.2.pages.filter fun r => r.part ≠ part, retain := e.2.retain.map fun r => match r with | some x => if x.part = part then none else some x | none => none }) }
    .next (((s3.refuseFlits part).scrub part).updPart part fun p => { p with gang := .running, gangBefore := .running, switchAt := 0, xtsKey := p.xtsKey + 1, cycled := p.cycled + 1 })

end Sys2Proof.Machine
end

