-- ==== Sys2Proof/Machine/Restore.lean ====
section
/-! DEFINITION. The restoration of a kernel after a lasting fault: from its latest usable cut, or without one (R379, R400, R424, R425). -/

namespace Sys2Proof.Machine

open Sys2Proof

/-! ## What is discarded -/

/-- The flit runs within a kernel: its sender and its destination are the kernel's. -/
def State.flitWithin (s : State) (kid : Nat) (f : Flit) : Bool := decide (f.kid = kid) && decide (f.dev = s.device.toNat) && decide (lcKid f.sender = kid)
/-- A reply to the kernel. -/
def State.replyTo (s : State) (kid : Nat) (f : Flit) : Bool := decide (f.kid = kid) && decide (f.dev = s.device.toNat) && (decide (f.kind = 4) || decide (f.kind = 5))
/-- Every strand of a kernel ends, with its page waits, and ports that it was bound to are free of it. -/
def State.dropStrands (s : State) (ids : List Nat) : State :=
  let s1 := ids.foldl (fun s id => (s.leavePage id).dropCtx id) s
  let free (o : Option Nat) : Option Nat := o.filter fun x => !ids.contains x
  { s1 with lcores := s1.lcores.map fun e => (e.1, { e.2 with ports := e.2.ports.map fun p => { p with reader := free p.reader, writer := free p.writer } }) }
/-- The contexts of a kernel. -/
def State.idsOfKernel (s : State) (kid : Nat) : List Nat := (s.ctxs.filter fun e => e.2.kid = kid).map (·.1)
/-- Leased copies of a kernel's scratchpads leave the caches (R165). -/
def State.dropScratchCopies (s : State) (lts : List Nat) : State :=
  let own (l : Nat) : Bool := decide (2 ^ 46 ≤ l) && lts.contains ((l - 2 ^ 46) / 8192)
  { s with copies := s.copies.map fun e => (e.1, e.2.filter fun x => !own x.line) }
/-- The live state of a kernel is discarded: strands, what is in flight within it, and replies to it (R425 step 1). What it has sent to other kernels
goes on. -/
def State.discardLive (s : State) (kid : Nat) : State :=
  let s1 := (s.lcsOf kid).foldl (fun s lc => s.copiesLeavePages lc) ((s.dropCut kid).dropMoves kid)
  let s2 := (s1.dropStrands (s1.idsOfKernel kid)).dropScratchCopies (s1.ltsOf kid)
  let gone (f : Flit) : Bool := s.flitWithin kid f || s.replyTo kid f
  { s2 with flits := s2.flits.filter (fun f => !gone f), arrivals := s2.arrivals.filter (fun f => !gone f)
            tiles := s2.tiles.map fun e => (e.1, { e.2 with muOwner := e.2.muOwner.filter fun o => lcKid o.2 ≠ kid }) }

/-! ## Step 1: the images -/

/-- A context as it is loaded: spilled, and what it waited for outside the kernel is asked for again (R405, R424). -/
def Ctx.load (c : Ctx) (cutId : BitVec 32) : Ctx :=
  let again (c : Ctx) : Ctx := { c with wait := .none, held := c.held.map fun h => { h with stage := 0, answered := false } }
  let c1 : Ctx := { c with held := c.held.map (fun h => if h.far.isSome then { h with stage := 0, far := none } else h), spilled := true, shipped := none, shipWait := false, switched := false, stepping := false, run := (if c.run = .running then .ready else c.run) }
  match c.wait with
  | .page _ _ => { c1 with wait := .none }
  | .sfuResult => { c1 with wait := .sfuEntry }
  | .cut => { c1 with wait := .none, held := c.held.map fun h => { h with answered := true, ans := { accept := true, value := cutId.setWidth 64 ||| 0x4000000000000000#64 } } }
  | .group => again c1
  | .answer => (match c.held with | some { instr := .trap _ _, .. } => again c1 | _ => c1)
  | _ => c1
/-- A copy and a collective as they are loaded. A collective of the cut goes on as its instance stands; one that has ended since ends withdrawn. -/
def CopyRec.load (r : CopyRec) : CopyRec := if copyLive r.state then { r with state := 1, ahead := [], waitFid := [] } else r
def CollRec.load (r : CollRec) (live : List CollRec) : CollRec :=
  if r.state = 1 ∨ r.state = 2 ∨ r.state = 5 then
    match live.find? fun x => decide (x.slot = r.slot) && decide (x.seqno = r.seqno) with
    | some x => if x.state = 1 ∨ x.state = 2 ∨ x.state = 5 then x else { r with state := 4, fin := { err := 5, wdr := true } }
    | none => { r with state := 4, fin := { err := 5, wdr := true } }
  else r
/-- A flit of an image that is issued again: an access whose acknowledgement had not come (R416). -/
def replayed (f : Flit) : Bool := decide (f.kind = 3) || decide (f.kind = 6)
/-- A stream number names a destination, or a source, within the kernel. -/
def State.streamWithin (s : State) (kid n : Nat) : Bool := decide (n / 1048576 = s.device.toNat * 64 + kid)
/-- A logical core as it is loaded from its image `i`: what it has under way with other kernels stays as it is, the counts of a sweep start
again, and the messages kept since the cut are still kept (R425). -/
def State.loadCore (s : State) (kid : Nat) (i live : LCore) : LCore :=
  let outer := live.retx.filter fun f => !s.flitWithin kid f && !(replayed f && i.retx.any fun g => g.fid = f.fid)
  let pick {α : Type} (a b : List (Nat × α)) : List (Nat × α) := (b.filter fun e => !s.streamWithin kid e.1) ++ a.filter fun e => s.streamWithin kid e.1
  { i with retx := i.retx.filter replayed ++ outer, awaiting := (outer.filter fun f => decide (f.kind ≤ 2)).length, tx := pick i.tx live.tx, rx := pick i.rx live.rx,
           reorder := live.reorder.filter fun f => !s.flitWithin kid f
           answers := (live.answers.filter fun a => !s.streamWithin kid a.stream) ++ i.answers.filter fun a => s.streamWithin kid a.stream
           copies := i.copies.map CopyRec.load, colls := i.colls.map fun r => r.load live.colls
           ports := i.ports.map fun p => { p with inflight := 0 }
           colour := false, sentC := Vector.replicate 2 0, recvC := Vector.replicate 2 0, leastSent := none, owed := false
           cutFlag := false, cutSent := 0, cutRecv := 0, chanLog := [], afterCut := live.afterCut }
/-- The images of a cut are loaded. -/
def State.loadImages (s : State) (kid : Nat) (ct : Cut) : State :=
  let s1 := ct.shard.lts.foldl (fun s e => s.updLt e.1 fun x => { e.2 with tile := x.tile, j := x.j, mapGen := x.mapGen, moving := none, moveJ := 0, saved := false, fallout := [], replays := [] }) s
  let s2 := ct.shard.lcs.foldl (fun s e => s.updLc e.1 fun x => s.loadCore kid e.2 x) s1
  let cs := ct.shard.ctxs.map fun c => c.load ct.id
  let s3 := cs.foldl (fun (s : State) (c : Ctx) => ({ s with ctxs := mset c.id c s.ctxs }).saveRecord c.id false)
    { s2 with bars := s2.bars ++ ct.shard.bars.filter fun b => !(s2.bars.any fun x => x.place = b.place) }
  s3.updK kid fun k => { k with chains := ct.shard.chains, swAgree := false, swVoid := true, swColour := false, kmin := (match ct.minKey with | .notYet => k.kmin | m => m) }
/-- The accesses of the images are issued again, in issue order. -/
def State.reissueAccesses (s : State) (kid : Nat) : State :=
  let fs := ((s.lcsOf kid).flatMap fun lc => ((s.lcore lc).retx.filter replayed).map fun f => ({ kind := 2, core := lcCore lc, order := f.fid, flit := f } : Replay)).foldl byOrder []
  let ids := fs.map fun r => r.flit.fid
  { s with flits := (s.flits.filter fun f => !ids.contains f.fid) ++ fs.map fun r => r.flit.fresh (s.ltile (r.flit.sender / 8)).tile s.tbase }

/-! ## Step 2: the logs -/

/-- An item of a channel log, or a message kept since the cut, is accepted again: its number counts as taken, so that a copy of it that is sent
again is a duplicate (R425, R435). -/
def State.reaccept (s : State) (f0 : Flit) : State :=
  let f : Flit := { f0 with hdr := f0.hdr &&& ~~~0x1000000#64 }
  let own := s.fromWithin f
  let s1 := if own then s.updLc f.lck fun c => { c with rx := mset (streamFrom f) ((s.rxOf f).take f.chseq) c.rx } else s
  let lc := f.lck
  let lt := lc / 8
  let counted : State :=
    let s2 := s1.countArrival f f.carry.key
    if s1.isWarp f.kid && s1.inside f f.carry.key then s2.updLc lc fun c => { c with sentC := c.sentC.set 0 (c.sentC[0] + 1) } else s2
  match f.carry with
  | .queueWord _ => (s1.countWord f).takeItem f s.tbase
  | .access op addr kid dev =>
    let w := (s1.ltile lt).windows[raWin addr % 8]
    if bits addr 20 17 = 0 ∧ w.accepts op addr kid (decide (dev = s1.device.toNat)) then (s1.performAccess lt (64 * w.base64.toNat + raOff addr) op f.stamp).2 else s1
  | .codelet h publish =>
    let s2 := s1.updLc lc fun c => c.countReceived false true false
    if s2.handleOk f.kid h then s2.clApply f h publish else s2
  | _ => if f.kind ≤ 1 then counted.takeItem f s.tbase else s1
/-- The channel logs of a cut, and what each logical core has kept since, core by core. -/
def State.reinjectLogs (s : State) (kid : Nat) (ct : Cut) : State :=
  let logs := (s.lcsOf kid).flatMap fun lc => ((mget lc ct.shard.lcs).map (·.chanLog)).getD []
  let kept := (s.lcsOf kid).flatMap fun lc => (s.lcore lc).afterCut
  (logs ++ kept).foldl (fun s f => s.reaccept f) s

/-! ## Step 3: the rollback to the cut minimum -/

/-- The activations of a logical core at or above a key are undone with no antimessage; the keys of what they had sent. -/
def State.undoFrom (s : State) (lc : Nat) (k : Key) : List Key × State :=
  let acts := (s.activations lc).filter fun m => !m.key.lt k
  let mine (o : OutEntry) : Bool := acts.any fun m => m.key = o.by_
  let sent := ((s.lcore lc).outLog.filter mine).map (·.key)
  (sent, (s.updLc lc fun c => { c with outLog := c.outLog.filter fun o => !mine o }).undoAll lc none acts)
/-- The messages of undone activations are gone at their receivers, which roll back alike. -/
def State.dropTwins (s : State) (kid : Nat) (ks : List Key) : State :=
  { s with lcores := s.lcores.map fun e => if lcKid e.1 ≠ kid then e else
      (e.1, { e.2 with items := e.2.items.filter (fun m => m.admitted || !ks.contains m.key), ring := (e.2.keepTasks fun m => !ks.contains m.key).ring, depthFirst := (e.2.keepTasks fun m => !ks.contains m.key).depthFirst }) }
/-- A WARP kernel rolls back to its cut's minimum. -/
def State.rollToCut (s : State) (kid : Nat) (m : KMin) : State :=
  match m with
  | .key k =>
    let (ks, s1) := (s.lcsOf kid).foldl (fun (r : List Key × State) lc => let (x, s') := r.2.undoFrom lc k
      (r.1 ++ x, s')) ([], s)
    s1.dropTwins kid ks
  | _ => s

/-- The restoration from a cut (R425): what the images hold in input buffers comes before the logs. -/
def State.restoreCut (s : State) (kid : Nat) (ct : Cut) : State :=
  let s0 := ((s.discardLive kid).loadImages kid ct).reissueAccesses kid
  let s1 := ((s0.lcsOf kid).foldl (fun s lc => s.takeHeld lc) s0).reinjectLogs kid ct
  if s.isWarp kid then s1.rollToCut kid ct.minKey else s1

/-! ## Without a usable cut -/

/-- The barriers of a kernel, in every die's directory (R400). -/
def State.barriersOf (s : State) (kid : Nat) : List Place := (List.range 4).flatMap fun d => s.directory d kid
/-- A logical tile is withdrawn from the barriers of its kernel that it takes part in (R399, R400). -/
def State.barLeaveAll (s : State) (kid l : Nat) : State :=
  (s.barriersOf kid).foldl (fun s p =>
    let r := s.bar p
    if !r.valid || r.empty || decide (l < r.lo) || decide (r.lo + r.n ≤ l) then s
    else match s.entryPlace (s.partOf kid) (ltKey kid l) r l with
      | some ep => if withdrawn (s.entry ep) then s else s.barWithdraw (engineCore (s.ltile (ltKey kid l)).tile) (s.partOf kid) p ep
      | none => s) s
/-- A logical core that starts again: its header's bindings, empty queues, and the counts and streams by which other cores know it. -/
def LCore.again (l : LCore) (h : List Byte) : LCore :=
  { bindings := hdrBindings h, sent := l.sent, received := l.received, awaiting := l.awaiting, sentC := l.sentC, recvC := l.recvC, colour := l.colour, leastSent := l.leastSent,
    kmin := l.kmin, gvt := l.gvt, deliveries := l.deliveries, owed := l.owed, sendSeq := l.sendSeq, admissions := l.admissions, traps := l.traps, copySeq := l.copySeq, collSeq := l.collSeq,
    tx := l.tx, rx := l.rx, retx := l.retx.filter fun f => decide (f.kind ≤ 2) || decide (f.kind = 10), cutFlag := l.cutFlag, cutSent := l.cutSent, cutRecv := l.cutRecv }
/-- A trap message that the resident kernel sends to the supervisor of a kernel, or takes itself when channel 14 is unbound there (R406). -/
def State.residentTrap (s : State) (kid : Nat) (cause : BitVec 8) (einfo : Word) : State :=
  let k := s.kernelD kid
  let src := srcWord 0 s.device.toNat 63 14 0 0 0
  if (s.lcore (lcKey kid k.slt k.score)).bindings[14].bound then
    s.sendMsg (lcKey 63 0 0) 0 s.device.toNat kid k.slt k.score 14 0#64 src 0#64 (w64 (2 ^ 63 + cause.toNat)) einfo 0#64 (.message {} none) {}
  else { s with resident := s.resident ++ [{ part := k.part, item := trapItem 0#64 cause einfo 0#64 0#64 src s.tbase, ctx := none, notice := true }] }
/-- A failed logical tile restarts from the scratch image (R425): it is withdrawn from its groups and barriers, and the barriers that its scratchpad held are gone. -/
def State.restartLt (s0 : State) (kid lt : Nat) : State :=
  let s := (s0.groupLeaveAll kid (lt % 4096)).barLeaveAll kid (lt % 4096)
  let k := s.kernelD kid
  let img := s.imageBytes k.part (hdrField k.header 8 8) (hdrField k.header 16 4)
  let s1 := (List.range 8).foldl (fun s i => s.copiesLeavePages (8 * lt + i)) s
  let s2 := (s1.dropStrands ((s1.ctxsOf lt).map (·.id))).dropScratchCopies [lt]
  let s3 := s2.updLt lt fun x => { newLTile (x.tile, x.j) img (hdrKeeps k.header) {} with mapGen := x.mapGen }
  let s4 := (List.range 8).foldl (fun s i => s.updLc (8 * lt + i) fun l => l.again k.header)
    { s3 with bars := s3.bars.filter fun b => match placeOfNum b.place with | .scratch l _ => l ≠ lt | .phys _ _ => true }
  s4.residentTrap kid cMemError (w64 (lt % 4096 + 2 ^ 63))

/-! ## KERNEL_RESTORE -/

/-- The logical tiles that stand on no tile of the territory any more go to heirs, those of one coiled chain together where a tile has room for them (R326, R351). -/
def State.houseAll (s : State) (kid : Nat) : State :=
  let go (s : State) (g : List Nat) : Option State :=
    (s.planGroup kid ((s.terr kid).filter fun u => (s.tile u).ts = .member) [] g).map fun p => p.foldl (fun s e => s.moveLt e.1 e.2.1 e.2.2) s
  let lost := (s.ltsOf kid).filter fun l => !(s.terr kid).contains (s.ltile l).tile
  let gs := s.coilGroups kid lost
  (gs ++ (lost.filter fun l => !(gs.any fun g => g.contains l)).map fun l => [l]).foldl (fun s g => (go s g).getD (g.foldl (fun s l => (go s [l]).getD s) s)) s
/-- The kernel of a restoration once its logical tiles have places. -/
def State.restoreWith (s : State) (kid : Nat) (usable : Bool) : State :=
  let k := s.kernelD kid
  let s1 := match (if usable then k.lastCut else none) with
    | some ct => s.restoreCut kid ct
    | none => (s.idsOfKernel kid).foldl (fun s id => s.unship id) (k.failed.foldl (fun s lt => s.restartLt kid lt) s)
  (s1.updK kid fun k => { k with restoring := false, failed := [] }).goOn [kid]
/-- KERNEL_RESTORE (R425): firmware restores kernel `ev.id`, stopped since a tile of it was retired; `ev.flag` says that the latest cut's shards can be read; the cut is usable when they match
their digests too (R423). The kernel's own stop is released; where its partition is STOPPED too, it goes on at that stop's release. -/
def execKernelRestore (s : State) : Host.Outcome State Fault Refusal :=
  let kid := s.ev.id
  let k := s.kernelD kid
  if !(k.restoring && (s.gangRuns k.part || decide ((s.part k.part).gang = .stopped)) && (decide (k.state = .running) || decide (k.state = .held))) then .next s
  else if (s.terr kid).length < k.least then .next (s.endKernel kid 2)
  else
    let s1 := s.houseAll kid
    if (s1.ltsOf kid).all fun l => (s1.terr kid).contains (s1.ltile l).tile then .next (s1.restoreWith kid (s.ev.flag && k.lastCut.all fun ct => s.shardsMatch kid ct)) else .next s

end Sys2Proof.Machine
end

