-- ==== Sys2Proof/Machine/Streams.lean ====
section
/-! DEFINITION. Stream registers: configuring, enabling and reading them (R151-R157). -/

namespace Sys2Proof.Machine

open Sys2Proof

/-- The stream of a stream register; well-formed instructions name f28 to f31. -/
def streamIx (r : Reg) : Fin 4 := ⟨r.toNat % 4, Nat.mod_lt _ (by decide)⟩
/-- Changes a stream and completes. -/
def State.setStream (s : State) (id : Nat) (r : Reg) (len : Nat) (f : Stream → Stream) : State :=
  s.upd id fun c => { c with streams := c.streams.set (streamIx r) (f c.streams[streamIx r]) }.retired (c.pc + w64 len)
/-- SCFG (R154). -/
def execScfg (d a b : Reg) (dir : Bool) (ndim : BitVec 2) (imm32 : BitVec 32) (s : State) : Host.Outcome State Fault Refusal :=
  strandOp s (.scfg d a b dir ndim imm32) fun id c =>
    let o := c.getG a + sext32 imm32
    if o.toNat % 16 ≠ 0 then s.trap id cMisalign o
    else if s.sOf c ≤ o.toNat ∨ 2 ^ 20 ≤ o.toNat then s.trap id cPagePerm o
    else
      let st := c.getG b
      s.setStream id d 12 fun _ =>
        { dir := dir, ndim := ndim, base16 := BitVec.ofNat 16 (o.toNat / 16),
          stride := #v[st.extractLsb' 0 16, st.extractLsb' 16 16, st.extractLsb' 32 16, st.extractLsb' 48 16] }
/-- A used bound is 1 to 4,096 (R155). -/
def boundsOk (v : Word) (ndim : Nat) : Bool := (List.range (ndim + 1)).all fun i => decide (1 ≤ bits v (16 * i) 16) && decide (bits v (16 * i) 16 ≤ 4096)
/-- SDIM (R155). -/
def execSdim (d a : Reg) (s : State) : Host.Outcome State Fault Refusal :=
  strandOp s (.sdim d a) fun id c =>
    let v := c.getG a
    let n := c.streams[streamIx d].ndim.toNat
    if boundsOk v n then
      s.setStream id d 4 fun x =>
        { x with bound := Vector.ofFn fun (i : Fin 4) => if i.val ≤ n then BitVec.ofNat 12 (bits v (16 * i.val) 16 - 1) else 0#12,
                 idx := Vector.replicate 4 0#12, ended := false }
    else s.trap id cIllegal v
/-- SEN (R156). -/
def execSen (d : Reg) (s : State) : Host.Outcome State Fault Refusal :=
  strandOp s (.sen d) fun id _ => s.setStream id d 4 fun x => { x with en := true }
/-- SDIS (R156). -/
def execSdis (d : Reg) (s : State) : Host.Outcome State Fault Refusal :=
  strandOp s (.sdis d) fun id _ => s.setStream id d 4 fun x => { x with en := false }
/-- SSTAT (R156). -/
def execSstat (d a : Reg) (s : State) : Host.Outcome State Fault Refusal :=
  strandOp s (.sstat d a) fun id c => s.finishG id d c.streams[streamIx a].status 4

end Sys2Proof.Machine
end

