-- ==== Sys2Proof/Machine/Watch.lean ====
section
/-! DEFINITION. Watching the machine: TSTAMP, PCNTR, TRACE, and profiling leases (R442-R450). -/

namespace Sys2Proof.Machine

open Sys2Proof

/-- The clock-event count of the tile, or of the near-memory cluster, where a context executes (R450). -/
def State.clockEventsAt (s : State) (c : Ctx) : Nat :=
  match c.shipped with
  | some n => (s.ctrl (nearCtrl n)).clockEvents
  | none => (s.tile (s.tileOf c)).clockEvents
/-- TSTAMP (R450): it executes where the strand stands. -/
def execTstamp (d : Reg) (sel5 : BitVec 5) (s : State) : Host.Outcome State Fault Refusal :=
  strandOp s (.tstamp d sel5) fun id c =>
    if 1 < sel5.toNat then s.trap id cIllegal (sel5.setWidth 64)
    else s.finishG id d (if sel5 = 0#5 then w64 s.tbase else w64 (s.clockEventsAt c)) 4

/-- What PCNTR reads of a counter: 0 unless its bank is the context's own (R446, R450). -/
def State.counterFor (s : State) (c : Ctx) (n : Nat) : Word :=
  let x := s.tile (s.tileOf c)
  if x.banks.toList.getD (n / 4) none = some (s.partOf c.kid, c.kid) then x.counters.toList.getD n 0#64 else 0#64
/-- PCNTR (R450). -/
def execPcntr (d a : Reg) (s : State) : Host.Outcome State Fault Refusal :=
  strandOp s (.pcntr d a) fun id c =>
    let v := c.getG a
    if 15 < v.toNat then s.trap id cIllegal v else s.finishG id d (s.counterFor c v.toNat) 4

/-- TRACE (R450): the USER record of the running activation. -/
def execTrace (a b : Reg) (s : State) : Host.Outcome State Fault Refusal :=
  strandOp s (.trace a b) fun id c =>
    (s.traceRecord (s.tileOf c) c.kid 3 c.strand.toNat c.homeCore c.item.chan c.workId (w64 (c.homeLt + c.homeCore * 2 ^ 12 + c.eff * 2 ^ 16)) c.item.src c.entryAt c.item.vrt
      (c.getG a) (c.getG b)).advance id 4

/-! ## Profiling leases (R449) -/

/-- PROFILING_LEASE (R449): partition `ev.id` gets the tiles `ev.picks` for `ev.w0` ns; a tile has one holder. -/
def execProfilingLease (s : State) : Host.Outcome State Fault Refusal :=
  let part := s.ev.id
  let till := s.tbase + s.ev.w0.toNat
  let free (t : Nat) : Bool := match (s.tile t).leased with | some (p, e) => decide (p = part) || decide (e ≤ s.tbase) | none => true
  if (s.part part).present ∧ s.ev.picks ≠ [] ∧ s.ev.picks.all fun t => decide (t < 1024) && free t then
    .next (s.ev.picks.foldl (fun s t => s.updTile t fun x => { x with leased := some (part, match x.leased with | some (p, e) => if p = part then Nat.max e till else till | none => till) }) (s.updPart part fun p => { p with leases := p.leases ++ [(s.ev.picks, till)] }))
  else .next s
/-- PROFILING_LEASE_EXPIRY (R449): the set time of partition `ev.id`'s leases has passed on tiles. -/
def execProfilingLeaseExpiry (s : State) : Host.Outcome State Fault Refusal :=
  let passed (x : Tile) : Bool := match x.leased with | some (p, e) => decide (p = s.ev.id) && decide (e ≤ s.tbase) | none => false
  .next { s.updPart s.ev.id fun p => { p with leases := p.leases.filter fun l => decide (s.tbase < l.2) } with tiles := s.tiles.map fun e => if passed e.2 then (e.1, { e.2 with leased := none }) else e }

end Sys2Proof.Machine
end

