-- ==== Sys2Proof/Machine/Families.lean ====
section
/-! DEFINITION. Brings the families of meanings together for `exec`. -/
end

