-- ==== Sys2Proof/Machine/Dispatch.lean ====
section
/-! DEFINITION. `exec`: one arm per constructor of Instr, each a direct call of its meaning. -/

namespace Sys2Proof.Machine

open Sys2Proof

/-- The meaning of one instruction or step. -/
def exec (i : Instr) (s : State) : Host.Outcome State Fault Refusal :=
  match i with
  -- Integer register operations (R107-R112)
  | .add d a b => Sys2Proof.Machine.execAdd d a b s
  | .addL d a lit => Sys2Proof.Machine.execAddL d a lit s
  | .sub d a b => Sys2Proof.Machine.execSub d a b s
  | .subL d a lit => Sys2Proof.Machine.execSubL d a lit s
  | .and d a b => Sys2Proof.Machine.execAnd d a b s
  | .andL d a lit => Sys2Proof.Machine.execAndL d a lit s
  | .or d a b => Sys2Proof.Machine.execOr d a b s
  | .orL d a lit => Sys2Proof.Machine.execOrL d a lit s
  | .xor d a b => Sys2Proof.Machine.execXor d a b s
  | .xorL d a lit => Sys2Proof.Machine.execXorL d a lit s
  | .andn d a b => Sys2Proof.Machine.execAndn d a b s
  | .andnL d a lit => Sys2Proof.Machine.execAndnL d a lit s
  | .orn d a b => Sys2Proof.Machine.execOrn d a b s
  | .ornL d a lit => Sys2Proof.Machine.execOrnL d a lit s
  | .sel d a b => Sys2Proof.Machine.execSel d a b s
  | .selL d a lit => Sys2Proof.Machine.execSelL d a lit s
  | .shl d a b => Sys2Proof.Machine.execShl d a b s
  | .shr d a b => Sys2Proof.Machine.execShr d a b s
  | .sra d a b => Sys2Proof.Machine.execSra d a b s
  | .rotr d a b => Sys2Proof.Machine.execRotr d a b s
  | .mul d a b => Sys2Proof.Machine.execMul d a b s
  | .mulL d a lit => Sys2Proof.Machine.execMulL d a lit s
  | .mulh d a b => Sys2Proof.Machine.execMulh d a b s
  | .mulhL d a lit => Sys2Proof.Machine.execMulhL d a lit s
  | .mulhu d a b => Sys2Proof.Machine.execMulhu d a b s
  | .mulhuL d a lit => Sys2Proof.Machine.execMulhuL d a lit s
  | .div d a b => Sys2Proof.Machine.execDiv d a b s
  | .divL d a lit => Sys2Proof.Machine.execDivL d a lit s
  | .divu d a b => Sys2Proof.Machine.execDivu d a b s
  | .divuL d a lit => Sys2Proof.Machine.execDivuL d a lit s
  | .rem d a b => Sys2Proof.Machine.execRem d a b s
  | .remL d a lit => Sys2Proof.Machine.execRemL d a lit s
  | .remu d a b => Sys2Proof.Machine.execRemu d a b s
  | .remuL d a lit => Sys2Proof.Machine.execRemuL d a lit s
  | .min d a b => Sys2Proof.Machine.execMin d a b s
  | .minL d a lit => Sys2Proof.Machine.execMinL d a lit s
  | .max d a b => Sys2Proof.Machine.execMax d a b s
  | .maxL d a lit => Sys2Proof.Machine.execMaxL d a lit s
  | .minu d a b => Sys2Proof.Machine.execMinu d a b s
  | .minuL d a lit => Sys2Proof.Machine.execMinuL d a lit s
  | .maxu d a b => Sys2Proof.Machine.execMaxu d a b s
  | .maxuL d a lit => Sys2Proof.Machine.execMaxuL d a lit s
  | .slt d a b => Sys2Proof.Machine.execSlt d a b s
  | .sltL d a lit => Sys2Proof.Machine.execSltL d a lit s
  | .sltu d a b => Sys2Proof.Machine.execSltu d a b s
  | .sltuL d a lit => Sys2Proof.Machine.execSltuL d a lit s
  | .seq d a b => Sys2Proof.Machine.execSeq d a b s
  | .seqL d a lit => Sys2Proof.Machine.execSeqL d a lit s
  | .clz d a => Sys2Proof.Machine.execClz d a s
  | .ctz d a => Sys2Proof.Machine.execCtz d a s
  | .popc d a => Sys2Proof.Machine.execPopc d a s
  | .brev d a => Sys2Proof.Machine.execBrev d a s
  | .bswap d a => Sys2Proof.Machine.execBswap d a s
  | .sext d a b => Sys2Proof.Machine.execSext d a b s
  | .zext d a b => Sys2Proof.Machine.execZext d a b s
  | .bfx d a b => Sys2Proof.Machine.execBfx d a b s
  | .bfi d a b => Sys2Proof.Machine.execBfi d a b s
  -- Immediate and address instructions (R113-R115)
  | .addi d a imm14 => Sys2Proof.Machine.execAddi d a imm14 s
  | .addiL d a lit => Sys2Proof.Machine.execAddiL d a lit s
  | .andi d a imm14 => Sys2Proof.Machine.execAndi d a imm14 s
  | .andiL d a lit => Sys2Proof.Machine.execAndiL d a lit s
  | .ori d a imm14 => Sys2Proof.Machine.execOri d a imm14 s
  | .oriL d a lit => Sys2Proof.Machine.execOriL d a lit s
  | .xori d a imm14 => Sys2Proof.Machine.execXori d a imm14 s
  | .xoriL d a lit => Sys2Proof.Machine.execXoriL d a lit s
  | .slti d a imm14 => Sys2Proof.Machine.execSlti d a imm14 s
  | .sltiL d a lit => Sys2Proof.Machine.execSltiL d a lit s
  | .sltiu d a imm14 => Sys2Proof.Machine.execSltiu d a imm14 s
  | .sltiuL d a lit => Sys2Proof.Machine.execSltiuL d a lit s
  | .shli d a imm14 => Sys2Proof.Machine.execShli d a imm14 s
  | .shri d a imm14 => Sys2Proof.Machine.execShri d a imm14 s
  | .srai d a imm14 => Sys2Proof.Machine.execSrai d a imm14 s
  | .lim d imm19 => Sys2Proof.Machine.execLim d imm19 s
  | .limL d lit => Sys2Proof.Machine.execLimL d lit s
  | .addpc d imm19 => Sys2Proof.Machine.execAddpc d imm19 s
  -- Branches, jumps, REP (R116-R120)
  | .beq a b off14 => Sys2Proof.Machine.execBeq a b off14 s
  | .bne a b off14 => Sys2Proof.Machine.execBne a b off14 s
  | .blt a b off14 => Sys2Proof.Machine.execBlt a b off14 s
  | .bge a b off14 => Sys2Proof.Machine.execBge a b off14 s
  | .bltu a b off14 => Sys2Proof.Machine.execBltu a b off14 s
  | .bgeu a b off14 => Sys2Proof.Machine.execBgeu a b off14 s
  | .jal d imm19 => Sys2Proof.Machine.execJal d imm19 s
  | .jalr d a => Sys2Proof.Machine.execJalr d a s
  | .rep a n => Sys2Proof.Machine.execRep a n s
  -- Loads and stores (R121-R129)
  | .ld d a off10 ef sz => Sys2Proof.Machine.execLd d a off10 ef sz s
  | .ldL d a ef sz lit => Sys2Proof.Machine.execLdL d a ef sz lit s
  | .st a b off10 ef sz => Sys2Proof.Machine.execSt a b off10 ef sz s
  | .stL a b ef sz lit => Sys2Proof.Machine.execStL a b ef sz lit s
  | .ldp d a off10 ef sz => Sys2Proof.Machine.execLdp d a off10 ef sz s
  | .ldpL d a ef sz lit => Sys2Proof.Machine.execLdpL d a ef sz lit s
  | .stp a b off10 ef sz => Sys2Proof.Machine.execStp a b off10 ef sz s
  | .stpL a b ef sz lit => Sys2Proof.Machine.execStpL a b ef sz lit s
  | .ldv d a b ef sz => Sys2Proof.Machine.execLdv d a b ef sz s
  | .stv d a b ef sz => Sys2Proof.Machine.execStv d a b ef sz s
  | .stq a b => Sys2Proof.Machine.execStq a b s
  | .prefRd a b => Sys2Proof.Machine.execPrefRd a b s
  | .prefWr a b => Sys2Proof.Machine.execPrefWr a b s
  -- Atomics (R182-R186)
  | .amoadd d a b sz => Sys2Proof.Machine.execAmoadd d a b sz s
  | .amoswap d a b sz => Sys2Proof.Machine.execAmoswap d a b sz s
  | .amoand d a b sz => Sys2Proof.Machine.execAmoand d a b sz s
  | .amoor d a b sz => Sys2Proof.Machine.execAmoor d a b sz s
  | .amoxor d a b sz => Sys2Proof.Machine.execAmoxor d a b sz s
  | .amomin d a b sz => Sys2Proof.Machine.execAmomin d a b sz s
  | .amomax d a b sz => Sys2Proof.Machine.execAmomax d a b sz s
  | .amominu d a b sz => Sys2Proof.Machine.execAmominu d a b sz s
  | .amomaxu d a b sz => Sys2Proof.Machine.execAmomaxu d a b sz s
  | .cas d a b sz => Sys2Proof.Machine.execCas d a b sz s
  | .famoadd d a b rm et => Sys2Proof.Machine.execFamoadd d a b rm et s
  -- Packed floating point (R130-R146)
  | .fadd d a b rm et => Sys2Proof.Machine.execFadd d a b rm et s
  | .fsub d a b rm et => Sys2Proof.Machine.execFsub d a b rm et s
  | .fmul d a b rm et => Sys2Proof.Machine.execFmul d a b rm et s
  | .fdiv d a b rm et => Sys2Proof.Machine.execFdiv d a b rm et s
  | .fma d a b rm et => Sys2Proof.Machine.execFma d a b rm et s
  | .fms d a b rm et => Sys2Proof.Machine.execFms d a b rm et s
  | .fnma d a b rm et => Sys2Proof.Machine.execFnma d a b rm et s
  | .fnms d a b rm et => Sys2Proof.Machine.execFnms d a b rm et s
  | .fsqrt d a rm et => Sys2Proof.Machine.execFsqrt d a rm et s
  | .fsum d a rm et => Sys2Proof.Machine.execFsum d a rm et s
  | .fmin d a b et => Sys2Proof.Machine.execFmin d a b et s
  | .fmax d a b et => Sys2Proof.Machine.execFmax d a b et s
  | .fabs d a et => Sys2Proof.Machine.execFabs d a et s
  | .fneg d a et => Sys2Proof.Machine.execFneg d a et s
  | .fsgnj d a b et => Sys2Proof.Machine.execFsgnj d a b et s
  | .fcmpeq d a b et => Sys2Proof.Machine.execFcmpeq d a b et s
  | .fcmplt d a b et => Sys2Proof.Machine.execFcmplt d a b et s
  | .fcmple d a b et => Sys2Proof.Machine.execFcmple d a b et s
  | .fclass d a et => Sys2Proof.Machine.execFclass d a et s
  | .fmvFF d a => Sys2Proof.Machine.execFmvFF d a s
  | .fmvFG d a => Sys2Proof.Machine.execFmvFG d a s
  | .fmvGF d a => Sys2Proof.Machine.execFmvGF d a s
  | .fpack d a b dst et => Sys2Proof.Machine.execFpack d a b dst et s
  | .funpk d a hi dst et => Sys2Proof.Machine.execFunpk d a hi dst et s
  | .fshuf d a b et => Sys2Proof.Machine.execFshuf d a b et s
  | .fcvt d a sat rm dst et => Sys2Proof.Machine.execFcvt d a sat rm dst et s
  | .fcvti d a sat rm idst et => Sys2Proof.Machine.execFcvti d a sat rm idst et s
  | .fcvtf d a sat rm dst isrc => Sys2Proof.Machine.execFcvtf d a sat rm dst isrc s
  | .faddImm d et imm16 => Sys2Proof.Machine.execFaddImm d et imm16 s
  | .fmulImm d et imm16 => Sys2Proof.Machine.execFmulImm d et imm16 s
  | .fmvImm d et imm16 => Sys2Proof.Machine.execFmvImm d et imm16 s
  -- Special-function unit (R147-R150)
  | .fexp2 d a rm => Sys2Proof.Machine.execFexp2 d a rm s
  | .flog2 d a rm => Sys2Proof.Machine.execFlog2 d a rm s
  | .frcp d a rm => Sys2Proof.Machine.execFrcp d a rm s
  | .frsq d a rm => Sys2Proof.Machine.execFrsq d a rm s
  | .fsin d a rm => Sys2Proof.Machine.execFsin d a rm s
  | .fcos d a rm => Sys2Proof.Machine.execFcos d a rm s
  | .ftanh d a rm => Sys2Proof.Machine.execFtanh d a rm s
  | .flgst d a rm => Sys2Proof.Machine.execFlgst d a rm s
  -- Streams (R151-R157)
  | .scfg d a b dir ndim imm32 => Sys2Proof.Machine.execScfg d a b dir ndim imm32 s
  | .sdim d a => Sys2Proof.Machine.execSdim d a s
  | .sen d => Sys2Proof.Machine.execSen d s
  | .sdis d => Sys2Proof.Machine.execSdis d s
  | .sstat d a => Sys2Proof.Machine.execSstat d a s
  -- Queue registers (R249-R256)
  | .qget d q => Sys2Proof.Machine.execQget d q s
  | .qput q b => Sys2Proof.Machine.execQput q b s
  | .qpeek d q => Sys2Proof.Machine.execQpeek d q s
  | .qtry d q => Sys2Proof.Machine.execQtry d q s
  | .qtput d q b => Sys2Proof.Machine.execQtput d q b s
  | .qcfg d q b => Sys2Proof.Machine.execQcfg d q b s
  | .qstat d q => Sys2Proof.Machine.execQstat d q s
  -- Messages and warp (R288-R314)
  | .send d a b => Sys2Proof.Machine.execSend d a b s
  | .sendt d a b c imm32 => Sys2Proof.Machine.execSendt d a b c imm32 s
  | .keep d a b => Sys2Proof.Machine.execKeep d a b s
  | .unkeep a => Sys2Proof.Machine.execUnkeep a s
  | .gvtr d a => Sys2Proof.Machine.execGvtr d a s
  | .anti d a => Sys2Proof.Machine.execAnti d a s
  -- Kernel (R270-R285)
  | .launch d a b => Sys2Proof.Machine.execLaunch d a b s
  | .wid d a n => Sys2Proof.Machine.execWid d a n s
  | .kstat d a => Sys2Proof.Machine.execKstat d a s
  | .kend d a => Sys2Proof.Machine.execKend d a s
  -- Codelets and tasks (R257-R267)
  | .clnew d a b => Sys2Proof.Machine.execClnew d a b s
  | .clpub a b => Sys2Proof.Machine.execClpub a b s
  | .cldec a => Sys2Proof.Machine.execCldec a s
  | .spawn a => Sys2Proof.Machine.execSpawn a s
  | .callat d a b => Sys2Proof.Machine.execCallat d a b s
  | .retv a => Sys2Proof.Machine.execRetv a s
  -- Channel binding and dispatch (R242-R248, R279)
  | .bind d a b => Sys2Proof.Machine.execBind d a b s
  | .chpri a b => Sys2Proof.Machine.execChpri a b s
  | .chmask d a => Sys2Proof.Machine.execChmask d a s
  -- Chains (R341-R361)
  | .chain d a b => Sys2Proof.Machine.execChain d a b s
  | .recoil d a => Sys2Proof.Machine.execRecoil d a s
  | .uncoil d a => Sys2Proof.Machine.execUncoil d a s
  | .cform d a => Sys2Proof.Machine.execCform d a s
  -- Puts, remote loads, copies (R187, R196-R198, R205-R211)
  | .put a b sz => Sys2Proof.Machine.execPut a b sz s
  | .putL a sz lit => Sys2Proof.Machine.execPutL a sz lit s
  | .putv d a b sz => Sys2Proof.Machine.execPutv d a b sz s
  | .rld d a sz => Sys2Proof.Machine.execRld d a sz s
  | .radd a b sz => Sys2Proof.Machine.execRadd a b sz s
  | .raddL a sz lit => Sys2Proof.Machine.execRaddL a sz lit s
  | .cpy d a => Sys2Proof.Machine.execCpy d a s
  | .cpys d a imm32 => Sys2Proof.Machine.execCpys d a imm32 s
  | .cpyg d a imm32 => Sys2Proof.Machine.execCpyg d a imm32 s
  | .cpyx d a imm32 => Sys2Proof.Machine.execCpyx d a imm32 s
  | .cpyq d a => Sys2Proof.Machine.execCpyq d a s
  | .cpyc d a => Sys2Proof.Machine.execCpyc d a s
  -- Retention, cache maintenance, windows (R192-R204)
  | .pin d a b => Sys2Proof.Machine.execPin d a b s
  | .unpin a => Sys2Proof.Machine.execUnpin a s
  | .flsh a b => Sys2Proof.Machine.execFlsh a b s
  | .invl a b => Sys2Proof.Machine.execInvl a b s
  | .winset a b win imm32 => Sys2Proof.Machine.execWinset a b win imm32 s
  -- Matrix unit (R213-R241)
  | .mxstat d clr => Sys2Proof.Machine.execMxstat d clr s
  | .mxgang d a dis cm1 rm1 imm32 => Sys2Proof.Machine.execMxgang d a dis cm1 rm1 imm32 s
  -- Groups and collectives (R376-R390)
  | .gjoin d a b => Sys2Proof.Machine.execGjoin d a b s
  | .gleave d a => Sys2Proof.Machine.execGleave d a s
  | .ggen d a => Sys2Proof.Machine.execGgen d a s
  | .cstat d a => Sys2Proof.Machine.execCstat d a s
  | .cred d a b rm mode dt => Sys2Proof.Machine.execCred d a b rm mode dt s
  | .credmin d a b rm mode dt => Sys2Proof.Machine.execCredmin d a b rm mode dt s
  | .credmax d a b rm mode dt => Sys2Proof.Machine.execCredmax d a b rm mode dt s
  | .credand d a b rm mode dt => Sys2Proof.Machine.execCredand d a b rm mode dt s
  | .credor d a b rm mode dt => Sys2Proof.Machine.execCredor d a b rm mode dt s
  | .cbcst d a b rm dt => Sys2Proof.Machine.execCbcst d a b rm dt s
  | .cagth d a b rm dt => Sys2Proof.Machine.execCagth d a b rm dt s
  | .crsct d a b rm mode dt => Sys2Proof.Machine.execCrsct d a b rm mode dt s
  -- Barriers and waits (R391-R403, R212)
  | .binit d a b lo n1 => Sys2Proof.Machine.execBinit d a b lo n1 s
  | .barv d a => Sys2Proof.Machine.execBarv d a s
  | .bwait d a b => Sys2Proof.Machine.execBwait d a b s
  | .btest d a b => Sys2Proof.Machine.execBtest d a b s
  | .bcnt a b => Sys2Proof.Machine.execBcnt a b s
  | .bwdraw d a => Sys2Proof.Machine.execBwdraw d a s
  | .waita a b => Sys2Proof.Machine.execWaita a b s
  -- Territory (R316-R339)
  | .tshape d a => Sys2Proof.Machine.execTshape d a s
  | .tupc d a => Sys2Proof.Machine.execTupc d a s
  | .tpress d a => Sys2Proof.Machine.execTpress d a s
  | .tmap d a => Sys2Proof.Machine.execTmap d a s
  | .tpin d a b => Sys2Proof.Machine.execTpin d a b s
  -- Fences and pages (R188-R190, R362-R375)
  | .cfence px py => Sys2Proof.Machine.execCfence px py s
  | .tlbi a b => Sys2Proof.Machine.execTlbi a b s
  | .pmig d a b => Sys2Proof.Machine.execPmig d a b s
  | .pdirty d a => Sys2Proof.Machine.execPdirty d a s
  | .pship a => Sys2Proof.Machine.execPship a s
  | .phome d a => Sys2Proof.Machine.execPhome d a s
  -- System, traps, contexts (R404-R426)
  | .trap d a => Sys2Proof.Machine.execTrap d a s
  | .eret d a b => Sys2Proof.Machine.execEret d a b s
  | .crr d cr => Sys2Proof.Machine.execCrr d cr s
  | .crw d a cr => Sys2Proof.Machine.execCrw d a cr s
  | .crs d a cr => Sys2Proof.Machine.execCrs d a cr s
  | .crc d a cr => Sys2Proof.Machine.execCrc d a cr s
  | .brk n => Sys2Proof.Machine.execBrk n s
  | .mark d a => Sys2Proof.Machine.execMark d a s
  | .swset d a imm32 => Sys2Proof.Machine.execSwset d a imm32 s
  | .hint hlen hraw => Sys2Proof.Machine.execHint hlen hraw s
  -- Link (R430-R441)
  -- Watch (R442-R450)
  | .tstamp d sel5 => Sys2Proof.Machine.execTstamp d sel5 s
  | .pcntr d a => Sys2Proof.Machine.execPcntr d a s
  | .trace a b => Sys2Proof.Machine.execTrace a b s
  -- Clocks (R165-R168, R444, R460)
  -- Bring-up and firmware (R451-R458, R4)
  -- Instructions without operand fields (their rules are in the sections above)
  | .done => Sys2Proof.Machine.execDone s
  | .irrev => Sys2Proof.Machine.execIrrev s
  | .eqpt => Sys2Proof.Machine.execEqpt s
  | .mxswap => Sys2Proof.Machine.execMxswap s
  | .mxwait => Sys2Proof.Machine.execMxwait s
  | .mxrst => Sys2Proof.Machine.execMxrst s
  | .fence => Sys2Proof.Machine.execFence s
  | .pfence => Sys2Proof.Machine.execPfence s
  | .halt => Sys2Proof.Machine.execHalt s
  -- Steps without a word: Special-function unit (R147-R150)
  | .sfuResult => Sys2Proof.Machine.execSfuResult s
  -- Steps without a word: Queue registers (R249-R256)
  | .queueWordArrival => Sys2Proof.Machine.execQueueWordArrival s
  -- Steps without a word: Messages and warp (R288-R314)
  | .messageArrival => Sys2Proof.Machine.execMessageArrival s
  | .antimessageArrival => Sys2Proof.Machine.execAntimessageArrival s
  | .callArrival => Sys2Proof.Machine.execCallArrival s
  | .returnArrival => Sys2Proof.Machine.execReturnArrival s
  | .gvtDelivery => Sys2Proof.Machine.execGvtDelivery s
  -- Steps without a word: Kernel (R270-R285)
  | .firmwareLaunch => Sys2Proof.Machine.execFirmwareLaunch s
  | .sweep => Sys2Proof.Machine.execSweep s
  | .kernelStopComplete => Sys2Proof.Machine.execKernelStopComplete s
  -- Steps without a word: Codelets and tasks (R257-R267)
  | .stealAttempt => Sys2Proof.Machine.execStealAttempt s
  | .codeletUpdate => Sys2Proof.Machine.execCodeletUpdate s
  -- Steps without a word: Channel binding and dispatch (R242-R248, R279)
  | .dispatch => Sys2Proof.Machine.execDispatch s
  | .priorityPromotion => Sys2Proof.Machine.execPriorityPromotion s
  | .sliceExpiry => Sys2Proof.Machine.execSliceExpiry s
  | .bindRecordWrite => Sys2Proof.Machine.execBindRecordWrite s
  -- Steps without a word: Chains (R341-R361)
  | .chainSwitch => Sys2Proof.Machine.execChainSwitch s
  -- Steps without a word: Puts, remote loads, copies (R187, R196-R198, R205-R211)
  | .copyComplete => Sys2Proof.Machine.execCopyComplete s
  | .copyError => Sys2Proof.Machine.execCopyError s
  | .remoteAccessArrival => Sys2Proof.Machine.execRemoteAccessArrival s
  | .putAcknowledgement => Sys2Proof.Machine.execPutAcknowledgement s
  | .negativeAcknowledgement => Sys2Proof.Machine.execNegativeAcknowledgement s
  | .rldReturn => Sys2Proof.Machine.execRldReturn s
  -- Steps without a word: Matrix unit (R213-R241)
  | .mnop => Sys2Proof.Machine.execMnop s
  | .mma => Sys2Proof.Machine.execMma s
  | .mmas => Sys2Proof.Machine.execMmas s
  | .mzero => Sys2Proof.Machine.execMzero s
  | .mldb => Sys2Proof.Machine.execMldb s
  | .mstb => Sys2Proof.Machine.execMstb s
  | .mpack => Sys2Proof.Machine.execMpack s
  | .munpk => Sys2Proof.Machine.execMunpk s
  | .msig => Sys2Proof.Machine.execMsig s
  | .mbar => Sys2Proof.Machine.execMbar s
  | .formatWindowFill => Sys2Proof.Machine.execFormatWindowFill s
  | .formatWindowCtlWrite => Sys2Proof.Machine.execFormatWindowCtlWrite s
  -- Steps without a word: Groups and collectives (R376-R390)
  | .collectiveComplete => Sys2Proof.Machine.execCollectiveComplete s
  | .groupTimeout => Sys2Proof.Machine.execGroupTimeout s
  | .memberWithdrawal => Sys2Proof.Machine.execMemberWithdrawal s
  -- Steps without a word: Territory (R316-R339)
  | .novenaLatch => Sys2Proof.Machine.execNovenaLatch s
  | .borderProposal => Sys2Proof.Machine.execBorderProposal s
  | .borderGrant => Sys2Proof.Machine.execBorderGrant s
  | .proposalDrop => Sys2Proof.Machine.execProposalDrop s
  | .cedeComplete => Sys2Proof.Machine.execCedeComplete s
  | .treeParentChange => Sys2Proof.Machine.execTreeParentChange s
  | .levellingCheck => Sys2Proof.Machine.execLevellingCheck s
  | .levellingMoveComplete => Sys2Proof.Machine.execLevellingMoveComplete s
  | .forcedCede => Sys2Proof.Machine.execForcedCede s
  | .correctedError => Sys2Proof.Machine.execCorrectedError s
  | .tileReturnAfterRepair => Sys2Proof.Machine.execTileReturnAfterRepair s
  -- Steps without a word: Fences and pages (R188-R190, R362-R375)
  | .shipArrival => Sys2Proof.Machine.execShipArrival s
  | .shipBackCount => Sys2Proof.Machine.execShipBackCount s
  | .pageRequestFlush => Sys2Proof.Machine.execPageRequestFlush s
  | .migrationComplete => Sys2Proof.Machine.execMigrationComplete s
  | .migrationAbandon => Sys2Proof.Machine.execMigrationAbandon s
  | .pageTableEntryWrite => Sys2Proof.Machine.execPageTableEntryWrite s
  -- Steps without a word: System, traps, contexts (R404-R426)
  | .illegalWord => Sys2Proof.Machine.execIllegalWord s
  | .parkResume => Sys2Proof.Machine.execParkResume s
  | .teamSpill => Sys2Proof.Machine.execTeamSpill s
  | .teamResume => Sys2Proof.Machine.execTeamResume s
  | .gangStop => Sys2Proof.Machine.execGangStop s
  | .stopRelease => Sys2Proof.Machine.execStopRelease s
  | .debugStop => Sys2Proof.Machine.execDebugStop s
  | .debugStep => Sys2Proof.Machine.execDebugStep s
  | .debugDrain => Sys2Proof.Machine.execDebugDrain s
  | .gangSwitchSet => Sys2Proof.Machine.execGangSwitchSet s
  | .gangSwitchWithdraw => Sys2Proof.Machine.execGangSwitchWithdraw s
  | .gangSwitch => Sys2Proof.Machine.execGangSwitch s
  | .saveComplete => Sys2Proof.Machine.execSaveComplete s
  | .gangResume => Sys2Proof.Machine.execGangResume s
  | .partitionFreeze => Sys2Proof.Machine.execPartitionFreeze s
  | .partitionPowerCycle => Sys2Proof.Machine.execPartitionPowerCycle s
  | .cutStart => Sys2Proof.Machine.execCutStart s
  | .cutRecord => Sys2Proof.Machine.execCutRecord s
  | .kernelRestore => Sys2Proof.Machine.execKernelRestore s
  -- Steps without a word: Link (R430-R441)
  | .flitRouting => Sys2Proof.Machine.execFlitRouting s
  | .flitAcceptance => Sys2Proof.Machine.execFlitAcceptance s
  | .mapHint => Sys2Proof.Machine.execMapHint s
  | .mapUpdate => Sys2Proof.Machine.execMapUpdate s
  | .retransmit => Sys2Proof.Machine.execRetransmit s
  | .routerReset => Sys2Proof.Machine.execRouterReset s
  | .beatReceive => Sys2Proof.Machine.execBeatReceive s
  | .beatRefusal => Sys2Proof.Machine.execBeatRefusal s
  | .portEnable => Sys2Proof.Machine.execPortEnable s
  | .laneTrainingDone => Sys2Proof.Machine.execLaneTrainingDone s
  | .trainingTimeout => Sys2Proof.Machine.execTrainingTimeout s
  | .replayStorm => Sys2Proof.Machine.execReplayStorm s
  | .laneLost => Sys2Proof.Machine.execLaneLost s
  | .portDisable => Sys2Proof.Machine.execPortDisable s
  | .d2dModuleFailure => Sys2Proof.Machine.execD2dModuleFailure s
  | .cxlMemRead => Sys2Proof.Machine.execCxlMemRead s
  | .cxlMemWrite => Sys2Proof.Machine.execCxlMemWrite s
  -- Steps without a word: Watch (R442-R450)
  | .profilingLease => Sys2Proof.Machine.execProfilingLease s
  | .profilingLeaseExpiry => Sys2Proof.Machine.execProfilingLeaseExpiry s
  -- Steps without a word: Clocks (R165-R168, R444, R460)
  | .logicalClockTick => Sys2Proof.Machine.execLogicalClockTick s
  | .homeTimeRaise => Sys2Proof.Machine.execHomeTimeRaise s
  | .coreClockStop => Sys2Proof.Machine.execCoreClockStop s
  | .coreClockRestart => Sys2Proof.Machine.execCoreClockRestart s
  | .dieClockStep => Sys2Proof.Machine.execDieClockStep s
  -- Steps without a word: Bring-up and firmware (R451-R458, R4)
  | .boot => Sys2Proof.Machine.execBoot s
  | .attestationRequest => Sys2Proof.Machine.execAttestationRequest s
  | .residentKernelRequest => Sys2Proof.Machine.execResidentKernelRequest s
  | .registerWrite => Sys2Proof.Machine.execRegisterWrite s

end Sys2Proof.Machine
end

