-- ==== Sys2Proof/Machine/Issue.lean ====
section
/-! DEFINITION. How the module moves: issuing an instruction, the MU's sequencer, the schedule's turns, and the placed instruction of `withFetchWord`; `step` calls what stands here (notes/assumptions/1.md, 2.md, 8.md). -/

namespace Sys2Proof.Machine

open Sys2Proof

/-- The context may issue: it is READY, and no state of R102 lies over it but a debug step. -/
def Ctx.canIssue (c : Ctx) : Bool :=
  decide (c.run = .ready) && !c.spilled && !c.shipWait && (!c.stopped || c.stepping) && !c.switched && !c.halted

/-- Time passes: TBASE rises, and over it each tile's count of queued tasks is summed and the searches of its free strand slots go on (R18, R319, R448). -/
def State.passTime (s : State) (dt : Nat) : State :=
  let s1 : State := { s.search dt with tbase := s.tbase + dt }
  (s.lcores.filter fun e => e.2.ring ≠ []).foldl (fun s e => s.updTile (s.ltile (e.1 / 8)).tile fun x => { x with ringNs := x.ringNs + dt * e.2.ring.length }) s1

/-- The context exists and may issue: its gang runs, or a stop's step releases it (R412, R413); its core's clock runs (R166); and 4,096 instructions
without an access have not sent it home (R368). -/
def State.issues (s : State) (id : Nat) : Bool :=
  match s.ctx? id with
  | some c => c.canIssue && !(s.clock (s.coreNo c)).stopped && !(c.shipped.isSome && decide (4096 ≤ c.awayCount)) && (s.kernelRuns c.kid || (c.stepping && s.kernelStopped c.kid))
  | none => false

/-- A constructor that a strand executes; the others are steps of the module. -/
def isStrandInstr (i : Instr) : Bool := encode i ≠ []

/-- After a step, the strand that issued stays the current one only while it may issue (R102). -/
def State.settle (s : State) : State :=
  match s.cur with
  | none => s
  | some id => if s.issues id then s else { s with cur := none }

/-- Counts the issue and the instruction that has completed (R446). -/
def State.countIssue (s0 s : State) (id : Nat) : State :=
  let c := s0.ctxD id
  let t := s0.tileOf c
  let s1 := s.count t c.kid 1 1
  if c.instrs < (s.ctxD id).instrs then s1.count t c.kid 2 1 else s1

/-- Counts the instructions that a step of the module has completed for parked strands (R446). -/
def State.countSteps (s0 s : State) : State :=
  s0.ctxs.foldl (fun s e => match s.ctx? e.1 with
    | some c => if e.2.instrs < c.instrs then s.count (s.tileOf c) c.kid 2 (c.instrs - e.2.instrs) else s
    | none => s) s

/-- The next state of an outcome, changed; a stop stays as it is. -/
def onNext (o : Host.Outcome State Fault Refusal) (f : State → State) : Host.Outcome State Fault Refusal :=
  match o with
  | .next s => .next (f s)
  | .fault r => .fault r
  | .refused r => .refused r

/-- A decoded instruction, or an illegal word (R65), is executed. -/
def runWords (s : State) (ws : Words) : Host.Outcome State Fault Refusal :=
  match decode ws with
  | .ok i => exec i s
  | .error _ => exec .illegalWord { s with ev := { s.ev with w0 := ws.w0.setWidth 64 } }

/-- The context `id` issues: its held instruction, or the one at its PC (R102). -/
def issue (s : State) (id : Nat) : Host.Outcome State Fault Refusal :=
  let s1 := { s.upd id fun c => { c with run := .running } with cur := some id }
  match (s1.ctxD id).held with
  | some h => exec h.instr s1
  | none => s1.fetch .next id runWords

/-- The strand's turn: it issues if it may. `err` says that the data its instruction reads holds an uncorrectable error, `fetchErr` that this word of the
instruction does (R46, R126). -/
def strandTurn (s : State) (id : Nat) (err : Bool) (fetchErr : Option Nat) : Host.Outcome State Fault Refusal :=
  if s.issues id then onNext (issue { s with ev := { flag := err, fetchErr := fetchErr } } id) fun s1 => (State.countIssue s s1 id).settle
  else .next s.settle

/-- The command that the sequencer of a logical core's MU runs next (R217). -/
def unitCommand (s : State) (lc : Nat) : Option Instr :=
  match (s.lcore lc).mu.queue with
  | [] => none
  | r :: _ =>
    match bits r.w0 0 4 with
    | 0 => some .mnop
    | 1 => some .mma
    | 2 => some .mmas
    | 3 => some .mzero
    | 4 => some .mldb
    | 5 => some .mstb
    | 6 => some .mpack
    | 7 => some .munpk
    | 8 => some .msig
    | _ => some .mbar

/-- A step of a machine agent leaves the current strand as it was, if it may still issue. -/
def agentTurn (s : State) (i : Instr) : Host.Outcome State Fault Refusal := onNext (exec i s) fun s1 => (State.countSteps s s1).settle

/-- What moves on a turn of the schedule. -/
def takeTurn (s1 : State) (who : Agent) : Host.Outcome State Fault Refusal :=
  match who with
  | .strand id err fetchErr => strandTurn s1 id err fetchErr
  | .unit lc err =>
    match unitCommand s1 lc with
    | some i => agentTurn { s1 with ev := { id := lc, flag := err } } i
    | none => .next s1.settle
  | .event i args => if isStrandInstr i then .next s1.settle else agentTurn { s1 with ev := args } i

/-- The head of the schedule moves, or the current strand issues its next instruction, or time passes. -/
def State.move (s : State) : Host.Outcome State Fault Refusal :=
  match s.sched with
  | [] =>
    match s.cur with
    | some id => strandTurn (s.passTime 1) id false none
    | none => .next (s.passTime 1)
  | t :: r => takeTurn ({ s with sched := r }.passTime t.dt) t.who

/-! ## Where an instruction is fetched from (notes/assumptions/8.md) -/

/-- The virtual address of the placed instruction, and the physical page that holds it. -/
def fetchVa : Nat := 0x100000000
def fetchPa : Nat := 0x40000000
def tablePa : Nat := 0x10000000

/-- A kernel of one logical tile with one READY strand, whose page tables map `fetchVa` to `fetchPa`: what a launch by
firmware and a dispatch leave. -/
def State.withStrand (s : State) : State :=
  let g0 := memStore s.glob tablePa 8 (tablePa + 0x1000 + 0x80)                       -- level 4: next table
  let g1 := memStore g0 (tablePa + 0x1000) 8 (tablePa + 0x2000 + 0x80)               -- level 3: next table
  let g2 := memStore g1 (tablePa + 0x2000 + 8 * 4) 8 (fetchPa + 0xC3)                 -- level 2: a 1 GiB leaf, V LEAF W X
  let k : Kernel := { part := 0, state := .running, tiles := 1, s := 65536, widths := #v[64, 0, 0, 0, 0, 0], entries := Vector.replicate 16 (w64 fetchVa) }
  let b : BindRec := { kid := 0, j := 0, lt := 0, valid := true, strands := 0xFFFFFFFF#32 }
  let c : Ctx := { id := s.nextId, kid := 0, lt := 0, core := 0, pc := w64 fetchVa, g := (Vector.replicate 32 0#64).set 2 (w64 65536) }
  { s with glob := g2, nextId := s.nextId + 1, cur := some s.nextId, sched := [],
           ctxs := mset s.nextId c s.ctxs, kernels := mset 0 k s.kernels,
           ltiles := mset (ltKey 0 0) { tile := 0, j := 0 } s.ltiles,
           tiles := mset 0 { s.tile 0 with owner := 0#6, ts := .member, anchor := true, binds := (s.tile 0).binds.set 0 b } s.tiles,
           parts := mset 0 { s.part 0 with present := true, root := tablePa, quota := 1024 } s.parts }

/-- Writes the bytes of an instruction where the context's PC is mapped. -/
def State.putCode (s : State) (part va : Nat) : List Byte → State
  | [] => s
  | b :: t =>
    match s.walk part va with
    | .leaf x _ _ _ => ({ s with glob := memSet s.glob (x.frame + va % 65536) b }).putCode part (va + 1) t
    | _ => s

/-- The state with an instruction stored where `step` fetches next; a state with no current strand gets one. -/
def State.placeInstr (s : State) (nbits w : Nat) : State :=
  let s1 := match s.cur with
    | some id => if s.issues id then s else s.withStrand
    | none => s.withStrand
  let id := s1.cur.getD 0
  let s2 := { s1.upd id fun c => { c with held := none, oldWords := [] } with sched := [], copies := [], rdcs := [], tlbs := [] }
  s2.putCode (s2.partOf (s2.ctxD id).kid) (s2.ctxD id).pc.toNat (tableBytes nbits w)

end Sys2Proof.Machine
end

