-- ==== Sys2Proof/Machine/Step.lean ====
section
/-! DEFINITION. One step of the module: the head of the schedule moves, or the current strand issues its next instruction, or time passes (notes/assumptions/1.md, 2.md); and where `step` fetches. -/

namespace Sys2Proof.Machine

open Sys2Proof

/-- One step of the module, after which partition memory holds what the module keeps there (R457). -/
def step (s : State) : Host.Outcome State Fault Refusal := onNext s.move State.writeBack

/-- The state with an instruction stored where `step` fetches next (notes/assumptions/8.md). -/
def State.withFetchWord (s : State) (nbits w : Nat) : State := s.placeInstr nbits w

end Sys2Proof.Machine
end

