-- ==== Sys2Proof/Safety.lean ====
section
/-! DEFINITION. What a safe run is: every step answers a next state, and the state keeps the forms that the model relies on. -/

namespace Sys2Proof.Safety

open Sys2Proof Sys2Proof.Machine

/-- The scratchpads that a cut has recorded have the canonical form (R421). -/
def cutWf (ct : Option Cut) : Bool := ct.all fun x => x.shard.lts.all fun e => Memory.wf e.2.scratch
/-- Every memory of the state has its canonical form: global memory as the L2 and as the DRAM have it, the scratchpads, and those that cuts have recorded. -/
def memoriesWf (s : State) : Bool :=
  Memory.wf s.glob && Memory.wf s.dram && (s.ltiles.all fun e => Memory.wf e.2.scratch) && s.kernels.all fun e => cutWf e.2.cut && cutWf e.2.lastCut

/-- The current strand, if there is one, exists and may issue (R102). -/
def curIssues (s : State) : Bool :=
  match s.cur with
  | none => true
  | some id => s.issues id

/-- A state that a run from `s` reaches. -/
inductive Reaches : State → State → Prop where
  | refl (s : State) : Reaches s s
  | next {s t u : State} (h : Reaches s t) (h' : step t = .next u) : Reaches s u

/-- A run is safe when no step of it ends in a fault or a refusal. -/
def Safe (s : State) : Prop := ∀ t, Reaches s t → ∃ u, step t = .next u

end Sys2Proof.Safety
end

