-- ==== Sys2Proof/Certificates/Slice0/Obligations.lean ====
section
/-! DEFINITION. The statements for the provers, from the numbered rules of the spec. -/

open Sys2Proof Sys2Proof.Machine

/-! ## Words that the statements share -/

namespace Sys2Proof.Stated

/-- Strand `id`, whose context is `c`, issues `i`, and nothing stands before the effect of `i`: no rule of a chain stage refuses it (R344), it
need not go home from a near-memory core first (R101, R368), none of its registers is pending (R197, R261), and an instruction of the supervisor's
runs on its core (R408, R420). -/
@[reducible] def Runs (s : State) (id : Nat) (c : Ctx) (i : Instr) : Prop :=
  s.cur = some id ∧ s.ctx? id = some c ∧ (c.stage.isSome = true → stageRefusal i = none) ∧
    (c.shipped.isSome = true → homeFirst i = false) ∧ c.pendingOf i = none ∧ (supervisorOnly i = true → s.isSupervisor c = true)

/-- The register form of an integer operation: its word, and that it writes `f` of the old gD, gA and gB to gD. -/
def RegForm (mk : Reg → Reg → Reg → Instr) (fn : BitVec 9) (f : Word → Word → Word → Word) : Prop :=
  ∀ d a b : Reg, encode (mk d a b) = [mkR fn b a d 0x01#6 0#2] ∧
    ∀ s id c, Runs s id c (mk d a b) → exec (mk d a b) s = .next (s.finishG id d (f (c.getG d) (c.getG a) (c.getG b)) 4)

/-- The same with the literal in place of gB. -/
def LitForm (mk : Reg → Reg → Word → Instr) (fn : BitVec 9) (f : Word → Word → Word → Word) : Prop :=
  ∀ (d a : Reg) (lit : Word), encode (mk d a lit) = litWords (mkR fn 0#5 a d 0x01#6 1#2) lit ∧
    ∀ s id c, Runs s id c (mk d a lit) → exec (mk d a lit) s = .next (s.finishG id d (f (c.getG d) (c.getG a) lit) 12)

/-- A one-operand form. -/
def OneForm (mk : Reg → Reg → Instr) (fn : BitVec 9) (p : Word → Word → Prop) : Prop :=
  ∀ d a : Reg, encode (mk d a) = [mkR fn 0#5 a d 0x01#6 0#2] ∧
    ∀ s id c, Runs s id c (mk d a) → ∃ v, p (c.getG a) v ∧ exec (mk d a) s = .next (s.finishG id d v 4)

/-- An immediate form. -/
def ImmForm (mk : Reg → Reg → BitVec 14 → Instr) (op : BitVec 6) (f : Word → BitVec 14 → Word) : Prop :=
  ∀ (d a : Reg) (n : BitVec 14), encode (mk d a n) = [mkI n a d op 0#2] ∧
    ∀ s id c, Runs s id c (mk d a n) → exec (mk d a n) s = .next (s.finishG id d (f (c.getG a) n) 4)

/-- An immediate instruction's literal form. -/
def ImmLit (mk : Reg → Reg → Word → Instr) (op : BitVec 6) (f : Word → Word → Word) : Prop :=
  ∀ (d a : Reg) (lit : Word), encode (mk d a lit) = litWords (mkI 0#14 a d op 1#2) lit ∧
    ∀ s id c, Runs s id c (mk d a lit) → exec (mk d a lit) s = .next (s.finishG id d (f (c.getG a) lit) 12)

/-- A conditional branch: its word, and where it goes. -/
def BranchForm (mk : Reg → Reg → BitVec 14 → Instr) (op : BitVec 6) (p : Word → Word → Bool) : Prop :=
  ∀ (a b : Reg) (n : BitVec 14), encode (mk a b n) = [mkS n b a op 0#2] ∧
    ∀ s id c, Runs s id c (mk a b n) →
      exec (mk a b n) s = .next (s.retire id (c.pc + if p (c.getG a) (c.getG b) then 4#64 * n.signExtend 64 else 4#64))

/-- A width or length field of six bits, 0 meaning 64 (R112). -/
def fieldLen (w : Word) (lo : Nat) : Nat := if w.toNat / 2 ^ lo % 64 = 0 then 64 else w.toNat / 2 ^ lo % 64

end Sys2Proof.Stated

/-! ## Registers, integers, control flow -/

/-- R56, R95, R120: an instruction that writes gD and completes gives the strand's context gD's new value (g0 stays 0), leaves its other
registers, its control registers and its streams, moves the PC past the instruction or, with REP state set, as REP says of a next PC at the end of the body,
within it and outside it; the strand is READY with no instruction held, and nothing else of the module changes. -/
def Obligations.GeneralWriteFrame : Prop :=
  ∀ (s : State) (id : Nat) (c : Ctx) (d : Reg) (v : Word) (len : Nat), s.ctx? id = some c →
    ∃ c', s.finishG id d v len = { s with ctxs := mset id c' s.ctxs } ∧ (s.finishG id d v len).ctx? id = some c' ∧
      (∀ j, j ≠ id → (s.finishG id d v len).ctx? j = s.ctx? j) ∧
      c'.getG d = (if d = 0#5 then 0#64 else v) ∧ c'.getG 0#5 = 0#64 ∧ (∀ r, r ≠ d → c'.getG r = c.getG r) ∧
      c'.f = c.f ∧ c'.q = c.q ∧ c'.streams = c.streams ∧ c'.frm = c.frm ∧ c'.fflags = c.fflags ∧ c'.fen = c.fen ∧ c'.fsup = c.fsup ∧
      c'.waitlim = c.waitlim ∧ c'.epc = c.epc ∧ c'.ecause = c.ecause ∧ c'.einfo = c.einfo ∧ c'.scratchReg = c.scratchReg ∧
      c'.item = c.item ∧ c'.pend = c.pend ∧ c'.stamp = c.stamp ∧ c'.oldWords = c.oldWords ∧
      (c.rep = none → c'.pc = c.pc + BitVec.ofNat 64 len ∧ c'.rep = none) ∧
      (∀ r, c.rep = some r → c.pc + BitVec.ofNat 64 len = r.stop → 1 < r.count.toNat →
        c'.pc = r.start ∧ c'.rep = some { r with count := r.count - 1#64 }) ∧
      (∀ r, c.rep = some r → c.pc + BitVec.ofNat 64 len = r.stop → r.count.toNat ≤ 1 → c'.pc = r.stop ∧ c'.rep = none) ∧
      (∀ r, c.rep = some r → r.start.toNat ≤ (c.pc + BitVec.ofNat 64 len).toNat → (c.pc + BitVec.ofNat 64 len).toNat < r.stop.toNat →
        c'.pc = c.pc + BitVec.ofNat 64 len ∧ c'.rep = some r) ∧
      (∀ r, c.rep = some r → ((c.pc + BitVec.ofNat 64 len).toNat < r.start.toNat ∨ r.stop.toNat < (c.pc + BitVec.ofNat 64 len).toNat) →
        c.pc + BitVec.ofNat 64 len ≠ r.stop → c'.pc = c.pc + BitVec.ofNat 64 len ∧ c'.rep = none) ∧
      c'.run = .ready ∧ c'.held = none ∧ c'.wait = .none

/-- R107: the arithmetic and logical operations, in both forms. -/
def Obligations.ArithmeticAndLogic : Prop :=
  Stated.RegForm .add 0x000#9 (fun _ a b => a + b) ∧ Stated.LitForm .addL 0x000#9 (fun _ a b => a + b) ∧
  Stated.RegForm .sub 0x001#9 (fun _ a b => a - b) ∧ Stated.LitForm .subL 0x001#9 (fun _ a b => a - b) ∧
  Stated.RegForm .and 0x002#9 (fun _ a b => a &&& b) ∧ Stated.LitForm .andL 0x002#9 (fun _ a b => a &&& b) ∧
  Stated.RegForm .or 0x003#9 (fun _ a b => a ||| b) ∧ Stated.LitForm .orL 0x003#9 (fun _ a b => a ||| b) ∧
  Stated.RegForm .xor 0x004#9 (fun _ a b => a ^^^ b) ∧ Stated.LitForm .xorL 0x004#9 (fun _ a b => a ^^^ b) ∧
  Stated.RegForm .andn 0x005#9 (fun _ a b => a &&& ~~~b) ∧ Stated.LitForm .andnL 0x005#9 (fun _ a b => a &&& ~~~b) ∧
  Stated.RegForm .orn 0x006#9 (fun _ a b => a ||| ~~~b) ∧ Stated.LitForm .ornL 0x006#9 (fun _ a b => a ||| ~~~b) ∧
  Stated.RegForm .sel 0x007#9 (fun d a b => if d ≠ 0#64 then a else b) ∧ Stated.LitForm .selL 0x007#9 (fun d a b => if d ≠ 0#64 then a else b) ∧
  Stated.RegForm .min 0x018#9 (fun _ a b => if a.toInt ≤ b.toInt then a else b) ∧
  Stated.LitForm .minL 0x018#9 (fun _ a b => if a.toInt ≤ b.toInt then a else b) ∧
  Stated.RegForm .max 0x019#9 (fun _ a b => if a.toInt ≤ b.toInt then b else a) ∧
  Stated.LitForm .maxL 0x019#9 (fun _ a b => if a.toInt ≤ b.toInt then b else a) ∧
  Stated.RegForm .minu 0x01A#9 (fun _ a b => if a.toNat ≤ b.toNat then a else b) ∧
  Stated.LitForm .minuL 0x01A#9 (fun _ a b => if a.toNat ≤ b.toNat then a else b) ∧
  Stated.RegForm .maxu 0x01B#9 (fun _ a b => if a.toNat ≤ b.toNat then b else a) ∧
  Stated.LitForm .maxuL 0x01B#9 (fun _ a b => if a.toNat ≤ b.toNat then b else a) ∧
  Stated.RegForm .slt 0x01C#9 (fun _ a b => if a.toInt < b.toInt then 1#64 else 0#64) ∧
  Stated.LitForm .sltL 0x01C#9 (fun _ a b => if a.toInt < b.toInt then 1#64 else 0#64) ∧
  Stated.RegForm .sltu 0x01D#9 (fun _ a b => if a.toNat < b.toNat then 1#64 else 0#64) ∧
  Stated.LitForm .sltuL 0x01D#9 (fun _ a b => if a.toNat < b.toNat then 1#64 else 0#64) ∧
  Stated.RegForm .seq 0x01E#9 (fun _ a b => if a = b then 1#64 else 0#64) ∧
  Stated.LitForm .seqL 0x01E#9 (fun _ a b => if a = b then 1#64 else 0#64)

/-- R108, R109: the shifts by b[5:0], which admit no literal, and the three halves of products, the high ones from the exact 128-bit product. -/
def Obligations.ShiftsAndProducts : Prop :=
  Stated.RegForm .shl 0x008#9 (fun _ a b => a <<< (b.toNat % 64)) ∧
  Stated.RegForm .shr 0x009#9 (fun _ a b => a >>> (b.toNat % 64)) ∧
  Stated.RegForm .sra 0x00A#9 (fun _ a b => a.sshiftRight (b.toNat % 64)) ∧
  Stated.RegForm .rotr 0x00B#9 (fun _ a b => (a >>> (b.toNat % 64)) ||| (a <<< (64 - b.toNat % 64))) ∧
  Stated.RegForm .mul 0x010#9 (fun _ a b => (a.setWidth 128 * b.setWidth 128).extractLsb' 0 64) ∧
  Stated.LitForm .mulL 0x010#9 (fun _ a b => (a.setWidth 128 * b.setWidth 128).extractLsb' 0 64) ∧
  Stated.RegForm .mulh 0x011#9 (fun _ a b => (a.signExtend 128 * b.signExtend 128).extractLsb' 64 64) ∧
  Stated.LitForm .mulhL 0x011#9 (fun _ a b => (a.signExtend 128 * b.signExtend 128).extractLsb' 64 64) ∧
  Stated.RegForm .mulhu 0x012#9 (fun _ a b => (a.setWidth 128 * b.setWidth 128).extractLsb' 64 64) ∧
  Stated.LitForm .mulhuL 0x012#9 (fun _ a b => (a.setWidth 128 * b.setWidth 128).extractLsb' 64 64) ∧
  (∀ (fn : BitVec 9) (d a b : Reg) (lit : Word) (i : Instr), (fn = 0x008#9 ∨ fn = 0x009#9 ∨ fn = 0x00A#9 ∨ fn = 0x00B#9) → decode (Words.ofList (litWords (mkR fn b a d 0x01#6 1#2) lit)) ≠ .ok i)

namespace Sys2Proof.Stated

/-- The quotient and remainder of R110, read as INT64. -/
def quotS (a b : Word) : Word :=
  if b = 0#64 then 0xFFFFFFFFFFFFFFFF#64
  else if a = 0x8000000000000000#64 ∧ b = 0xFFFFFFFFFFFFFFFF#64 then 0x8000000000000000#64
  else BitVec.ofInt 64 (a.toInt.tdiv b.toInt)
def remS (a b : Word) : Word :=
  if b = 0#64 then a
  else if a = 0x8000000000000000#64 ∧ b = 0xFFFFFFFFFFFFFFFF#64 then 0#64
  else BitVec.ofInt 64 (a.toInt - a.toInt.tdiv b.toInt * b.toInt)
/-- And as UINT64. -/
def quotU (a b : Word) : Word := if b = 0#64 then 0xFFFFFFFFFFFFFFFF#64 else BitVec.ofNat 64 (a.toNat / b.toNat)
def remU (a b : Word) : Word := if b = 0#64 then a else BitVec.ofNat 64 (a.toNat - a.toNat / b.toNat * b.toNat)

end Sys2Proof.Stated

/-- R110: quotients and remainders, in both forms; no case traps. -/
def Obligations.Division : Prop :=
  Stated.RegForm .div 0x014#9 (fun _ a b => Stated.quotS a b) ∧ Stated.LitForm .divL 0x014#9 (fun _ a b => Stated.quotS a b) ∧
  Stated.RegForm .divu 0x015#9 (fun _ a b => Stated.quotU a b) ∧ Stated.LitForm .divuL 0x015#9 (fun _ a b => Stated.quotU a b) ∧
  Stated.RegForm .rem 0x016#9 (fun _ a b => Stated.remS a b) ∧ Stated.LitForm .remL 0x016#9 (fun _ a b => Stated.remS a b) ∧
  Stated.RegForm .remu 0x017#9 (fun _ a b => Stated.remU a b) ∧ Stated.LitForm .remuL 0x017#9 (fun _ a b => Stated.remU a b)

/-- R111: the counts and permutations of bits, and the refusal of their words with a non-zero B, which then trap ILLEGAL with word 0.
R112: the field instructions, bit by bit. -/
def Obligations.BitOperations : Prop :=
  (
    Stated.OneForm .clz 0x020#9 (fun a v => v.toNat ≤ 64 ∧ (∀ i, i < 64 → 64 ≤ v.toNat + i → a.getLsbD i = false) ∧
      (v.toNat < 64 → a.getLsbD (63 - v.toNat) = true)) ∧
    Stated.OneForm .ctz 0x021#9 (fun a v => v.toNat ≤ 64 ∧ (∀ i, i < v.toNat → a.getLsbD i = false) ∧ (v.toNat < 64 → a.getLsbD v.toNat = true)) ∧
    Stated.OneForm .popc 0x022#9 (fun a v => v.toNat = ((List.range 64).filter fun i => a.getLsbD i).length) ∧
    Stated.OneForm .brev 0x023#9 (fun a v => ∀ i, i < 64 → v.getLsbD i = a.getLsbD (63 - i)) ∧
    Stated.OneForm .bswap 0x024#9 (fun a v => ∀ i, i < 8 → v.extractLsb' (8 * i) 8 = a.extractLsb' (8 * (7 - i)) 8) ∧
    (∀ (fn : BitVec 9) (d a b : Reg) (i : Instr), (fn = 0x020#9 ∨ fn = 0x021#9 ∨ fn = 0x022#9 ∨ fn = 0x023#9 ∨ fn = 0x024#9) → b ≠ 0#5 → decode (Words.ofList [mkR fn b a d 0x01#6 0#2]) ≠ .ok i) ∧
    (∀ (s : State) (id : Nat) (c : Ctx), Stated.Runs s id c .illegalWord → exec .illegalWord s = .next (s.trap id 0x01#8 s.ev.w0))) ∧
  (
    (∀ d a b : Reg, encode (.sext d a b) = [mkR 0x028#9 b a d 0x01#6 0#2] ∧ encode (.zext d a b) = [mkR 0x029#9 b a d 0x01#6 0#2] ∧
      encode (.bfx d a b) = [mkR 0x02C#9 b a d 0x01#6 0#2] ∧ encode (.bfi d a b) = [mkR 0x02D#9 b a d 0x01#6 0#2]) ∧
    ∀ (s : State) (id : Nat) (c : Ctx) (d a b : Reg),
      (Stated.Runs s id c (.sext d a b) → ∃ v : Word, exec (.sext d a b) s = .next (s.finishG id d v 4) ∧
        ∀ i, i < 64 → v.getLsbD i = (c.getG a).getLsbD (min i (Stated.fieldLen (c.getG b) 0 - 1))) ∧
      (Stated.Runs s id c (.zext d a b) → ∃ v : Word, exec (.zext d a b) s = .next (s.finishG id d v 4) ∧
        ∀ i, i < 64 → v.getLsbD i = ((c.getG a).getLsbD i && decide (i < Stated.fieldLen (c.getG b) 0))) ∧
      (Stated.Runs s id c (.bfx d a b) → ∃ v : Word, exec (.bfx d a b) s = .next (s.finishG id d v 4) ∧
        ∀ i, i < 64 → v.getLsbD i = ((c.getG a).getLsbD ((c.getG b).toNat % 64 + i) && decide (i < Stated.fieldLen (c.getG b) 8))) ∧
      (Stated.Runs s id c (.bfi d a b) → ∃ v : Word, exec (.bfi d a b) s = .next (s.finishG id d v 4) ∧
        ∀ i, i < 64 → v.getLsbD i =
          if (c.getG b).toNat % 64 ≤ i ∧ i < (c.getG b).toNat % 64 + Stated.fieldLen (c.getG b) 8 then (c.getG a).getLsbD (i - (c.getG b).toNat % 64)
          else (c.getG d).getLsbD i))

/-- R50, R113-R115: the immediate forms, LIM and ADDPC. -/
def Obligations.Immediates : Prop :=
  Stated.ImmForm .addi 0x02#6 (fun a n => a + n.signExtend 64) ∧ Stated.ImmLit .addiL 0x02#6 (fun a b => a + b) ∧
  Stated.ImmForm .andi 0x03#6 (fun a n => a &&& n.setWidth 64) ∧ Stated.ImmLit .andiL 0x03#6 (fun a b => a &&& b) ∧
  Stated.ImmForm .ori 0x04#6 (fun a n => a ||| n.setWidth 64) ∧ Stated.ImmLit .oriL 0x04#6 (fun a b => a ||| b) ∧
  Stated.ImmForm .xori 0x05#6 (fun a n => a ^^^ n.setWidth 64) ∧ Stated.ImmLit .xoriL 0x05#6 (fun a b => a ^^^ b) ∧
  Stated.ImmForm .slti 0x06#6 (fun a n => if a.toInt < n.toInt then 1#64 else 0#64) ∧
  Stated.ImmLit .sltiL 0x06#6 (fun a b => if a.toInt < b.toInt then 1#64 else 0#64) ∧
  Stated.ImmForm .sltiu 0x07#6 (fun a n => if a.toNat < (n.signExtend 64).toNat then 1#64 else 0#64) ∧
  Stated.ImmLit .sltiuL 0x07#6 (fun a b => if a.toNat < b.toNat then 1#64 else 0#64) ∧
  Stated.ImmForm .shli 0x08#6 (fun a n => a <<< (n.toNat % 64)) ∧ Stated.ImmForm .shri 0x09#6 (fun a n => a >>> (n.toNat % 64)) ∧
  Stated.ImmForm .srai 0x0A#6 (fun a n => a.sshiftRight (n.toNat % 64)) ∧
  (∀ (d : Reg) (n : BitVec 19), encode (.lim d n) = [mkJ n d 0x0B#6 0#2] ∧
    ∀ s id c, Stated.Runs s id c (.lim d n) → exec (.lim d n) s = .next (s.finishG id d (n.signExtend 64) 4)) ∧
  (∀ (d : Reg) (lit : Word), encode (.limL d lit) = litWords (mkJ 0#19 d 0x0B#6 1#2) lit ∧
    ∀ s id c, Stated.Runs s id c (.limL d lit) → exec (.limL d lit) s = .next (s.finishG id d lit 12)) ∧
  (∀ (d : Reg) (n : BitVec 19), encode (.addpc d n) = [mkJ n d 0x0C#6 0#2] ∧
    ∀ s id c, Stated.Runs s id c (.addpc d n) → exec (.addpc d n) s = .next (s.finishG id d (c.pc + 4#64 * n.signExtend 64) 4))

/-- R116-R118: branches and jumps, with JALR's MISALIGN trap.
R120: REP skips its body when the count is 0, sets REP state otherwise, and traps ILLEGAL with EINFO 0 while REP state is set. -/
def Obligations.ControlFlow : Prop :=
  (
    Stated.BranchForm .beq 0x10#6 (fun a b => a == b) ∧ Stated.BranchForm .bne 0x11#6 (fun a b => !(a == b)) ∧
    Stated.BranchForm .blt 0x12#6 (fun a b => decide (a.toInt < b.toInt)) ∧ Stated.BranchForm .bge 0x13#6 (fun a b => decide (b.toInt ≤ a.toInt)) ∧
    Stated.BranchForm .bltu 0x14#6 (fun a b => decide (a.toNat < b.toNat)) ∧ Stated.BranchForm .bgeu 0x15#6 (fun a b => decide (b.toNat ≤ a.toNat)) ∧
    (∀ (d : Reg) (n : BitVec 19), encode (.jal d n) = [mkJ n d 0x16#6 0#2] ∧
      ∀ s id c, Stated.Runs s id c (.jal d n) →
        exec (.jal d n) s = .next (s.upd id fun x => (x.setG d (c.pc + 4#64)).retired (c.pc + 4#64 * n.signExtend 64))) ∧
    (∀ d a : Reg, encode (.jalr d a) = [mkR 0x000#9 0#5 a d 0x17#6 0#2] ∧ ∀ s id c, Stated.Runs s id c (.jalr d a) →
      ((c.getG a).toNat % 4 = 0 → exec (.jalr d a) s = .next (s.upd id fun x => (x.setG d (c.pc + 4#64)).retired (c.getG a))) ∧
      ((c.getG a).toNat % 4 ≠ 0 → exec (.jalr d a) s = .next (s.trap id 0x02#8 (c.getG a))))) ∧
  (
    ∀ (a : Reg) (n : BitVec 5), encode (.rep a n) = [mkR 0x001#9 n a 0#5 0x17#6 0#2] ∧
      ∀ (s : State) (id : Nat) (c : Ctx), Stated.Runs s id c (.rep a n) →
        (c.rep = none → ∃ c', exec (.rep a n) s = .next { s with ctxs := mset id c' s.ctxs } ∧
          (c.getG a = 0#64 → c'.rep = none ∧ c'.pc = c.pc + 4#64 + BitVec.ofNat 64 (4 * n.toNat)) ∧
          (c.getG a ≠ 0#64 → c'.pc = c.pc + 4#64 ∧
            c'.rep = some { count := c.getG a, start := c.pc + 4#64, stop := c.pc + 4#64 + BitVec.ofNat 64 (4 * n.toNat) }) ∧
          c'.g = c.g ∧ c'.f = c.f ∧ c'.fflags = c.fflags ∧ c'.run = .ready) ∧
        (c.rep.isSome = true → exec (.rep a n) s = .next (s.trap id 0x01#8 0#64)))
/-! ## Traps, loads and stores -/

/-- R46, R99, R406: a strand at its home core that takes a trap becomes TRAPPED with EPC, ECAUSE and EINFO written and its other registers as they
were; the trap message, with EPC, the cause, EINFO and the trap handle, goes to channel 14 of the kernel's supervisor core when that channel is
bound and the strand is not itself the handler, kept in the retransmit buffer of its core until it is acknowledged, and else, when the channel is unbound or the
strand arrived on it, to the resident kernel; memory is as before. -/
def Obligations.TrapEntry : Prop :=
  ∀ (s : State) (id : Nat) (c : Ctx) (cause : BitVec 8) (info : Word), s.ctx? id = some c → c.shipped = none →
    ∃ (c' : Ctx), (s.trap id cause info).ctx? id = some c' ∧ c'.run = .trapped ∧ c'.epc = c.pc ∧ c'.ecause = cause ∧ c'.einfo = info ∧
      c'.pc = c.pc ∧ c'.g = c.g ∧ c'.f = c.f ∧ c'.rep = c.rep ∧ c'.fflags = c.fflags ∧ c'.held = none ∧
      (∀ j, j ≠ id → (s.trap id cause info).ctx? j = s.ctx? j) ∧
      (s.trap id cause info).glob = s.glob ∧ (s.trap id cause info).dram = s.dram ∧ (s.trap id cause info).ltiles = s.ltiles ∧
      (c'.trapWaits = true ↔ s.spec c = true ∧ (s.lcore c.lck).kmin.is c.item.key = false) ∧
      (s.spec c = false → c.item.chan ≠ 14 → (s.lcore (lcKey (lcKid c.lck) (s.kernelD (lcKid c.lck)).slt (s.kernelD (lcKid c.lck)).score)).bindings[14].bound = true →
        ∃ (f : Flit), ((s.trap id cause info).lcore c.lck).retx = (s.lcore c.lck).retx ++ [f] ∧
          ((s.lcore c.lck).retx.length < 64 → (s.trap id cause info).flits = s.flits ++ [f]) ∧ f.p0 = c.pc ∧ f.p1 = 0x8000000000000000#64 + cause.setWidth 64 ∧
          f.p2 = info ∧ f.p3 = c'.trapHandle ∧ f.vrt = c.item.vrt ∧ f.chan = 14) ∧
      (s.spec c = false → (c.item.chan = 14 ∨ (s.lcore (lcKey (lcKid c.lck) (s.kernelD (lcKid c.lck)).slt (s.kernelD (lcKid c.lck)).score)).bindings[14].bound = false) → ∃ (m : ResMsg), (s.trap id cause info).resident = s.resident ++ [m] ∧ m.ctx = some id ∧ m.item.p0 = c.pc ∧
        m.item.p1 = 0x8000000000000000#64 + cause.setWidth 64 ∧ m.item.p2 = info ∧ m.item.p3 = c'.trapHandle)

namespace Sys2Proof.Stated

/-- The memory immediate's address: gA plus OFF10 units of the access size (R121). -/
def immAddr (c : Ctx) (a : Reg) (off : BitVec 10) (sz : Sz) : Nat := (c.getG a + off.signExtend 64 * BitVec.ofNat 64 (szBytes sz)).toNat

/-- `i` is a load of one datum to register `d`, and reads at `ea`. -/
def IsLoad (i : Instr) (c : Ctx) (d : Reg) (sz : Sz) (ea len : Nat) : Prop :=
  (∃ a off ef, i = .ld d a off ef sz ∧ ea = immAddr c a off sz ∧ len = 4) ∨
  (∃ a ef lit, i = .ldL d a ef sz lit ∧ ea = (c.getG a + lit).toNat ∧ len = 12) ∨
  (∃ a b ef, i = .ldv d a b ef sz ∧ ea = (c.getG a + c.getG b).toNat ∧ len = 4)

/-- `i` loads the pair gD, gD+1. -/
def IsLoadPair (i : Instr) (c : Ctx) (d : Reg) (sz : Sz) (ea len : Nat) : Prop :=
  (∃ a off ef, i = .ldp d a off ef sz ∧ ea = immAddr c a off sz ∧ len = 4) ∨ (∃ a ef lit, i = .ldpL d a ef sz lit ∧ ea = (c.getG a + lit).toNat ∧ len = 12)

/-- `i` stores from register `b`. -/
def IsStore (i : Instr) (c : Ctx) (b : Reg) (sz : Sz) (ea len : Nat) : Prop :=
  (∃ a off ef, i = .st a b off ef sz ∧ ea = immAddr c a off sz ∧ len = 4) ∨
  (∃ a ef lit, i = .stL a b ef sz lit ∧ ea = (c.getG a + lit).toNat ∧ len = 12) ∨
  (∃ a x ef, i = .stv b a x ef sz ∧ ea = (c.getG a + c.getG x).toNat ∧ len = 4)

/-- `i` stores the pair gB, gB+1. -/
def IsStorePair (i : Instr) (c : Ctx) (b : Reg) (sz : Sz) (ea len : Nat) : Prop :=
  (∃ a off ef, i = .stp a b off ef sz ∧ ea = immAddr c a off sz ∧ len = 4) ∨ (∃ a ef lit, i = .stpL a b ef sz lit ∧ ea = (c.getG a + lit).toNat ∧ len = 12)

/-- A scratchpad access of `n` bytes at `ea` that a strand at its home core can make: below S, and not logged or rolled back for by a keep
region of a WARP kernel (R105, R293, R294); `al` is what its address must be a multiple of (R124). -/
def ScratchOk (s : State) (c : Ctx) (ea n al : Nat) : Prop :=
  c.shipped = none ∧ ea + n ≤ s.sOf c ∧ ea + n ≤ 2 ^ 20 ∧ ea % al = 0 ∧ s.ev.flag = false ∧
    (s.isWarp (lcKid c.alck) = false ∨ ∀ x, ea ≤ x → x < ea + n → (s.ltile c.ltk).keeps? x = false)

/-- The f pair from an even register is no enabled stream. -/
def PlainPair (c : Ctx) (r : Reg) : Prop := streamOn c.streams r = none ∧ streamOn c.streams (r + 1#5) = none

/-- What the order of accesses is kept in (R165, R168, R176, R179): line times, homes, clocks, the versions of lines that engines may still read, the bytes that
signal writes have made, and a strand's stamps. -/
structure Order where
  times : List (Nat × BitVec 48 × BitVec 48)
  homes : List (Nat × BitVec 48 × BitVec 48)
  clocks : List (Nat × Clock)
  past : List Past
  signals : List Signal
  stamp : BitVec 48
  acq : BitVec 48

/-- The context `c` and the state `s` with the order of accesses as given. -/
def at_ (c : Ctx) (o : Order) : Ctx := { c with stamp := o.stamp, acq := o.acq }
def ordered (s : State) (o : Order) : State := { s with times := o.times, homes := o.homes, clocks := o.clocks, past := o.past, signals := o.signals }

/-- The context that a load of value `v` leaves: gD, or the f pair of size Q (R121, R122). -/
def loaded (c : Ctx) (sz : Sz) (d : Reg) (v : Nat) (len : Nat) : Ctx :=
  match sz with
  | .q => ((c.setF d (BitVec.ofNat 64 v)).setF (d + 1#5) (BitVec.ofNat 64 (v / 2 ^ 64))).retired (c.pc + BitVec.ofNat 64 len)
  | _ => (c.setG d (BitVec.ofNat 64 v)).retired (c.pc + BitVec.ofNat 64 len)

/-- The context that a load of a pair leaves. -/
def loadedPair (c : Ctx) (d : Reg) (lo hi : Nat) (len : Nat) : Ctx :=
  ((c.setG d (BitVec.ofNat 64 lo)).setG (d + 1#5) (BitVec.ofNat 64 hi)).retired (c.pc + BitVec.ofNat 64 len)

/-- The state after scratchpad bytes of the context's logical tile are written, those of a codelet record's reserved field apart (R4), and the strand goes on as `c'`. -/
def scratchWritten (s : State) (id : Nat) (c c' : Ctx) (writes : List (Nat × List Byte)) (o : Order) : State :=
  { ordered s o with ltiles := mset c.ltk (writes.foldl (fun x w => x.put w.1 w.2) (s.ltile c.ltk)) s.ltiles, ctxs := mset id c' s.ctxs }

/-- The evict-first hint of a store (R127). -/
def hintOf : Instr → Bool
  | .st _ _ _ ef _ => ef
  | .stL _ _ ef _ _ => ef
  | .stv _ _ _ ef _ => ef
  | _ => false

/-- The bytes that a store puts in memory: the low bytes of gB, or the f pair of size Q (R121, R122). -/
def stored (c : Ctx) (sz : Sz) (b : Reg) : List Byte :=
  match sz with
  | .q => leBytes 8 (c.getF b).toNat ++ leBytes 8 (c.getF (b + 1#5)).toNat
  | z => leBytes (szBytes z) (c.getG b).toNat

end Sys2Proof.Stated

/-- R105, R121-R123: the loads from the scratchpad give the bytes at EA, the lowest address lowest, zero-extended; nothing changes but the
destination, the PC and the order of accesses (R165, R167, R168).
R105, R121-R123: the stores to the scratchpad put their bytes at EA of the activation's logical tile, of a codelet record's reserved field
none (R4, log entry 95); nothing changes but those bytes, the PC and the order of accesses. -/
def Obligations.ScratchAccesses : Prop :=
  (
    (∀ (s : State) (id : Nat) (c : Ctx) i d sz ea len, Stated.Runs s id c i → Stated.IsLoad i c d sz ea len → Stated.ScratchOk s c ea (szBytes sz) (szBytes sz) →
      (sz = .q → Stated.PlainPair c d) →
      ∃ o : Stated.Order, o.past = s.past ∧ o.signals = s.signals ∧
        exec i s = .next { Stated.ordered s o with ctxs := mset id (Stated.loaded (Stated.at_ c o) sz d (leNat (memBytes (s.ltile c.ltk).scratch ea (szBytes sz))) len) s.ctxs }) ∧
    (∀ (s : State) (id : Nat) (c : Ctx) i d sz ea len, Stated.Runs s id c i → Stated.IsLoadPair i c d sz ea len → (sz = .d ∨ sz = .q) →
      Stated.ScratchOk s c ea 16 (if sz = .q then 16 else 8) → c.stageOf ≠ 1 →
      ∃ o : Stated.Order, o.past = s.past ∧ o.signals = s.signals ∧ exec i s = .next { Stated.ordered s o with
        ctxs := mset id (Stated.loadedPair (Stated.at_ c o) d (leNat (memBytes (s.ltile c.ltk).scratch ea 8)) (leNat (memBytes (s.ltile c.ltk).scratch (ea + 8) 8)) len) s.ctxs })) ∧
  (
    (∀ (s : State) (id : Nat) (c : Ctx) i b sz ea len, Stated.Runs s id c i → Stated.IsStore i c b sz ea len → Stated.ScratchOk s c ea (szBytes sz) (szBytes sz) →
      (sz = .q → Stated.PlainPair c b) →
      ∃ o : Stated.Order, exec i s = .next (Stated.scratchWritten s id c ((Stated.at_ c o).retired (c.pc + BitVec.ofNat 64 len)) [(ea, Stated.stored c sz b)] o)) ∧
    (∀ (s : State) (id : Nat) (c : Ctx) i b sz ea len, Stated.Runs s id c i → Stated.IsStorePair i c b sz ea len → (sz = .d ∨ sz = .q) →
      Stated.ScratchOk s c ea 16 (if sz = .q then 16 else 8) → c.stageOf ≠ 1 →
      ∃ o : Stated.Order, exec i s = .next (Stated.scratchWritten s id c ((Stated.at_ c o).retired (c.pc + BitVec.ofNat 64 len))
        (if sz = .q then [(ea, leBytes 8 (c.getG b).toNat ++ leBytes 8 (c.getG (b + 1#5)).toNat)]
         else [(ea, leBytes 8 (c.getG b).toNat), (ea + 8, leBytes 8 (c.getG (b + 1#5)).toNat)]) o)))

/-- R3: what a memory reads after bytes are written to it: those bytes where they were written and its old bytes elsewhere; and a write keeps
the canonical form. -/
def Obligations.MemoryReadsBack : Prop :=
  ∀ (m : Mem) (a : Nat) (bs : List Byte),
    (∀ i, (h : i < bs.length) → memGet (memPut m a bs) (a + i) = bs[i]) ∧
    (∀ x, x < a ∨ a + bs.length ≤ x → memGet (memPut m a bs) x = memGet m x) ∧
    (Memory.wf m = true → Memory.wf (memPut m a bs) = true) ∧
    (∀ m' : Mem, Memory.wf m = true → Memory.wf m' = true → (∀ x, memGet m x = memGet m' x) → m = m')

/-- R105, R126, R165, R298: a load from a global address that translates to a page the strand's core can reach completes with the bytes of memory, or
with those of a leased copy of the line that its lease still allows; no memory changes. A WARP activation that is not irrevocable may load from a frozen range
only, and traps FROZEN_LOAD elsewhere.
R105, R126: in a PLAIN kernel, a store to a global address that translates to a writable page the strand's core can reach, outside every view range and not moving,
completes at once; the bytes stand at the physical
address and every other byte of memory is as before, and of other strands only the code words that their fetches may still see (R48) change. In a WARP activation
that is not irrevocable it takes its place in the commit queue, with no effect on memory (R298). -/
def Obligations.GlobalAccesses : Prop :=
  (
    ∀ (s : State) (id : Nat) (c : Ctx) i d sz ea len, Stated.Runs s id c i → Stated.IsLoad i c d sz ea len → (sz = .q → Stated.PlainPair c d) →
      2 ^ 20 ≤ ea → ea < 2 ^ 56 → ea % szBytes sz = 0 →
      ((s.spec c && !(s.kernelD c.kid).frozen ea (szBytes sz)) = true → exec i s = .next (s.trap id 0x06#8 (BitVec.ofNat 64 ea))) ∧
      (∀ pa dt s1, (s.spec c && !(s.kernelD c.kid).frozen ea (szBytes sz)) = false → s.ev.flag = false →
      s.xlate (s.partOf c.kid) (s.xlUnit c) true (s.coreNo c) ea aLoad = (Xl.ok pa dt, s1) → pa % 65536 = ea % 65536 → shipTarget c pa = none → apertureCtrl pa = none →
      ∃ (t : State) (c' : Ctx) (v : Nat), exec i s = .next t ∧ t.ctx? id = some c' ∧
        (sz ≠ .q → c'.getG d = (if d = 0#5 then 0#64 else BitVec.ofNat 64 v) ∧ (∀ r, r ≠ d → c'.getG r = c.getG r) ∧ c'.f = c.f) ∧
        (sz = .q → c'.f = ((c.setF d (BitVec.ofNat 64 v)).setF (d + 1#5) (BitVec.ofNat 64 (v / 2 ^ 64))).f ∧ c'.g = c.g) ∧
        (c.rep = none → c'.pc = c.pc + BitVec.ofNat 64 len) ∧ c'.fflags = c.fflags ∧
        t.glob = s.glob ∧ t.dram = s.dram ∧ t.ltiles = s.ltiles ∧ (∀ j, j ≠ id → t.ctx? j = s.ctx? j) ∧
        (v = memLoad s.glob pa (szBytes sz) ∨
          ∃ x, (findLease (lineOf pa) (mgetD [] (s.coreNo c) s.copies) = some x ∨ findLease (lineOf pa) (mgetD [] (dieOfCore (s.coreNo c)) s.rdcs) = some x) ∧
            (∃ ts, hitStamp (s1.clock (s.coreNo c)).t s.tbase x = some ts) ∧ v = leNat ((x.data.drop (pa % 128)).take (szBytes sz))))) ∧
  (
    ∀ (s : State) (id : Nat) (c : Ctx) i b sz ea len pa dt s1, Stated.Runs s id c i → Stated.IsStore i c b sz ea len → (sz = .q → Stated.PlainPair c b) →
      2 ^ 20 ≤ ea → ea < 2 ^ 56 → ea % szBytes sz = 0 → s.xlate (s.partOf c.kid) (s.xlUnit c) true (s.coreNo c) ea aStore = (Xl.ok pa dt, s1) →
      s.migrating (s.partOf c.kid) pa = false → shipTarget c pa = none → apertureCtrl pa = none →
      (s.isWarp c.kid = false → ∃ (t : State) (c' : Ctx), exec i s = .next t ∧ t.ctx? id = some c' ∧ t.glob = memPut s.glob pa (Stated.stored c sz b) ∧ t.dram = s.dram ∧
        t.ltiles = s.ltiles ∧ lineOf pa ∈ t.dirty ∧ c'.g = c.g ∧ c'.f = c.f ∧ c'.fflags = c.fflags ∧ (c.rep = none → c'.pc = c.pc + BitVec.ofNat 64 len) ∧
        ∀ j x, j ≠ id → s.ctx? j = some x → ∃ ow, t.ctx? j = some { x with oldWords := ow }) ∧
      (s.spec c = true → (s.kernelD c.kid).meetsFrozen ea (szBytes sz) = false → (s.lcore c.alck).commitQ.length < 256 →
        ∃ (t : State) (c' : Ctx) (e : CommitEntry), exec i s = .next t ∧ t.ctx? id = some c' ∧ (t.lcore c.alck).commitQ = (s.lcore c.alck).commitQ ++ [e] ∧ e.by_ = c.item.key ∧
          e.op = .store pa (Stated.stored c sz b) (BitVec.ofNat 64 ea) dt (Stated.hintOf i) ∧ t.glob = s.glob ∧ t.dram = s.dram ∧ t.ltiles = s.ltiles ∧ c'.g = c.g ∧ c'.f = c.f ∧
          (c.rep = none → c'.pc = c.pc + BitVec.ofNat 64 len)))

/-- R105, R124: where an access of LD, LDV, ST, STV, LDP or STP traps by its address alone; and that PREF changes nothing, and never parks or traps (R129). -/
def Obligations.AddressTraps : Prop :=
  (∀ (s : State) (id : Nat) (c : Ctx) i r sz ea len al, Stated.Runs s id c i →
    ((Stated.IsLoad i c r sz ea len ∨ Stated.IsStore i c r sz ea len) ∧ al = szBytes sz ∧ (sz = .q → Stated.PlainPair c r) ∨
      (Stated.IsLoadPair i c r sz ea len ∨ Stated.IsStorePair i c r sz ea len) ∧ al = (if sz = .q then 16 else 8) ∧ c.stageOf ≠ 1) →
    (2 ^ 56 ≤ ea → exec i s = .next (s.trap id 0x04#8 (BitVec.ofNat 64 ea))) ∧
    (ea < 2 ^ 20 → c.shipped = none → s.sOf c ≤ ea → exec i s = .next (s.trap id 0x05#8 (BitVec.ofNat 64 ea))) ∧
    (ea < 2 ^ 20 → c.shipped = none → ea < s.sOf c → ea % al ≠ 0 → exec i s = .next (s.trap id 0x02#8 (BitVec.ofNat 64 ea))) ∧
    (2 ^ 20 ≤ ea → ea < 2 ^ 56 → ea % al ≠ 0 → exec i s = .next (s.trap id 0x02#8 (BitVec.ofNat 64 ea)))) ∧
  (∀ (s : State) (id : Nat) (c : Ctx) a b, s.cur = some id → s.ctx? id = some c →
    exec (.prefRd a b) s = .next (s.retire id (c.pc + 4#64)) ∧ exec (.prefWr a b) s = .next (s.retire id (c.pc + 4#64)))

/-! ## Atomics -/

namespace Sys2Proof.Stated

/-- A value of `w` bits read as a signed integer (R67). -/
def sgn (w x : Nat) : Int := if x < 2 ^ (w - 1) then (x : Int) else (x : Int) - 2 ^ w

/-- The operand of an atomic: the low bits of gB, or the pair of size Q (R182). -/
def operand (c : Ctx) (b : Reg) (sz : Sz) : Nat :=
  if sz = .q then (c.getG b).toNat + 2 ^ 64 * (c.getG (b + 1#5)).toNat else (c.getG b).toNat % 2 ^ (8 * szBytes sz)

/-- The context after an atomic has returned `old`: gD, or the pair of size Q, of which both are discarded with D = 0 (R183). -/
def returned (c : Ctx) (d : Reg) (sz : Sz) (old : Nat) : Ctx :=
  if sz = .q then (if d = 0#5 then c else (c.setG d (BitVec.ofNat 64 old)).setG (d + 1#5) (BitVec.ofNat 64 (old / 2 ^ 64))) else c.setG d (BitVec.ofNat 64 old)

/-- The state after an atomic at a scratchpad address that returned `old` and wrote `new`, if it wrote. -/
def atomicDone (s : State) (id : Nat) (c : Ctx) (d : Reg) (sz : Sz) (ea old : Nat) (new : Option Nat) (o : Order) : State :=
  { ordered s o with
           ltiles := match new with
             | some v => mset c.ltk ((s.ltile c.ltk).put ea (leBytes (szBytes sz) v)) s.ltiles
             | none => s.ltiles,
           ctxs := mset id ((returned (at_ c o) d sz old).retired (c.pc + 4#64)) s.ctxs }

/-- A global address that an atomic of a PLAIN kernel's strand can reach where it stands, in a page that it may write and that does not move. -/
def GlobalAtomic (s : State) (c : Ctx) (ea n pa : Nat) : Prop :=
  2 ^ 20 ≤ ea ∧ ea < 2 ^ 56 ∧ ea % n = 0 ∧ s.isWarp c.kid = false ∧ s.ev.flag = false ∧
    (∃ dt s1, s.xlate (s.partOf c.kid) (s.xlUnit c) true (s.coreNo c) ea aStore = (Xl.ok pa dt, s1)) ∧
    s.migrating (s.partOf c.kid) pa = false ∧ shipTarget c pa = none ∧ pa + 16 < 2 ^ 48

/-- The strand has raised flags of which some are enabled: it has written what `c1` holds, and FFLAGS; it is parked before its next instruction until the call that
is its exception message returns; the message, to the core and channel that FSUP names, is kept in its core's retransmit buffer (R133, R134). -/
def Excepted (s t : State) (id : Nat) (c c1 : Ctx) (i : Instr) (fl : BitVec 5) : Prop :=
  ∃ (c' : Ctx) (f : Flit) (k : Key) (n : Nat), t.ctx? id = some c' ∧ c'.run = .parked ∧ c'.wait = .excReturn ∧ c'.held = none ∧ c'.fflags = c.fflags ||| fl ∧ c'.g = c1.g ∧ c'.f = c1.f ∧
    (c.rep = none → c'.pc = c.pc + 4#64) ∧ (t.lcore c.lck).retx = (s.lcore c.lck).retx ++ [f] ∧ ((s.lcore c.lck).retx.length < 64 → t.flits = s.flits ++ [f]) ∧
    f.p0 = c.pc ∧ f.p1 = (fl &&& c.fen).setWidth 64 ||| (fl.setWidth 64 <<< 8) ∧ f.p2 = ((encode i).headD 0#32).setWidth 64 ∧ f.p3 = 0#64 ∧ f.vrt = c.item.vrt ∧
    f.lt = c.fsup.toNat % 4096 ∧ f.core = c.fsup.toNat / 2 ^ 12 % 8 ∧ f.chan = c.fsup.toNat / 2 ^ 16 % 16 ∧ f.carry = .message k (some (.exception id n)) ∧ t.dram = s.dram

/-- A strand of a PLAIN kernel can send now: its activation's VRT is one that messages carry, and none of its messages is so old that the next must wait (R288, R432). -/
def MaySend (s : State) (c : Ctx) : Prop := s.isWarp c.kid = false ∧ c.item.vrt.toNat ≤ 2 ^ 64 - 2 ∧ s.agedSend c = false

/-- An atomic that returns the old value and writes `f` of the width, the old value and the operand: in the scratchpad, and in global memory
where the strand's core can reach a writable page; a WARP activation that is not irrevocable traps FROZEN_LOAD there (R185). -/
def AmoForm (mk : Reg → Reg → Reg → Sz → Instr) (f : Nat → Nat → Nat → Nat) : Prop :=
  ∀ (s : State) (id : Nat) (c : Ctx) (d a b : Reg) sz, Runs s id c (mk d a b sz) → (sz = .w ∨ sz = .d ∨ sz = .q) →
    (ScratchOk s c (c.getG a).toNat (szBytes sz) (szBytes sz) →
      ∃ o : Order, exec (mk d a b sz) s = .next (atomicDone s id c d sz (c.getG a).toNat
        (leNat (memBytes (s.ltile c.ltk).scratch (c.getG a).toNat (szBytes sz)))
        (some (f (8 * szBytes sz) (leNat (memBytes (s.ltile c.ltk).scratch (c.getG a).toNat (szBytes sz))) (operand c b sz))) o)) ∧
    (2 ^ 20 ≤ (c.getG a).toNat → (c.getG a).toNat < 2 ^ 56 → (c.getG a).toNat % szBytes sz = 0 → s.spec c = true → exec (mk d a b sz) s = .next (s.trap id 0x06#8 (c.getG a))) ∧
    (∀ pa dt s1, 2 ^ 20 ≤ (c.getG a).toNat → (c.getG a).toNat < 2 ^ 56 → (c.getG a).toNat % szBytes sz = 0 → s.isWarp c.kid = false → s.ev.flag = false →
      s.xlate (s.partOf c.kid) (s.xlUnit c) true (s.coreNo c) (c.getG a).toNat aStore = (Xl.ok pa dt, s1) →
      s.migrating (s.partOf c.kid) pa = false → shipTarget c pa = none → pa + 16 < 2 ^ 48 →
      ∃ (t : State) (c' : Ctx), exec (mk d a b sz) s = .next t ∧ t.ctx? id = some c' ∧
        t.glob = memPut s.glob pa (leBytes (szBytes sz) (f (8 * szBytes sz) (memLoad s.glob pa (szBytes sz)) (operand c b sz))) ∧
        t.dram = s.dram ∧ t.ltiles = s.ltiles ∧ c'.g = (returned c d sz (memLoad s.glob pa (szBytes sz))).g ∧ c'.f = c.f)

end Sys2Proof.Stated

/-- R182, R183: the atomics that write a function of the old value and the operand.
R184, R186: CAS compares the old value with gD, of which the low bits of the access's width count (log entry 78), and writes gB on a match, and returns the old
value either way; FAMOADD stores the rounded sum, whose flags join FFLAGS, and returns the old lane, and where one of the flags is enabled the strand parks with its
exception message sent (R133). -/
def Obligations.AtomicOperations : Prop :=
  (
    Stated.AmoForm .amoadd (fun w x y => (x + y) % 2 ^ w) ∧ Stated.AmoForm .amoswap (fun _ _ y => y) ∧
    Stated.AmoForm .amoand (fun _ x y => x &&& y) ∧ Stated.AmoForm .amoor (fun _ x y => x ||| y) ∧ Stated.AmoForm .amoxor (fun _ x y => x ^^^ y) ∧
    Stated.AmoForm .amomin (fun w x y => if Stated.sgn w x ≤ Stated.sgn w y then x else y) ∧
    Stated.AmoForm .amomax (fun w x y => if Stated.sgn w x ≤ Stated.sgn w y then y else x) ∧
    Stated.AmoForm .amominu (fun _ x y => if x ≤ y then x else y) ∧ Stated.AmoForm .amomaxu (fun _ x y => if x ≤ y then y else x)) ∧
  (
    (∀ (s : State) (id : Nat) (c : Ctx) (d a b : Reg) sz, Stated.Runs s id c (.cas d a b sz) → (sz = .w ∨ sz = .d ∨ sz = .q) →
      Stated.ScratchOk s c (c.getG a).toNat (szBytes sz) (szBytes sz) →
      ∃ o : Stated.Order, exec (.cas d a b sz) s = .next (Stated.atomicDone s id c d sz (c.getG a).toNat
        (leNat (memBytes (s.ltile c.ltk).scratch (c.getG a).toNat (szBytes sz)))
        (if leNat (memBytes (s.ltile c.ltk).scratch (c.getG a).toNat (szBytes sz)) = Stated.operand c d sz then some (Stated.operand c b sz) else none) o)) ∧
    (∀ (s : State) (id : Nat) (c : Ctx) (d a b : Reg) sz pa, Stated.Runs s id c (.cas d a b sz) → (sz = .w ∨ sz = .d ∨ sz = .q) →
      Stated.GlobalAtomic s c (c.getG a).toNat (szBytes sz) pa →
      ∃ (t : State) (c' : Ctx), exec (.cas d a b sz) s = .next t ∧ t.ctx? id = some c' ∧
        t.glob = (if memLoad s.glob pa (szBytes sz) = Stated.operand c d sz then memPut s.glob pa (leBytes (szBytes sz) (Stated.operand c b sz)) else s.glob) ∧
        t.dram = s.dram ∧ t.ltiles = s.ltiles ∧ c'.g = (Stated.returned c d sz (memLoad s.glob pa (szBytes sz))).g ∧ c'.f = c.f) ∧
    (∀ (s : State) (id : Nat) (c : Ctx) (d a b : Reg) rm et pa, Stated.Runs s id c (.famoadd d a b rm et) → (et = .f32 ∨ et = .bf16 ∨ et = .f16) →
      Stated.GlobalAtomic s c (c.getG a).toNat (et.width / 8) pa → ∀ r fl, (r, fl) = famoSum et (modeOf rm c.sample) (satOf c.sample) (memLoad s.glob pa (et.width / 8))
        ((c.getG b).toNat % 2 ^ et.width) →
      (fl &&& c.fen = 0#5 → ∃ (t : State) (c' : Ctx), exec (.famoadd d a b rm et) s = .next t ∧ t.ctx? id = some c' ∧
        t.glob = memPut s.glob pa (leBytes (et.width / 8) r) ∧ t.dram = s.dram ∧ t.ltiles = s.ltiles ∧ c'.fflags = c.fflags ||| fl ∧
        c'.g = (c.setG d (BitVec.ofNat 64 (memLoad s.glob pa (et.width / 8)))).g ∧ c'.f = c.f) ∧
      (fl &&& c.fen ≠ 0#5 → Stated.MaySend s c → ∃ t, exec (.famoadd d a b rm et) s = .next t ∧ t.glob = memPut s.glob pa (leBytes (et.width / 8) r) ∧
        Stated.Excepted s t id c (c.setG d (BitVec.ofNat 64 (memLoad s.glob pa (et.width / 8)))) (.famoadd d a b rm et) fl)) ∧
    (∀ (s : State) (id : Nat) (c : Ctx) (d a b : Reg) rm et, Stated.Runs s id c (.famoadd d a b rm et) → (et = .f32 ∨ et = .bf16 ∨ et = .f16) →
      Stated.ScratchOk s c (c.getG a).toNat (et.width / 8) (et.width / 8) →
      (famoSum et (modeOf rm c.sample) (satOf c.sample) (leNat (memBytes (s.ltile c.ltk).scratch (c.getG a).toNat (et.width / 8)))
        ((c.getG b).toNat % 2 ^ et.width)).2 &&& c.fen = 0#5 →
      ∃ (t : State) (c' : Ctx), exec (.famoadd d a b rm et) s = .next t ∧ t.ctx? id = some c' ∧
        c'.getG d = (if d = 0#5 then 0#64 else BitVec.ofNat 64 (leNat (memBytes (s.ltile c.ltk).scratch (c.getG a).toNat (et.width / 8)))) ∧
        (∀ r, r ≠ d → c'.getG r = c.getG r) ∧ c'.f = c.f ∧
        c'.fflags = c.fflags ||| (famoSum et (modeOf rm c.sample) (satOf c.sample) (leNat (memBytes (s.ltile c.ltk).scratch (c.getG a).toNat (et.width / 8)))
          ((c.getG b).toNat % 2 ^ et.width)).2 ∧
        t.ltiles = mset c.ltk ((s.ltile c.ltk).put (c.getG a).toNat (leBytes (et.width / 8)
          (famoSum et (modeOf rm c.sample) (satOf c.sample) (leNat (memBytes (s.ltile c.ltk).scratch (c.getG a).toNat (et.width / 8)))
            ((c.getG b).toNat % 2 ^ et.width)).1)) s.ltiles ∧ t.glob = s.glob ∧ t.dram = s.dram))

/-! ## Floating point -/

namespace Sys2Proof.Stated

/-- The flags are exactly those that some lane of `n` raises (R132). -/
def FlagsOf (n : Nat) (fl : BitVec 5) (g : Nat → BitVec 5) : Prop := ∀ k, k < 5 → (fl.getLsbD k = true ↔ ∃ i, i < n ∧ (g i).getLsbD k = true)

/-- `v` and `fl` are the `n` lanes of width `w` that `g` gives, with the lanes above them zero (R131, R142). -/
def LaneWise (w n : Nat) (v : Word) (fl : BitVec 5) (g : Nat → Nat × BitVec 5) : Prop :=
  (∀ i, i < 64 / w → lane w v i = if i < n then (g i).1 % 2 ^ w else 0) ∧ FlagsOf n fl fun i => (g i).2

/-- `i` writes fD and completes, when none of its f registers is an enabled stream: `p` says what value and flags it gives, which join FFLAGS. With FEN zero it
always completes so, and otherwise when none of the flags that it raises is enabled (R131-R133). Where one is, it also completes, in a PLAIN kernel, and its strand parks
with the exception message sent (R133). -/
def FOp (i : Instr) (regs : List Reg) (d : Reg) (p : Ctx → Word → BitVec 5 → Prop) : Prop :=
  ∀ (s : State) (id : Nat) (c : Ctx), Runs s id c i → (∀ r, r ∈ d :: regs → streamOn c.streams r = none) →
    (c.fen = 0#5 → ∃ v fl, p c v fl ∧ exec i s = .next (s.upd id fun x => ((x.setF d v).raise fl).retired (c.pc + 4#64))) ∧
    (∃ v fl, p c v fl ∧ (fl &&& c.fen = 0#5 → exec i s = .next (s.upd id fun x => ((x.setF d v).raise fl).retired (c.pc + 4#64))) ∧
      (fl &&& c.fen ≠ 0#5 → MaySend s c → ∃ t, exec i s = .next t ∧ Excepted s t id c (c.setF d v) i fl ∧ t.glob = s.glob ∧ t.ltiles = s.ltiles))

/-- A lane-wise arithmetic instruction of two sources; `f` gives the exact result of the lanes' values in a rounding mode. -/
def FArith2 (mk : Reg → Reg → Reg → RM → ET → Instr) (f : RM → Sys2Proof.Machine.Num → Sys2Proof.Machine.Num → Sys2Proof.Machine.Num × BitVec 5) : Prop :=
  ∀ d a b rm et, FOp (mk d a b rm et) [a, b] d fun c v fl => LaneWise et.width (64 / et.width) v fl fun k =>
    let x := f (modeOf rm c.sample) (numOf et (lane et.width (c.getF a) k)) (numOf et (lane et.width (c.getF b) k))
    ((roundNum et (modeOf rm c.sample) (satOf c.sample) false x.1).1, x.2 ||| (roundNum et (modeOf rm c.sample) (satOf c.sample) false x.1).2)

/-- A fused multiply and add: the product and the addend fD enter with the signs given, and round once. -/
def FFused (mk : Reg → Reg → Reg → RM → ET → Instr) (np nd : Bool) : Prop :=
  ∀ d a b rm et, FOp (mk d a b rm et) [a, b] d fun c v fl => LaneWise et.width (64 / et.width) v fl fun k =>
    let x := fmaNum (modeOf rm c.sample) np nd (numOf et (lane et.width (c.getF a) k)) (numOf et (lane et.width (c.getF b) k)) (numOf et (lane et.width (c.getF d) k))
    ((roundNum et (modeOf rm c.sample) (satOf c.sample) false x.1).1, x.2 ||| (roundNum et (modeOf rm c.sample) (satOf c.sample) false x.1).2)

/-- A sign operation: every bit of fA is kept but the sign bit of each lane, which `f` gives from the lanes' sign bits. -/
def SignOp (et : ET) (a b v : Word) (f : Bool → Bool → Bool) : Prop :=
  ∀ j, j < 64 → v.getLsbD j = if j % et.width = et.width - 1 then f (a.getLsbD j) (b.getLsbD j) else a.getLsbD j

end Sys2Proof.Stated

/-- R80, R131-R137, R146: the arithmetic instructions give each lane's exact result rounded once by the mode of the qualifier or of the FRM sample,
and raise the flags of all lanes.
R54, R138, R139, R141, R146: minimum and maximum, the sign operations, the compares, FCLASS, the moves and FSHUF. -/
def Obligations.FloatOperations : Prop :=
  (
    Stated.FArith2 .fadd (fun md x y => addNum md x y) ∧ Stated.FArith2 .fsub (fun md x y => addNum md x (negNum y)) ∧
    Stated.FArith2 .fmul (fun _ x y => mulNum x y) ∧ Stated.FArith2 .fdiv (fun _ x y => divNum x y) ∧
    Stated.FFused .fma false false ∧ Stated.FFused .fms false true ∧ Stated.FFused .fnma true false ∧ Stated.FFused .fnms true true ∧
    (∀ d a rm et, Stated.FOp (.fsqrt d a rm et) [a] d fun c v fl => Stated.LaneWise et.width (64 / et.width) v fl fun k =>
      let x := sqrtNum (numOf et (lane et.width (c.getF a) k))
      ((roundNum et (modeOf rm c.sample) (satOf c.sample) false x.1).1, x.2 ||| (roundNum et (modeOf rm c.sample) (satOf c.sample) false x.1).2)) ∧
    (∀ d a rm et, Stated.FOp (.fsum d a rm et) [a] d fun c v fl => ∃ x : Sys2Proof.Machine.Num × BitVec 5,
      x = sumLanes (modeOf rm c.sample) ((List.range (64 / et.width)).map fun k => numOf et (lane et.width (c.getF a) k)) ∧
      v = BitVec.ofNat 64 (roundNum et (modeOf rm c.sample) (satOf c.sample) false x.1).1 ∧ fl = x.2 ||| (roundNum et (modeOf rm c.sample) (satOf c.sample) false x.1).2) ∧
    (∀ d et imm, Stated.FOp (.faddImm d et imm) [] d fun c v fl => Stated.LaneWise et.width (64 / et.width) v fl fun k =>
      let x := addNum (modeOf .dyn c.sample) (numOf et (lane et.width (c.getF d) k)) (numOf et (lane et.width (broadcast et imm) k))
      ((roundNum et (modeOf .dyn c.sample) (satOf c.sample) false x.1).1, x.2 ||| (roundNum et (modeOf .dyn c.sample) (satOf c.sample) false x.1).2)) ∧
    (∀ d et imm, Stated.FOp (.fmulImm d et imm) [] d fun c v fl => Stated.LaneWise et.width (64 / et.width) v fl fun k =>
      let x := mulNum (numOf et (lane et.width (c.getF d) k)) (numOf et (lane et.width (broadcast et imm) k))
      ((roundNum et (modeOf .dyn c.sample) (satOf c.sample) false x.1).1, x.2 ||| (roundNum et (modeOf .dyn c.sample) (satOf c.sample) false x.1).2))) ∧
  (
    (∀ d a b et, Stated.FOp (.fmin d a b et) [a, b] d fun c v fl => fl = 0#5 ∧ ∀ k, k < 64 / et.width → ∀ x y,
      x = lane et.width (c.getF a) k → y = lane et.width (c.getF b) k →
      (numOf et x = .nan → numOf et y = .nan → lane et.width v k = nanBits et) ∧ (numOf et x = .nan → numOf et y ≠ .nan → lane et.width v k = y) ∧
      (numOf et x ≠ .nan → numOf et y = .nan → lane et.width v k = x) ∧
      (numOf et x ≠ .nan → numOf et y ≠ .nan → (ltNum (numOf et x) (numOf et y) = true → lane et.width v k = x) ∧ (ltNum (numOf et y) (numOf et x) = true → lane et.width v k = y))) ∧
    (∀ d a b et, Stated.FOp (.fmax d a b et) [a, b] d fun c v fl => fl = 0#5 ∧ ∀ k, k < 64 / et.width → ∀ x y,
      x = lane et.width (c.getF a) k → y = lane et.width (c.getF b) k →
      (numOf et x = .nan → numOf et y = .nan → lane et.width v k = nanBits et) ∧ (numOf et x = .nan → numOf et y ≠ .nan → lane et.width v k = y) ∧
      (numOf et x ≠ .nan → numOf et y = .nan → lane et.width v k = x) ∧
      (numOf et x ≠ .nan → numOf et y ≠ .nan → (ltNum (numOf et x) (numOf et y) = true → lane et.width v k = y) ∧ (ltNum (numOf et y) (numOf et x) = true → lane et.width v k = x))) ∧
    (∀ d a et, Stated.FOp (.fabs d a et) [a] d fun c v fl => fl = 0#5 ∧ Stated.SignOp et (c.getF a) (c.getF a) v fun _ _ => false) ∧
    (∀ d a et, Stated.FOp (.fneg d a et) [a] d fun c v fl => fl = 0#5 ∧ Stated.SignOp et (c.getF a) (c.getF a) v fun x _ => !x) ∧
    (∀ d a b et, Stated.FOp (.fsgnj d a b et) [a, b] d fun c v fl => fl = 0#5 ∧ Stated.SignOp et (c.getF a) (c.getF b) v fun _ y => y) ∧
    (∀ d a b et, Stated.FOp (.fcmpeq d a b et) [a, b] d fun c v fl => fl = 0#5 ∧ ∀ k, k < 64 / et.width →
      lane et.width v k = if eqNum (numOf et (lane et.width (c.getF a) k)) (numOf et (lane et.width (c.getF b) k)) then 2 ^ et.width - 1 else 0) ∧
    (∀ d a b et, Stated.FOp (.fcmplt d a b et) [a, b] d fun c v fl => Stated.LaneWise et.width (64 / et.width) v fl fun k =>
      let x := numOf et (lane et.width (c.getF a) k)
      let y := numOf et (lane et.width (c.getF b) k)
      if x = .nan ∨ y = .nan then (0, 0x10#5) else (if ltNum x y then 2 ^ et.width - 1 else 0, 0#5)) ∧
    (∀ d a b et, Stated.FOp (.fcmple d a b et) [a, b] d fun c v fl => Stated.LaneWise et.width (64 / et.width) v fl fun k =>
      let x := numOf et (lane et.width (c.getF a) k)
      let y := numOf et (lane et.width (c.getF b) k)
      if x = .nan ∨ y = .nan then (0, 0x10#5) else (if ltNum x y || eqNum x y then 2 ^ et.width - 1 else 0, 0#5)) ∧
    (∀ d a et, Stated.FOp (.fclass d a et) [a] d fun c v fl => fl = 0#5 ∧ ∀ k, k < 64 / et.width → ∀ x, x = lane et.width (c.getF a) k →
      (lane et.width v k = 8 ↔ numOf et x = .nan) ∧ (lane et.width v k = 0 ↔ numOf et x = .inf true) ∧ (lane et.width v k = 7 ↔ numOf et x = .inf false) ∧
      (lane et.width v k = 3 ↔ x = 2 ^ (et.width - 1)) ∧ (lane et.width v k = 4 ↔ x = 0)) ∧
    (∀ d a, Stated.FOp (.fmvFF d a) [a] d fun c v fl => fl = 0#5 ∧ v = c.getF a) ∧
    (∀ d a, Stated.FOp (.fmvFG d a) [] d fun c v fl => fl = 0#5 ∧ v = c.getG a) ∧
    (∀ (s : State) (id : Nat) (c : Ctx) d a, Stated.Runs s id c (.fmvGF d a) → streamOn c.streams a = none → exec (.fmvGF d a) s = .next (s.finishG id d (c.getF a) 4)) ∧
    (∀ d a b et, Stated.FOp (.fshuf d a b et) [a] d fun c v fl => fl = 0#5 ∧ ∀ k, k < 64 / et.width →
      lane et.width v k = if (c.getG b).toNat / 16 ^ k % 16 < 64 / et.width then lane et.width (c.getF a) ((c.getG b).toNat / 16 ^ k % 16) else 0) ∧
    (∀ d et imm, Stated.FOp (.fmvImm d et imm) [] d fun _ v fl => fl = 0#5 ∧
      (et = .f32 → ∀ k, k < 2 → lane 32 v k = imm.toNat * 65536) ∧ (et ≠ .f32 → ∀ k, k < 4 → lane 16 v k = imm.toNat)))

namespace Sys2Proof.Stated

/-- A magnitude n/d between two neighbours a/b and a'/b', of which the lower has bits `lo`, rounds to the upper one (R73). -/
def roundsUp (md : RM) (neg : Bool) (lo n d a b a' b' : Nat) : Bool :=
  match md with
  | .rne => decide ((a * b' + a' * b) * d < 2 * n * b * b') || (decide ((a * b' + a' * b) * d = 2 * n * b * b') && decide (lo % 2 = 1))
  | .rna => decide ((a * b' + a' * b) * d ≤ 2 * n * b * b')
  | .rtz => false
  | .rdn => neg
  | .rup => !neg
  | .dyn => false

/-- Between the largest subnormal a/b and the smallest normal a'/b', it rounds to the normal also with no lower bound on the exponent: to half their distance (R76). -/
def notTiny (md : RM) (neg : Bool) (n d a b a' b' : Nat) : Bool :=
  match md with
  | .rne => decide ((a * b' + 3 * a' * b) * d ≤ 4 * n * b * b')
  | .rna => decide ((a * b' + 3 * a' * b) * d ≤ 4 * n * b * b')
  | .rtz => false
  | .rdn => neg && decide ((a * b' + a' * b) * d < 2 * n * b * b')
  | .rup => !neg && decide ((a * b' + a' * b) * d < 2 * n * b * b')
  | .dyn => false

/-- The overflow result (R75); `sat` is FRM.SAT for E4M3. -/
def overflow (et : ET) (md : RM) (sat neg : Bool) : Nat :=
  let signed (v : Nat) : Nat := if neg then 2 ^ (et.width - 1) + v else v
  if et = .e4m3 then (if sat then signed 0x7E else 0x7F)
  else if md = .rtz ∨ (md = .rdn ∧ neg = false) ∨ (md = .rup ∧ neg = true) then signed (maxFin et) else signed (infBits et)

end Sys2Proof.Stated

/-- R70, R73-R76, of the five modes and in terms of the values that bits denote: rounding a value that a format represents gives that value's own bits and raises no
flag; a value between two neighbours gives the one that the mode takes, ties as R73 breaks them, with NX, and with UF where it is tiny after rounding; a value above the
largest finite gives that or the overflow result of R75, with OF and NX; and what an infinity and a NaN give. -/
def Obligations.RoundingIsExact : Prop :=
  (∀ (et : ET) (md : RM) (satE satAll neg : Bool) (n d v : Nat), v < 2 ^ et.width → numOf et v = .fin neg n d →
    roundNum et md satE satAll (.fin neg n d) = (v, 0#5)) ∧
  (∀ (et : ET) (md : RM) (satE satAll neg : Bool) (n d lo a b a' b' : Nat), md ≠ .dyn → lo < maxFin et → numOf et lo = .fin false a b → numOf et (lo + 1) = .fin false a' b' →
    0 < d → a * d < n * b → n * b' < a' * d →
    (roundNum et md satE satAll (.fin neg n d)).1 =
      (if neg then 2 ^ (et.width - 1) else 0) + (if Stated.roundsUp md neg lo n d a b a' b' then lo + 1 else lo) ∧
    (2 ^ fracW et ≤ lo → (roundNum et md satE satAll (.fin neg n d)).2 = 0x01#5) ∧
    (lo + 1 < 2 ^ fracW et → (roundNum et md satE satAll (.fin neg n d)).2 = 0x03#5) ∧
    (lo + 1 = 2 ^ fracW et → (roundNum et md satE satAll (.fin neg n d)).2 = if Stated.notTiny md neg n d a b a' b' then 0x01#5 else 0x03#5)) ∧
  (∀ (et : ET) (md : RM) (sat neg : Bool) (n d a a0 b : Nat), md ≠ .dyn → numOf et (maxFin et) = .fin false a b → numOf et (maxFin et - 1) = .fin false a0 b → 0 < d →
    a * d < n * b →
    roundNum et md sat false (.fin neg n d) =
      if (2 * a - a0) * d ≤ n * b ∨ Stated.roundsUp md neg (maxFin et) n d a b (2 * a - a0) b = true then (Stated.overflow et md sat neg, 0x05#5)
      else ((if neg then 2 ^ (et.width - 1) else 0) + maxFin et, 0x01#5)) ∧
  (∀ (et : ET) (md : RM) (sat neg : Bool), roundNum et md sat false .nan = (nanBits et, 0#5) ∧
    (et ≠ .e4m3 → roundNum et md sat false (.inf neg) = ((if neg then 2 ^ (et.width - 1) else 0) + infBits et, 0#5)) ∧
    (et = .e4m3 → roundNum et md sat false (.inf neg) = (Stated.overflow et md sat neg, 0x10#5)))

/-- R140, R142-R145: the conversions.
R133, R134: an instruction that raises an enabled flag, each of those above and of FloatOperations in a PLAIN kernel, writes its result and FFLAGS and sends its
exception message, a call to the core and channel that FSUP names, and its strand parks before the next instruction (the clause of `Stated.FOp`); PARK_RESUME leaves
it parked until the return has come, which changes no register, and then makes it READY. -/
def Obligations.ConversionsAndExceptions : Prop :=
  (
    (∀ d a b dst et, 2 * dst.width = et.width → Stated.FOp (.fpack d a b dst et) [a, b] d fun c v fl => Stated.LaneWise dst.width (64 / dst.width) v fl fun k =>
      roundNum dst (modeOf .dyn c.sample) (satOf c.sample) false
        (numOf et (if k < 64 / et.width then lane et.width (c.getF a) k else lane et.width (c.getF b) (k - 64 / et.width)))) ∧
    (∀ d a hi dst et, dst.width = 2 * et.width → Stated.FOp (.funpk d a hi dst et) [a] d fun c v fl => fl = 0#5 ∧ ∀ k, k < 64 / dst.width →
      ∃ x, x = lane et.width (c.getF a) ((if hi then 64 / et.width / 2 else 0) + k) ∧
        lane dst.width v k = (roundNum dst .rne false false (numOf et x)).1 % 2 ^ dst.width) ∧
    (∀ d a sat rm dst et, Stated.FOp (.fcvt d a sat rm dst et) [a] d fun c v fl =>
      Stated.LaneWise dst.width (min (64 / et.width) (64 / dst.width)) v fl fun k =>
        roundNum dst (modeOf rm c.sample) (satOf c.sample) sat (numOf et (lane et.width (c.getF a) k))) ∧
    (∀ d a sat rm it et, Stated.FOp (.fcvti d a sat rm it et) [a] d fun c v fl =>
      Stated.LaneWise (itBits it) (min (64 / et.width) (64 / itBits it)) v fl fun k => cvtiLane et (itBits it) (modeOf rm c.sample) sat (lane et.width (c.getF a) k)) ∧
    (∀ d a sat rm dst it, Stated.FOp (.fcvtf d a sat rm dst it) [a] d fun c v fl =>
      Stated.LaneWise dst.width (min (64 / itBits it) (64 / dst.width)) v fl fun k =>
        roundNum dst (modeOf rm c.sample) (satOf c.sample) sat (.fin (decide (Stated.sgn (itBits it) (lane (itBits it) (c.getF a) k) < 0))
          (Stated.sgn (itBits it) (lane (itBits it) (c.getF a) k)).natAbs 1))) ∧
  (
    (∀ (s : State) (c : Ctx), s.ctx? s.ev.id = some c → c.id = s.ev.id → c.run = .parked → c.held = none → c.spilled = false → c.switched = false → s.kernelRuns c.kid = true →
      (c.wait = .excReturn → exec .parkResume s = .next s) ∧
      (c.wait = .none → ∃ (t : State) (c' : Ctx), exec .parkResume s = .next t ∧ t.ctx? s.ev.id = some c' ∧ c'.run = .ready ∧ c'.pc = c.pc ∧ c'.g = c.g ∧ c'.f = c.f)) ∧
    (∀ (s : State) (f : Flit) (k : Key) (id n : Nat) (c : Ctx), s.ctx? id = some c → c.wait = .excReturn → s.isWarp f.kid = false →
      ∃ (c' : Ctx), (s.takeReturn f k id n false).ctx? id = some c' ∧ c'.wait = .none ∧ c'.run = c.run ∧ c'.pc = c.pc ∧ c'.g = c.g ∧ c'.f = c.f ∧ c'.fflags = c.fflags))
/-! ## Special functions and streams -/

/-- R147, R148, R150, R153: an SFU instruction issues its operand and FRM sample to the SFU's queue and parks; when the SFU returns its oldest request
the strand's fD takes ROUND32 of the function of both lanes, FFLAGS their flags, and the instruction completes; an uncorrectable error traps SFU_ERROR
with FUNC in EINFO. The function's value is the model's evaluation of it, which is presumed precise enough to round as R147 says (log entry 7), and requests that
enter in one nanosecond enter in the same cycle (log entry 119). -/
def Obligations.SpecialFunctions : Prop :=
  ∀ (d a : Reg) (rm : RM) (i : Instr) (func : Nat),
    (i, func) ∈ [(Instr.fexp2 d a rm, 0), (.flog2 d a rm, 1), (.frcp d a rm, 2), (.frsq d a rm, 3), (.fsin d a rm, 4), (.fcos d a rm, 5), (.ftanh d a rm, 6), (.flgst d a rm, 7)] →
    (∀ (s : State) (id : Nat) (c : Ctx), Stated.Runs s id c i → c.held = none → streamOn c.streams a = none → streamOn c.streams d = none → (s.sfuQueue (s.sfuNo c)).length < 16 →
      ∃ (t : State) (c' : Ctx), exec i s = .next t ∧ t.ctx? id = some c' ∧ c'.run = .parked ∧ c'.wait = .sfuResult ∧
        c'.held = some { instr := i, sample := c.frm, stage := 1, vals := [c.getF a] } ∧ c'.pc = c.pc ∧ c'.f = c.f ∧
        -- at the tail, but before the requests that enter in the same cycle from strands of higher numbers
        ∃ q1 q2, s.sfuQueue (s.sfuNo c) = q1 ++ q2 ∧ t.sfuQueue (s.sfuNo c) = q1 ++ id :: q2 ∧
          (∀ x, x ∈ q1 → ¬((s.ctxD x).parkedAt = s.tbase ∧ s.strandNo c < s.strandNo (s.ctxD x))) ∧
          (∀ x, q2.head? = some x → (s.ctxD x).parkedAt = s.tbase ∧ s.strandNo c < s.strandNo (s.ctxD x))) ∧
    (∀ (s : State) (id : Nat) (c : Ctx), Stated.Runs s id c i → c.held = none → streamOn c.streams a = none → streamOn c.streams d = none → 16 ≤ (s.sfuQueue (s.sfuNo c)).length →
      exec i s = .next (s.parkAt id i .sfuEntry 1 0 [c.getF a])) ∧
    (∀ (s : State) (id : Nat) (c : Ctx) (q : List Nat) h, s.sfuQueue s.ev.id = id :: q → s.ctx? id = some c → c.wait = .sfuResult → c.held = some h → h.instr = i → s.kernelRuns c.kid = true →
      (s.ev.id < 1024 → s.leasedOut s.ev.id (s.partOf c.kid) = false) → streamOn c.streams a = none → streamOn c.streams d = none →
      (s.ev.flag = false → ∃ v fl, Stated.LaneWise 32 2 v fl (fun k => sfuLane func (modeOf rm h.sample) (lane 32 (h.vals.getD 0 0#64) k)) ∧
        (fl &&& c.fen = 0#5 → ∃ (t : State) (c' : Ctx), exec .sfuResult s = .next t ∧ t.ctx? id = some c' ∧ c'.f = (c.setF d v).f ∧ c'.fflags = c.fflags ||| fl ∧ c'.run = .ready ∧
          c'.held = none ∧ c'.g = c.g ∧ (c.rep = none → c'.pc = c.pc + 4#64) ∧ t.sfuQueue s.ev.id = q)) ∧
      (s.ev.flag = true → exec .sfuResult s = .next ((s.setSfu s.ev.id q).trap id 0x0F#8 (BitVec.ofNat 64 func))))

/-- R151, R152, R154-R156: configuring, enabling and reading a stream's state, with SCFG's and SDIM's traps; and that an enabled read stream
gives the element at its current address and advances. -/
def Obligations.Streams : Prop :=
  (∀ (s : State) (id : Nat) (c : Ctx) (d a b : Reg) dir ndim (n : BitVec 32), Stated.Runs s id c (.scfg d a b dir ndim n) → 28 ≤ d.toNat →
    ((c.getG a + n.signExtend 64).toNat % 16 ≠ 0 → exec (.scfg d a b dir ndim n) s = .next (s.trap id 0x02#8 (c.getG a + n.signExtend 64))) ∧
    ((c.getG a + n.signExtend 64).toNat % 16 = 0 → s.sOf c ≤ (c.getG a + n.signExtend 64).toNat →
      exec (.scfg d a b dir ndim n) s = .next (s.trap id 0x05#8 (c.getG a + n.signExtend 64))) ∧
    ((c.getG a + n.signExtend 64).toNat % 16 = 0 → (c.getG a + n.signExtend 64).toNat < s.sOf c → (c.getG a + n.signExtend 64).toNat < 2 ^ 20 →
      ∃ (c' : Ctx) (x : _), exec (.scfg d a b dir ndim n) s = .next { s with ctxs := mset id c' s.ctxs } ∧ c'.streams.toList[d.toNat - 28]? = some x ∧
        x.en = false ∧ x.ended = false ∧ x.dir = dir ∧ x.ndim = ndim ∧ 16 * x.base16.toNat = (c.getG a + n.signExtend 64).toNat ∧
        x.bound = Vector.replicate 4 0#12 ∧ x.idx = Vector.replicate 4 0#12 ∧
        (∀ k, k < 4 → x.stride.toList[k]? = some ((c.getG b).extractLsb' (16 * k) 16)) ∧ c'.g = c.g ∧ c'.f = c.f ∧ (c.rep = none → c'.pc = c.pc + 12#64))) ∧
  (∀ (s : State) (id : Nat) (c : Ctx) (d a : Reg) old, Stated.Runs s id c (.sdim d a) → 28 ≤ d.toNat → c.streams.toList[d.toNat - 28]? = some old →
    ((∀ k, k ≤ old.ndim.toNat → 1 ≤ (c.getG a).toNat / 65536 ^ k % 65536 ∧ (c.getG a).toNat / 65536 ^ k % 65536 ≤ 4096) →
      ∃ (c' : Ctx) (x : _), exec (.sdim d a) s = .next { s with ctxs := mset id c' s.ctxs } ∧ c'.streams.toList[d.toNat - 28]? = some x ∧
        x.idx = Vector.replicate 4 0#12 ∧ x.ended = false ∧ x.en = old.en ∧ x.dir = old.dir ∧ x.ndim = old.ndim ∧ x.base16 = old.base16 ∧ x.stride = old.stride ∧
        ∀ k, k < 4 → ∃ b, x.bound.toList[k]? = some b ∧ b.toNat = if k ≤ old.ndim.toNat then (c.getG a).toNat / 65536 ^ k % 65536 - 1 else 0) ∧
    ((∃ k, k ≤ old.ndim.toNat ∧ ((c.getG a).toNat / 65536 ^ k % 65536 = 0 ∨ 4096 < (c.getG a).toNat / 65536 ^ k % 65536)) →
      exec (.sdim d a) s = .next (s.trap id 0x01#8 (c.getG a)))) ∧
  (∀ (s : State) (id : Nat) (c : Ctx) (d : Reg) old, 28 ≤ d.toNat → c.streams.toList[d.toNat - 28]? = some old →
    (Stated.Runs s id c (.sen d) → ∃ (c' : Ctx), exec (.sen d) s = .next { s with ctxs := mset id c' s.ctxs } ∧
      c'.streams.toList[d.toNat - 28]? = some { old with en := true } ∧ c'.f = c.f ∧ c'.g = c.g) ∧
    (Stated.Runs s id c (.sdis d) → ∃ (c' : Ctx), exec (.sdis d) s = .next { s with ctxs := mset id c' s.ctxs } ∧
      c'.streams.toList[d.toNat - 28]? = some { old with en := false } ∧ c'.f = c.f ∧ c'.g = c.g)) ∧
  (∀ (s : State) (id : Nat) (c : Ctx) (d a : Reg) x, Stated.Runs s id c (.sstat d a) → 28 ≤ a.toNat → c.streams.toList[a.toNat - 28]? = some x →
    ∃ v : Word, exec (.sstat d a) s = .next (s.finishG id d v 4) ∧ v.getLsbD 52 = x.ended ∧ v.getLsbD 51 = x.en ∧ v.getLsbD 50 = x.dir ∧
      v.extractLsb' 48 2 = x.ndim ∧ (∀ k, k < 4 → x.idx.toList[k]? = some (v.extractLsb' (12 * k) 12)) ∧ v.extractLsb' 53 11 = 0#11) ∧
  (∀ (s : State) (id : Nat) (c : Ctx) (d a : Reg) (k : Fin 4), Stated.Runs s id c (.fmvFF d a) → streamOn c.streams d = none → streamOn c.streams a = some k → c.streams[k].dir = false →
    c.streams[k].ended = false → 0 ≤ c.streams[k].addr → Stated.ScratchOk s c c.streams[k].addr.toNat 8 1 →
    ∃ (t : State) (c' : Ctx), exec (.fmvFF d a) s = .next t ∧ t.ctx? id = some c' ∧
      c'.f = (c.setF d (BitVec.ofNat 64 (leNat (memBytes (s.ltile c.ltk).scratch c.streams[k].addr.toNat 8)))).f ∧
      c'.streams = c.streams.set k c.streams[k].next ∧ t.ltiles = s.ltiles ∧ t.glob = s.glob)

/-! ## Queue registers -/

namespace Sys2Proof.Stated

/-- The state with clocks as given, and with strand `id`'s stamps: what it does from now on follows a place in the order (R167, R253). -/
def raised (s : State) (id : Nat) (cl : List (Nat × Clock)) (st aq : BitVec 48) : State :=
  ({ s with clocks := cl } : State).upd id fun c => { c with stamp := st, acq := aq }

/-- The arrived flit that the event names, which its kernel takes: the kernel is HELD or RUNNING in the flit's partition and has its logical tile
(R278), and its cores are not stopped (R412). -/
@[reducible] def Delivers (s : State) (f : Flit) : Prop :=
  s.arrival? s.ev.id = some f ∧ (s.accessState f.part f.kid = some .held ∨ s.accessState f.part f.kid = some .running) ∧ f.lt < (s.kernelD f.kid).tiles ∧
    s.kernelRuns f.kid = true

/-- The SEQ that the receiver recovers from the flit's source word is the one that its sender gave it (R288, R432). -/
def Recovers (s : State) (f : Flit) (k : Key) : Prop := k.seq = 0 ∨ nearestSeq (mgetD 0 (srcSender f.src) (s.lcore f.lck).seen) (srcSeq f.src) = k.seq

/-- The next state has put one acknowledgement of the flit into the fabric (R436), after those of accesses that its logical tile takes in as it records for a
cut (R421). -/
def Acked (s t : State) (f : Flit) : Prop :=
  ∃ l r, t.flits = s.flits ++ l ++ [r] ∧ r.carry = .ack f.fid none ∧ r.kind = 4 ∧ (f.cut = false ∨ s.taken = [] → l = [])

end Sys2Proof.Stated

/-- R249-R254: queue registers of a strand outside chains: reads of a port, whose reader follows the accesses before the QPUT, writes to one, binding, QSTAT, and
the arrival of a word. -/
def Obligations.QueueRegisters : Prop :=
  (∀ (s : State) (id : Nat) (c : Ctx) (d : Reg) (q : BitVec 3) v t, c.stage = none → qMode (c.qw q) = 1 → (s.port c.lck (qPort (c.qw q))).words = v :: t →
    (Stated.Runs s id c (.qget d q) → ∃ cl st aq, exec (.qget d q) s =
      .next ((Stated.raised (s.updPort c.lck (qPort (c.qw q)) fun p => { p with words := t }) id cl st aq).finishG id d v 4)) ∧
    (Stated.Runs s id c (.qpeek d q) → ∃ cl st aq, exec (.qpeek d q) s = .next ((Stated.raised s id cl st aq).finishG id d v 4)) ∧
    (Stated.Runs s id c (.qtry d q) → ∃ cl st aq, exec (.qtry d q) s =
      .next ((Stated.raised (s.updPort c.lck (qPort (c.qw q)) fun p => { p with words := t }) id cl st aq).upd id fun x =>
        ((x.setG d v).setG (d + 1#5) 1#64).retired (c.pc + 4#64)))) ∧
  (∀ (s : State) (id : Nat) (c : Ctx) (d : Reg) (q : BitVec 3), c.stage = none → qMode (c.qw q) = 1 → (s.port c.lck (qPort (c.qw q))).words = [] →
    (Stated.Runs s id c (.qget d q) → exec (.qget d q) s = .next (s.park id (.qget d q) (.portWord (qPort (c.qw q))))) ∧
    (Stated.Runs s id c (.qpeek d q) → exec (.qpeek d q) s = .next (s.park id (.qpeek d q) (.portWord (qPort (c.qw q))))) ∧
    (Stated.Runs s id c (.qtry d q) → exec (.qtry d q) s = .next (s.upd id fun x => ((x.setG d 0#64).setG (d + 1#5) 0#64).retired (c.pc + 4#64)))) ∧
  (∀ (s : State) (id : Nat) (c : Ctx) (d b : Reg) (q : BitVec 3), c.stage = none → qMode (c.qw q) = 2 → s.retxRoom c.lck = true → (s.port (c.portLc (c.qw q)) (qPort (c.qw q))).space ≠ 0 →
    (Stated.Runs s id c (.qput q b) → ∃ (t : State) (c' : Ctx) (f : Flit), exec (.qput q b) s = .next t ∧ t.flits = s.flits ++ [f] ∧ f.kind = 2 ∧ f.p0 = c.getG b ∧ f.chan = qPort (c.qw q) ∧
      f.lt = qLt (c.qw q) ∧ f.core = qCore (c.qw q) ∧ (t.port (c.portLc (c.qw q)) (qPort (c.qw q))).inflight = (s.port (c.portLc (c.qw q)) (qPort (c.qw q))).inflight + 1 ∧
      t.ctx? id = some c' ∧ c'.g = c.g ∧ c'.q = c.q) ∧
    (Stated.Runs s id c (.qtput d q b) → ∃ (t : State) (c' : Ctx) (f : Flit), exec (.qtput d q b) s = .next t ∧ t.flits = s.flits ++ [f] ∧ f.kind = 2 ∧ f.p0 = c.getG b ∧
      t.ctx? id = some c' ∧ c'.getG d = (if d = 0#5 then 0#64 else 1#64))) ∧
  (∀ (s : State) (id : Nat) (c : Ctx) (d b : Reg) (q : BitVec 3), c.stage = none → Stated.Runs s id c (.qtput d q b) → qMode (c.qw q) = 2 →
    (s.port (c.portLc (c.qw q)) (qPort (c.qw q))).space = 0 → exec (.qtput d q b) s = .next (s.finishG id d 0#64 4)) ∧
  (∀ (s : State) (id : Nat) (c : Ctx) (d b : Reg) (q : BitVec 3), Stated.Runs s id c (.qcfg d q b) →
    (s.isWarp c.kid = true → exec (.qcfg d q b) s = .next (s.trap id 0x01#8 (c.getG b))) ∧
    (s.isWarp c.kid = false → bits (c.getG b) 21 43 = 0 → (qMode (c.getG b) = 1 ∧ qCore (c.getG b) = 0 ∧ qLt (c.getG b) = 0 ∨
        qMode (c.getG b) = 2 ∧ qLt (c.getG b) < (s.kernelD c.kid).tiles) → qMode (c.qw q) = 0 → s.endTaken id c (c.getG b) = false →
      ∃ (t : State) (c' : Ctx), exec (.qcfg d q b) s = .next t ∧ t.ctx? id = some c' ∧ c'.qw q = c.getG b ∧ c'.getG d = 0#64 ∧
        (qMode (c.getG b) = 1 → (t.port c.lck (qPort (c.getG b))).reader = some id) ∧
        (qMode (c.getG b) = 2 → (t.port (lcKey c.kid (qLt (c.getG b)) (qCore (c.getG b))) (qPort (c.getG b))).writer = some id)) ∧
    (s.isWarp c.kid = false → c.getG b = 0#64 → s.wordsOut c (c.qw q) = false → ∃ (t : State) (c' : Ctx), exec (.qcfg d q b) s = .next t ∧ t.ctx? id = some c' ∧
      c'.qw q = 0#64 ∧ c'.getG d = 0#64)) ∧
  (∀ (s : State) (id : Nat) (c : Ctx) (d : Reg) (q : BitVec 3), Stated.Runs s id c (.qstat d q) → exec (.qstat d q) s = .next (s.finishG id d
    (BitVec.ofNat 64 ((c.qw q).toNat + s.qCount c q % 16 * 2 ^ 24)) 4)) ∧
  (∀ (s : State) (f : Flit) w, Stated.Delivers s f → f.carry = .queueWord w → ∃ (t : State), exec .queueWordArrival s = .next t ∧
    (t.port f.lck f.chan).words = (s.port f.lck f.chan).words ++ [f.p0] ∧ (t.lcore f.lck).received = (s.lcore f.lck).received + 1 ∧ Stated.Acked s t f)

/-! ## Messages -/

/-- R288-R291: SEND and SENDT in a PLAIN kernel put one message flit into the fabric, with the four payload words from gA, the destination of gB, the
activation's VRT or SENDT's own, and give the sequence number; where they trap ILLEGAL; and that they park while the retransmit buffer is full or the sender has a message
too old (R432). In a WARP kernel a message of the kernel to itself takes an output-log entry as it goes (R297), and SENDT must give it a greater VRT than the activation's.
R245, R257, R261, R278, R280, R291, R303, R304: arrivals at a core: a message is queued on its channel, or with KID 63 reaches the resident kernel, a call enters
the ready ring, a return writes the pending register of the caller, an antimessage takes its queued twin away; each is acknowledged. A straggler's arrival at a core with one
handled activation above it undoes that activation: its keep entry is restored, its output-log entry gives an antimessage, its commit entries and log entries are gone, and
its message is QUEUED again with its key unchanged, with the straggler. That it stands before the core's other items and needs no room is the model's choice
(notes/assumptions/118.md). -/
def Obligations.Messages : Prop :=
  (
    (∀ (s : State) (id : Nat) (c : Ctx) (d a b x : Reg) (n : BitVec 32) i v, (i = .send d a b ∧ v = c.item.vrt.toNat + 1 ∨ i = .sendt d a b x n ∧ v = (c.getG x).toNat + n.toNat) →
      Stated.Runs s id c i → s.isWarp c.kid = true → a.toNat ≤ 28 → bits (c.getG b) 0 32 = 0 → destChan (c.getG b) ≠ 15 →
      (destLocal (c.getG b) = true → destLt (c.getG b) < (s.kernelD c.kid).tiles) → v < 2 ^ 64 - 1 → destKid c.kid (c.getG b) = c.kid → s.destDev (c.getG b) = s.device.toNat →
      (v ≤ c.item.vrt.toNat → exec i s = .next (s.trap id 0x01#8 (BitVec.ofNat 64 v))) ∧
      (c.item.vrt.toNat < v → s.sendOk c = true → (s.lcore c.alck).logBytes + 32 ≤ (s.kernelD (lcKid c.alck)).keeplog →
        ∃ (t : State) (c' : Ctx) (f : Flit) (e : _), exec i s = .next t ∧ (t.lcore c.alck).outLog = (s.lcore c.alck).fossil.outLog ++ [e] ∧ e.by_ = c.item.key ∧
          e.key = { vrt := v, slt := c.lt, score := c.core, sstrand := c.sendStrand, seq := s.seqNext c } ∧ t.flits = s.flits ++ [f] ∧ f.carry = .message e.key none ∧ f.kind = 0 ∧
          f.kid = destKid c.kid (c.getG b) ∧ f.lt = destLt (c.getG b) ∧ f.core = destCore (c.getG b) ∧ f.chan = destChan (c.getG b) ∧ f.p0 = c.getG a ∧ f.p3 = c.getG (a + 3#5) ∧ f.vrt.toNat = v ∧
          t.ctx? id = some c' ∧ c'.getG d = (if d = 0#5 then 0#64 else BitVec.ofNat 64 (s.seqNext c)) ∧ t.glob = s.glob ∧ t.ltiles = s.ltiles)) ∧
    ∀ (s : State) (id : Nat) (c : Ctx) (d a b x : Reg) (n : BitVec 32) i v, (i = .send d a b ∧ v = c.item.vrt.toNat ∨ i = .sendt d a b x n ∧ v = (c.getG x).toNat + n.toNat) →
      Stated.Runs s id c i → s.isWarp c.kid = false → c.kid < 64 →
      (28 < a.toNat → exec i s = .next (s.trap id 0x01#8 (a.setWidth 64))) ∧
      (a.toNat ≤ 28 → (bits (c.getG b) 0 32 ≠ 0 ∨ destChan (c.getG b) = 15) → exec i s = .next (s.trap id 0x01#8 (c.getG b))) ∧
      (a.toNat ≤ 28 → bits (c.getG b) 0 32 = 0 → destChan (c.getG b) ≠ 15 → destLocal (c.getG b) = true → (s.kernelD c.kid).tiles ≤ destLt (c.getG b) →
        exec i s = .next (s.trap id 0x01#8 (c.getG b))) ∧
      (a.toNat ≤ 28 → bits (c.getG b) 0 32 = 0 → destChan (c.getG b) ≠ 15 → (destLocal (c.getG b) = true → destLt (c.getG b) < (s.kernelD c.kid).tiles) →
        v < 2 ^ 64 - 1 → (64 ≤ (s.lcore c.lck).retx.length ∨ s.agedSend c = true) → exec i s = .next (s.park id i .sendSpace)) ∧
      (a.toNat ≤ 28 → bits (c.getG b) 0 32 = 0 → destChan (c.getG b) ≠ 15 → destLocal (c.getG b) = false → 2 ^ 64 - 1 ≤ v → exec i s = .next (s.trap id 0x01#8 (BitVec.ofNat 64 v))) ∧
      (a.toNat ≤ 28 → bits (c.getG b) 0 32 = 0 → destChan (c.getG b) ≠ 15 → (destLocal (c.getG b) = true → destLt (c.getG b) < (s.kernelD c.kid).tiles) →
        v < 2 ^ 64 - 1 → s.sendOk c = true →
        ∃ (t : State) (c' : Ctx) (f : Flit), exec i s = .next t ∧ t.flits = s.flits ++ [f] ∧ f.kind = 0 ∧ f.dev = s.destDev (c.getG b) ∧ f.kid = destKid c.kid (c.getG b) ∧ f.lt = destLt (c.getG b) ∧
          f.core = destCore (c.getG b) ∧ f.chan = destChan (c.getG b) ∧ f.p0 = c.getG a ∧ f.p1 = c.getG (a + 1#5) ∧ f.p2 = c.getG (a + 2#5) ∧ f.p3 = c.getG (a + 3#5) ∧
          f.vrt.toNat = v ∧ t.ctx? id = some c' ∧ c'.getG d = (if d = 0#5 then 0#64 else BitVec.ofNat 64 (s.seqNext c)) ∧ (∀ r, r ≠ d → c'.getG r = c.getG r) ∧
          t.glob = s.glob ∧ t.ltiles = s.ltiles)) ∧
  (
    (∀ (s : State) (f : Flit) k ret, Stated.Delivers s f → f.carry = .message k ret → f.kind = 0 → f.kid ≠ 63 → f.chan < 15 → s.isWarp f.kid = false →
      (s.lcore f.lck).items.length + (s.lcore f.lck).heldIn.length < 64 → ((s.lcore f.lck).bindings.toList.getD f.chan {}).bound = true →
      ∃ (t : State) (m : Item), exec .messageArrival s = .next t ∧ (t.lcore f.lck).items = (s.lcore f.lck).items ++ [m] ∧ m.chan = f.chan ∧ m.p0 = f.p0 ∧ m.p1 = f.p1 ∧ m.p2 = f.p2 ∧ m.p3 = f.p3 ∧
        m.vrt = f.vrt ∧ m.src = f.src ∧ (t.lcore f.lck).received = (s.lcore f.lck).received + 1 ∧ Stated.Acked s t f) ∧
    (∀ (s : State) (f : Flit) k ret, s.arrival? s.ev.id = some f → f.carry = .message k ret → f.kind = 0 → f.kid = 63 →
      ∃ (t : State) (m : ResMsg), exec .messageArrival s = .next t ∧ t.resident = s.resident ++ [m] ∧ m.part = f.part ∧ m.item.chan = f.chan ∧ m.item.p0 = f.p0 ∧ m.item.p1 = f.p1 ∧
        m.item.p2 = f.p2 ∧ m.item.p3 = f.p3 ∧ m.item.vrt = f.vrt ∧ m.item.src = f.src ∧ Stated.Acked s t f) ∧
    (∀ (s : State) (f : Flit) k e ret, Stated.Delivers s f → f.carry = .call k e ret none → s.isWarp (lcKid f.lck) = false →
      (s.lcore f.lck).ring.length + (s.lcore f.lck).heldIn.length < 1024 →
      ∃ (t : State) (m : Item), exec .callArrival s = .next t ∧ (t.lcore f.lck).ring = (s.lcore f.lck).ring ++ [m] ∧ m.entry = some e ∧ m.chan = 15 ∧ m.ret = ret ∧ m.p0 = f.p0 ∧ m.vrt = f.vrt ∧
        Stated.Acked s t f) ∧
    (∀ (s : State) (f : Flit) k ctx d n (c : Ctx) (p : Pend), Stated.Delivers s f → f.carry = .retval k (.pendReg ctx d n) → (s.lcore f.lck).antis = [] → s.ctx? ctx = some c →
      c.pend.find? (fun q => q.is ctx n true) = some p → (∀ e, e ∈ s.ctxs → e.1 ≠ ctx → e.2.pend.any (fun q => q.is ctx n true) = false) → s.isWarp f.kid = false →
      ∃ (t : State) (c' : Ctx), exec .returnArrival s = .next t ∧ t.ctx? ctx = some c' ∧ c'.getG p.d = (if p.d = 0#5 then 0#64 else f.p0) ∧
        (∀ r, r ≠ p.d → c'.getG r = c.getG r) ∧ c'.pend = c.pend.filter (fun q => !q.is ctx n true) ∧ c'.pc = c.pc ∧ Stated.Acked s t f) ∧
    (∀ (s : State) (f : Flit) k (h : Handled) (e : KeepEntry) (o : OutEntry), Stated.Delivers s f → f.carry = .message k none → f.kind = 0 → f.kid ≠ 63 → f.chan < 15 → f.cut = false →
      Stated.Recovers s f k → s.isWarp f.kid = true → s.inside f k = true → (s.lcore f.lck).antis = [] →
      (s.lcore f.lck).items.length + (s.lcore f.lck).heldIn.length < 64 → ((s.lcore f.lck).bindings.toList.getD f.chan {}).bound = true → (∀ x, x ∈ s.ctxs → x.2.alck ≠ f.lck) →
      (s.kernelD f.kid).chains = [] → (s.kernelD f.kid).cut = none → (s.kernelD f.kid).lastCut = none → (s.lcore f.lck).handled = [h] → h.item.chan ≠ 15 → k.lt h.item.key = true →
      (s.lcore f.lck).keepLog = [e] → e.by_ = h.item.key → e.slot = none → e.off % 64 = 0 → e.old.length = 64 → (s.ltile e.lt).codelets = [] →
      (s.lcore f.lck).outLog = [o] → o.by_ = h.item.key → o.rto = none → (∀ x, x ∈ (s.lcore f.lck).commitQ → x.by_ = h.item.key) →
      ∃ (t : State) (m m' : Item) (g : Flit), exec .messageArrival s = .next t ∧ (t.lcore f.lck).items = m' :: (s.lcore f.lck).items ++ [m] ∧ m'.key = h.item.key ∧ m'.chan = h.item.chan ∧
        m'.p0 = h.item.p0 ∧ m'.vrt = h.item.vrt ∧ m.key = k ∧ m.p0 = f.p0 ∧ (t.lcore f.lck).handled = [] ∧ (t.lcore f.lck).keepLog = [] ∧ (t.lcore f.lck).outLog = [] ∧
        (t.lcore f.lck).commitQ = [] ∧ memBytes (t.ltile e.lt).scratch e.off 64 = e.old ∧
        g ∈ (t.lcore (lcKey f.kid o.key.slt o.key.score)).retx ∧ g.carry = .anti o.key ∧ g.kind = 1 ∧ g.dev = bits o.hdr 58 6 ∧ g.kid = bits o.hdr 48 6 ∧ g.lt = bits o.hdr 36 12 ∧
        g.core = bits o.hdr 33 3 ∧ g.chan = bits o.hdr 29 4) ∧
    (∀ (s : State) (f : Flit) k, Stated.Delivers s f → f.carry = .anti k → Stated.Recovers s f k → (s.lcore f.lck).items.any (fun m => decide (m.key = k) && !m.admitted) = true →
      ∃ (t : State), exec .antimessageArrival s = .next t ∧ (t.lcore f.lck).items = (s.lcore f.lck).items.filter (fun m => decide (m.key ≠ k) || m.admitted) ∧ Stated.Acked s t f))

/-- R293, R295, R299, R302, R305, R307, R308: keep regions, irrevocability, virtual time and cancelling; a store's first write to a block of a keep region, which
the keep log holds as it was; and a delivery, which performs a committed store. -/
def Obligations.WarpInstructions : Prop :=
  (∀ (s : State) (id : Nat) (c : Ctx) i b sz ea len, Stated.Runs s id c i → Stated.IsStore i c b sz ea len → sz ≠ .q → c.shipped = none → ea + szBytes sz ≤ s.sOf c → ea + szBytes sz ≤ 2 ^ 20 →
    ea % szBytes sz = 0 → s.ev.flag = false → s.spec c = true → s.isWarp (lcKid c.alck) = true → (s.ltile c.ltk).keeps? ea = true → (s.ltile c.ltk).codelets = [] →
    (∀ e, e ∈ (s.lcore c.alck).blockKeys → e.1 = blockNo c.ltk (ea / 64 * 64) → c.item.key.lt e.2 = false) →
    (∀ e, e ∈ (s.lcore c.alck).keepLog → e.by_ ≠ c.item.key) → (s.lcore c.alck).kmin.above c.item.key = false → (s.lcore c.alck).logBytes + 128 ≤ (s.kernelD (lcKid c.alck)).keeplog →
    ∃ (t : State) (c' : Ctx), exec i s = .next t ∧ (t.lcore c.alck).keepLog = (s.lcore c.alck).fossil.keepLog ++
        [{ by_ := c.item.key, lt := c.ltk, off := ea / 64 * 64, old := memBytes (s.ltile c.ltk).scratch (ea / 64 * 64) 64, slot := none }] ∧
      (blockNo c.ltk (ea / 64 * 64), c.item.key) ∈ (t.lcore c.alck).blockKeys ∧ (t.ltile c.ltk).scratch = memPut (s.ltile c.ltk).scratch ea (Stated.stored c sz b) ∧
      t.glob = s.glob ∧ t.ctx? id = some c' ∧ c'.g = c.g ∧ (c.rep = none → c'.pc = c.pc + BitVec.ofNat 64 len)) ∧
  (∀ (s : State) (id : Nat) (c : Ctx) (d a b : Reg) (k : Fin 12), Stated.Runs s id c (.keep d a b) → (c.getG a).toNat % 64 = 0 → (c.getG b).toNat % 64 = 0 → c.getG b ≠ 0#64 →
    (c.getG a).toNat + (c.getG b).toNat ≤ s.sOf c → (s.ltile c.ltk).keeps[k] = none → (∀ j : Fin 12, j < k → (s.ltile c.ltk).keeps[j].isSome = true) →
    (∀ r, some r ∈ (s.ltile c.ltk).keeps.toList → (c.getG a).toNat + (c.getG b).toNat ≤ r.1 ∨ r.1 + r.2 ≤ (c.getG a).toNat) →
    ∃ (t : State) (c' : Ctx), exec (.keep d a b) s = .next t ∧ (t.ltile c.ltk).keeps = (s.ltile c.ltk).keeps.set k (some ((c.getG a).toNat, (c.getG b).toNat)) ∧ t.ctx? id = some c' ∧
      c'.getG d = (if d = 0#5 then 0#64 else BitVec.ofNat 64 k.val)) ∧
  (∀ (s : State) (id : Nat) (c : Ctx) (a : Reg) (k : Fin 12) n, Stated.Runs s id c (.unkeep a) → (s.ltile c.ltk).keeps[k] = some ((c.getG a).toNat, n) →
    (∀ j : Fin 12, j < k → ∀ m : Nat, (s.ltile c.ltk).keeps[j] ≠ some ((c.getG a).toNat, m)) →
    ∃ (t : State), exec (.unkeep a) s = .next t ∧ (t.ltile c.ltk).keeps = (s.ltile c.ltk).keeps.set k none) ∧
  (∀ (s : State) (id : Nat) (c : Ctx), Stated.Runs s id c .irrev →
    (s.isWarp c.kid = false ∨ c.irrevocable = true → exec .irrev s = .next (s.retire id (c.pc + 4#64))) ∧
    (s.isWarp c.kid = true → c.irrevocable = false → c.held.isSome = true → 2 ≤ c.irrevHits → ∃ (t : State) (c' : Ctx), exec .irrev s = .next t ∧ t.ctx? id = some c' ∧ c'.irrevocable = true ∧
      c'.run = .ready ∧ c'.g = c.g)) ∧
  (∀ (s : State) (id : Nat) (c : Ctx) (d a : Reg), Stated.Runs s id c (.gvtr d a) →
    (c.getG a = 0#64 → exec (.gvtr d a) s = .next (s.finishG id d (if s.isWarp c.kid then BitVec.ofNat 64 (s.lcore c.alck).gvt else 0#64) 4)) ∧
    (c.getG a ≠ 0#64 → s.isWarp c.kid = true → (c.getG a).toNat < c.item.vrt.toNat → (c.getG a).toNat < (s.lcore c.alck).gvt →
      exec (.gvtr d a) s = .next (s.finishG id d (BitVec.ofNat 64 (s.lcore c.alck).gvt) 4)) ∧
    (c.getG a ≠ 0#64 → s.isWarp c.kid = false → exec (.gvtr d a) s = .next (s.trap id 0x01#8 0#64)) ∧
    (c.getG a ≠ 0#64 → s.isWarp c.kid = true → c.item.vrt.toNat ≤ (c.getG a).toNat → exec (.gvtr d a) s = .next (s.trap id 0x01#8 (c.getG a)))) ∧
  (∀ (s : State) (id : Nat) (c : Ctx) (d a : Reg), Stated.Runs s id c (.anti d a) →
    (s.isWarp c.kid = false → exec (.anti d a) s = .next (s.trap id 0x01#8 (c.getG a))) ∧
    (s.isWarp c.kid = true → (∀ e, e ∈ (s.lcore c.alck).outLog → e.key.seq ≠ (c.getG a).toNat) → (s.lcore c.alck).commitQ = [] →
      exec (.anti d a) s = .next (s.finishG id d 0#64 4)) ∧
    (∀ e, s.isWarp c.kid = true → (s.lcore c.alck).outLog = [e] → e.by_ = c.item.key → e.key = { vrt := e.key.vrt, slt := c.lt, score := c.core, sstrand := c.sendStrand, seq := (c.getG a).toNat } →
      ∃ (t : State) (c' : Ctx), exec (.anti d a) s = .next t ∧ t.ctx? id = some c' ∧ c'.getG d = (if d = 0#5 then 0#64 else 1#64) ∧ (t.lcore c.alck).outLog = [])) ∧
  (∀ (s : State), s.isWarp (lcKid s.ev.id) = true → (s.lcore s.ev.id).owed = true → s.kernelRuns (lcKid s.ev.id) = true → (s.lcore s.ev.id).commitQ = [] →
    (∀ (m : Item), m ∈ (s.lcore s.ev.id).items → m.admitted = false) → (∀ e, e ∈ s.ctxs → e.2.trapWaits = false) →
    ∃ (t : State), exec .gvtDelivery s = .next t ∧ (t.lcore s.ev.id).kmin = (s.kernelD (lcKid s.ev.id)).kmin ∧ (t.lcore s.ev.id).owed = false ∧
      (t.lcore s.ev.id).deliveries = (s.lcore s.ev.id).deliveries + 1 ∧
      (∀ k, (s.kernelD (lcKid s.ev.id)).kmin = .key k → (t.lcore s.ev.id).gvt = k.vrt)) ∧
  (∀ (s : State) (e : CommitEntry) pa bs ea dt ef k, s.isWarp (lcKid s.ev.id) = true → (s.lcore s.ev.id).owed = true → s.kernelRuns (lcKid s.ev.id) = true →
    (s.lcore s.ev.id).commitQ = [e] → e.op = .store pa bs ea dt ef → e.sent = false → (s.kernelD (lcKid s.ev.id)).kmin = .key k → e.by_.lt k = true → apertureCtrl pa = none →
    (∀ x, x ∈ s.lcores → x.1 ≠ s.ev.id → x.2.commitQ = []) → (∀ x y, x ∈ s.lcores → y ∈ s.lcores → x.1 = y.1 → x = y) →
    (∀ (m : Item), m ∈ (s.lcore s.ev.id).items → m.admitted = false) → (∀ x, x ∈ s.ctxs → x.2.trapWaits = false) →
    ∃ (t : State), exec .gvtDelivery s = .next t ∧ t.glob = memPut s.glob pa bs ∧ (t.lcore s.ev.id).commitQ = [] ∧ lineOf pa ∈ t.dirty)

/-! ## Kernels -/

/-- R275, R282-R285: WID, KSTAT and KEND, and LAUNCH in its two forms; with their refusals, traps and parks. Of a header that breaks a rule while the entry table cannot be
read, and of a source word and ARG, log entry 120 says what the model chooses; no clause rests on it. -/
def Obligations.KernelInstructions : Prop :=
  (∀ (s : State) (id : Nat) (c : Ctx) (d a : Reg) (n : BitVec 5), Stated.Runs s id c (.wid d a n) →
    (n.toNat % 8 < 6 → n.toNat < 16 → ∀ low w, low = 64 - ((s.kernelD c.kid).widths.toList.take (n.toNat % 8 + 1)).sum → (s.kernelD c.kid).widths.toList[n.toNat % 8]? = some w →
      exec (.wid d a n) s = .next (s.finishG id d (if n.getLsbD 3 then BitVec.ofNat 64 ((c.getG a).toNat / 2 ^ low * 2 ^ low)
        else BitVec.ofNat 64 ((c.getG a).toNat / 2 ^ low % 2 ^ w)) 4)) ∧
    ((6 ≤ n.toNat % 8 ∨ 16 ≤ n.toNat) → exec (.wid d a n) s = .next (s.trap id 0x01#8 (n.setWidth 64)))) ∧
  (∀ (s : State) (id : Nat) (c : Ctx) (d a : Reg), Stated.Runs s id c (.kstat d a) →
    (∀ k, s.kernel? (c.getG a).toNat = some k → k.part = s.partOf c.kid → (c.getG a).toNat ≤ 63 → ∃ v : Word, exec (.kstat d a) s = .next (s.finishG id d v 4) ∧
      v.extractLsb' 60 4 = BitVec.ofNat 4 (match k.state with | .held => 1 | .running => 2 | .switched => 3 | .ending => 4 | .ended => 5 | .frozen => 6) ∧
      v.getLsbD 59 = k.warp ∧ v.extractLsb' 51 6 = BitVec.ofNat 6 k.parent ∧ v.extractLsb' 40 11 = BitVec.ofNat 11 (s.terr (c.getG a).toNat).length ∧
      v.extractLsb' 28 12 = BitVec.ofNat 12 (k.tiles - 1)) ∧
    ((c.getG a).toNat ≤ 63 → s.kernel? (c.getG a).toNat = none → exec (.kstat d a) s = .next (s.finishG id d 0#64 4)) ∧
    (63 < (c.getG a).toNat → exec (.kstat d a) s = .next (s.trap id 0x01#8 (c.getG a)))) ∧
  (∀ (s : State) (id : Nat) (c : Ctx) (d a : Reg), Stated.Runs s id c (.kend d a) →
    (s.isWarp c.kid = true → exec (.kend d a) s = .next (s.trap id 0x01#8 0#64)) ∧
    (s.isWarp c.kid = false → 62 < (c.getG a).toNat → exec (.kend d a) s = .next (s.trap id 0x01#8 (c.getG a))) ∧
    (s.isWarp c.kid = false → (c.getG a).toNat ≤ 62 → (c.getG a).toNat ≠ c.kid → s.isChild (c.getG a).toNat c.kid = false →
      exec (.kend d a) s = .next (s.finishG id d 0x8400000000000000#64 4)) ∧
    (∀ k, s.isWarp c.kid = false → (c.getG a).toNat ≤ 62 → ((c.getG a).toNat = c.kid ∨ s.isChild (c.getG a).toNat c.kid = true) →
      s.kernel? (c.getG a).toNat = some k → k.state = .running → (∀ e, e ∈ s.ctxs → e.1 = id → e.2 = c) → ∃ (t : State), exec (.kend d a) s = .next t ∧ (t.kernelD (c.getG a).toNat).state = .ending ∧
        (t.kernelD (c.getG a).toNat).cause = 1 ∧ (∀ e, e ∈ t.ctxs → e.2.kid ≠ (c.getG a).toNat) ∧
        ((c.getG a).toNat ≠ c.kid → ∃ (c' : Ctx), t.ctx? id = some c' ∧ c'.getG d = 0#64))) ∧
  (∀ (s : State) (id : Nat) (c : Ctx) (d a b : Reg), Stated.Runs s id c (.launch d a b) →
    (s.isWarp c.kid = true → exec (.launch d a b) s = .next (s.trap id 0x01#8 0#64)) ∧
    (s.isWarp c.kid = false → (c.getG a).toNat % 256 ≠ 0 → (c.getG a).getLsbD 0 = false → exec (.launch d a b) s = .next (s.trap id 0x01#8 (c.getG a))) ∧
    (s.isWarp c.kid = false → (c.getG a).getLsbD 0 = true → 2 ^ 7 ≤ (c.getG a).toNat → exec (.launch d a b) s = .next (s.trap id 0x01#8 (c.getG a))) ∧
    (s.isWarp c.kid = false → (c.getG a).toNat % 256 = 0 → (bits (c.getG b) 7 25 ≠ 0 ∨ (c.getG b).getLsbD 4 = true) → exec (.launch d a b) s = .next (s.trap id 0x01#8 (c.getG b))) ∧
    (s.isWarp c.kid = false → s.putsOut c = true → ((c.getG a).getLsbD 0 = true ∧ (c.getG a).toNat < 2 ^ 7 ∨
        (c.getG a).toNat % 256 = 0 ∧ bits (c.getG b) 7 25 = 0 ∧ (c.getG b).getLsbD 4 = false ∧ c.stageOf = 0) → exec (.launch d a b) s = .next (s.park id (.launch d a b) .puts)) ∧
    (∀ n, s.isWarp c.kid = false → n < 64 → (c.getG a).toNat = 2 * n + 1 → s.putsOut c = false → ((s.kernelD n).state ≠ .held ∨ s.isChild n c.kid = false) →
      exec (.launch d a b) s = .next (s.finishG id d 0x8400000000000000#64 4)) ∧
    -- the header is read, and the strand parks until firmware answers
    (s.isWarp c.kid = false → (c.getG a).toNat % 256 = 0 → bits (c.getG b) 7 25 = 0 → (c.getG b).getLsbD 4 = false → c.stageOf = 0 → s.putsOut c = false → Stated.ScratchOk s c (c.getG a).toNat 256 256 →
      ∃ (t : State) (c' : Ctx) (h : Held), exec (.launch d a b) s = .next t ∧ t.ctx? id = some c' ∧ c'.run = .parked ∧ c'.wait = .answer ∧ c'.held = some h ∧ h.instr = .launch d a b ∧ h.stage = 1 ∧
        h.vals = (List.range 32).map (fun n => BitVec.ofNat 64 (leNat (memBytes (s.ltile c.ltk).scratch ((c.getG a).toNat + 8 * n) 8))) ∧ c'.g = c.g ∧ c'.pc = c.pc ∧ t.ltiles = s.ltiles ∧ t.glob = s.glob) ∧
    -- what firmware's answer refuses
    (∀ h fw hdr, s.isWarp c.kid = false → (c.getG a).toNat % 256 = 0 → bits (c.getG b) 7 25 = 0 → (c.getG b).getLsbD 4 = false → c.held = some h → h.stage = 1 → h.answered = true →
      h.ans = fw → hdr = h.vals.flatMap (fun w => leBytes 8 w.toNat) →
      (hdrField hdr 0 8 % 128 ≠ 0 → exec (.launch d a b) s = .next (s.finishG id d 0x8100000000000000#64 4)) ∧
      (hdrField hdr 0 8 % 128 = 0 → (fw.value.getLsbD 0 = true ∨ s.entryTable (s.partOf c.kid) (hdrField hdr 0 8) = none) → exec (.launch d a b) s = .next (s.finishG id d 0x8500000000000001#64 4)) ∧
      (∀ es, hdrField hdr 0 8 % 128 = 0 → fw.value.getLsbD 0 = false → s.entryTable (s.partOf c.kid) (hdrField hdr 0 8) = some es →
        (∀ off, headerBad hdr es = some off → off < 256 → exec (.launch d a b) s = .next (s.finishG id d (0x8100000000000000#64 + BitVec.ofNat 64 off) 4)) ∧
        (headerBad hdr es = none → s.nextKid = none → exec (.launch d a b) s = .next (s.finishG id d 0x8200000000000000#64 4)) ∧
        (∀ n, headerBad hdr es = none → s.nextKid = some n → 1024 * doubling (hdrField hdr 24 4) < hdrField hdr 20 4 → exec (.launch d a b) s = .next (s.finishG id d 0x8300000000000000#64 4)) ∧
        (∀ n k, headerBad hdr es = none → s.nextKid = some n → k = doubling (hdrField hdr 24 4) → s.placeOk (s.partOf c.kid) (hdrField hdr 20 4) k fw = false →
          (s.part (s.partOf c.kid)).quota < s.partTiles (s.partOf c.kid) + (hdrField hdr 20 4 + k - 1) / k → exec (.launch d a b) s = .next (s.finishG id d 0x8300000000000000#64 4)))) ∧
    (∀ n, s.isWarp c.kid = false → n < 63 → (c.getG a).toNat = 2 * n + 1 → s.putsOut c = false → (s.kernelD n).state = .held → s.isChild n c.kid = true →
      ∃ (t : State) (c' : Ctx), exec (.launch d a b) s = .next t ∧ (t.kernelD n).state = .running ∧ t.ctx? id = some c' ∧ c'.getG d = (if d = 0#5 then 0#64 else BitVec.ofNat 64 n)) ∧
    (∀ h fw es n, s.isWarp c.kid = false → (c.getG a).toNat % 256 = 0 → bits (c.getG b) 7 25 = 0 → (c.getG b).getLsbD 4 = false → c.held = some h → h.stage = 1 → h.answered = true →
      h.ans = fw → fw.value.getLsbD 0 = false → ∀ hdr, hdr = h.vals.flatMap (fun w => leBytes 8 w.toNat) → hdrField hdr 0 8 % 128 = 0 →
      s.entryTable (s.partOf c.kid) (hdrField hdr 0 8) = some es → headerBad hdr es = none → s.nextKid = some n →
      hdrField hdr 20 4 ≤ 1024 * doubling (hdrField hdr 24 4) → s.placeOk (s.partOf c.kid) (hdrField hdr 20 4) (doubling (hdrField hdr 24 4)) fw = true →
      ∃ (t : State) (k : _) (c' : Ctx), exec (.launch d a b) s = .next t ∧ t.kernel? n = some k ∧ k.tiles = hdrField hdr 20 4 ∧ k.s = hdrField hdr 24 4 ∧ k.parent = c.kid ∧ k.part = s.partOf c.kid ∧
        k.state = (if (c.getG b).getLsbD 5 then .held else .running) ∧ t.ctx? id = some c' ∧ c'.getG d = (if d = 0#5 then 0#64 else BitVec.ofNat 64 n)))

/-- R275-R277, R280, R281: a launch by firmware, the sweep's decision, and the end of a kernel that KEND stopped. Which free id a launch takes is the model's choice
(notes/assumptions/12.md). -/
def Obligations.KernelEvents : Prop :=
  (∀ (s : State) n, (s.part s.ev.id).present = true → s.gangRuns s.ev.id = true → n < 63 → s.ev.w0.toNat = 2 * n + 1 → (s.kernelD n).state = .held → s.isChild n 63 = true → s.partOf n = s.ev.id →
    ∃ (t : State), exec .firmwareLaunch s = .next t ∧ (t.kernelD n).state = .running ∧ t.hostSide.launches = s.hostSide.launches ++ [BitVec.ofNat 64 n]) ∧
  (∀ (s : State) h es n, (s.part s.ev.id).present = true → s.gangRuns s.ev.id = true → s.ev.w0.toNat % 256 = 0 → bits s.ev.w1 7 25 = 0 → s.ev.w1.getLsbD 4 = false → s.ev.idx = 0 →
    s.fwRead s.ev.id 2 s.ev.w0.toNat 256 = some h → hdrField h 0 8 % 128 = 0 → s.entryTable s.ev.id (hdrField h 0 8) = some es → headerBad h es = none → s.nextKid = some n →
    hdrField h 20 4 ≤ 1024 * doubling (hdrField h 24 4) → s.placeOk s.ev.id (hdrField h 20 4) (doubling (hdrField h 24 4)) s.ev.fw = true →
    ∃ (t : State) (k : _), exec .firmwareLaunch s = .next t ∧ t.kernel? n = some k ∧ k.tiles = hdrField h 20 4 ∧ k.parent = 63 ∧ k.part = s.ev.id ∧
      k.state = (if s.ev.w1.getLsbD 5 then .held else .running) ∧ t.hostSide.launches = s.hostSide.launches ++ [BitVec.ofNat 64 n]) ∧
  -- the sweep also carries the largest clock value, which the stamps of chains follow (R168)
  (∀ (s : State) k, s.kernel? s.ev.id = some k → k.state = .running → k.warp = false → s.kernelRuns s.ev.id = true → s.bordersMove s.ev.id = false → s.hasStub s.ev.id = false →
    k.cut = none → k.swVoid = false → ∀ sent recv : Nat, sent = ((s.lcores.filter fun e => lcKid e.1 = s.ev.id).map fun e => e.2.sent).sum →
      recv = ((s.lcores.filter fun e => lcKid e.1 = s.ev.id).map fun e => e.2.received).sum →
    ((s.lcsOf s.ev.id).all (fun lc => s.coreIdle lc) = false ∨ sent ≠ recv → ∃ (t : State) (ch : List Chain), exec .sweep s = .next t ∧ t.kernel? s.ev.id = some { k with swAgree := false, chains := ch }) ∧
    ((s.lcsOf s.ev.id).all (fun lc => s.coreIdle lc) = true → sent = recv → k.swAgree = false →
      ∃ (t : State) (ch : List Chain), exec .sweep s = .next t ∧ t.kernel? s.ev.id = some { k with swAgree := true, swSent := sent, swRecv := recv, chains := ch }) ∧
    ((s.lcsOf s.ev.id).all (fun lc => s.coreIdle lc) = true → sent = recv → k.swAgree = true → k.swSent = sent → k.swRecv = recv → k.nch = 15 →
      ∃ (t : State), exec .sweep s = .next t ∧ t.kernel? s.ev.id = none)) ∧
  (∀ (s : State) k, s.kernel? s.ev.id = some k → k.state = .ending → k.nch = 15 → s.ev.id < 63 → (∀ e, e ∈ s.kernels → e.2.parent ≠ s.ev.id) →
    ∃ (t : State), exec .kernelStopComplete s = .next t ∧ t.kernel? s.ev.id = none ∧ (∀ e, e ∈ t.lcores → lcKid e.1 ≠ s.ev.id) ∧ (∀ e, e ∈ t.ltiles → e.1 / 4096 ≠ s.ev.id))

/-! ## Tasks and codelets -/

/-- R257-R265: SPAWN, CALLAT and RETV, and the codelet instructions, in a PLAIN kernel.
R259, R265, R267: a codelet update at its record's home, which fires the codelet when its count reaches zero; and a steal. -/
def Obligations.Codelets : Prop :=
  (
    (∀ (s : State) (id : Nat) (c : Ctx) (a : Reg), Stated.Runs s id c (.spawn a) →
      (27 < a.toNat → exec (.spawn a) s = .next (s.trap id 0x01#8 (a.setWidth 64))) ∧
      (a.toNat ≤ 27 → s.isWarp c.kid = false → lcKid c.lck = c.kid → c.item.vrt.toNat ≤ 2 ^ 64 - 2 → (s.lcore c.lck).ring.length < 1024 →
        ∃ (t : State) (m : Item) (c' : Ctx), exec (.spawn a) s = .next t ∧ (t.lcore c.lck).ring = (s.lcore c.lck).ring ++ [m] ∧ m.chan = 15 ∧ m.entry = some (c.getG a) ∧ m.p0 = c.getG (a + 1#5) ∧
          m.p1 = c.getG (a + 2#5) ∧ m.p2 = c.getG (a + 3#5) ∧ m.p3 = c.getG (a + 4#5) ∧ m.vrt = c.item.vrt ∧ (t.lcore c.lck).sent = (s.lcore c.lck).sent + 1 ∧
          (t.lcore c.lck).received = (s.lcore c.lck).received + 1 ∧ t.ctx? id = some c' ∧ c'.g = c.g ∧ t.flits = s.flits)) ∧
    (∀ (s : State) (id : Nat) (c : Ctx) (d a b : Reg), Stated.Runs s id c (.callat d a b) → a.toNat ≤ 27 → bits (c.getG b) 20 44 = 0 → (c.getG b).getLsbD 15 = false → bits (c.getG b) 16 4 ≠ 15 →
      bits (c.getG b) 0 12 < (s.kernelD c.kid).tiles → c.item.vrt.toNat ≤ 2 ^ 64 - 2 → s.sendOk c = true → s.isWarp c.kid = false →
      ∃ (t : State) (c' : Ctx) (f : Flit) (k : _) (r : _), exec (.callat d a b) s = .next t ∧ t.flits = s.flits ++ [f] ∧ f.carry = .call k (c.getG a) (some r) none ∧ f.lt = bits (c.getG b) 0 12 ∧ f.core = bits (c.getG b) 12 3 ∧
        f.p0 = c.getG (a + 1#5) ∧ f.vrt = c.item.vrt ∧ t.ctx? id = some c' ∧ c'.g = c.g ∧
        (d ≠ 0#5 → r = .pendReg id d c.calls ∧ c'.pend = c.pend ++ [{ ctx := id, d := d, isCall := true, ref := c.calls }]) ∧
        (d = 0#5 → r = .channel c.lck (bits (c.getG b) 16 4) c.item.vrt ∧ c'.pend = c.pend)) ∧
    (∀ (s : State) (id : Nat) (c : Ctx) (a : Reg), Stated.Runs s id c (.retv a) →
      (c.item.ret = none ∨ c.returned = true → exec (.retv a) s = .next (s.trap id 0x01#8 0#64)) ∧
      (∀ ctx d n, c.item.ret = some (.pendReg ctx d n) → c.returned = false → s.isWarp c.kid = false → c.item.vrt.toNat ≤ 2 ^ 64 - 2 → s.sendOk c = true →
        ∃ (t : State) (c' : Ctx) (f : Flit) (k : _), exec (.retv a) s = .next t ∧ t.flits = s.flits ++ [f] ∧ f.carry = .retval k (.pendReg ctx d n) ∧ f.p0 = c.getG a ∧ f.lt = srcLt c.item.src ∧ f.core = srcCore c.item.src ∧
          t.ctx? id = some c' ∧ c'.returned = true ∧ c'.g = c.g)) ∧
    (∀ (s : State) (id : Nat) (c : Ctx) (d a b : Reg), Stated.Runs s id c (.clnew d a b) →
      (s.isWarp c.kid = true → exec (.clnew d a b) s = .next (s.trap id 0x01#8 0#64)) ∧
      (s.isWarp c.kid = false → (c.getG a).toNat % 64 ≠ 0 → exec (.clnew d a b) s = .next (s.trap id 0x02#8 (c.getG a))) ∧
      (s.isWarp c.kid = false → (c.getG a).toNat % 64 = 0 → (s.ltile c.ltk).inKeep (c.getG a).toNat = true → Stated.ScratchOk s c (c.getG a).toNat 64 64 → lcKid c.alck = c.kid →
        ∃ (t : State) (c' : Ctx), exec (.clnew d a b) s = .next t ∧ leNat (memBytes (t.ltile c.ltk).scratch (c.getG a).toNat 8) = 2 ^ 62 ∧
          leNat (memBytes (t.ltile c.ltk).scratch ((c.getG a).toNat + 8) 8) = (c.getG b).toNat ∧ leNat (memBytes (t.ltile c.ltk).scratch ((c.getG a).toNat + 48) 8) = 1 ∧
          leNat (memBytes (t.ltile c.ltk).scratch ((c.getG a).toNat + 56) 8) = 0 ∧ (c.getG a).toNat ∈ (t.ltile c.ltk).codelets ∧
          t.ctx? id = some c' ∧ c'.getG d = (if d = 0#5 then 0#64 else BitVec.ofNat 64 (c.lt + c.core * 4096 + (c.getG a).toNat * 65536)))) ∧
    (∀ (s : State) (id : Nat) (c : Ctx) (a b : Reg), s.isWarp c.kid = false → s.retxRoom c.lck = true →
      (Stated.Runs s id c (.clpub a b) → (c.getG b).toNat ≤ 2 ^ 40 → ∃ (t : State) (c' : Ctx) (f : Flit), exec (.clpub a b) s = .next t ∧ t.flits = s.flits ++ [f] ∧ f.carry = .codelet (c.getG a) (some (c.getG b)) ∧
        f.lt = bits (c.getG a) 0 12 ∧ f.core = bits (c.getG a) 12 3 ∧ t.ctx? id = some c' ∧ c'.g = c.g) ∧
      (Stated.Runs s id c (.clpub a b) → 2 ^ 40 < (c.getG b).toNat → exec (.clpub a b) s = .next (s.trap id 0x01#8 (c.getG b))) ∧
      (Stated.Runs s id c (.cldec a) → ∃ (t : State) (c' : Ctx) (f : Flit), exec (.cldec a) s = .next t ∧ t.flits = s.flits ++ [f] ∧ f.carry = .codelet (c.getG a) none ∧
        f.lt = bits (c.getG a) 0 12 ∧ f.core = bits (c.getG a) 12 3 ∧ t.ctx? id = some c' ∧ c'.g = c.g))) ∧
  (
    (∀ (s : State) (f : Flit) h (pub : Option Word) count state, Stated.Delivers s f → f.carry = .codelet h pub → s.handleOk f.kid h = true → (s.lcore f.lck).ring.length < 1024 → (f.cut = false ∨ s.taken = []) →
      count = leNat (s.scratchBytes (f.lck / 8) (clOff h) 8) → state = leNat (s.scratchBytes (f.lck / 8) (clOff h + 48) 8) →
      ∃ (t : State), exec .codeletUpdate s = .next t ∧ Stated.Acked s t f ∧
        -- CLDEC of a published record counts down, and the last one fires it
        (pub = none → state % 4 = 2 → 1 < count → leNat (t.scratchBytes (f.lck / 8) (clOff h) 8) = count - 1 ∧ (t.lcore f.lck).ring = (s.lcore f.lck).ring) ∧
        (pub = none → state % 4 = 2 → count = 1 → leNat (t.scratchBytes (f.lck / 8) (clOff h) 8) = 0 ∧ leNat (t.scratchBytes (f.lck / 8) (clOff h + 48) 8) % 4 = 3 ∧
          ∃ (m : Item), (t.lcore f.lck).ring = (s.lcore f.lck).ring ++ [m] ∧ m.entry = some (BitVec.ofNat 64 (leNat (s.scratchBytes (f.lck / 8) (clOff h + 8) 8)))) ∧
        -- CLPUB of a new record sets what is left of the count
        (∀ n, pub = some n → state % 4 = 1 → (count + n.toNat + 2 ^ 64 - 2 ^ 62) % 2 ^ 64 ≠ 0 →
          leNat (t.scratchBytes (f.lck / 8) (clOff h) 8) = (count + n.toNat + 2 ^ 64 - 2 ^ 62) % 2 ^ 64 ∧ leNat (t.scratchBytes (f.lck / 8) (clOff h + 48) 8) % 4 = 2 ∧
          (t.lcore f.lck).ring = (s.lcore f.lck).ring)) ∧
    (∀ (s : State) (f : Flit) h pub, Stated.Delivers s f → f.carry = .codelet h pub → s.handleOk f.kid h = false → (f.cut = false ∨ s.taken = []) → ∃ (t : State) (r : _), exec .codeletUpdate s = .next t ∧ t.flits = s.flits ++ [r] ∧ r.carry = .nack f.fid h ∧
      t.scratchBytes (f.lck / 8) (clOff h) 64 = s.scratchBytes (f.lck / 8) (clOff h) 64) ∧
    (∀ (s : State) v (m : Item) m2 r, (s.kernelD (lcKid s.ev.id)).warp = false → (s.kernelD (lcKid s.ev.id)).state = .running → s.kernelRuns (lcKid s.ev.id) = true → lcLt s.ev.id < (s.kernelD (lcKid s.ev.id)).tiles →
      (s.lcore s.ev.id).ring = [] → (s.lcore s.ev.id).mask.getLsbD 15 = false → s.freeStrand s.ev.id = true →
      v = (s.victims s.ev.id).getD ((s.lcore s.ev.id).stealFrom % max 1 (s.victims s.ev.id).length) s.ev.id → v ≠ s.ev.id → (s.lcore v).ring = m :: m2 :: r → m.chan = 15 → m.stage = none →
      (s.lcore v).mask.getLsbD 15 = false →
      ∃ (t : State) (m' : Item), exec .stealAttempt s = .next t ∧ (t.lcore s.ev.id).ring = [m'] ∧ m'.entry = m.entry ∧ m'.p0 = m.p0 ∧ m'.vrt = m.vrt ∧ (t.lcore v).ring = m2 :: r))

/-! ## Channels and dispatch -/

/-- R246-R248, R292: binding, priorities, masks, and the end of an activation. -/
def Obligations.ChannelsAndDone : Prop :=
  (∀ (s : State) (id : Nat) (c : Ctx) (d a b : Reg) old, Stated.Runs s id c (.bind d a b) →
    (14 < (c.getG a).toNat → exec (.bind d a b) s = .next (s.trap id 0x01#8 (c.getG a))) ∧
    ((c.getG a).toNat ≤ 14 → bits (c.getG b) 8 56 = 0 → (s.lcore c.lck).bindings.toList[(c.getG a).toNat]? = some old →
      ((c.getG b).getLsbD 7 = true ∨ (s.kernelD c.kid).entries.toList.getD (bits (c.getG b) 0 4) 0#64 ≠ 0#64) →
      ∃ (t : State) (c' : Ctx) (new : _), exec (.bind d a b) s = .next t ∧ (t.lcore c.lck).bindings.toList[(c.getG a).toNat]? = some new ∧
        ((c.getG b).getLsbD 7 = true → new.bound = false) ∧
        ((c.getG b).getLsbD 7 = false → new = { bound := true, prio := BitVec.ofNat 2 (bits (c.getG b) 4 2), entry := BitVec.ofNat 4 (bits (c.getG b) 0 4) }) ∧
        t.ctx? id = some c' ∧ c'.getG d = (if d = 0#5 ∨ old.bound = false then 0#64 else BitVec.ofNat 64 (64 + old.prio.toNat * 16 + old.entry.toNat)))) ∧
  (∀ (s : State) (id : Nat) (c : Ctx) (a b : Reg), Stated.Runs s id c (.chpri a b) →
    (15 < (c.getG a).toNat → exec (.chpri a b) s = .next (s.trap id 0x01#8 (c.getG a))) ∧
    ((c.getG a).toNat ≤ 15 → 3 < (c.getG b).toNat → exec (.chpri a b) s = .next (s.trap id 0x01#8 (c.getG b))) ∧
    ((c.getG a).toNat ≤ 15 → (c.getG b).toNat ≤ 3 → ∃ (t : State), exec (.chpri a b) s = .next t ∧ (t.lcore c.lck).chanPrio (c.getG a).toNat = (c.getG b).toNat ∧
      ∀ ch, ch ≠ (c.getG a).toNat → ch ≤ 15 → (t.lcore c.lck).chanPrio ch = (s.lcore c.lck).chanPrio ch)) ∧
  (∀ (s : State) (id : Nat) (c : Ctx) (d a : Reg), Stated.Runs s id c (.chmask d a) → ∃ (t : State) (c' : Ctx), exec (.chmask d a) s = .next t ∧ (t.lcore c.lck).mask = (c.getG a).setWidth 16 ∧ t.ctx? id = some c' ∧
    c'.getG d = (if d = 0#5 then 0#64 else (s.lcore c.lck).mask.setWidth 64)) ∧
  (∀ (s : State) (id : Nat) (c : Ctx), Stated.Runs s id c .done → c.stage = none → s.isWarp c.kid = false → s.putsOut c = false → c.nacks = [] → (c.q.toList.any fun w => s.wordsOut c w) = false →
    ∃ (t : State), exec .done s = .next t ∧ t.ctx? id = none ∧ (∀ j, j ≠ id → (t.ctx? j).isSome = (s.ctx? j).isSome) ∧ t.cur = none ∧ t.glob = s.glob ∧ t.ltiles = s.ltiles) ∧
  (∀ (s : State) (id : Nat) (c : Ctx), Stated.Runs s id c .done → s.spec c = false → s.putsOut c = true → exec .done s = .next (s.park id .done .puts)) ∧
  (∀ (s : State) (id : Nat) (c : Ctx), Stated.Runs s id c .done → s.spec c = false → s.putsOut c = false → c.nacks ≠ [] → exec .done s = .next (s.reportNack id)) ∧
  (∀ (s : State) (id : Nat) (c : Ctx), Stated.Runs s id c .done → c.stage = none → s.isWarp c.kid = true → (s.spec c = true ∨ s.putsOut c = false ∧ c.nacks = []) → (s.lcore c.alck).mu.hold = none → (c.q.toList.any fun w => s.wordsOut c w) = false →
    ∃ (t : State) (h : _), exec .done s = .next t ∧ t.ctx? id = none ∧ (t.lcore c.alck).handled = (s.lcore c.alck).handled ++ [h] ∧ h.item = c.item)

/-- R103: the registers that dispatch gives an activation.
R244, R279: promotion by waiting time, a slice that ends, and a bind record that firmware writes. That a strand runs on past its slice, to a boundary, is the
model's reading (notes/assumptions/53.md). -/
def Obligations.Dispatching : Prop :=
  (
    ∀ (s : State) i lc (m : Item), s.ev.idx < 8 → s.ev.slot < 4 → s.slotFree s.ev.id s.ev.idx s.ev.slot = true → (s.tile s.ev.id).debugStops.getLsbD (4 * s.ev.idx + s.ev.slot) = false →
      s.pickRecord s.ev.id s.ev.idx s.ev.slot = some i → s.recordLc s.ev.id s.ev.idx ((s.tile s.ev.id).binds.toList.getD i {}) = some lc →
      (s.lcore lc).choose (s.isWarp (lcKid lc)) s.tbase = some m → m.stage = none →
      ∃ (t : State) (c' : Ctx), exec .dispatch s = .next t ∧ t.ctx? s.nextId = some c' ∧
        c'.pc = m.entry.getD ((s.kernelD (lcKid lc)).entries.toList.getD ((s.lcore lc).bindings.toList.getD m.chan {}).entry.toNat 0#64) ∧
        c'.getG 0#5 = 0#64 ∧ c'.getG 1#5 = 0#64 ∧ c'.getG 2#5 = BitVec.ofNat 64 ((s.kernelD (lcKid lc)).s - 512 * (4 * lcCore lc + s.ev.slot)) ∧
        c'.getG 3#5 = m.p0 ∧ c'.getG 4#5 = m.p1 ∧ c'.getG 5#5 = m.p2 ∧ c'.getG 6#5 = m.p3 ∧ c'.getG 7#5 = m.vrt ∧ c'.getG 8#5 = m.src ∧
        (∀ r : Reg, 9 ≤ r.toNat → c'.getG r = 0#64) ∧ c'.f = Vector.replicate 32 0#64 ∧ c'.q = Vector.replicate 8 0#64 ∧ c'.rep = none ∧ c'.frm = 0#4 ∧ c'.fflags = 0#5 ∧
        c'.fen = 0#5 ∧ c'.waitlim = 20000#64 ∧ c'.epc = 0#64 ∧ c'.ecause = 0#8 ∧ c'.einfo = 0#64 ∧ c'.scratchReg = 0#64 ∧ c'.run = .ready ∧ c'.strand.toNat = s.ev.slot ∧
        c'.streams = Vector.replicate 4 {} ∧ c'.fsup = BitVec.ofNat 64 ((s.kernelD (lcKid lc)).slt + (s.kernelD (lcKid lc)).score * 4096 + 14 * 65536)) ∧
  (
    (∀ (s : State) l, mget s.ev.id s.lcores = some l → ∃ (t : State), exec .priorityPromotion s = .next t ∧
      ∀ (j : Nat) (m : Item), l.items[j]? = some m → l.chanOn m.chan = true → ∃ m' : Item, (t.lcore s.ev.id).items[j]? = some m' ∧ m'.promo = (m.agedNs + (s.tbase - m.agedAt)) / 1000000 ∧ m'.chan = m.chan ∧ m'.p0 = m.p0) ∧
    (∀ (s : State) (n : Fin 16) a, s.ev.idx = n.val → mget s.ev.slot (s.tile s.ev.id).binds[n].heldSince = some a → (s.tile s.ev.id).binds[n].valid = true → (s.tile s.ev.id).binds[n].slice ≠ 0#32 →
      a + (s.tile s.ev.id).binds[n].slice.toNat ≤ s.tbase → (s.tile s.ev.id).binds[n].yields.contains s.ev.slot = false →
      ∃ (t : State), exec .sliceExpiry s = .next t ∧ (t.tile s.ev.id).binds[n].yields.contains s.ev.slot = true ∧ t.ctxs = s.ctxs) ∧
    (∀ (s : State) (n : Fin 16), s.ev.idx = n.val → s.ev.id < 1024 → ∃ (t : State) (b : _), exec .bindRecordWrite s = .next t ∧ (t.tile s.ev.id).binds[n] = b ∧ b.kid = bits s.ev.w0 58 6 ∧ b.j = bits s.ev.w0 56 2 ∧
      b.lt = bits s.ev.w0 44 12 ∧ b.prio.toNat = bits s.ev.w0 42 2 ∧ b.valid = s.ev.w0.getLsbD 41 ∧ b.strands = s.ev.w0.setWidth 32 ∧ b.slice = s.ev.w1.setWidth 32))
/-! ## Puts, copies, caches and fences -/

namespace Sys2Proof.Stated

/-- `i` is a put or an addition at a remote address, with what it does there and its low bytes (R187, R196). -/
def IsPut (i : Instr) (c : Ctx) (addr : Word) (op : AccOp) (len : Nat) : Prop :=
  (∃ a b sz, i = .put a b sz ∧ addr = c.getG a ∧ op = .write (leBytes (szBytes sz) (c.getG b).toNat) ∧ len = 4) ∨
  (∃ a sz lit, i = .putL a sz lit ∧ addr = c.getG a ∧ op = .write (leBytes (szBytes sz) lit.toNat) ∧ len = 12) ∨
  (∃ d a b sz, i = .putv d a b sz ∧ addr = c.getG a + c.getG d ∧ op = .write (leBytes (szBytes sz) (c.getG b).toNat) ∧ len = 4) ∨
  (∃ a b sz, i = .radd a b sz ∧ addr = c.getG a ∧ op = .add (szBytes sz) (c.getG b) ∧ len = 4) ∨
  (∃ a sz lit, i = .raddL a sz lit ∧ addr = c.getG a ∧ op = .add (szBytes sz) lit ∧ len = 12)

/-- A copy instruction, its kind, the address of its descriptor and that descriptor's size (R205, R206). -/
def IsCopy (i : Instr) (c : Ctx) (kind : Nat) (d : Reg) (off : Word) (size len : Nat) : Prop :=
  (∃ a, i = .cpy d a ∧ kind = 0 ∧ off = c.getG a ∧ size = 64 ∧ len = 4) ∨
  (∃ (a : Reg) (n : BitVec 32), i = .cpys d a n ∧ kind = 1 ∧ off = c.getG a + n.signExtend 64 ∧ size = 128 ∧ len = 12) ∨
  (∃ (a : Reg) (n : BitVec 32), i = .cpyg d a n ∧ kind = 2 ∧ off = c.getG a + n.signExtend 64 ∧ size = 64 ∧ len = 12) ∨
  (∃ (a : Reg) (n : BitVec 32), i = .cpyx d a n ∧ kind = 3 ∧ off = c.getG a + n.signExtend 64 ∧ size = 64 ∧ len = 12)

/-- A logical tile whose scratchpad bytes an engine writes from an offset on, unit by unit of at most 16 bytes (R175); those of a codelet record's reserved field apart (R4). -/
def unitsPut (x : LTile) (off : Nat) (b : List Byte) : LTile := (unitsOf off b.length).foldl (fun x u => x.put u.1 (unitBytes off b u)) x

end Sys2Proof.Stated

/-- R187, R193, R196, R197: PUT, PUTV, RADD and RLD outside a WARP activation put one access into the fabric, to the device, kernel and logical
tile that the remote address names, and go on at once: the strand has one more access outstanding, or gD is pending, g0 too (the model's reading, notes/assumptions/30.md); a full
retransmit buffer parks them, which R291 says of SEND alone (the model's choice, notes/assumptions/28.md).
R177, R187, R194, R196, R197: an access that arrives at a window which accepts it is performed there and acknowledged, and one that it does
not accept changes no memory and is refused; the acknowledgement, the refusal and the value read reach the strand that issued it. -/
def Obligations.RemoteMemory : Prop :=
  (
    (∀ (s : State) (id : Nat) (c : Ctx) i addr op len, Stated.Runs s id c i → Stated.IsPut i c addr op len → s.spec c = false →
      (s.retxRoom c.lck = true → lcKid c.lck = c.kid → ∃ (t : State) (c' : Ctx) (f : Flit), exec i s = .next t ∧ t.flits = s.flits ++ [f] ∧ f.carry = .access op addr c.kid s.device.toNat ∧ f.kind = 3 ∧
        f.dev = raDev addr ∧ f.kid = raKid addr ∧ f.lt = raLt addr ∧ f.issuer = .strandPut id ∧ t.ctx? id = some c' ∧ c'.puts = c.puts + 1 ∧ c'.g = c.g ∧ c'.pend = c.pend ∧
        (c.rep = none → c'.pc = c.pc + BitVec.ofNat 64 len) ∧ t.glob = s.glob ∧ t.ltiles = s.ltiles) ∧
      (s.retxRoom c.lck = false → exec i s = .next (s.park id i .sendSpace))) ∧
    (∀ (s : State) (id : Nat) (c : Ctx) (d a : Reg) sz, Stated.Runs s id c (.rld d a sz) →
      (s.spec c = true → exec (.rld d a sz) s = .next (s.trap id 0x06#8 (c.getG a))) ∧
      (s.spec c = false → s.retxRoom c.lck = true → lcKid c.lck = c.kid → ∃ (t : State) (c' : Ctx) (f : Flit), exec (.rld d a sz) s = .next t ∧ t.flits = s.flits ++ [f] ∧
        f.carry = .access (.read (szBytes sz)) (c.getG a) c.kid s.device.toNat ∧ f.kind = 3 ∧ f.fid = s.nextId ∧ f.issuer = .strandRld id d ∧ t.ctx? id = some c' ∧
        c'.pend = c.pend ++ [{ ctx := id, d := d, isCall := false, ref := s.nextId }] ∧ c'.g = c.g ∧ (c.rep = none → c'.pc = c.pc + 4#64) ∧ t.glob = s.glob ∧ t.ltiles = s.ltiles))) ∧
  (
    (∀ (s : State) (f : Flit) op addr kid dev (w : Window) n lt off, Stated.Delivers s f → f.carry = .access op addr kid dev → s.ev.flag = false → (f.cut = false ∨ s.taken = []) → lt = ltKey f.kid f.lt → w = (s.ltile lt).windows[raWin addr % 8] →
      n = (match op with | .write b => b.length | .read k => k | .add k _ => k | .copyWrite b => b.length | .copyRead k => k) → off = 64 * w.base64.toNat + bits addr 0 20 → 0 < n →
      (bits addr 20 17 = 0 → w.size64 ≠ 0#15 → w.rights.getLsbD (match op with | .write _ => 1 | .read _ => 0 | .add _ _ => 2 | .copyWrite _ => 3 | .copyRead _ => 3) = true →
        (w.anyk = true ∨ w.kida.toNat = kid) → (w.devok = true ∨ dev = s.device.toNat) → bits addr 0 20 % n = 0 → bits addr 0 20 + n ≤ 64 * w.size64.toNat →
        ∃ (t : State) (r : Flit), exec .remoteAccessArrival s = .next t ∧ t.flits = s.flits ++ [r] ∧ r.kind = 4 ∧ t.glob = s.glob ∧ (∀ x, x ≠ lt → t.ltile x = s.ltile x) ∧
          (∀ b, (op = .write b ∨ op = .copyWrite b) → r.carry = .ack f.fid none ∧ (t.ltile lt).scratch = (Stated.unitsPut (s.ltile lt) off b).scratch ∧
            ((s.ltile lt).codelets = [] → (t.ltile lt).scratch = memPut (s.ltile lt).scratch off b)) ∧
          (∀ k v, op = .add k v → r.carry = .ack f.fid none ∧
            (t.ltile lt).scratch = ((s.ltile lt).put off (leBytes k (leNat (memBytes (s.ltile lt).scratch off k) + v.toNat))).scratch) ∧
          (s.past = [] → (∃ k, op = .read k ∨ op = .copyRead k) → r.carry = .ack f.fid (some (BitVec.ofNat 64 (leNat (memBytes (s.ltile lt).scratch off n)))) ∧ (t.ltile lt).scratch = (s.ltile lt).scratch)) ∧
      ((bits addr 20 17 ≠ 0 ∨ w.size64 = 0#15 ∨ w.rights.getLsbD (match op with | .write _ => 1 | .read _ => 0 | .add _ _ => 2 | .copyWrite _ => 3 | .copyRead _ => 3) = false ∨
          (w.anyk = false ∧ w.kida.toNat ≠ kid) ∨ (w.devok = false ∧ dev ≠ s.device.toNat) ∨ bits addr 0 20 % n ≠ 0 ∨
          64 * w.size64.toNat < bits addr 0 20 + n) →
        ∃ (t : State) (r : Flit), exec .remoteAccessArrival s = .next t ∧ t.flits = s.flits ++ [r] ∧ r.kind = 5 ∧ r.carry = .nack f.fid addr ∧ t.glob = s.glob ∧ t.ltiles = s.ltiles)) ∧
    (∀ (s : State) (f : Flit) n (id : Nat) (c : Ctx), s.arrival? s.ev.id = some f → f.carry = .ack n none → f.issuer = .strandPut id → s.ctx? id = some c →
      ∃ (t : State) (c' : Ctx), exec .putAcknowledgement s = .next t ∧ t.ctx? id = some c' ∧ c'.puts = c.puts - 1 ∧ c'.g = c.g ∧ c'.nacks = c.nacks ∧ c'.pc = c.pc ∧
        (t.lcore f.lck).retx = (s.lcore f.lck).retx.filter fun x => decide (x.fid ≠ n)) ∧
    (∀ (s : State) (f : Flit) n addr (id : Nat) (c : Ctx), s.arrival? s.ev.id = some f → f.carry = .nack n addr → s.ctx? id = some c →
      (f.issuer = .strandPut id → ∃ (t : State) (c' : Ctx), exec .negativeAcknowledgement s = .next t ∧ t.ctx? id = some c' ∧ c'.puts = c.puts - 1 ∧ c'.g = c.g ∧ c'.nacks = c.nacks ++ [addr]) ∧
      (∀ d p, f.issuer = .strandRld id d → s.pendCtx id n false = some (id, p) →
        ∃ (t : State) (c' : Ctx), exec .negativeAcknowledgement s = .next t ∧ t.ctx? id = some c' ∧ c'.getG p.d = 0#64 ∧ (∀ r, r ≠ p.d → c'.getG r = c.getG r) ∧
          c'.nacks = c.nacks ++ [addr] ∧ c'.pend = c.pend.map (fun q => if q.is id n false then { q with refused := true } else q))) ∧
    (∀ (s : State) (f : Flit) n v (id : Nat) d (c : Ctx) p, s.arrival? s.ev.id = some f → f.carry = .ack n (some v) → f.issuer = .strandRld id d → s.ctx? id = some c →
      s.pendCtx id n false = some (id, p) →
      ∃ (t : State) (c' : Ctx), exec .rldReturn s = .next t ∧ t.ctx? id = some c' ∧ c'.getG p.d = (if p.d = 0#5 then 0#64 else v) ∧ (∀ r, r ≠ p.d → c'.getG r = c.getG r) ∧
        c'.pend = c.pend.filter (fun q => !q.is id n false) ∧ c'.nacks = c.nacks))

/-- R205, R206, R208, R211: a copy whose descriptor passes the checks takes the lowest free slot with its descriptor as read then, and gives its slot
and its logical core's copy number; where it traps; and CPYQ and CPYC.
R207, R209: a turn of the copy engine for a CPY within its scratchpad moves the unit named, which is the next of its enumeration: its destination
bytes become its source bytes, PROGRESS grows by its size, and the copy is done after the last; a strided copy that overlaps ends with error OVERLAP
and writes nothing. What a unit is, and when units may be made, is the model's reading (notes/assumptions/33.md, 34.md). -/
def Obligations.Copies : Prop :=
  (
    (∀ (s : State) (id : Nat) (c : Ctx) i kind d off size len (r0 : CopyRec), Stated.Runs s id c i → Stated.IsCopy i c kind d off size len →
      r0 = { slot := 0, seqno := 0, kind := kind, desc := memBytes (s.ltile c.ltk).scratch off.toNat size, descAt := off, frm := c.sample, ctx := id, state := 1 } →
      (off.toNat % 64 ≠ 0 → exec i s = .next (s.trap id 0x02#8 off)) ∧
      (off.toNat % 64 = 0 → s.sOf c < off.toNat + size → exec i s = .next (s.trap id 0x05#8 off)) ∧
      (Stated.ScratchOk s c off.toNat size 64 →
        (r0.malformed = true → ∃ (t : State) (c' : Ctx), exec i s = .next t ∧ t.ctx? id = some c' ∧ (s.spec c = false → c'.run = .trapped ∧ c'.ecause = 0x01#8 ∧ c'.einfo = off)) ∧
        (∀ n, r0.malformed = false → (r0.sm = 0 ∨ r0.siga % 8 = 0 ∧ r0.siga < 2 ^ 56) → (∀ x, x ∈ r0.ownRanges → firstOutside (s.sOf c) x = none) → s.spec c = false → (r0.snaps = false ∨ r0.sk = 2) →
          (s.lcore c.lck).freeSlot = some n → n < 64 →
          ∃ (t : State) (c' : Ctx) (r : CopyRec), exec i s = .next t ∧ (t.lcore c.lck).copies = (s.lcore c.lck).copies.filter (fun x => decide (x.slot ≠ n)) ++ [r] ∧ r.slot = n ∧ r.kind = kind ∧
            r.desc = r0.desc ∧ r.frm = c.sample ∧ r.ctx = id ∧ r.state = 1 ∧ r.progress = 0 ∧ r.seqno = (s.lcore c.lck).copySeq ∧ (t.lcore c.lck).copySeq = (s.lcore c.lck).copySeq + 1 ∧
            t.ctx? id = some c' ∧ c'.getG d = (if d = 0#5 then 0#64 else BitVec.ofNat 64 (n + (s.lcore c.lck).copySeq % 1024 * 64)) ∧ t.glob = s.glob ∧ t.ltiles = s.ltiles))) ∧
    (∀ (s : State) (id : Nat) (c : Ctx) (d a : Reg), Stated.Runs s id c (.cpyq d a) →
      (∀ r, (s.lcore c.lck).copies.find? (fun r => decide ((c.getG a).toNat = r.slot + r.seqno % 1024 * 64)) = some r → r.err < 16 → r.state < 8 → r.progress < 2 ^ 48 →
        exec (.cpyq d a) s = .next (s.finishG id d (BitVec.ofNat 64 (r.fl.toNat * 2 ^ 56 + r.err * 2 ^ 52 + r.state * 2 ^ 48 + r.progress)) 4)) ∧
      ((s.lcore c.lck).copies.find? (fun r => decide ((c.getG a).toNat = r.slot + r.seqno % 1024 * 64)) = none → exec (.cpyq d a) s = .next (s.finishG id d 0#64 4))) ∧
    (∀ (s : State) (id : Nat) (c : Ctx) (d a : Reg), Stated.Runs s id c (.cpyc d a) →
      (s.copyOfId c.lck (c.getG a) = none → exec (.cpyc d a) s = .next (s.finishG id d 0#64 4)) ∧
      (∀ r, s.copyOfId c.lck (c.getG a) = some r → r.state = 4 ∨ r.state = 5 ∨ r.state = 6 → exec (.cpyc d a) s = .next (s.finishG id d r.status 4)) ∧
      (∀ r, s.copyOfId c.lck (c.getG a) = some r → s.copy? c.lck r.slot = some r → r.state = 1 → r.ending = 0 → s.copyEntry c.lck r = none →
        ∃ (t : State) (c' : Ctx) (r' : CopyRec), exec (.cpyc d a) s = .next t ∧ t.copy? c.lck r.slot = some r' ∧ r'.state = 6 ∧ r'.progress = r.progress ∧ t.ctx? id = some c' ∧
          c'.getG d = (if d = 0#5 then 0#64 else r'.status) ∧ c'.run = .ready))) ∧
  (
    (∀ (s : State) lc slot (r : CopyRec) u x, s.ev.id = lc → s.ev.idx = slot → s.ev.picks = [u] → s.kernelRuns (lcKid lc) = true → s.leasedOut (s.ltile (lc / 8)).tile (s.partOf (lcKid lc)) = false →
      s.copy? lc slot = some r → r.kind = 0 → r.state = 2 → r.ending = 0 → r.err = 0 → r.sk = 0 → r.dk = 0 → r.sm = 0 → r.cv = false → r.overlaps = false → r.snap = none → r.byKey = none →
      r.ahead = [] → r.pos = u → r.waitFid = [] → r.stopAt = none → s.past = [] → r.units[u]? = some x → r.src + x.off + x.n ≤ (s.kernelD (lcKid lc)).s → r.dst + x.off + x.n ≤ (s.kernelD (lcKid lc)).s →
      (s.kernelD (lcKid lc)).s ≤ 2 ^ 20 → (s.lcore r.act).commitQ = [] → (∀ (f : Flit), f ∈ s.flits ++ s.arrivals ++ s.taken.map (·.1) ++ (s.lcore lc).retx → f.issuer ≠ .copyUnit lc slot u) →
      ∃ (t : State) (r' : CopyRec), exec .copyComplete s = .next t ∧
        (t.ltile (lc / 8)).scratch = ((s.ltile (lc / 8)).put (r.dst + x.off) (memBytes (s.ltile (lc / 8)).scratch (r.src + x.off) x.n)).scratch ∧ t.glob = s.glob ∧
        (∀ y, y ≠ lc / 8 → t.ltile y = s.ltile y) ∧ t.copy? lc slot = some r' ∧ r'.progress = r.progress + x.n ∧ r'.pos = u + 1 ∧ r'.err = 0 ∧
        r'.state = (if r.progress + x.n = r.total then 4 else 2)) ∧
    (∀ (s : State) lc slot (r : CopyRec), s.ev.id = lc → s.ev.idx = slot → s.kernelRuns (lcKid lc) = true → s.leasedOut (s.ltile (lc / 8)).tile (s.partOf (lcKid lc)) = false →
      s.copy? lc slot = some r → r.kind = 1 → (r.state = 1 ∨ r.state = 2) → r.ending = 0 → r.sm = 0 → r.overlaps = true → (s.lcore r.act).commitQ = [] →
      ∃ (t : State) (r' : CopyRec), exec .copyError s = .next t ∧ t.copy? lc slot = some r' ∧ r'.state = 5 ∧ r'.err = 4 ∧ r'.progress = r.progress ∧ t.ltiles = s.ltiles ∧ t.glob = s.glob))

/-- R192, R195, R202-R204: PIN and UNPIN, FLSH and INVL over the lines of a range, and WINSET; with their traps and refusals. The model's choices among
them: the order of PIN's refusals (notes/assumptions/10.md), FLSH and INVL complete at once (37), WINSET names gA when both are unaligned and tests for a WARP kernel last (113).
R48, R188-R190, R197: FENCE, CFENCE and PFENCE: they complete when the strand's work on the path they wait for has been performed, and park until
then; at a fence of the put path a refusal traps WINDOW_NACK with the oldest address. The
model's choices: puts that wait in the commit queue are not waited for (notes/assumptions/76.md), and FENCE completes at once in a speculative WARP activation too (77). -/
def Obligations.CachesAndFences : Prop :=
  (
    (∀ (s : State) (id : Nat) (c : Ctx) (d a b : Reg), Stated.Runs s id c (.pin d a b) →
      (s.spec c = true → exec (.pin d a b) s = .next (s.trap id 0x01#8 0#64)) ∧
      (s.spec c = false → bits (c.getG a) 4 3 ≠ 0 → exec (.pin d a b) s = .next (s.finishG id d 0x8300000000000000#64 4)) ∧
      (s.spec c = false → bits (c.getG a) 4 3 = 0 → 8 < bits (c.getG a) 0 4 → exec (.pin d a b) s = .next (s.finishG id d 0x8400000000000000#64 4)) ∧
      (∀ lo hi (k : Fin 8), s.spec c = false → s.pinRange (s.partOf c.kid) (c.getG a) (c.getG b) = .inr (lo, hi) → (s.die (dieOfPa lo)).freeRetain = some k →
        (s.die (dieOfPa lo)).waysUsed + bits (c.getG a) 0 4 ≤ 12 →
        ∃ (t : State) (c' : Ctx), exec (.pin d a b) s = .next t ∧ (t.die (dieOfPa lo)).retain = (s.die (dieOfPa lo)).retain.set k (some { base := lo, limit := hi, ways := bits (c.getG a) 0 4, part := s.partOf c.kid, kid := c.kid }) ∧
          t.ctx? id = some c' ∧ c'.getG d = (if d = 0#5 then 0#64 else BitVec.ofNat 64 (dieOfPa lo * 8 + k.val))) ∧
      (∀ lo hi, s.spec c = false → s.pinRange (s.partOf c.kid) (c.getG a) (c.getG b) = .inr (lo, hi) → (s.die (dieOfPa lo)).freeRetain = none →
        exec (.pin d a b) s = .next (s.finishG id d 0x8100000000000000#64 4))) ∧
    (∀ (s : State) (id : Nat) (c : Ctx) (a : Reg) r, Stated.Runs s id c (.unpin a) →
      (s.spec c = true → exec (.unpin a) s = .next (s.trap id 0x01#8 0#64)) ∧
      (s.spec c = false → (s.die (bits (c.getG a) 3 2)).retain.toList[bits (c.getG a) 0 3]? = some (some r) → ∃ (t : State), exec (.unpin a) s = .next t ∧
        (t.die (bits (c.getG a) 3 2)).retain.toList[bits (c.getG a) 0 3]? = some (if r.part = s.partOf c.kid then none else some r))) ∧
    (∀ (s : State) (id : Nat) (c : Ctx) (a b : Reg) rs, s.spec c = false → rs = s.rangeLines (s.partOf c.kid) (c.getG a) (c.getG b) → Memory.wf s.glob = true → Memory.wf s.dram = true →
      (Stated.Runs s id c (.flsh a b) → ∃ (t : State), exec (.flsh a b) s = .next t ∧ t.glob = s.glob ∧
        (∀ x, memGet t.dram x = if lineOf x ∈ s.dirty ∧ inRanges rs (lineOf x) = true then memGet s.glob x else memGet s.dram x) ∧
        t.dirty = s.dirty.filter (fun l => !inRanges rs l)) ∧
      (Stated.Runs s id c (.invl a b) → ∃ (t : State), exec (.invl a b) s = .next t ∧
        (∀ x, memGet t.dram x = if lineOf x ∈ s.dirty ∧ inRanges rs (lineOf x) = true then memGet s.glob x else memGet s.dram x) ∧
        (∀ x, memGet t.glob x = if inRanges rs (lineOf x) = true then memGet t.dram x else memGet s.glob x) ∧
        (∀ e l, e ∈ t.rdcs → l ∈ e.2 → inRanges rs l.line = false))) ∧
    (∀ (s : State) (id : Nat) (c : Ctx) (a b : Reg) (win : BitVec 3) (n : BitVec 32), Stated.Runs s id c (.winset a b win n) →
      ((c.getG a).toNat % 64 ≠ 0 → exec (.winset a b win n) s = .next (s.trap id 0x02#8 (c.getG a))) ∧
      ((c.getG a).toNat % 64 = 0 → (c.getG b).toNat % 64 ≠ 0 → exec (.winset a b win n) s = .next (s.trap id 0x02#8 (c.getG b))) ∧
      ((c.getG a).toNat % 64 = 0 → (c.getG b).toNat % 64 = 0 → (c.getG b).toNat ≤ 2 ^ 20 → (c.getG b = 0#64 ∨ (c.getG a).toNat + (c.getG b).toNat ≤ s.sOf c ∧ s.isWarp c.kid = false) →
        ∃ (t : State) (w : Window), exec (.winset a b win n) s = .next t ∧ (∀ k : Fin 8, (t.ltile c.ltk).windows[k] = if k.val = win.toNat then w else (s.ltile c.ltk).windows[k]) ∧
          (t.ltile c.ltk).scratch = (s.ltile c.ltk).scratch ∧ w.rights = n.extractLsb' 0 4 ∧ w.kida = n.extractLsb' 4 6 ∧ w.anyk = n.getLsbD 10 ∧ w.devok = n.getLsbD 11 ∧
          64 * w.size64.toNat = (c.getG b).toNat ∧ (c.getG b ≠ 0#64 → (s.sOf c ≤ 2 ^ 20 → 64 * w.base64.toNat = (c.getG a).toNat))))) ∧
  (
    (∀ (s : State) (id : Nat) (c : Ctx), Stated.Runs s id c .fence → ∃ (t : State) (c' : Ctx), exec .fence s = .next t ∧ t.ctx? id = some c' ∧ c'.oldWords = [] ∧ c'.g = c.g ∧ c'.run = .ready ∧
      (c.rep = none → c'.pc = c.pc + 4#64) ∧ t.glob = s.glob ∧ t.ltiles = s.ltiles) ∧
    (∀ (s : State) (id : Nat) (c : Ctx) px py, Stated.Runs s id c (.cfence px py) →
      ((match px with
        | .core => True
        | .put => s.putsOut c = false ∧ c.nacks = []
        | .copy => ∀ e r, e ∈ s.lcores → r ∈ e.2.copies → c.issued r.ctx r.act r.strand = true → r.state = 4 ∨ r.state = 5 ∨ r.state = 6
        | .matrix => c.muMark ≤ (s.lcore c.lck).mu.done ∧ (s.lcore c.lck).mu.marks[c.strand.toNat] ≤ (s.lcore c.lck).mu.done
        | .coll => ∀ e r, e ∈ s.lcores → r ∈ e.2.colls → c.issued r.ctx e.1 r.strand = true → r.state = 3 ∨ r.state = 4) →
        ∃ (t : State) (c' : Ctx), exec (.cfence px py) s = .next t ∧ t.ctx? id = some c' ∧ c'.g = c.g ∧ c'.run = .ready ∧ (c.rep = none → c'.pc = c.pc + 4#64) ∧ t.glob = s.glob ∧ t.ltiles = s.ltiles) ∧
      (s.pathDone id px = false → exec (.cfence px py) s = .next (s.park id (.cfence px py) (.pathDone px)))) ∧
    (∀ (s : State) (id : Nat) (c : Ctx), Stated.Runs s id c .pfence →
      (s.putsOut c = false → c.nacks = [] → ∃ cl st aq, exec .pfence s = .next ((Stated.raised s id cl st aq).retire id (c.pc + 4#64))) ∧
      ((c.puts ≠ 0 ∨ ∃ p, p ∈ c.pend ∧ p.isCall = false ∧ p.refused = false) → exec .pfence s = .next (s.park id .pfence .puts)) ∧
      (∀ a l, s.putsOut c = false → c.nacks = a :: l → c.shipped = none → ∃ (t : State) (c' : Ctx), exec .pfence s = .next t ∧ t.ctx? id = some c' ∧
        c'.run = .trapped ∧ c'.ecause = 0x03#8 ∧ c'.einfo = a ∧ c'.nacks = [] ∧ c'.pc = c.pc)))
/-! ## The matrix unit -/

namespace Sys2Proof.Stated

/-- Logical core `lc`, in no gang and with no activation that holds its unit, has its turn with record `r` at the head of its queue, and the unit runs the
record: it is not FAULTED, its kernel runs and no debug stop holds it, the physical unit is or can become the core's, and the data has no uncorrectable error. -/
@[reducible] def UnitTurn (s : State) (lc : Nat) (r : MuRec) (q : List MuRec) : Prop :=
  s.ev.id = lc ∧ s.ev.flag = false ∧ (s.mu lc).queue = r :: q ∧ (s.mu lc).faulted = false ∧ (s.mu lc).leads = [] ∧ (s.mu lc).hold = none ∧ (s.mu lc).swaps = [] ∧
    (s.mu lc).kdone = 0 ∧ s.kernelRuns (lcKid lc) = true ∧ s.muHeld lc = false ∧ s.muFree lc = true

/-- The record is complete: it has left the queue, one more record is done, and nothing but the unit and its logical tile's scratchpad has changed
of memory. -/
def RecordDone (s t : State) (lc : Nat) (q : List MuRec) : Prop :=
  (t.mu lc).queue = q ∧ (t.mu lc).done = (s.mu lc).done + 1 ∧ (t.mu lc).faulted = false ∧ t.glob = s.glob ∧ t.dram = s.dram ∧ (∀ x, x ≠ lc / 8 → t.ltile x = s.ltile x)

/-- The scratchpad of the logical core's tile. -/
def pad (s : State) (lc : Nat) : Mem := (s.ltile (lc / 8)).scratch

/-- The mantissa of element `k` of vector `v` in planes of 32 vectors of 128: the two's-complement number whose bit `i` stands in plane `i` (R84). -/
def mant (b : List Byte) (p v k : Nat) : Int :=
  (((List.range (p - 1)).map fun i => ((b.getD (512 * i + 16 * v + k / 8) 0#8).toNat / 2 ^ (k % 8) % 2) * 2 ^ i).sum : Nat) -
    ((((b.getD (512 * (p - 1) + 16 * v + k / 8) 0#8).toNat / 2 ^ (k % 8) % 2) * 2 ^ (p - 1) : Nat) : Int)

/-- A logical tile after the unit has written rows of bytes at their offsets, in order. -/
def rowsPut (x : LTile) (rows : List (Nat × List Byte)) : LTile := rows.foldl (fun x w => unitsPut x w.1 w.2) x

end Sys2Proof.Stated

/-- R128, R214, R228-R231, R234: STQ, MXSTAT, MXSWAP, MXWAIT, MXRST and MXGANG of a logical core that is in no gang. That a FAULTED unit joins a gang as
it is, is the model's choice (notes/assumptions/124.md). -/
def Obligations.MatrixInstructions : Prop :=
  (∀ (s : State) (id : Nat) (c : Ctx) (a b : Reg), Stated.Runs s id c (.stq a b) →
    (c.getG a ≠ BitVec.ofNat 64 ((s.part (s.partOf c.kid)).qbase + 64 * (8 * c.lt + c.core)) → exec (.stq a b) s = .next (s.trap id 0x05#8 (c.getG a))) ∧
    (c.getG a = BitVec.ofNat 64 ((s.part (s.partOf c.kid)).qbase + 64 * (8 * c.lt + c.core)) → (s.mu c.lck).memberOf = none → s.muFree c.lck = true → s.isWarp c.kid = false →
      (s.mu c.lck).queue.length < 16 → (s.mu c.lck).faulted = false → (∀ k, k < 8 → streamOn c.streams (b + BitVec.ofNat 5 k) = none) →
      ∃ (t : State) (c' : Ctx) (r : MuRec), exec (.stq a b) s = .next t ∧ (t.mu c.lck).queue = (s.mu c.lck).queue ++ [r] ∧ (t.mu c.lck).acc = (s.mu c.lck).acc + 1 ∧ r.frm = c.sample ∧
        [r.w0, r.w1, r.w2, r.w3, r.w4, r.w5, r.w6, r.w7] = (List.range 8).map (fun k => c.getF (b + BitVec.ofNat 5 k)) ∧ t.ctx? id = some c' ∧ c'.muMark = (s.mu c.lck).acc + 1 ∧
        c'.g = c.g ∧ c'.f = c.f ∧ t.glob = s.glob ∧ t.ltiles = s.ltiles)) ∧
  (∀ (s : State) (id : Nat) (c : Ctx) (d : Reg) clr, Stated.Runs s id c (.mxstat d clr) → (s.mu c.lck).leads = [] → (s.mu c.lck).memberOf = none → (s.mu c.lck).queue.length ≤ 16 →
    ∃ (t : State) (c' : Ctx) (v : Word), exec (.mxstat d clr) s = .next t ∧ t.ctx? id = some c' ∧ c'.getG d = (if d = 0#5 then 0#64 else v) ∧ v.getLsbD 63 = (s.mu c.lck).faulted ∧
      v.extractLsb' 61 2 = 0#2 ∧ v.extractLsb' 56 5 = (s.mu c.lck).fl ∧ v.extractLsb' 52 4 = (s.mu c.lck).fcause ∧ v.extractLsb' 48 4 = (s.mu c.lck).fcmd ∧
      (v.extractLsb' 32 16).toNat = (s.mu c.lck).nacc ∧ (v.extractLsb' 16 16).toNat = (s.mu c.lck).ndone ∧ (v.extractLsb' 0 16).toNat = (s.mu c.lck).queue.length ∧
      t.mu c.lck = (if clr then { s.mu c.lck with fl := 0#5 } else s.mu c.lck)) ∧
  (∀ (s : State) (id : Nat) (c : Ctx), c.held = none → (s.mu c.lck).memberOf = none → s.muFree c.lck = true →
    (Stated.Runs s id c .mxswap → (s.mu c.lck).faulted = false → (s.mu c.lck).leads = [] → (s.mu c.lck).swaps = [] → (s.mu c.lck).acc ≤ (s.mu c.lck).done →
      ∃ (t : State) (c' : Ctx), exec .mxswap s = .next t ∧ (t.mu c.lck).work = (s.mu c.lck).vis ∧ (t.mu c.lck).vis = (s.mu c.lck).work ∧ t.ctx? id = some c' ∧ c'.run = .ready ∧ c'.g = c.g) ∧
    (Stated.Runs s id c .mxswap → (s.mu c.lck).faulted = false → (s.mu c.lck).swaps = [] → (s.mu c.lck).done < (s.mu c.lck).acc →
      ∃ (t : State) (c' : Ctx), exec .mxswap s = .next t ∧ (t.mu c.lck).work = (s.mu c.lck).work ∧ (t.mu c.lck).vis = (s.mu c.lck).vis ∧ t.ctx? id = some c' ∧ c'.run = .parked ∧
        c'.wait = .muDone (s.mu c.lck).acc) ∧
    (Stated.Runs s id c .mxwait → (s.mu c.lck).faulted = false → (s.mu c.lck).acc ≤ (s.mu c.lck).done →
      ∃ (t : State) (c' : Ctx), exec .mxwait s = .next t ∧ t.mu c.lck = s.mu c.lck ∧ t.ctx? id = some c' ∧ c'.run = .ready ∧ c'.g = c.g ∧ (c.rep = none → c'.pc = c.pc + 4#64)) ∧
    (Stated.Runs s id c .mxwait → (s.mu c.lck).faulted = false → (s.mu c.lck).done < (s.mu c.lck).acc →
      ∃ (t : State) (c' : Ctx), exec .mxwait s = .next t ∧ t.ctx? id = some c' ∧ c'.run = .parked ∧ c'.wait = .muDone (s.mu c.lck).acc) ∧
    (∀ i, (i = .mxswap ∨ i = .mxwait) → Stated.Runs s id c i → (s.mu c.lck).faulted = true →
      ∃ (t : State) (c' : Ctx), exec i s = .next t ∧ t.ctx? id = some c' ∧ c'.run = .trapped ∧ c'.ecause = (s.mu c.lck).fcause.setWidth 8 ∧ c'.einfo = (s.mu c.lck).fInfo) ∧
    (Stated.Runs s id c .mxrst → (s.mu c.lck).leads = [] → (s.mu c.lck).swaps = [] →
      ∃ (t : State) (c' : Ctx), exec .mxrst s = .next t ∧ (t.mu c.lck).work = [] ∧ (t.mu c.lck).vis = [] ∧ (t.mu c.lck).queue = [] ∧ (t.mu c.lck).fl = 0#5 ∧ (t.mu c.lck).faulted = false ∧
        (t.mu c.lck).done = (s.mu c.lck).acc ∧ t.ctx? id = some c' ∧ c'.run = .ready ∧ c'.g = c.g)) ∧
  (∀ (s : State) (id : Nat) (c : Ctx) (d a : Reg) dis cm rm n es, Stated.Runs s id c (.mxgang d a dis cm rm n) →
    (s.isWarp c.kid = true → exec (.mxgang d a dis cm rm n) s = .next (s.trap id 0x01#8 0#64)) ∧
    (∀ off, off = (c.getG a + n.signExtend 64).toNat → s.isWarp c.kid = false → dis = false → c.held = none → (s.mu c.lck).memberOf = none → s.muFree c.lck = true →
      Stated.ScratchOk s c off (2 * ((rm.toNat + 1) * (cm.toNat + 1))) 2 →
      es = (List.range ((rm.toNat + 1) * (cm.toNat + 1))).map (fun k => BitVec.ofNat 64 (leNat (memBytes (s.ltile c.ltk).scratch (off + 2 * k) 2))) →
      (∀ why, s.gangRefusal c.kid c.lck es = some why → ∃ (t : State) (c' : Ctx), exec (.mxgang d a dis cm rm n) s = .next t ∧ t.ctx? id = some c' ∧
        c'.getG d = (if d = 0#5 then 0#64 else BitVec.ofNat 64 (2 ^ 63 + why * 2 ^ 56)) ∧ t.mu c.lck = s.mu c.lck) ∧
      (s.gangRefusal c.kid c.lck es = none → (s.muTake c.lck).gangIdle c.kid es = true → ∃ (t : State) (c' : Ctx), exec (.mxgang d a dis cm rm n) s = .next t ∧ t.ctx? id = some c' ∧
        c'.getG d = 0#64 ∧ (t.mu c.lck).leads = es.zipIdx.map (fun x => (lcKey c.kid (bits x.1 0 12) (bits x.1 12 3), x.2 / (cm.toNat + 1), x.2 % (cm.toNat + 1))))) ∧
    (s.isWarp c.kid = false → dis = true → (s.mu c.lck).memberOf = none → s.muFree c.lck = true → (s.mu c.lck).queue = [] →
      ∃ (t : State) (c' : Ctx), exec (.mxgang d a dis cm rm n) s = .next t ∧ t.ctx? id = some c' ∧ c'.getG d = 0#64 ∧ (t.mu c.lck).leads = []))

/-- R82, R219-R226, R232: the unit's turn over each command: its checks first, then what it writes, and that the record has left the queue. What a command reads
is said where no version older than the latest can be read (R176); bytes of a codelet record's reserved field are not written (R4).
R84, R91, R94, R220: one K block of MMA with INT and without saturation, where the exponents of row and B block do not sum below 0: every cell of the
working bank gains the exact sum of the 128 products of mantissas, times two to that power, modulo 2^32. -/
def Obligations.MatrixUnit : Prop :=
  (
    ∀ (s : State) lc (r : MuRec) (q : List MuRec), Stated.UnitTurn s lc r q →
      -- a record that fails a check makes the unit FAULTED and discards the queue
      (∀ i cause, ((i = .mma ∧ r.cmd = 1) ∨ (i = .mmas ∧ r.cmd = 2) ∨ (i = .mldb ∧ r.cmd = 4) ∨ (i = .mstb ∧ r.cmd = 5) ∨ (i = .mpack ∧ r.cmd = 6) ∨ (i = .munpk ∧ r.cmd = 7) ∨ (i = .msig ∧ r.cmd = 8)) →
        r.check (s.kernelD (lcKid lc)).s 1 1 = some cause → ∃ (t : State), exec i s = .next t ∧ (t.mu lc).faulted = true ∧ (t.mu lc).queue = [] ∧ (t.mu lc).done = (s.mu lc).acc ∧
          (t.mu lc).fcause = cause.setWidth 4 ∧ (t.mu lc).fcmd = BitVec.ofNat 4 r.cmd ∧ (t.mu lc).work = (s.mu lc).work ∧ (t.mu lc).vis = (s.mu lc).vis ∧ t.glob = s.glob ∧ t.ltiles = s.ltiles) ∧
      (r.check (s.kernelD (lcKid lc)).s 1 1 = none →
        (∀ i, ((i = .mnop ∧ r.cmd = 0) ∨ (i = .mbar ∧ r.cmd = 9)) → ∃ (t : State), exec i s = .next t ∧ Stated.RecordDone s t lc q ∧ (t.mu lc).work = (s.mu lc).work ∧
          (t.mu lc).vis = (s.mu lc).vis ∧ t.ltiles = s.ltiles) ∧
        (r.cmd = 3 → ∃ (t : State), exec .mzero s = .next t ∧ Stated.RecordDone s t lc q ∧ (t.mu lc).work = [] ∧ (t.mu lc).vis = (s.mu lc).vis ∧ t.ltiles = s.ltiles) ∧
        -- one K block of a product, on both kinds of B block
        (∀ i bsz w (f : BitVec 5), s.past = [] → ((i = .mma ∧ r.cmd = 1 ∧ bsz = 512 * r.pb + 64) ∨ (i = .mmas ∧ r.cmd = 2 ∧ bsz = 32 * r.n * (r.pb + 4) + 5)) →
          kBlock r (s.mu lc).work (memBytes (Stated.pad s lc) (bits r.w1 0 20) (512 * r.pa + 192)).toArray (memBytes (Stated.pad s lc) (bits r.w2 0 20) bsz).toArray = (w, f) →
          ∃ (t : State), exec i s = .next t ∧ (t.mu lc).work = w ∧ (t.mu lc).fl = (s.mu lc).fl ||| f ∧ (t.mu lc).vis = (s.mu lc).vis ∧ t.glob = s.glob ∧ t.ltiles = s.ltiles ∧
            (r.kb = 1 → Stated.RecordDone s t lc q) ∧ (1 < r.kb → (t.mu lc).queue = r :: q ∧ (t.mu lc).kdone = 1 ∧ (t.mu lc).done = (s.mu lc).done)) ∧
        (r.cmd = 4 → s.past = [] → ∃ (t : State), exec .mldb s = .next t ∧ Stated.RecordDone s t lc q ∧ (t.mu lc).vis = (s.mu lc).vis ∧ t.ltiles = s.ltiles ∧
          ∀ i j, i < 32 → j < 32 → bankCell (t.mu lc).work i j = leNat (memBytes (Stated.pad s lc) (bits r.w1 0 20 + i * bits r.w1 32 20 + 4 * j) 4)) ∧
        (r.cmd = 5 → r.ty = (if r.tk then 2 else 0) → ∃ (t : State), exec .mstb s = .next t ∧ Stated.RecordDone s t lc q ∧ (t.mu lc).work = (s.mu lc).work ∧ (t.mu lc).vis = (s.mu lc).vis ∧
          Stated.pad t lc = (Stated.rowsPut (s.ltile (lc / 8)) ((List.range 32).map fun i => (bits r.w1 0 20 + i * bits r.w1 32 20, (List.range 32).flatMap fun j => leBytes 4 (bankCell (s.mu lc).vis i j)))).scratch ∧
          ((s.ltile (lc / 8)).codelets = [] → ∀ i j, i < 32 → j < 32 → leNat (memBytes (Stated.pad t lc) (bits r.w1 0 20 + i * bits r.w1 32 20 + 4 * j) 4) = bankCell (s.mu lc).vis i j) ∧
          (∀ x, (∀ i, i < 32 → x < bits r.w1 0 20 + i * bits r.w1 32 20 ∨ bits r.w1 0 20 + i * bits r.w1 32 20 + 128 ≤ x) → memGet (Stated.pad t lc) x = memGet (Stated.pad s lc) x)) ∧
        (r.cmd = 6 → r.roleB = false → s.past = [] → ∀ us, us = (List.range 32).map (fun i => convertUnit r.mode r.pa (elemsOf r (memBytes (Stated.pad s lc) (bits r.w1 0 20 + i * bits r.w1 32 20) (128 * r.esize)))) →
          ∃ (t : State), exec .mpack s = .next t ∧ Stated.RecordDone s t lc q ∧ (t.mu lc).work = (s.mu lc).work ∧ Stated.pad t lc = (Stated.unitsPut (s.ltile (lc / 8)) (bits r.w2 0 20)
            (aBlock r.pa (us.map fun u => (u.1, u.2.1)) ((List.range 32).map fun i => leNat (memBytes (Stated.pad s lc) (bits r.w3 0 32 + 4 * i) 4)))).scratch) ∧
        (r.cmd = 7 → r.roleB = false → s.past = [] → ∃ (t : State), exec .munpk s = .next t ∧ Stated.RecordDone s t lc q ∧ (t.mu lc).work = (s.mu lc).work ∧
          (∀ x, (∀ i, i < 32 → x < bits r.w2 0 20 + i * bits r.w2 32 20 ∨ bits r.w2 0 20 + i * bits r.w2 32 20 + 128 * r.esize ≤ x) → memGet (Stated.pad t lc) x = memGet (Stated.pad s lc) x) ∧
          ∀ b v, b = memBytes (Stated.pad s lc) (bits r.w1 0 20) (512 * r.pa + 192) →
            v = (fun i k => (unpackElem r.mode (satOf r.frm) r.tk r.sat r.ty (Stated.mant b r.pa i k) (b.getD (512 * r.pa + 128 + i) 0#8).toInt (leNat ((b.drop (512 * r.pa + 4 * i)).take 4))).1) →
            Stated.pad t lc = (Stated.rowsPut (s.ltile (lc / 8)) ((List.range 32).map fun i => (bits r.w2 0 20 + i * bits r.w2 32 20, (List.range 128).flatMap fun k => leBytes r.esize (v i k)))).scratch ∧
            ((s.ltile (lc / 8)).codelets = [] → ∀ i k, i < 32 → k < 128 → leNat (memBytes (Stated.pad t lc) (bits r.w2 0 20 + i * bits r.w2 32 20 + k * r.esize) r.esize) = v i k % 2 ^ (8 * r.esize))) ∧
        (r.cmd = 8 → ∃ (t : State), exec .msig s = .next t ∧ Stated.RecordDone s t lc q ∧ (t.mu lc).work = (s.mu lc).work ∧ (t.mu lc).vis = (s.mu lc).vis ∧
          Stated.pad t lc = ((s.ltile (lc / 8)).put (bits r.w1 0 20) (leBytes 8 r.w2.toNat)).scratch))) ∧
  (
    ∀ (s : State) lc (r : MuRec) (q : List MuRec) (A B : List Byte), Stated.UnitTurn s lc r q → r.cmd = 1 → r.int = true → r.sat = false → s.past = [] → r.check (s.kernelD (lcKid lc)).s 1 1 = none →
      A = memBytes (Stated.pad s lc) (bits r.w1 0 20) (512 * r.pa + 192) → B = memBytes (Stated.pad s lc) (bits r.w2 0 20) (512 * r.pb + 64) →
      ∃ (t : State), exec .mma s = .next t ∧ t.ltiles = s.ltiles ∧ (t.mu lc).vis = (s.mu lc).vis ∧
        ∀ i j e, i < 32 → j < 32 → 0 ≤ e → e = (A.getD (512 * r.pa + 128 + i) 0#8).toInt + (B.getD (512 * r.pb + 4) 0#8).toInt →
          (bankCell (t.mu lc).work i j : Int) =
            ((bankCell (s.mu lc).work i j : Int) + ((List.range 128).map fun k => Stated.mant A r.pa i k * Stated.mant B r.pb j k).sum * 2 ^ e.toNat) % 2 ^ 32)

/-- R237-R239: firmware's write of a format window's CTL, and the fill of a view block into the home L2. -/
def Obligations.FormatWindows : Prop :=
  (∀ (s : State) (w : FmtWin), s.ev.id < 12 → s.ev.idx < 16 → (s.ctrl s.ev.id).wins.toList[s.ev.idx]? = some w →
    ∃ (t : State) (w' : _), exec .formatWindowCtlWrite s = .next t ∧ (t.ctrl s.ev.id).wins.toList[s.ev.idx]? = some w' ∧ w'.ebase = w.ebase ∧ w'.elimit = w.elimit ∧ w'.vbase = w.vbase ∧
      w'.sbase = w.sbase ∧ w'.err = w.err ∧ bits w'.ctl 32 16 = bits s.ev.w0 32 16 ∧ bits w'.ctl 3 9 = bits s.ev.w0 3 9 ∧ bits w'.ctl 0 3 = 0 ∧ bits w'.ctl 12 20 = 0 ∧ bits w'.ctl 48 15 = 0 ∧
      w'.ctl.getLsbD 63 = (s.ev.w0.getLsbD 63 && decide (bits s.ev.w0 32 16 ≠ 0) &&
        (if s.ev.w0.getLsbD 6 then decide (bits s.ev.w0 3 3 ≤ 2) else decide (1 ≤ bits s.ev.w0 3 3 ∧ bits s.ev.w0 3 3 ≤ 4)))) ∧
  (∀ (s : State) (w : FmtWin) (b : List Byte) (f : BitVec 5), s.ev.id < 12 → s.ev.idx < 16 → (s.ctrl s.ev.id).wins.toList[s.ev.idx]? = some w → w.ctl.getLsbD 63 = true → s.ev.slot < w.blocks →
    w.block s.glob s.ev.slot = (b, f) → b.length ≤ w.stride → w.vbase.toNat % 128 = 0 →
    ∃ (t : State) (w' : _), exec .formatWindowFill s = .next t ∧ t.glob = s.glob ∧ (t.ctrl s.ev.id).wins.toList[s.ev.idx]? = some w' ∧ w'.ctl = w.ctl ∧
      (f.getLsbD 4 = true → w'.err.getLsbD 2 = true) ∧ (f.getLsbD 2 = true → w'.err.getLsbD 1 = true) ∧ (f.getLsbD 0 = true → w'.err.getLsbD 0 = true) ∧
      ∀ k, k < w.stride / 128 → ∃ l, mget ((w.vbase.toNat + s.ev.slot * w.stride) / 128 + k) t.viewLines = some l ∧
        ∀ j, j < 128 → l.getD j 0#8 = b.getD (128 * k + j) 0#8)

/-! ## Chains -/

/-- R343, R345, R354: CHAIN in a PLAIN kernel reads its descriptor from the scratchpad, makes the chain of the lowest free number, writes every stage's first frame, sends
the start tasks, and gives the number; with its refusals and traps. That the number is the lowest free one is the model's choice (notes/assumptions/121.md): the spec gives
only that it is one of 0 to 255. -/
def Obligations.ChainCreation : Prop :=
  ∀ (s : State) (id : Nat) (c : Ctx) (d a b : Reg) (x : List Byte) ps (coil : Bool) nst ca, Stated.Runs s id c (.chain d a b) →
    ((c.getG a).toNat % 64 ≠ 0 → exec (.chain d a b) s = .next (s.trap id 0x02#8 (c.getG a))) ∧
    ((c.getG a).toNat % 64 = 0 → s.sOf c < (c.getG a).toNat + 128 → exec (.chain d a b) s = .next (s.trap id 0x05#8 (c.getG a))) ∧
    (Stated.ScratchOk s c (c.getG a).toNat 128 64 → s.isWarp c.kid = false → x = memBytes (s.ltile c.ltk).scratch (c.getG a).toNat 128 →
      nst = hdrField x 0 8 % 8 + 1 → coil = decide (hdrField x 0 8 / 256 % 2 = 1) → ca = hdrField x 0 8 / 2 ^ 32 % 2 ^ 20 → ps = (List.range nst).map (descAt x) →
      (descBad x (s.kernelD c.kid).tiles = true → ∃ (t : State) (c' : Ctx), exec (.chain d a b) s = .next t ∧ t.ctx? id = some c' ∧ c'.run = .trapped ∧ c'.ecause = 0x01#8 ∧ c'.einfo = c.getG a) ∧
      (descBad x (s.kernelD c.kid).tiles = false → ca + 8704 ≤ (s.kernelD c.kid).s → ps.dedup.length ≠ nst → ∃ (t : State) (c' : Ctx), exec (.chain d a b) s = .next t ∧ t.ctx? id = some c' ∧
        c'.getG d = (if d = 0#5 then 0#64 else 0x8200000000000000#64) ∧ t.flits = s.flits ∧ t.kernels = s.kernels) ∧
      (∀ n k, s.kernel? c.kid = some k → descBad x k.tiles = false → ca + 8704 ≤ k.s → ps.dedup.length = nst → (∀ p, p ∈ ps → s.hostsStage (lcKey c.kid p.1 p.2) = false) →
        (coil = true → s.oneTile c.kid ps = true) → (List.range 256).find? (fun n => k.chains.all fun ch => decide (ch.num ≠ n)) = some n → c.item.vrt.toNat ≤ 2 ^ 64 - 2 →
        (s.lcore c.lck).retx.length + (if coil then 1 else nst) ≤ 64 → s.agedSend c = false → c.kid < 63 → lcKid c.alck = c.kid →
        ∃ (t : State) (c' : Ctx) (ch : Chain), exec (.chain d a b) s = .next t ∧ (t.kernelD c.kid).chains = k.chains ++ [ch] ∧ ch.num = n ∧ ch.nst = nst ∧ ch.ca = ca ∧
          ch.form = (if coil then .coil else .stake) ∧ t.flits.length = s.flits.length + (if coil then 1 else nst) ∧ t.ctx? id = some c' ∧ c'.getG d = (if d = 0#5 then 0#64 else BitVec.ofNat 64 n) ∧
          ∀ i, i < nst → leNat (memBytes (t.ltile (ltKey c.kid (descAt x i).1)).scratch (ca + 512 + 1024 * i + 120) 8) = hdrField x (8 + 8 * i) 8 ∧
            leNat (memBytes (t.ltile (ltKey c.kid (descAt x i).1)).scratch (ca + 512 + 1024 * i + 304) 8) = 0))

/-- R349, R355-R357: RECOIL, UNCOIL, CFORM and EQPT, and the switch of a chain at its equivalence point. That a chain which has come into coil form apart is asked to uncoil at
once is the model's reading (notes/assumptions/122.md). -/
def Obligations.ChainSwitches : Prop :=
  (∀ (s : State) (id : Nat) (c : Ctx) (d a : Reg), Stated.Runs s id c (.recoil d a) →
    (255 < (c.getG a).toNat → exec (.recoil d a) s = .next (s.trap id 0x01#8 (c.getG a))) ∧
    ((c.getG a).toNat ≤ 255 → s.chain? c.kid (c.getG a).toNat = none → exec (.recoil d a) s = .next (s.finishG id d 0x8300000000000000#64 4)) ∧
    (∀ ch, (c.getG a).toNat ≤ 255 → s.chain? c.kid (c.getG a).toNat = some ch →
      (ch.form ≠ .stake → exec (.recoil d a) s = .next (s.finishG id d 0x8100000000000000#64 4)) ∧
      (ch.form = .stake → s.oneTile c.kid ((List.range ch.nst).map ch.at) = false → exec (.recoil d a) s = .next (s.finishG id d 0x8200000000000000#64 4)) ∧
      (ch.form = .stake → s.oneTile c.kid ((List.range ch.nst).map ch.at) = true → ∃ (t : State) (c' : Ctx), exec (.recoil d a) s = .next t ∧
        t.chain? c.kid (c.getG a).toNat = some { ch with form := .toCoil, reqOrigin := false } ∧ t.ctx? id = some c' ∧ c'.getG d = 0#64))) ∧
  (∀ (s : State) (id : Nat) (c : Ctx) (d a : Reg), Stated.Runs s id c (.uncoil d a) →
    ((c.getG a).toNat ≤ 255 → s.isWarp c.kid = true → exec (.uncoil d a) s = .next (s.trap id 0x0C#8 (c.getG a))) ∧
    (∀ ch, (c.getG a).toNat ≤ 255 → s.isWarp c.kid = false → s.chain? c.kid (c.getG a).toNat = some ch →
      (ch.form ≠ .coil → exec (.uncoil d a) s = .next (s.finishG id d 0x8100000000000000#64 4)) ∧
      (ch.form = .coil → ∃ (t : State) (c' : Ctx), exec (.uncoil d a) s = .next t ∧ t.chain? c.kid (c.getG a).toNat = some { ch with form := .toStake, reqOrigin := false } ∧ t.ctx? id = some c' ∧
        c'.getG d = 0#64))) ∧
  (∀ (s : State) (id : Nat) (c : Ctx) (d a : Reg), Stated.Runs s id c (.cform d a) →
    (255 < (c.getG a).toNat → exec (.cform d a) s = .next (s.trap id 0x01#8 (c.getG a))) ∧
    ((c.getG a).toNat ≤ 255 → s.chain? c.kid (c.getG a).toNat = none → exec (.cform d a) s = .next (s.finishG id d 0#64 4)) ∧
    (∀ ch, (c.getG a).toNat ≤ 255 → s.chain? c.kid (c.getG a).toNat = some ch → 1 ≤ ch.nst → ch.nst ≤ 8 → ∃ v : Word, exec (.cform d a) s = .next (s.finishG id d v 4) ∧
      v.extractLsb' 60 4 = (if ch.stalled then 5#4 else match ch.form with | .stake => 1#4 | .coil => 2#4 | .toCoil => 3#4 | .toStake => 4#4) ∧ v.getLsbD 59 = ch.origin ∧
      v.extractLsb' 32 8 = ch.switches ∧ (v.extractLsb' 0 3).toNat = ch.nst - 1 ∧ (∀ i, i < 8 → v.getLsbD (48 + i) = (decide (i < ch.nst) && decide (s.stageState c.kid ch i = 3))))) ∧
  (∀ (s : State) (id : Nat) (c : Ctx), Stated.Runs s id c .eqpt → c.shipped = none →
    (c.stage = none → exec .eqpt s = .next (s.retire id (c.pc + 4#64))) ∧
    (∀ n i ch, c.stage = some (n, i) → s.chain? c.kid n = some ch → (ch.form = .toCoil ∨ ch.form = .toStake) →
      ∃ (t : State) (c' : Ctx), exec .eqpt s = .next t ∧ t.ctx? id = some c' ∧ c'.halted = true ∧ (c.rep = none → c'.pc = c.pc + 4#64) ∧ c'.g = c.g)) ∧
  (∀ (s : State) ch, s.chain? s.ev.id s.ev.idx = some ch → s.kernelRuns s.ev.id = true → s.atEquivalence s.ev.id ch = true →
    (∀ i, i < ch.nst → s.ringRoom (ch.lc s.ev.id i) = true) →
    ∃ (t : State) (ch' : Chain), exec .chainSwitch s = .next t ∧ t.chain? s.ev.id s.ev.idx = some ch' ∧ ch'.form = (if ch.form = .toCoil then (if s.apart s.ev.id { ch with form := .coil } then .toStake else .coil) else .stake) ∧
      ch'.switches = ch.switches + 1#8 ∧ ch'.origin = ch.reqOrigin ∧ ch'.stalled = false ∧ ch'.entries = ch.entries ∧ ch'.places = ch.places)

/-! ## Groups and collectives -/

namespace Sys2Proof.Stated

/-- A collective instruction with its operation (R383). -/
def IsColl (i : Instr) (d a b : Reg) (op : Coll) : Prop :=
  (∃ rm mode dt, i = .cred d a b rm mode dt ∧ op = { kind := 0, rop := 0, mode := mode, dt := dt, rm := rm }) ∨
  (∃ rm mode dt, i = .credmin d a b rm mode dt ∧ op = { kind := 0, rop := 1, mode := mode, dt := dt, rm := rm }) ∨
  (∃ rm mode dt, i = .credmax d a b rm mode dt ∧ op = { kind := 0, rop := 2, mode := mode, dt := dt, rm := rm }) ∨
  (∃ rm mode dt, i = .credand d a b rm mode dt ∧ op = { kind := 0, rop := 3, mode := mode, dt := dt, rm := rm }) ∨
  (∃ rm mode dt, i = .credor d a b rm mode dt ∧ op = { kind := 0, rop := 4, mode := mode, dt := dt, rm := rm }) ∨
  (∃ rm dt, i = .cbcst d a b rm dt ∧ op = { kind := 1, dt := dt, rm := rm }) ∨
  (∃ rm dt, i = .cagth d a b rm dt ∧ op = { kind := 2, dt := dt, rm := rm }) ∨
  (∃ rm mode dt, i = .crsct d a b rm mode dt ∧ op = { kind := 3, mode := mode, dt := dt, rm := rm })

end Sys2Proof.Stated

/-- R376-R378, R389, R390: GJOIN, GLEAVE and GGEN at a group whose home is the module's own group engine: the next generation opens with or without the member, and
gD gets the rank and the generation; GJOIN of a group whose home is on another device sends a flit of kind 10 and parks. That the module's own engine answers within the
instruction's step, and what a flit of kind 10 holds, are the model's choices (notes/assumptions/58.md). -/
def Obligations.GroupMembership : Prop :=
  (∀ (s : State) (id : Nat) (c : Ctx) (d a b : Reg) who part, who = ({ dev := s.device.toNat, kid := c.kid, lt := c.lt } : Member) → part = s.partOf c.kid → Stated.Runs s id c (.gjoin d a b) →
    (s.spec c = true → exec (.gjoin d a b) s = .next (s.trap id 0x01#8 0#64)) ∧
    (s.spec c = false → bits (c.getG a) 16 36 ≠ 0 → exec (.gjoin d a b) s = .next (s.trap id 0x01#8 (c.getG a))) ∧
    (s.spec c = false → bits (c.getG a) 16 36 = 0 → bits (c.getG b) 48 16 ≠ 0 → exec (.gjoin d a b) s = .next (s.trap id 0x01#8 (c.getG b))) ∧
    (s.spec c = false → bits (c.getG a) 16 36 = 0 → bits (c.getG b) 48 16 = 0 → bits (c.getG a) 58 6 = s.device.toNat →
      (∀ k, s.group? part (c.getG a) = none → s.kernel? (bits (c.getG a) 52 6) = some k → k.part = part → (k.state = .held ∨ k.state = .running) → (s.groups.filter fun g => decide (g.part = part)).length < 256 →
        ∃ (t : State) (c' : Ctx) (g : Group), exec (.gjoin d a b) s = .next t ∧ t.groups = s.groups ++ [g] ∧ g.name = c.getG a ∧ g.part = part ∧ g.latest = 1#32 ∧
          g.members = [(who, (c.getG b).setWidth 32)] ∧ g.tmo = bits (c.getG b) 32 16 ∧ t.ctx? id = some c' ∧ c'.getG d = (if d = 0#5 then 0#64 else 1#64)) ∧
      (∀ g, s.group? part (c.getG a) = some g → g.has who = true → exec (.gjoin d a b) s = .next (s.finishG id d 0x8100000000000000#64 4)) ∧
      (∀ g, s.group? part (c.getG a) = some g → g.has who = false → g.members.length < 65536 → ((who :: g.members.map (·.1)).map (·.dev)).dedup.length ≤ 64 →
        ∃ (t : State) (c' : Ctx) (g' : Group), exec (.gjoin d a b) s = .next t ∧ t.group? part (c.getG a) = some g' ∧ g'.latest = g.latest + 1#32 ∧ g'.has who = true ∧
          g'.members.length = g.members.length + 1 ∧ (∀ y, y ∈ g.members → y ∈ g'.members) ∧ t.ctx? id = some c' ∧
          c'.getG d = (if d = 0#5 then 0#64 else BitVec.ofNat 64 (rankIn who (g'.members.map (·.1)) * 2 ^ 32 + (g.latest + 1#32).toNat)))) ∧
    (s.spec c = false → bits (c.getG a) 16 36 = 0 → bits (c.getG b) 48 16 = 0 → bits (c.getG a) 58 6 ≠ s.device.toNat → c.held = none → s.retxRoom c.lck = true →
      ∃ (t : State) (c' : Ctx) (f : Flit), exec (.gjoin d a b) s = .next t ∧ t.flits = s.flits ++ [f] ∧ f.kind = 10 ∧ f.dev = bits (c.getG a) 58 6 ∧
        f.carry = .group (.join (c.getG a) ((c.getG b).setWidth 32) (bits (c.getG b) 32 16) who id) ∧ t.ctx? id = some c' ∧ c'.run = .parked ∧ c'.wait = .group)) ∧
  (∀ (s : State) (id : Nat) (c : Ctx) (d a : Reg) who part g, who = ({ dev := s.device.toNat, kid := c.kid, lt := c.lt } : Member) → part = s.partOf c.kid → s.spec c = false → bits (c.getG a) 16 36 = 0 →
    bits (c.getG a) 58 6 = s.device.toNat → s.group? part (c.getG a) = some g →
    (Stated.Runs s id c (.gleave d a) → g.has who = false → exec (.gleave d a) s = .next (s.finishG id d 0x8100000000000000#64 4)) ∧
    (∀ ms, Stated.Runs s id c (.gleave d a) → g.has who = true → ms = g.members.filter (fun m => decide (m.1 ≠ who)) → ms ≠ [] →
      ∃ (t : State) (c' : Ctx) (g' : Group), exec (.gleave d a) s = .next t ∧ t.group? part (c.getG a) = some g' ∧ g'.members = ms ∧ g'.latest = g.latest + 1#32 ∧
        t.view? (c.getG a) c.kid c.lt = none ∧ t.ctx? id = some c' ∧ c'.getG d = (if d = 0#5 then 0#64 else (g.latest + 1#32).setWidth 64)) ∧
    (Stated.Runs s id c (.ggen d a) → g.has who = false → exec (.ggen d a) s = .next (s.finishG id d 0x8100000000000000#64 4)) ∧
    (Stated.Runs s id c (.ggen d a) → g.has who = true → ∃ (t : State) (c' : Ctx) (v : _), exec (.ggen d a) s = .next t ∧ t.view? (c.getG a) c.kid c.lt = some v ∧ v.view.gen = g.latest ∧
      v.view.members = g.members.map (·.1) ∧ v.view.rank = rankIn who (g.members.map (·.1)) ∧ t.ctx? id = some c' ∧
      c'.getG d = (if d = 0#5 then 0#64 else BitVec.ofNat 64 (rankIn who (g.members.map (·.1)) * 2 ^ 32 + g.latest.toNat))))

/-- R381, R382, R386: a collective whose descriptor passes the checks takes the lowest free slot, with its group, generation and number, and gives its slot and its
logical core's collective number; where it traps; and CSTAT.
R379, R382, R383, R386: the engine's reading of a contribution, the end of a reduction to which one member of this device contributed, the timeout records for the members
awaited, of which those that are away are withdrawn, and the withdrawal of a member of this device for which there is a ground. That a contribution to the module's own
engine joins its instance in the step that reads it is the model's choice (notes/assumptions/58.md). -/
def Obligations.CollectiveOperations : Prop :=
  (
    (∀ (s : State) (id : Nat) (c : Ctx) i (d a b : Reg) op (x : List Byte), Stated.IsColl i d a b op → Stated.Runs s id c i →
      (s.spec c = true → exec i s = .next (s.trap id 0x01#8 0#64)) ∧
      (s.spec c = false → bits (c.getG a) 16 36 ≠ 0 → exec i s = .next (s.trap id 0x01#8 (c.getG a))) ∧
      (s.spec c = false → bits (c.getG a) 16 36 = 0 → (c.getG b).toNat % 32 ≠ 0 → exec i s = .next (s.trap id 0x02#8 (c.getG b))) ∧
      (s.spec c = false → bits (c.getG a) 16 36 = 0 → Stated.ScratchOk s c (c.getG b).toNat 32 32 → x = memBytes (s.ltile c.ltk).scratch (c.getG b).toNat 32 →
        (hdrField x 16 8 = 0 → ∃ (t : State) (c' : Ctx), exec i s = .next t ∧ t.ctx? id = some c' ∧ c'.run = .trapped ∧ c'.ecause = 0x01#8 ∧ c'.einfo = c.getG b) ∧
        (∀ v n src dst cnt size, s.view? (c.getG a) c.kid c.lt = some v → src = hdrField x 0 8 → dst = hdrField x 8 8 → cnt = hdrField x 16 8 → size = (match op.dt with | .i64 => 8 | _ => 4) →
          1 ≤ cnt → cnt ≤ 65536 → src % size = 0 → dst % size = 0 → (if op.kind = 1 then hdrField x 24 8 < v.view.members.length ∧ hdrField x 24 8 < 65536 else hdrField x 24 8 = 0) →
          v.view.members.length ≤ 512 → src + v.view.members.length * cnt * size ≤ s.sOf c → dst + v.view.members.length * cnt * size ≤ s.sOf c → 1 ≤ v.view.members.length →
          (s.lcore c.lck).freeColl = some n → n < 16 →
          ∃ (t : State) (c' : Ctx) (r : CollRec), exec i s = .next t ∧ (t.lcore c.lck).colls = (s.lcore c.lck).colls.filter (fun y => decide (y.slot ≠ n)) ++ [r] ∧ r.slot = n ∧
            r.seqno = (s.lcore c.lck).collSeq ∧ r.state = 1 ∧ r.src = src ∧ r.dst = dst ∧ r.op.count = cnt ∧ r.op.name = c.getG a ∧ r.op.gen = v.view.gen ∧ r.op.k = v.count ∧ r.op.kind = op.kind ∧
            r.op.rop = op.rop ∧ r.op.dt = op.dt ∧ (∃ v', t.view? (c.getG a) c.kid c.lt = some v' ∧ v'.count = v.count + 1) ∧ t.ctx? id = some c' ∧
            c'.getG d = (if d = 0#5 then 0#64 else BitVec.ofNat 64 (n + (s.lcore c.lck).collSeq % 4096 * 16)) ∧ t.ltiles = s.ltiles))) ∧
    (∀ (s : State) (id : Nat) (c : Ctx) (d a : Reg), Stated.Runs s id c (.cstat d a) → s.spec c = false →
      ((s.lcore c.lck).colls.find? (fun r => decide ((c.getG a).toNat = r.slot + r.seqno % 4096 * 16)) = none → exec (.cstat d a) s = .next (s.finishG id d 0#64 4)) ∧
      (∀ r, (s.lcore c.lck).colls.find? (fun r => decide ((c.getG a).toNat = r.slot + r.seqno % 4096 * 16)) = some r → r.state < 8 → r.fin.err < 16 → r.fin.nc1 < 65536 →
        ∃ (t : State) (c' : Ctx) (v : Word), exec (.cstat d a) s = .next t ∧ t.ctx? id = some c' ∧ c'.getG d = (if d = 0#5 then 0#64 else v) ∧ v.getLsbD 62 = r.fin.wdr ∧
          v.extractLsb' 56 5 = r.fin.fl ∧ (v.extractLsb' 52 4).toNat = r.fin.err ∧ (v.extractLsb' 48 4).toNat = r.state ∧ (v.extractLsb' 32 16).toNat = r.fin.nc1 ∧ v.extractLsb' 0 32 = r.op.gen))) ∧
  (
    (∀ (s : State) r b, s.ev.flag = true → s.kernelRuns (lcKid s.ev.id) = true → (s.lcore s.ev.id).colls.find? (fun r => decide (r.slot = s.ev.slot) && decide (r.state = 1)) = some r → r.op.kind = 0 → r.gone = false → s.past = [] →
      bits r.op.name 58 6 = s.device.toNat → (s.group? (s.partOf (lcKid s.ev.id)) r.op.name).isSome = true →
      (∀ y, y ∈ s.insts → y.name ≠ r.op.name) → b = memBytes (s.ltile (s.ev.id / 8)).scratch r.src (r.op.count * (match r.op.dt with | .i64 => 8 | _ => 4)) →
      ∃ (t : State) (y : Inst) (k : Contrib), exec .collectiveComplete s = .next t ∧ t.insts = s.insts ++ [y] ∧ y.name = r.op.name ∧ y.gen = r.op.gen ∧ y.k = r.op.k ∧ y.contribs = [k] ∧ k.data = b ∧ k.op = r.op ∧
        k.who = { dev := s.device.toNat, kid := lcKid s.ev.id, lt := lcLt s.ev.id } ∧ (∀ x, x ∈ (t.lcore s.ev.id).colls → x.slot = s.ev.slot → x.state = 2) ∧ t.ltiles = s.ltiles) ∧
    (∀ (s : State) x g (k : Contrib) r lc, s.ev.flag = false → s.insts = [x] → x.name = s.ev.w0 → x.part = s.ev.slot → x.gen.toNat = s.ev.id → x.k = s.ev.idx → s.group? s.ev.slot s.ev.w0 = some g →
      g.awaited x = [] → x.contribs = [k] → g.ofGen x.gen = [k.who] → k.memErr = false → k.who.dev = s.device.toNat → k.op.kind = 0 → (k.op.dt = .i32 ∨ k.op.dt = .i64) → k.op.rop ≤ 4 →
      k.data.length = k.op.count * (match k.op.dt with | .i64 => 8 | _ => 4) → lc = lcKey k.who.kid k.who.lt 0 → k.who.lt < 4096 → (s.lcore lc).colls = [r] → (∀ j, 1 ≤ j → j < 8 → (s.lcore (lc + j)).colls = []) →
      r.op.name = x.name → r.op.gen = x.gen → r.op.k = x.k → r.state = 2 → r.result = none → s.kernelRuns k.who.kid = true → (∀ (c : Ctx), s.ctx? r.ctx = some c → c.spilled = false) →
      ∃ (t : State) (r' : CollRec), exec .collectiveComplete s = .next t ∧ t.insts = [] ∧ (t.lcore lc).colls = [r'] ∧ r'.state = 3 ∧ r'.fin.err = 0 ∧ r'.fin.nc1 = 0 ∧ r'.fin.wdr = false ∧
        (t.ltile (lc / 8)).scratch = (Stated.unitsPut (s.ltile (lc / 8)) r.dst k.data).scratch ∧
        ((s.ltile (lc / 8)).codelets = [] → (t.ltile (lc / 8)).scratch = memPut (s.ltile (lc / 8)).scratch r.dst k.data)) ∧
    (∀ (s : State) x g ms (away : Member → Bool), (∀ m, away m = s.memberAway m (s.ev.picks.contains (m.dev * 2 ^ 18 + m.kid * 2 ^ 12 + m.lt))) → s.insts.find? (fun x => decide (x.name = s.ev.w0) && decide (x.part = s.ev.slot) && decide (x.gen.toNat = s.ev.id) && decide (x.k = s.ev.idx)) = some x →
      s.group? s.ev.slot s.ev.w0 = some g → g.awaited x = ms → ms ≠ [] → g.tmo ≠ 0 → x.firstAt + 1000000 * g.tmo ≤ s.tbase →
      ((∀ m, m ∈ ms → away m = false) → ∃ (t : State) (ns : List ResMsg) (x' : Inst), exec .groupTimeout s = .next t ∧ t.resident = s.resident ++ ns ∧ ns.length = ms.length ∧
        (∀ n, n ∈ ns → n.part = s.ev.slot ∧ n.notice = true ∧ n.item.p0 = x.name ∧ n.item.p2 = x.gen.setWidth 64) ∧ t.groups = s.groups ∧
        t.insts.find? (fun x => decide (x.name = s.ev.w0) && decide (x.part = s.ev.slot) && decide (x.gen.toNat = s.ev.id) && decide (x.k = s.ev.idx)) = some x' ∧ x'.contribs = x.contribs ∧
        x'.firstAt = s.tbase) ∧
      (∀ m, ms = [m] → away m = true → m.dev = s.device.toNat → bits s.ev.w0 58 6 = s.device.toNat → g.has m = true → g.members.filter (fun y => decide (y.1 ≠ m)) ≠ [] →
        ∃ (t : State) (n : ResMsg) (g' : Group) (x' : Inst), exec .groupTimeout s = .next t ∧ t.resident = s.resident ++ [n] ∧ n.part = s.ev.slot ∧ n.notice = true ∧
          t.group? s.ev.slot s.ev.w0 = some g' ∧ g'.members = g.members.filter (fun y => decide (y.1 ≠ m)) ∧ g'.latest = g.latest + 1#32 ∧ t.view? s.ev.w0 m.kid m.lt = none ∧
          t.insts.find? (fun x => decide (x.name = s.ev.w0) && decide (x.part = s.ev.slot) && decide (x.gen.toNat = s.ev.id) && decide (x.k = s.ev.idx)) = some x' ∧ x'.firstAt = x.firstAt)) ∧
    (∀ (s : State) g ms, s.group? s.ev.slot s.ev.w0 = some g → g.has s.ev.member = true → s.ev.member.dev = s.device.toNat → bits s.ev.w0 58 6 = s.device.toNat →
      s.mayWithdraw s.ev.slot s.ev.w0 s.ev.member s.ev.flag = true → ms = g.members.filter (fun m => decide (m.1 ≠ s.ev.member)) → ms ≠ [] →
      ∃ (t : State) (g' : Group), exec .memberWithdrawal s = .next t ∧ t.group? s.ev.slot s.ev.w0 = some g' ∧ g'.members = ms ∧ g'.latest = g.latest + 1#32 ∧
        t.view? s.ev.w0 s.ev.member.kid s.ev.member.lt = none))

/-! ## Barriers -/

namespace Sys2Proof.Stated

/-- A valid barrier record of the strand's kernel lies in its scratchpad at the address in `a` (R391, R394): its bytes give `r`. -/
@[reducible] def BarAt (s : State) (c : Ctx) (a : Word) (r : BarRec) : Prop :=
  s.spec c = false ∧ a.toNat % 64 = 0 ∧ a.toNat + 64 ≤ s.sOf c ∧ a.toNat + 64 ≤ 2 ^ 20 ∧ r = barOf (memBytes (s.ltile c.ltk).scratch a.toNat 64) ∧ r.flags / 4 % 2 = 1 ∧ bits r.part 32 6 = c.kid

/-- The table entry of the strand's logical tile, at `ep`, which does not overlap the record (R391) and lies in no reserved bytes of a codelet record (R4). -/
@[reducible] def EntryAt (s : State) (c : Ctx) (a : Word) (r : BarRec) (ep : Nat) (e : Word) : Prop :=
  bits r.part 0 12 ≤ c.lt ∧ c.lt ≤ bits r.part 0 12 + bits r.part 16 12 ∧ ep = r.table.toNat + 8 * (c.lt - bits r.part 0 12) ∧ ep + 8 ≤ s.sOf c ∧ ep + 8 ≤ 2 ^ 20 ∧
    (ep + 8 ≤ a.toNat ∨ a.toNat + 64 ≤ ep) ∧ (∀ j, j < 8 → (s.ltile c.ltk).reserved (ep + j) = false) ∧ e = BitVec.ofNat 64 (leNat (memBytes (s.ltile c.ltk).scratch ep 8))

/-- The strand's engine reaches a global address: it translates to `pa`, in a page that the strand may write, that does not move and that is memory's own; `s'` is the state
then (R126, R391). -/
@[reducible] def EngineReaches (s : State) (c : Ctx) (a pa : Nat) (s' : State) : Prop :=
  2 ^ 20 ≤ a ∧ a < 2 ^ 56 ∧ pa + 64 ≤ 2 ^ 48 ∧ ∃ dt s1, s.xlate (s.partOf c.kid) (s.xlUnit c) true (s.coreNo c) a aStore = (Xl.ok pa dt, s1) ∧
    s1.migrating (s.partOf c.kid) pa = false ∧ s' = s1.countEngine c.kid (s.tileOf c) pa 8

/-- A valid barrier record of the strand's kernel lies in global memory at the address in `a`, whose engine reaches it at `pa` (R391, R394): its bytes give `r`. -/
@[reducible] def GlobalBar (s : State) (id : Nat) (c : Ctx) (a : Word) (pa : Nat) (r : BarRec) (s1 : State) : Prop :=
  s.spec c = false ∧ a.toNat % 64 = 0 ∧ s.ev.flag = false ∧ (s.isWarp c.kid && (s.kernelD c.kid).meetsFrozen a.toNat 64) = false ∧ EngineReaches (s.handEngine id) c a.toNat pa s1 ∧
    r = barOf (memBytes s.glob pa 64) ∧ r.flags / 4 % 2 = 1 ∧ bits r.part 32 6 = c.kid

/-- A four-byte field of the record at `a` in the scratchpad of the strand's logical tile. -/
def field4 (s : State) (c : Ctx) (a : Word) (off : Nat) : Nat := leNat (memBytes (s.ltile c.ltk).scratch (a.toNat + off) 4)

end Sys2Proof.Stated

/-- R212, R391-R399: barriers whose record lies in the scratchpad: BINIT makes a record for one logical tile, BARV arrives, and completes the phase when it is the last, and traps
at an EMPTY barrier; BWAIT and BTEST read; BCNT moves the pending count; BWDRAW withdraws; and WAITA waits for a word. The same of BARV, BWAIT, BTEST and BCNT at a record in global
memory, which the engine reaches where it stands without shipping the strand (the model's reading, notes/assumptions/32.md), and the traps that come before it (R394). -/
def Obligations.Barriers : Prop :=
  (∀ (s : State) (id : Nat) (c : Ctx) (d a b : Reg) lo n1, Stated.Runs s id c (.binit d a b lo n1) → s.spec c = false → (c.getG a).toNat % 64 = 0 → (c.getG a).toNat + 64 ≤ s.sOf c → (c.getG a).toNat + 64 ≤ 2 ^ 20 →
    (c.getG b).toNat % 8 = 0 → (c.getG b).toNat + 8 ≤ s.sOf c → (c.getG b).toNat + 8 ≤ 2 ^ 20 →
    ((c.getG b).toNat + 8 * (n1.toNat + 1) ≤ (c.getG a).toNat ∨ (c.getG a).toNat + 64 ≤ (c.getG b).toNat) → (∀ j, j < 8 → (s.ltile c.ltk).reserved ((c.getG b).toNat + j) = false) →
    ((s.kernelD c.kid).tiles < lo.toNat + n1.toNat + 1 → ∃ (t : State) (c' : Ctx), exec (.binit d a b lo n1) s = .next t ∧ t.ctx? id = some c' ∧
      c'.getG d = (if d = 0#5 then 0#64 else 0x8200000000000000#64) ∧ t.ltiles = s.ltiles) ∧
    (lo.toNat + n1.toNat + 1 ≤ (s.kernelD c.kid).tiles → (n1 ≠ 0#12 ∨ lo.toNat ≠ c.lt) → ∃ (t : State) (c' : Ctx), exec (.binit d a b lo n1) s = .next t ∧ t.ctx? id = some c' ∧
      c'.getG d = (if d = 0#5 then 0#64 else 0x8300000000000000#64) ∧ t.ltiles = s.ltiles) ∧
    (n1 = 0#12 → lo.toNat = c.lt → c.lt < (s.kernelD c.kid).tiles → c.kid < 64 → (Stated.field4 s c (c.getG a) 28 / 4 % 2 = 0 ∨ Stated.field4 s c (c.getG a) 28 / 2 % 2 = 1) →
      (s.directory (dieOfTile (s.ltile c.ltk).tile) c.kid).length < 256 →
      ∃ (t : State) (c' : Ctx), exec (.binit d a b lo n1) s = .next t ∧ Stated.field4 t c (c.getG a) 0 = 0 ∧ Stated.field4 t c (c.getG a) 4 = 1 ∧ Stated.field4 t c (c.getG a) 8 = 0 ∧
        Stated.field4 t c (c.getG a) 12 = 0 ∧ Stated.field4 t c (c.getG a) 28 = 4 ∧ leNat (memBytes (t.ltile c.ltk).scratch ((c.getG a).toNat + 32) 8) = (c.getG b).toNat ∧
        leNat (memBytes (t.ltile c.ltk).scratch ((c.getG a).toNat + 40) 8) = c.lt + c.kid * 2 ^ 32 ∧ leNat (memBytes (t.ltile c.ltk).scratch ((c.getG a).toNat + 48) 16) = 0 ∧ leNat (memBytes (t.ltile c.ltk).scratch (c.getG b).toNat 8) = 0 ∧
        { kid := c.kid, place := 2 ^ 60 + c.ltk * 2 ^ 20 + (c.getG a).toNat } ∈ t.bars ∧ t.ctx? id = some c' ∧ c'.getG d = 0#64)) ∧
  (∀ (s : State) (id : Nat) (c : Ctx) (d a : Reg) r ep e n cnt, Stated.Runs s id c (.barv d a) → Stated.BarAt s c (c.getG a) r → Stated.EntryAt s c (c.getG a) r ep e → e.getLsbD 33 = false →
    (c.shipped = none → r.flags / 2 % 2 = 1 → ∃ (t : State) (c' : Ctx), exec (.barv d a) s = .next t ∧ t.ctx? id = some c' ∧ c'.run = .trapped ∧ c'.ecause = 0x0B#8 ∧ c'.einfo = c.getG a ∧ t.ltiles = s.ltiles) ∧
    (r.flags / 2 % 2 = 0 → arrivedIn e (r.phase + 1) = true → ∃ (t : State) (c' : Ctx), exec (.barv d a) s = .next t ∧ t.ctx? id = some c' ∧ c'.run = .parked ∧ c'.wait = .arrival (c.getG a) (BitVec.ofNat 32 r.phase) ∧
      t.ltiles = s.ltiles) ∧
    (r.flags / 2 % 2 = 0 → arrivedIn e (r.phase + 1) = false → n = (if arrivedIn e r.phase then r.phase + 1 else r.phase) % 2 ^ 32 → cnt = setParity r.cnt n ((parity r.cnt n + 1) % 2 ^ 32) →
      ((parity cnt r.phase ≠ r.target ∨ r.pend ≠ 0#64) → ∃ (t : State) (c' : Ctx), exec (.barv d a) s = .next t ∧ Stated.field4 t c (c.getG a) 0 = r.phase ∧
        Stated.field4 t c (c.getG a) 8 = cnt.1 ∧ Stated.field4 t c (c.getG a) 12 = cnt.2 ∧ leNat (memBytes (t.ltile c.ltk).scratch ep 8) = n + 2 ^ 32 ∧
        t.ctx? id = some c' ∧ c'.run = .ready ∧ c'.getG d = (if d = 0#5 then 0#64 else BitVec.ofNat 64 n)) ∧
      (parity cnt r.phase = r.target → r.pend = 0#64 → r.wd = (0, 0) → r.target ≠ 0 → parity cnt (r.phase + 1) = 0 →
        (∀ x, x ∈ s.ctxs → match x.2.wait with | .arrival _ _ => False | _ => True) → ∃ (t : State) (c' : Ctx), exec (.barv d a) s = .next t ∧
        Stated.field4 t c (c.getG a) 0 = (r.phase + 1) % 2 ^ 32 ∧ Stated.field4 t c (c.getG a) 4 = r.target ∧ Stated.field4 t c (c.getG a) 8 = 0 ∧ Stated.field4 t c (c.getG a) 12 = 0 ∧
        t.ctx? id = some c' ∧ c'.run = .ready ∧ c'.getG d = (if d = 0#5 then 0#64 else BitVec.ofNat 64 n)))) ∧
  (∀ (s : State) (id : Nat) (c : Ctx) (d a b : Reg) r dist, Stated.BarAt s c (c.getG a) r → dist = (r.phase + 2 ^ 32 - (c.getG b).toNat % 2 ^ 32) % 2 ^ 32 →
    (∀ i, (i = .bwait d a b ∨ i = .btest d a b) → Stated.Runs s id c i →
      (bits (c.getG b) 32 32 ≠ 0 → ∃ (t : State) (c' : Ctx), exec i s = .next t ∧ t.ctx? id = some c' ∧ c'.run = .trapped ∧ c'.ecause = 0x01#8 ∧ c'.einfo = c.getG b) ∧
      (bits (c.getG b) 32 32 = 0 → 1 ≤ dist → dist < 2 ^ 31 → ∃ (t : State) (c' : Ctx), exec i s = .next t ∧ t.ctx? id = some c' ∧ c'.run = .ready ∧ t.ltiles = s.ltiles ∧
        c'.getG d = (if d = 0#5 then 0#64 else BitVec.ofNat 64 (2 ^ 63 + r.flags / 2 % 2 * 2 ^ 33 + r.flags % 2 * 2 ^ 32 + r.phase)))) ∧
    (bits (c.getG b) 32 32 = 0 → (dist = 0 ∨ 2 ^ 31 ≤ dist) → r.flags / 2 % 2 = 0 →
      (Stated.Runs s id c (.bwait d a b) → ∃ (t : State) (c' : Ctx), exec (.bwait d a b) s = .next t ∧ t.ctx? id = some c' ∧ c'.run = .parked ∧ c'.wait = .phase (c.getG a) ((c.getG b).setWidth 32)) ∧
      (Stated.Runs s id c (.btest d a b) → ∃ (t : State) (c' : Ctx), exec (.btest d a b) s = .next t ∧ t.ctx? id = some c' ∧
        c'.getG d = (if d = 0#5 then 0#64 else BitVec.ofNat 64 (r.flags % 2 * 2 ^ 32 + r.phase))))) ∧
  (∀ (s : State) (id : Nat) (c : Ctx) (a b : Reg) r, Stated.Runs s id c (.bcnt a b) → Stated.BarAt s c (c.getG a) r →
    (((c.getG b).toInt < -(2 ^ 40) ∨ 2 ^ 40 < (c.getG b).toInt) → ∃ (t : State) (c' : Ctx), exec (.bcnt a b) s = .next t ∧ t.ctx? id = some c' ∧ c'.run = .trapped ∧ c'.ecause = 0x01#8 ∧ c'.einfo = c.getG b) ∧
    (-(2 ^ 40) ≤ (c.getG b).toInt → (c.getG b).toInt ≤ 2 ^ 40 → (r.flags / 2 % 2 = 1 ∨ parity r.cnt r.phase ≠ r.target ∨ r.pend + c.getG b ≠ 0#64) →
      ∃ (t : State) (c' : Ctx), exec (.bcnt a b) s = .next t ∧ leNat (memBytes (t.ltile c.ltk).scratch ((c.getG a).toNat + 16) 8) = (r.pend + c.getG b).toNat ∧ Stated.field4 t c (c.getG a) 0 = r.phase ∧
        t.ctx? id = some c' ∧ c'.run = .ready ∧ c'.g = c.g)) ∧
  (∀ (s : State) (id : Nat) (c : Ctx) (d a : Reg) r, Stated.Runs s id c (.bwdraw d a) → Stated.BarAt s c (c.getG a) r →
    ((c.lt < bits r.part 0 12 ∨ bits r.part 0 12 + bits r.part 16 12 < c.lt) → ∃ (t : State) (c' : Ctx), exec (.bwdraw d a) s = .next t ∧ t.ctx? id = some c' ∧
      c'.getG d = (if d = 0#5 then 0#64 else 0x8100000000000000#64) ∧ t.ltiles = s.ltiles) ∧
    (∀ ep e, Stated.EntryAt s c (c.getG a) r ep e → e.getLsbD 33 = false → arrivedIn e r.phase = false → arrivedIn e (r.phase + 1) = false → 2 ≤ r.target → r.flags / 2 % 2 = 0 →
      (parity r.cnt r.phase ≠ r.target - 1 ∨ r.pend ≠ 0#64) → ∃ (t : State) (c' : Ctx), exec (.bwdraw d a) s = .next t ∧ Stated.field4 t c (c.getG a) 4 = r.target - 1 ∧
        Stated.field4 t c (c.getG a) 0 = r.phase ∧ leNat (memBytes (t.ltile c.ltk).scratch ep 8) = (e ||| 0x200000000#64).toNat ∧ t.ctx? id = some c' ∧ c'.getG d = 0#64)) ∧
  -- records in global memory
  (∀ (s : State) (id : Nat) (c : Ctx) i a, s.spec c = false → Stated.Runs s id c i →
    ((∃ d b, i = .barv d b ∧ a = c.getG b) ∨ (∃ d x b, (i = .bwait d x b ∨ i = .btest d x b) ∧ a = c.getG x) ∨ (∃ x b, i = .bcnt x b ∧ a = c.getG x) ∨ (∃ d x, i = .bwdraw d x ∧ a = c.getG x)) →
    (a.toNat % 64 ≠ 0 → ∃ (t : State) (c' : Ctx), exec i s = .next t ∧ t.ctx? id = some c' ∧ (c.shipped = none → c'.run = .trapped ∧ c'.ecause = 0x02#8 ∧ c'.einfo = a)) ∧
    (∀ pa s1, a.toNat % 64 = 0 → s.ev.flag = false → (s.isWarp c.kid && (s.kernelD c.kid).meetsFrozen a.toNat 64) = false → Stated.EngineReaches (s.handEngine id) c a.toNat pa s1 →
      (memLoad s.glob (pa + 28) 4 / 4 % 2 = 0 ∨ memLoad s.glob (pa + 40) 8 / 2 ^ 32 % 64 ≠ c.kid) → c.shipped = none →
      ∃ (t : State) (c' : Ctx), exec i s = .next t ∧ t.ctx? id = some c' ∧ c'.run = .trapped ∧ c'.ecause = 0x01#8 ∧ c'.einfo = a ∧ t.glob = s.glob)) ∧
  (∀ (s : State) (id : Nat) (c : Ctx) (d a : Reg) r pa pe s1 s2 e n cnt, Stated.Runs s id c (.barv d a) → Stated.GlobalBar s id c (c.getG a) pa r s1 →
    bits r.part 0 12 ≤ c.lt → c.lt ≤ bits r.part 0 12 + bits r.part 16 12 → Stated.EngineReaches s1 c (r.table.toNat + 8 * (c.lt - bits r.part 0 12)) pe s2 → (pe + 8 ≤ pa ∨ pa + 64 ≤ pe) →
    e = BitVec.ofNat 64 (memLoad s.glob pe 8) → e.getLsbD 33 = false → r.flags / 2 % 2 = 0 → arrivedIn e (r.phase + 1) = false → n = (if arrivedIn e r.phase then r.phase + 1 else r.phase) % 2 ^ 32 →
    cnt = setParity r.cnt n ((parity r.cnt n + 1) % 2 ^ 32) → (parity cnt r.phase ≠ r.target ∨ r.pend ≠ 0#64) →
    ∃ (t : State) (c' : Ctx), exec (.barv d a) s = .next t ∧ memLoad t.glob (pa + 8) 4 = cnt.1 ∧ memLoad t.glob (pa + 12) 4 = cnt.2 ∧ memLoad t.glob pe 8 = n + 2 ^ 32 ∧
      (∀ x, (x < pa + 8 ∨ pa + 16 ≤ x) → (x < pe ∨ pe + 8 ≤ x) → memGet t.glob x = memGet s.glob x) ∧ t.ltiles = s.ltiles ∧ t.ctx? id = some c' ∧ c'.run = .ready ∧
      c'.getG d = (if d = 0#5 then 0#64 else BitVec.ofNat 64 n)) ∧
  (∀ (s : State) (id : Nat) (c : Ctx) (d a b : Reg) i r pa s1 dist, (i = .bwait d a b ∨ i = .btest d a b) → Stated.Runs s id c i → Stated.GlobalBar s id c (c.getG a) pa r s1 → bits (c.getG b) 32 32 = 0 →
    dist = (r.phase + 2 ^ 32 - (c.getG b).toNat % 2 ^ 32) % 2 ^ 32 →
    (1 ≤ dist → dist < 2 ^ 31 → ∃ (t : State) (c' : Ctx), exec i s = .next t ∧ t.glob = s.glob ∧ t.ltiles = s.ltiles ∧ t.ctx? id = some c' ∧ c'.run = .ready ∧
      c'.getG d = (if d = 0#5 then 0#64 else BitVec.ofNat 64 (2 ^ 63 + r.flags / 2 % 2 * 2 ^ 33 + r.flags % 2 * 2 ^ 32 + r.phase))) ∧
    ((dist = 0 ∨ 2 ^ 31 ≤ dist) → r.flags / 2 % 2 = 0 → ∃ (t : State) (c' : Ctx), exec i s = .next t ∧ t.glob = s.glob ∧ t.ltiles = s.ltiles ∧ t.ctx? id = some c' ∧
      (i = .bwait d a b → c'.run = .parked ∧ c'.wait = .phase (c.getG a) ((c.getG b).setWidth 32)) ∧
      (i = .btest d a b → c'.run = .ready ∧ c'.getG d = (if d = 0#5 then 0#64 else BitVec.ofNat 64 (r.flags % 2 * 2 ^ 32 + r.phase))))) ∧
  (∀ (s : State) (id : Nat) (c : Ctx) (a b : Reg) r pa s1, Stated.Runs s id c (.bcnt a b) → Stated.GlobalBar s id c (c.getG a) pa r s1 → -(2 ^ 40) ≤ (c.getG b).toInt → (c.getG b).toInt ≤ 2 ^ 40 →
    (r.flags / 2 % 2 = 1 ∨ parity r.cnt r.phase ≠ r.target ∨ r.pend + c.getG b ≠ 0#64) →
    ∃ (t : State) (c' : Ctx), exec (.bcnt a b) s = .next t ∧ memLoad t.glob (pa + 16) 8 = (r.pend + c.getG b).toNat ∧ (∀ x, (x < pa + 16 ∨ pa + 24 ≤ x) → memGet t.glob x = memGet s.glob x) ∧
      t.ltiles = s.ltiles ∧ t.ctx? id = some c' ∧ c'.run = .ready ∧ c'.g = c.g) ∧
  (∀ (s : State) (id : Nat) (c : Ctx) (a b : Reg), Stated.Runs s id c (.waita a b) → Stated.ScratchOk s c (c.getG a).toNat 8 8 →
    (leNat (memBytes (s.ltile c.ltk).scratch (c.getG a).toNat 8) = (c.getG b).toNat → ∃ (t : State) (c' : Ctx), exec (.waita a b) s = .next t ∧ t.ctx? id = some c' ∧ c'.run = .ready ∧ c'.g = c.g ∧
      (c.rep = none → c'.pc = c.pc + 4#64) ∧ t.ltiles = s.ltiles) ∧
    (leNat (memBytes (s.ltile c.ltk).scratch (c.getG a).toNat 8) ≠ (c.getG b).toNat → ∃ (t : State) (c' : Ctx), exec (.waita a b) s = .next t ∧ t.ctx? id = some c' ∧ c'.run = .parked ∧
      c'.wait = .word (c.getG a) (c.getG b) ∧ c'.pc = c.pc ∧ t.ltiles = s.ltiles))

/-! ## Territory -/

/-- R333-R338: TSHAPE, TMAP, TPRESS, TUPC and TPIN, with their traps. -/
def Obligations.TerritoryInstructions : Prop :=
  (∀ (s : State) (id : Nat) (c : Ctx) (d a : Reg) ts, Stated.Runs s id c (.tshape d a) → ts = s.terr c.kid →
    (s.spec c = true → exec (.tshape d a) s = .next (s.trap id 0x06#8 0#64)) ∧
    (s.spec c = false → 32 < (c.getG a).toNat → exec (.tshape d a) s = .next (s.trap id 0x01#8 (c.getG a))) ∧
    (s.spec c = false → c.getG a = 0#64 → ts ≠ [] → (∀ x, x ∈ ts → x < 1024) → ts.length < 2048 → ∃ v : Word, exec (.tshape d a) s = .next (s.finishG id d v 4) ∧
      v.extractLsb' 48 16 = (s.kernelD c.kid).gen ∧ (v.extractLsb' 37 11).toNat = ts.length ∧ (v.extractLsb' 32 5).toNat = (s.kernelD c.kid).anchor / 32 % 32 ∧
      (v.extractLsb' 27 5).toNat = (s.kernelD c.kid).anchor % 32 ∧
      (∀ x, x ∈ ts → x / 32 ≤ (v.extractLsb' 22 5).toNat ∧ x % 32 ≤ (v.extractLsb' 17 5).toNat ∧ (v.extractLsb' 12 5).toNat ≤ x / 32 ∧ (v.extractLsb' 7 5).toNat ≤ x % 32) ∧
      (∃ x, x ∈ ts ∧ x / 32 = (v.extractLsb' 22 5).toNat) ∧ (∃ x, x ∈ ts ∧ x % 32 = (v.extractLsb' 17 5).toNat) ∧ (∃ x, x ∈ ts ∧ x / 32 = (v.extractLsb' 12 5).toNat) ∧
      (∃ x, x ∈ ts ∧ x % 32 = (v.extractLsb' 7 5).toNat) ∧ v.extractLsb' 0 7 = 0#7) ∧
    (∀ y, s.spec c = false → (c.getG a).toNat = y + 1 → y < 32 → ∃ v : Word, exec (.tshape d a) s = .next (s.finishG id d v 4) ∧ v.extractLsb' 48 16 = (s.kernelD c.kid).gen ∧
      v.extractLsb' 32 16 = 0#16 ∧ ∀ x, x < 32 → v.getLsbD x = ts.contains (32 * y + x))) ∧
  (∀ (s : State) (id : Nat) (c : Ctx) (d a : Reg) x, Stated.Runs s id c (.tmap d a) → x = s.ltile (ltKey c.kid (c.getG a).toNat) →
    (s.spec c = true → exec (.tmap d a) s = .next (s.trap id 0x06#8 0#64)) ∧
    (s.spec c = false → (s.kernelD c.kid).tiles ≤ (c.getG a).toNat → exec (.tmap d a) s = .next (s.trap id 0x01#8 (c.getG a))) ∧
    (s.spec c = false → (c.getG a).toNat < (s.kernelD c.kid).tiles → x.j < 4 → x.tile < 1024 → ∃ v : Word, exec (.tmap d a) s = .next (s.finishG id d v 4) ∧
      v.extractLsb' 48 16 = (s.kernelD c.kid).gen ∧ v.getLsbD 47 = x.moving.isSome ∧ (v.extractLsb' 10 2).toNat = x.j ∧ (v.extractLsb' 0 10).toNat = x.tile ∧ v.extractLsb' 12 35 = 0#35)) ∧
  (∀ (s : State) (id : Nat) (c : Ctx) (d a : Reg), Stated.Runs s id c (.tpress d a) →
    (s.spec c = true → exec (.tpress d a) s = .next (s.trap id 0x06#8 0#64)) ∧
    (s.spec c = false → c.getG a = 0#64 → exec (.tpress d a) s = .next (s.finishG id d (BitVec.ofNat 64 (s.kernelD c.kid).pressure) 4)) ∧
    (s.spec c = false → c.getG a = 1#64 → exec (.tpress d a) s = .next (s.finishG id d (BitVec.ofNat 64 (s.kernelD c.kid).loadSum) 4)) ∧
    (s.spec c = false → c.getG a = 2#64 → exec (.tpress d a) s = .next (s.finishG id d (BitVec.ofNat 64 (s.kernelD c.kid).claimLatched) 4)) ∧
    (s.spec c = false → c.getG a = 3#64 → exec (.tpress d a) s = .next (s.finishG id d (BitVec.ofNat 64 (s.tile (s.ltile c.ltk).tile).load) 4)) ∧
    (s.spec c = false → c.getG a = 4#64 → exec (.tpress d a) s = .next (s.finishG id d ((s.die (dieOfTile (s.ltile c.ltk).tile)).hLatched.setWidth 64) 4)) ∧
    (s.spec c = false → 4 < (c.getG a).toNat → exec (.tpress d a) s = .next (s.trap id 0x01#8 (c.getG a)))) ∧
  (∀ (s : State) (id : Nat) (c : Ctx) (d a : Reg) k, Stated.Runs s id c (.tupc d a) → s.kernel? c.kid = some k →
    (s.spec c = true → exec (.tupc d a) s = .next (s.trap id 0x01#8 0#64)) ∧
    (s.spec c = false → (bits (c.getG a) 20 44 ≠ 0 ∨ bits (c.getG a) 16 4 = 15 ∨ k.tiles ≤ bits (c.getG a) 0 12) → exec (.tupc d a) s = .next (s.trap id 0x01#8 (c.getG a))) ∧
    (s.spec c = false → bits (c.getG a) 20 44 = 0 → bits (c.getG a) 16 4 ≠ 15 → bits (c.getG a) 0 12 < k.tiles →
      ∃ (t : State) (c' : Ctx), exec (.tupc d a) s = .next t ∧ t.kernel? c.kid = some { k with upcall := c.getG a } ∧ t.ctx? id = some c' ∧ c'.getG d = (if d = 0#5 then 0#64 else k.upcall))) ∧
  (∀ (s : State) (id : Nat) (c : Ctx) (d a b : Reg) lt, Stated.Runs s id c (.tpin d a b) → lt = ltKey c.kid (c.getG a).toNat →
    (s.spec c = true → exec (.tpin d a b) s = .next (s.trap id 0x01#8 0#64)) ∧
    (s.spec c = false → (s.kernelD c.kid).tiles ≤ (c.getG a).toNat → exec (.tpin d a b) s = .next (s.trap id 0x01#8 (c.getG a))) ∧
    (s.spec c = false → (c.getG a).toNat < (s.kernelD c.kid).tiles → 1 < (c.getG b).toNat → exec (.tpin d a b) s = .next (s.trap id 0x01#8 (c.getG b))) ∧
    (s.spec c = false → (c.getG a).toNat < (s.kernelD c.kid).tiles → c.getG b = 1#64 → (s.ltile lt).pinned = false → 4 ≤ ((s.ltsOf c.kid).filter fun l => (s.ltile l).pinned).length →
      exec (.tpin d a b) s = .next (s.finishG id d 0x8100000000000000#64 4)) ∧
    (s.spec c = false → (c.getG a).toNat < (s.kernelD c.kid).tiles → (c.getG b = 0#64 ∨ c.getG b = 1#64 ∧ ((s.ltile lt).pinned = true ∨ ((s.ltsOf c.kid).filter fun l => (s.ltile l).pinned).length < 4)) →
      ∃ (t : State) (c' : Ctx), exec (.tpin d a b) s = .next t ∧ t.ltile lt = { s.ltile lt with pinned := decide (c.getG b = 1#64) } ∧ t.ctx? id = some c' ∧
        c'.getG d = (if d = 0#5 ∨ (s.ltile lt).pinned = false then 0#64 else 1#64)))

/-- R316-R326: the latch of a novena cycle, a proposal, its grant and its drop, and the passing of a tile on which nothing is hosted any more. Which proposals a grant
compares is the model's reading (notes/assumptions/65.md). -/
def Obligations.BorderMoves : Prop :=
  (∀ (s : State) len n, n = s.tbase / (1000 * max 1 s.phaseLen) / 9 → s.novenaCycle < n → len = s.tbase - s.latchedAt →
    ∃ (t : State), exec .novenaLatch s = .next t ∧ t.novenaCycle = n ∧
      (∀ k x, mget k s.tiles = some x → ∀ w, w = (if x.waitCount = 0 then 0 else min 65535 (x.waitSum / (1000 * x.waitCount))) →
        (t.tile k).load = min ((s.die (dieOfTile k)).wr.toNat * (x.ringNs / max 1 len) + (s.die (dieOfTile k)).ww.toNat * w + (s.die (dieOfTile k)).ws.toNat * x.spills) (2 ^ 24 - 1) ∧
        (t.tile k).spills = 0 ∧ (t.tile k).owner = x.owner ∧ (t.tile k).ts = x.ts) ∧
      (∀ kid k, s.kernel? kid = some k → ∃ k', t.kernel? kid = some k' ∧ k'.claimLatched = k.claim ∧ k'.loadSum = ((t.terr kid).map fun u => (t.tile u).load).sum ∧
        k'.pressure = k.claim * k'.loadSum / max 1 (t.terr kid).length)) ∧
  (∀ (s : State) b u n, n = s.tbase / (1000 * max 1 s.phaseLen) → s.ev.id < 1024 → s.ev.id % 32 % 3 = n % 3 → s.ev.id / 32 % 3 = n / 3 % 3 → s.tbase % (1000 * max 1 s.phaseLen) < 5000 →
    s.proposes s.ev.id = some (b, u) → ∃ (t : State), exec .borderProposal s = .next t ∧ t.tile s.ev.id = { s.tile s.ev.id with proposal := some (b, u, n) }) ∧
  (∀ (s : State) b u n k, n = s.tbase / (1000 * max 1 s.phaseLen) → s.tbase % (1000 * max 1 s.phaseLen) < 5000 → (s.tile s.ev.id).proposal = some (b, u, n) → s.proposes s.ev.id = some (b, u) →
    s.grants b s.ev.id b = true → b < 63 → s.kernel? b = some k →
    -- a free tile joins at once, as a leaf next to `u`
    ((s.tile s.ev.id).isFree = true → ∃ (t : State), exec .borderGrant s = .next t ∧ (t.tile s.ev.id).owner.toNat = b ∧ (t.tile s.ev.id).ts = .member ∧ (t.tile s.ev.id).depth = (s.tile u).depth + 1 ∧
      (t.tile s.ev.id).parent = BitVec.ofNat 3 (directionTo s.ev.id u) ∧ (t.tile s.ev.id).proposal = none ∧ (t.kernelD b).gen = k.gen + 1#16 ∧ (t.kernelD b).movedPhase = some n) ∧
    -- a tile of another territory enters CEDING and still belongs to it
    ((s.tile s.ev.id).isFree = false → s.grants (s.tile s.ev.id).owner.toNat s.ev.id b = true → ∃ (t : State), exec .borderGrant s = .next t ∧ (t.tile s.ev.id).ts = .ceding ∧
      (t.tile s.ev.id).owner = (s.tile s.ev.id).owner ∧ (t.tile s.ev.id).ceding = some u ∧ (t.tile s.ev.id).cedeTo = b ∧ (t.kernelD b).movedPhase = some n)) ∧
  (∀ (s : State) b u n, (s.tile s.ev.id).proposal = some (b, u, n) → (n ≠ s.tbase / (1000 * max 1 s.phaseLen) ∨ 5000 ≤ s.tbase % (1000 * max 1 s.phaseLen)) →
    ∃ (t : State), exec .proposalDrop s = .next t ∧ t.tile s.ev.id = { s.tile s.ev.id with proposal := none }) ∧
  (∀ (s : State) x u a ka kb, x = s.tile s.ev.id → a = x.owner.toNat → x.ceding = some u → x.ts = .ceding → x.forced = none → s.kernelRuns a = true → x.cedeTo < 63 → (s.tile u).owner.toNat = x.cedeTo → a ≠ x.cedeTo →
    s.hosted s.ev.id = [] → s.kernel? a = some ka → s.kernel? x.cedeTo = some kb →
    -- the giver keeps the tiles that it needs
    (ka.tiles + ka.k - 1) / ka.k ≤ (s.terr a).length - 1 →
    ∃ (t : State), exec .cedeComplete s = .next t ∧ (t.tile s.ev.id).owner.toNat = x.cedeTo ∧ (t.tile s.ev.id).ts = .member ∧ (t.tile s.ev.id).ceding = none ∧
      (t.kernelD a).gen = ka.gen + 1#16 ∧ (t.kernelD x.cedeTo).gen = kb.gen + 1#16)

/-- R320, R328, R329, R331, R339, R434, R459: a tree parent's change, levelling, the forced cede of a tile with a lasting fault, which its eighth
corrected error in 60 seconds makes, and its return. How the forced cede goes in steps is the model's choice (notes/assumptions/63.md): the tiles that it cuts off go first, the tile
stays CEDING until it is empty, a free tile retires at once, and the kernel is restored after the retirement. -/
def Obligations.TileEvents : Prop :=
  (∀ (s : State) x u n, x = s.tile s.ev.id → n = s.tbase / (1000 * max 1 s.phaseLen) → neighbour s.ev.id s.ev.idx = some u → s.ev.id < 1024 → x.ts = .member → s.ev.id % 32 % 3 = n % 3 → s.ev.id / 32 % 3 = n / 3 % 3 →
    x.anchor = false → (s.tile u).owner = x.owner → (s.tile u).ts = .member → (s.tile u).depth < x.depth → s.ev.idx ≠ x.parent.toNat →
    ∃ (t : State), exec .treeParentChange s = .next t ∧ (t.tile s.ev.id).parent = BitVec.ofNat 3 s.ev.idx ∧ ∀ y, (t.tile y).owner = (s.tile y).owner ∧ (t.tile y).ts = (s.tile y).ts ∧
      (y ≠ s.ev.id → (t.tile y).parent = (s.tile y).parent)) ∧
  (∀ (s : State) x u lt j, x = s.tile s.ev.id → s.ev.id < 1024 → x.ts = .member → x.levAt / 2000 < s.tbase / 2000 →
    x.levSource = false → x.levTarget = false → x.levUsed ≠ s.tbase / 2000 + 1 →
    (∀ y, y ∈ s.terr x.owner.toNat → y < s.ev.id → s.levDue y = true → s.levelMove y = none) → 2 ≤ (s.hosted s.ev.id).length → s.levelPick s.ev.id = some u → s.levelTile s.ev.id = some lt → s.freeSlotOn x.owner.toNat u = some j → u ≠ s.ev.id →
    ∃ (t : State), exec .levellingCheck s = .next t ∧ (t.ltile lt).moving = some u ∧ (t.ltile lt).moveJ = j ∧ (t.ltile lt).tile = (s.ltile lt).tile ∧ (t.tile s.ev.id).levSource = true ∧
      (t.tile u).levTarget = true ∧ (t.tile s.ev.id).levAt = s.tbase) ∧
  (∀ (s : State) x u kid, x = s.ltile s.ev.id → kid = s.ev.id / 4096 → x.moving = some u → s.kernelRuns kid = true → (s.kernelD kid).chains = [] → s.quiet s.ev.id = true → u ≠ x.tile → x.tile < 1024 → u < 1024 →
    (∀ e, e ∈ s.taken → ltKey e.1.kid e.1.lt ≠ s.ev.id) →
    ∃ (t : State), exec .levellingMoveComplete s = .next t ∧ (t.ltile s.ev.id).tile = u ∧ (t.ltile s.ev.id).j = x.moveJ ∧ (t.ltile s.ev.id).moving = none ∧ (t.ltile s.ev.id).mapGen = x.mapGen + 1#32 ∧
      (t.ltile s.ev.id).scratch = x.scratch ∧ (t.ltile s.ev.id).windows = x.windows ∧ (t.tile x.tile).levSource = false ∧ (t.tile u).levTarget = false ∧
      (∃ b, b ∈ (t.tile x.tile).stubs ∧ b.lt = s.ev.id)) ∧
  (∀ (s : State) x, x = s.tile s.ev.id → s.ev.id < 1024 → x.forced ≠ some true →
    (x.ts = .retired → exec .forcedCede s = .next s) ∧
    (x.ts ≠ .retired → x.owner = 63#6 → ∃ (t : State), exec .forcedCede s = .next t ∧ t.tile s.ev.id = { x with ts := .retired })) ∧
  (∀ (s : State) x a k s1 cut, x = s.tile s.ev.id → s.ev.id < 1024 → x.forced ≠ some true → x.ts ≠ .retired → x.owner ≠ 63#6 → a = x.owner.toNat → s.kernel? a = some k → s1 = s.force true s.ev.id →
    cut = s1.cutOff a s.ev.id (s1.anchorWithout a s.ev.id) →
    -- the tiles that it cuts off from the anchor are to go first
    (cut ≠ [] → (∀ u, u ∈ cut → (s.tile u).forced = none) → ∃ (t : State), exec .forcedCede s = .next t ∧ (t.tile s.ev.id).ts = .ceding ∧ (t.tile s.ev.id).forced = some true ∧
      (t.tile s.ev.id).owner = x.owner ∧ ∀ u, u ∈ cut → (t.tile u).ts = .ceding ∧ (t.tile u).forced = some false) ∧
    (cut = [] → x.levSource = false → x.levTarget = false → s.hosted s.ev.id = [] → s.kernelRuns a = true → k.restoring = false →
      ∃ (t : State), exec .forcedCede s = .next t ∧ (t.tile s.ev.id).ts = .retired ∧ (t.tile s.ev.id).owner = 63#6 ∧ (t.kernelD a).gen = k.gen + 1#16 ∧ (t.kernelD a).restoring = false) ∧
    -- no heir has room for what it hosts: its kernel is to be restored from a cut
    (cut = [] → x.levSource = false → x.levTarget = false → s.hosted s.ev.id ≠ [] → (k.restoring = true ∨ s1.cedePlan a s.ev.id = none) →
      ∃ (t : State), exec .forcedCede s = .next t ∧ (t.tile s.ev.id).ts = .retired ∧ (t.tile s.ev.id).owner = 63#6 ∧ (t.kernelD a).gen = k.gen + 1#16 ∧ (t.kernelD a).restoring = true)) ∧
  (∀ (s : State) es, s.ev.id < 1024 → es = (s.tile s.ev.id).errors.filter (fun a => decide (s.tbase < a + 60000000000)) ++ [s.tbase] →
    (es.length < 8 → ∃ (t : State), exec .correctedError s = .next t ∧ t.tile s.ev.id = { s.tile s.ev.id with errors := es }) ∧
    (8 ≤ es.length → exec .correctedError s = exec .forcedCede (s.updTile s.ev.id fun x => { x with errors := es }))) ∧
  (∀ (s : State), (s.tile s.ev.id).ts = .retired → ∃ (t : State), exec .tileReturnAfterRepair s = .next t ∧ (t.tile s.ev.id).ts = .free ∧ (t.tile s.ev.id).owner = 63#6 ∧ (t.tile s.ev.id).errors = [])

/-! ## Pages -/

/-- R366, R368, R371-R375: TLBI, PMIG, PDIRTY, PSHIP and PHOME. That PSHIP of a scratch address only completes is the model's choice (notes/assumptions/66.md). -/
def Obligations.PageInstructions : Prop :=
  (∀ (s : State) (id : Nat) (c : Ctx) (a b : Reg), Stated.Runs s id c (.tlbi a b) → s.xlatesHeld c (c.getG a).toNat (c.getG b).toNat = false →
    ∃ (t : State) (c' : Ctx), exec (.tlbi a b) s = .next t ∧ t.ctx? id = some c' ∧ c'.run = .ready ∧ c'.g = c.g ∧ t.glob = s.glob ∧
      ∀ e x, e ∈ t.tlbs → x ∈ e.2 → x.part = s.partOf c.kid → c.getG b ≠ 0#64 ∧ (x.vpn * 65536 + 65536 ≤ (c.getG a).toNat ∨ (c.getG a).toNat + (c.getG b).toNat ≤ x.vpn * 65536)) ∧
  (∀ (s : State) (id : Nat) (c : Ctx) (d a b : Reg), Stated.Runs s id c (.pmig d a b) →
    (s.spec c = true → exec (.pmig d a b) s = .next (s.trap id 0x01#8 (c.getG a))) ∧
    (s.spec c = false → 11 < (c.getG b).toNat → exec (.pmig d a b) s = .next (s.trap id 0x01#8 (c.getG b))) ∧
    (∀ x l at_ pin pa dt s1, s.spec c = false → (c.getG b).toNat ≤ 11 → (c.getG a).toNat < 2 ^ 56 → s.xlate (s.partOf c.kid) (s.xlUnit c) true (s.coreNo c) (c.getG a).toNat 4 = (.ok pa dt, s1) →
      s.walk (s.partOf c.kid) (c.getG a).toNat = .leaf x l at_ pin →
      (c.held = none → ∃ (t : State) (c' : Ctx), exec (.pmig d a b) s = .next t ∧ t.ctx? id = some c' ∧ c'.run = .parked ∧ c'.wait = .answer ∧ t.moves = s.moves ∧ t.glob = s.glob) ∧
      (∀ h frame size, c.held = some h → h.answered = true → frame = leafFrame x l (c.getG a).toNat → size = 2 ^ levelShift l →
        (homeOf frame = some (c.getG b).toNat → ∃ (t : State) (c' : Ctx), exec (.pmig d a b) s = .next t ∧ t.ctx? id = some c' ∧ c'.getG d = (if d = 0#5 then 0#64 else 0x8100000000000000#64) ∧ t.glob = s.glob) ∧
        (homeOf frame ≠ some (c.getG b).toNat → pin = true → ∃ (t : State) (c' : Ctx), exec (.pmig d a b) s = .next t ∧ t.ctx? id = some c' ∧
          c'.getG d = (if d = 0#5 then 0#64 else 0x8200000000000000#64) ∧ t.glob = s.glob) ∧
        (homeOf frame ≠ some (c.getG b).toNat → pin = false → x.kind ≠ 2 → frameOk h.ans (c.getG b).toNat size = true → s.pageHeld (s.partOf c.kid) ((c.getG a).toNat / size * size) frame size = false →
          ∃ (t : State) (c' : Ctx), exec (.pmig d a b) s = .next t ∧ t.ctx? id = some c' ∧ c'.getG d = 0#64 ∧ bits (t.pteAt at_) 4 2 = 2 ∧
            t.moves = s.moves ++ [{ part := s.partOf c.kid, pteAt := at_, src := frame, dst := h.ans.frame, size := size }])))) ∧
  (∀ (s : State) (id : Nat) (c : Ctx) (d a : Reg), Stated.Runs s id c (.pdirty d a) →
    (s.spec c = true → exec (.pdirty d a) s = .next (s.trap id 0x01#8 (c.getG a))) ∧
    (s.spec c = false → (c.getG a).toNat % 2 ^ 22 ≠ 0 → exec (.pdirty d a) s = .next (s.trap id 0x02#8 (c.getG a))) ∧
    (s.spec c = false → (c.getG a).toNat % 2 ^ 22 = 0 → ∃ (t : State) (c' : Ctx) (v : Word), exec (.pdirty d a) s = .next t ∧ t.ctx? id = some c' ∧ c'.getG d = (if d = 0#5 then 0#64 else v) ∧
      (∀ i, i < 64 → (v.getLsbD i = true ↔ ∃ g, s.dtGranule (s.partOf c.kid) ((c.getG a).toNat + i * 65536) = some g ∧ g ∈ s.dirtyGranules)) ∧
      (∀ g, g ∈ t.dirtyGranules ↔ g ∈ s.dirtyGranules ∧ ∀ i, i < 64 → s.dtGranule (s.partOf c.kid) ((c.getG a).toNat + i * 65536) ≠ some g))) ∧
  (∀ (s : State) (id : Nat) (c : Ctx) (a : Reg), Stated.Runs s id c (.pship a) →
    ((c.getG a).toNat < 2 ^ 20 → c.shipped = none → exec (.pship a) s = .next (s.retire id (c.pc + 4#64))) ∧
    (∀ pa dt s1 j, 2 ^ 20 ≤ (c.getG a).toNat → (c.getG a).toNat < 2 ^ 56 → c.shipped = none → s.xlate (s.partOf c.kid) (s.xlUnit c) true (s.coreNo c) (c.getG a).toNat 4 = (.ok pa dt, s1) → homeOf pa = some j →
      ∃ (t : State) (c' : Ctx), exec (.pship a) s = .next t ∧ t.ctx? id = some c' ∧ c'.shipWait = true ∧ c'.pc = c.pc ∧ (t.ctrl j).waiting = (s.ctrl j).waiting ++ [id])) ∧
  (∀ (s : State) (id : Nat) (c : Ctx) (d a : Reg), Stated.Runs s id c (.phome d a) →
    (s.spec c = true → exec (.phome d a) s = .next (s.trap id 0x06#8 (c.getG a))) ∧
    (s.spec c = false → 2 ^ 56 ≤ (c.getG a).toNat → exec (.phome d a) s = .next (s.finishG id d 0#64 4)) ∧
    (∀ x l at_ pin, s.spec c = false → (c.getG a).toNat < 2 ^ 56 → s.walk (s.partOf c.kid) (c.getG a).toNat = .leaf x l at_ pin → l < 4 → ∃ v : Word, exec (.phome d a) s = .next (s.finishG id d v 4) ∧
      v.extractLsb' 62 2 = (if x.kind = 2 then 3#2 else if farPa x.frame then 2#2 else 1#2) ∧ v.getLsbD 61 = pin ∧ v.getLsbD 60 = x.dt ∧ (v.extractLsb' 58 2).toNat = l ∧
      (∀ j, homeOf x.frame = some j → j < 16 → (v.extractLsb' 52 4).toNat = j)) ∧
    (∀ l, s.spec c = false → s.walk (s.partOf c.kid) (c.getG a).toNat = .unmapped l → exec (.phome d a) s = .next (s.finishG id d 0#64 4)))

/-- R364, R367, R368, R370-R373: a shipped strand's arrival and return, the flush of a die's page requests, the end of a page move and its abandoning, and the write of a page-table entry,
which leaves a moving page where it is (the model's reading, notes/assumptions/68.md). -/
def Obligations.PageEvents : Prop :=
  (∀ (s : State) (id : Nat) rest n (c : Ctx), (s.ctrl s.ev.id).waiting = id :: rest → (List.range 16).find? (fun n => ((s.ctrl s.ev.id).slots.toList.getD n none).isNone) = some n → s.ev.id < 12 → s.ctx? id = some c →
    s.kernelRuns c.kid = true → ∃ (t : State) (c' : Ctx), exec .shipArrival s = .next t ∧ t.ctx? id = some c' ∧ c'.shipped = some (16 * s.ev.id + n) ∧ c'.shipWait = false ∧ c'.g = c.g ∧ c'.pc = c.pc ∧
      (t.ctrl s.ev.id).waiting = rest ∧ (t.ctrl s.ev.id).slots.toList[n]? = some (some id)) ∧
  (∀ (s : State) (c : Ctx) n, s.ctx? s.ev.id = some c → c.shipped = some n → 4096 ≤ c.awayCount → c.run = .ready → s.kernelRuns c.kid = true → ∃ (t : State) (c' : Ctx), exec .shipBackCount s = .next t ∧ t.ctx? s.ev.id = some c' ∧
    c'.shipped = none ∧ c'.awayCount = 0 ∧ c'.g = c.g ∧ c'.pc = c.pc ∧ (t.ctrl (n / 16)).slots.toList[n % 16]? = some none) ∧
  (∀ (s : State), s.ev.id < 4 → s.ev.w0 = (s.die s.ev.id).pageGen.setWidth 64 → ∃ (t : State), exec .pageRequestFlush s = .next t ∧ (t.die s.ev.id).pages = [] ∧
    (t.die s.ev.id).pageGen = (s.die s.ev.id).pageGen + 1#16) ∧
  (∀ (s : State) (m : Move), s.moves[s.ev.idx]? = some m → Memory.wf s.glob = true → (m.pteAt + 8 ≤ m.dst ∨ m.dst + m.size ≤ m.pteAt) → (∀ e, e ∈ s.ctxs → e.2.holdsFar m.src m.size = false) →
    ∃ (t : State), exec .migrationComplete s = .next t ∧ t.moves = s.moves.eraseIdx s.ev.idx ∧ (∀ i, i < m.size → memGet t.glob (m.dst + i) = memGet s.glob (m.src + i)) ∧
      bits (t.pteAt m.pteAt) 4 2 = 0 ∧ (m.dst % 256 = 0 → m.dst < 2 ^ 52 → 256 * bits (t.pteAt m.pteAt) 8 44 = m.dst) ∧
      ∀ e x, e ∈ t.tlbs → x ∈ e.2 → x.part = m.part → x.frame < m.src ∨ m.src + m.size ≤ x.frame) ∧
  (∀ (s : State) (m : Move), s.moves[s.ev.idx]? = some m → ∃ (t : State), exec .migrationAbandon s = .next t ∧ t.moves = s.moves.eraseIdx s.ev.idx ∧ bits (t.pteAt m.pteAt) 4 2 = 0 ∧
    (t.pteAt m.pteAt) ||| 0x30#64 = (s.pteAt m.pteAt) ||| 0x30#64 ∧ ∀ x, (x < m.pteAt ∨ m.pteAt + 8 ≤ x) → memGet t.glob x = memGet s.glob x) ∧
  (∀ (s : State) pa, pa = s.ev.w0.toNat → pa % 8 = 0 → (homeOf pa).isSome = true → apertureCtrl pa = none → s.ev.idx ≤ 4 → (s.part s.ev.id).present = true → (∀ (m : Move), m ∈ s.moves → m.pteAt ≠ pa) →
    ∃ (t : State), exec .pageTableEntryWrite s = .next t ∧ t.pteAt pa = s.ev.w1 ∧ ∀ x, (x < pa ∨ pa + 8 ≤ x) → memGet t.glob x = memGet s.glob x)

/-! ## Control registers, traps, breaks, watching -/

namespace Sys2Proof.Stated

/-- What control register `n` reads as (R96, R97). -/
@[reducible] def CrIs (s : State) (c : Ctx) (n : BitVec 5) (v : Word) : Prop :=
  n.toNat ≤ 0x12 ∧
  (n = 0x00#5 → (v.extractLsb' 14 2) = c.prio ∧ (v.extractLsb' 10 4).toNat = c.item.chan % 16 ∧ v.getLsbD 9 = s.isWarp c.kid ∧ v.getLsbD 8 = c.shipped.isSome ∧
    v.getLsbD 7 = c.rep.isSome ∧ v.extractLsb' 5 2 = c.strand ∧ v.extractLsb' 16 48 = 0#48 ∧ v.extractLsb' 0 5 = 0#5) ∧
  (n = 0x01#5 → v = c.frm.setWidth 64) ∧ (n = 0x02#5 → v = c.fflags.setWidth 64) ∧ (n = 0x03#5 → v = c.fen.setWidth 64) ∧ (n = 0x04#5 → v = c.fsup) ∧
  (n = 0x05#5 → v = c.item.vrt) ∧ (n = 0x06#5 → v = if s.isWarp c.kid then BitVec.ofNat 64 (s.lcore c.lck).gvt else 0#64) ∧ (n = 0x07#5 → v = BitVec.ofNat 64 s.tbase) ∧
  (n = 0x08#5 → v = BitVec.ofNat 64 c.lt) ∧ (n = 0x09#5 → v = BitVec.ofNat 64 c.core) ∧ (n = 0x0A#5 → v = BitVec.ofNat 64 c.kid) ∧ (n = 0x0B#5 → v = BitVec.ofNat 64 (s.partOf c.kid)) ∧
  (n = 0x0C#5 → v = c.waitlim) ∧ (n = 0x0D#5 → v = BitVec.ofNat 64 ((s.part (s.partOf c.kid)).qbase + 64 * (8 * c.lt + c.core))) ∧
  (n = 0x0E#5 → v = BitVec.ofNat 64 ((s.lcore c.lck).copies.filter fun r => copyLive r.state).length) ∧
  (n = 0x0F#5 → v = c.epc) ∧ (n = 0x10#5 → v = c.ecause.setWidth 64) ∧ (n = 0x11#5 → v = c.einfo) ∧ (n = 0x12#5 → v = c.scratchReg)

/-- What a write of `v` to control register `n` leaves in the strand's context (R77, R96, R134). -/
def CrTakes (k : Kernel) (c c' : Ctx) (n : BitVec 5) (v : Word) : Prop :=
  (n = 0x01#5 → c'.frm.getLsbD 3 = v.getLsbD 3 ∧ c'.frm.extractLsb' 0 3 = (if 5 ≤ (v.extractLsb' 0 3).toNat then c.frm.extractLsb' 0 3 else v.extractLsb' 0 3)) ∧
  (n = 0x02#5 → c'.fflags = v.extractLsb' 0 5) ∧ (n = 0x03#5 → c'.fen = v.extractLsb' 0 5) ∧
  (n = 0x04#5 → k.slt < 4096 → c'.fsup.extractLsb' 20 44 = 0#44 ∧ c'.fsup.extractLsb' 15 1 = 0#1 ∧ c'.fsup.extractLsb' 12 3 = v.extractLsb' 12 3 ∧
    (v.extractLsb' 16 4 ≠ 15#4 → c'.fsup.extractLsb' 16 4 = v.extractLsb' 16 4) ∧ (v.extractLsb' 16 4 = 15#4 → c'.fsup.extractLsb' 16 4 = c.fsup.extractLsb' 16 4) ∧
    ((v.extractLsb' 0 12).toNat < k.tiles → c'.fsup.extractLsb' 0 12 = v.extractLsb' 0 12) ∧ (k.tiles ≤ (v.extractLsb' 0 12).toNat → (c'.fsup.extractLsb' 0 12).toNat = k.slt)) ∧
  (n = 0x0C#5 → c'.waitlim.toNat = max 1000 (min 10000000 v.toNat)) ∧ (n = 0x12#5 → c'.scratchReg = v) ∧
  (n ≠ 0x01#5 → c'.frm = c.frm) ∧ (n ≠ 0x02#5 → c'.fflags = c.fflags) ∧ (n ≠ 0x03#5 → c'.fen = c.fen) ∧ (n ≠ 0x04#5 → c'.fsup = c.fsup) ∧
  (n ≠ 0x0C#5 → c'.waitlim = c.waitlim) ∧ (n ≠ 0x12#5 → c'.scratchReg = c.scratchReg)

end Sys2Proof.Stated

/-- R64, R65, R408-R410: ERET, TRAP, BRK, HALT, the words of the hint space, and unassigned or malformed words. -/
def Obligations.TrapInstructions : Prop :=
  (∀ (s : State) (id : Nat) (c : Ctx) (d a b : Reg), s.cur = some id → s.ctx? id = some c → s.isSupervisor c = false →
    exec (.eret d a b) s = .next (s.trap id 0x09#8 0#64)) ∧
  (∀ (s : State) (id : Nat) (c : Ctx) (d a b : Reg), Stated.Runs s id c (.eret d a b) →
    ((c.getG b).toNat % 4 ≠ 0 → exec (.eret d a b) s = .next (s.trap id 0x02#8 (c.getG b))) ∧
    ((c.getG b).toNat % 4 = 0 → ((c.getG a).getLsbD 31 = false ∨ ∀ e, e ∈ s.ctxs → e.2.kid = c.kid → e.2.run = .trapped → e.2.trapHandle ≠ c.getG a) →
      exec (.eret d a b) s = .next (s.finishG id d 0x8100000000000000#64 4)) ∧
    (∀ x cx, (c.getG b).toNat % 4 = 0 → s.trapped? c.kid (c.getG a) = some x → x ≠ id → s.ctx? x = some cx →
      ∃ (t : State) (c' : Ctx), exec (.eret d a b) s = .next t ∧ t.ctx? id = some c' ∧ c'.getG d = 0#64 ∧ (∀ r, r ≠ d → c'.getG r = c.getG r) ∧ t.glob = s.glob ∧ t.ltiles = s.ltiles ∧
        (c.getG b ≠ 0#64 → t.ctx? x = some { cx with run := .ready, pc := c.getG b, trapWaits := false, trapHandle := 0#64 }) ∧
        (c.getG b = 0#64 → t.ctx? x = some { cx with run := .ready, trapWaits := false, trapHandle := 0#64, held := some { instr := .done, sample := cx.frm } }))) ∧
  (∀ (s : State) (id : Nat) (c : Ctx) (d a : Reg), Stated.Runs s id c (.trap d a) →
    (28 < a.toNat → exec (.trap d a) s = .next (s.trap id 0x01#8 (a.setWidth 64))) ∧
    (a.toNat ≤ 28 → s.spec c = true → exec (.trap d a) s = .next (s.trap id 0x01#8 0#64)) ∧
    (a.toNat ≤ 28 → s.spec c = false → c.held = none → ∃ (t : State) (c' : Ctx) (r : ResMsg), exec (.trap d a) s = .next t ∧ t.ctx? id = some c' ∧ c'.run = .parked ∧ c'.wait = .answer ∧
      c'.pc = c.pc ∧ c'.g = c.g ∧ t.resident = s.resident ++ [r] ∧ r.part = s.partOf c.kid ∧ r.ctx = some id ∧ r.item.p0 = c.getG a ∧ r.item.p1 = c.getG (a + 1#5) ∧
      r.item.p2 = c.getG (a + 2#5) ∧ r.item.p3 = c.getG (a + 3#5) ∧ t.glob = s.glob) ∧
    (∀ h, a.toNat ≤ 28 → s.spec c = false → c.held = some h → h.stage ≠ 0 → h.answered = true → exec (.trap d a) s = .next (s.finishG id d h.ans.value 4))) ∧
  (∀ (s : State) (id : Nat) (c : Ctx) (n : BitVec 5), Stated.Runs s id c (.brk n) → exec (.brk n) s = .next (s.trap id 0x0A#8 (n.setWidth 64))) ∧
  (∀ (s : State) (id : Nat) (c : Ctx), Stated.Runs s id c .halt →
    ((s.part (s.partOf c.kid)).debugAgent = false → exec .halt s = .next (s.trap id 0x0A#8 32#64)) ∧
    ((s.part (s.partOf c.kid)).debugAgent = true → ∃ (t : State) (c' : Ctx), exec .halt s = .next t ∧ t.ctx? id = some c' ∧ c'.stopped = true ∧ c'.run = .ready ∧ c'.g = c.g ∧
      (c.rep = none → c'.pc = c.pc + 4#64) ∧ t.hostSide = { s.hostSide with halts := s.hostSide.halts ++ [id] } ∧ t.glob = s.glob)) ∧
  (∀ (s : State) (id : Nat) (c : Ctx) (l : BitVec 2) (raw : BitVec 21), Stated.Runs s id c (.hint l raw) →
    exec (.hint l raw) s = .next (s.retire id (c.pc + if l = 0#2 then 4#64 else if l = 3#2 then 20#64 else 12#64))) ∧
  (∀ (s : State) (id : Nat) (c : Ctx), Stated.Runs s id c .illegalWord → exec .illegalWord s = .next (s.trap id 0x01#8 s.ev.w0))

/-- R414, R420, R424: MARK and SWSET, with their traps, refusals, waits and results. The model's choices: MARK in a speculative WARP activation traps before gA is looked at
(notes/assumptions/44.md), and a time that has come nearer than 50 microseconds when firmware answers is WHY 3 (notes/assumptions/97.md). -/
def Obligations.CutAndSwitchInstructions : Prop :=
  (∀ (s : State) (id : Nat) (c : Ctx) (d a : Reg) k, Stated.Runs s id c (.mark d a) → s.kernel? c.kid = some k →
    (s.spec c = true → exec (.mark d a) s = .next (s.trap id 0x01#8 0#64)) ∧
    (s.spec c = false → c.getG a ≠ 0#64 → exec (.mark d a) s = .next (s.trap id 0x01#8 (c.getG a))) ∧
    (s.spec c = false → c.getG a = 0#64 → c.held = none → k.cut.isSome = true → exec (.mark d a) s = .next (s.finishG id d 0x8100000000000000#64 4)) ∧
    (s.spec c = false → c.getG a = 0#64 → c.held = none → k.cut = none → k.cutSpace = false → exec (.mark d a) s = .next (s.finishG id d 0x8200000000000000#64 4)) ∧
    (s.spec c = false → c.getG a = 0#64 → c.held = none → k.cut = none → k.cutSpace = true → ∃ (t : State) (c' : Ctx), exec (.mark d a) s = .next t ∧ t.ctx? id = some c' ∧ c'.run = .parked ∧
      c'.wait = .cut ∧ c'.pc = c.pc ∧ c'.g = c.g ∧ t.kernel? c.kid = some { k with cut := some { id := k.cutNum, by_ := some id }, cutNum := k.cutNum + 1#32 }) ∧
    (∀ h, s.spec c = false → c.getG a = 0#64 → c.held = some h → h.stage ≠ 0 → h.answered = true →
      exec (.mark d a) s = .next (s.finishG id d (if h.ans.accept then h.ans.value else 0x8400000000000000#64) 4))) ∧
  (∀ (s : State) (id : Nat) (c : Ctx) (d a : Reg) (n : BitVec 32), s.cur = some id → s.ctx? id = some c → s.isSupervisor c = false →
    exec (.swset d a n) s = .next (s.trap id 0x09#8 0#64)) ∧
  (∀ (s : State) (id : Nat) (c : Ctx) (d a : Reg) (n : BitVec 32) w, Stated.Runs s id c (.swset d a n) → w = (if c.getG a = 0#64 then BitVec.ofNat 64 s.tbase else c.getG a) + n.setWidth 64 →
    (s.spec c = true → exec (.swset d a n) s = .next (s.trap id 0x01#8 0#64)) ∧
    (s.spec c = false → c.held = none → w.toNat < s.tbase + 50000 → exec (.swset d a n) s = .next (s.finishG id d 0x8200000000000000#64 12)) ∧
    (s.spec c = false → c.held = none → s.tbase + 50000 ≤ w.toNat → ∃ (t : State) (c' : Ctx), exec (.swset d a n) s = .next t ∧ t.ctx? id = some c' ∧
      c'.run = .parked ∧ c'.wait = .answer ∧ c'.pc = c.pc ∧ c'.g = c.g ∧ t.parts = s.parts ∧ (∃ h, c'.held = some h ∧ h.vals = [w] ∧ h.stage = 1)) ∧
    -- the answer: `v` is the time that it took at issue
    (∀ h v, s.spec c = false → c.held = some h → h.stage ≠ 0 → h.answered = true → h.vals = [v] →
      ((s.part (s.partOf c.kid)).gang = .armed → exec (.swset d a n) s = .next (s.finishG id d 0x8100000000000000#64 12)) ∧
      ((s.part (s.partOf c.kid)).gang = .running → (h.ans.accept = false ∨ v.toNat < s.tbase + 50000) → exec (.swset d a n) s = .next (s.finishG id d 0x8300000000000000#64 12)) ∧
      ((s.part (s.partOf c.kid)).gang = .running → s.tbase + 50000 ≤ v.toNat → h.ans.accept = true → ∃ (t : State) (c' : Ctx), exec (.swset d a n) s = .next t ∧ t.ctx? id = some c' ∧
        c'.getG d = (if d = 0#5 then 0#64 else v) ∧ t.part (s.partOf c.kid) = { s.part (s.partOf c.kid) with gang := .armed, switchAt := v.toNat })))

/-- R77, R96, R97, R134, R411: CRR reads a control register; CRW, CRS and CRC read it, then write gA, the bits of gA set, or the bits of gA cleared; a
read-only one ignores the write, and a number outside the map traps.
R443, R444, R446, R450: TSTAMP, PCNTR and TRACE, with the LOST record that is due and the RESYNC record that comes before another. That TSTAMP waits for no remote load or call that
is outstanding is the model's reading (notes/assumptions/106.md), and that the LOST record comes first the model's choice (128). -/
def Obligations.ControlAndWatch : Prop :=
  (
    (∀ (s : State) (id : Nat) (c : Ctx) (d : Reg) (n : BitVec 5), Stated.Runs s id c (.crr d n) →
      (n.toNat ≤ 0x12 → ∃ v, Stated.CrIs s c n v ∧ exec (.crr d n) s = .next (s.finishG id d v 4)) ∧
      (0x12 < n.toNat → exec (.crr d n) s = .next (s.trap id 0x01#8 0#64))) ∧
    ∀ (s : State) (id : Nat) (c : Ctx) (d a : Reg) (n : BitVec 5) (i : Instr) (f : Word → Word),
      (i = .crw d a n ∧ f = (fun _ => c.getG a) ∨ i = .crs d a n ∧ f = (fun w => w ||| c.getG a) ∨ i = .crc d a n ∧ f = (fun w => w &&& ~~~c.getG a)) → Stated.Runs s id c i →
      (n.toNat ≤ 0x12 → ∃ (c' : Ctx) (v : Word), exec i s = .next { s with ctxs := mset id c' s.ctxs } ∧ Stated.CrIs s c n v ∧ Stated.CrTakes (s.kernelD c.kid) c c' n (f v) ∧
        c'.getG d = (if d = 0#5 then 0#64 else v) ∧ (∀ r, r ≠ d → c'.getG r = c.getG r) ∧ c'.f = c.f ∧ c'.q = c.q ∧ c'.epc = c.epc ∧ c'.ecause = c.ecause ∧ c'.einfo = c.einfo ∧
        c'.item = c.item ∧ c'.streams = c.streams ∧ (c.rep = none → c'.pc = c.pc + 4#64)) ∧
      (0x12 < n.toNat → exec i s = .next (s.trap id 0x01#8 0#64))) ∧
  (
    (∀ (s : State) (id : Nat) (c : Ctx) (d : Reg) (n : BitVec 5), Stated.Runs s id c (.tstamp d n) →
      (n = 0#5 → exec (.tstamp d n) s = .next (s.finishG id d (BitVec.ofNat 64 s.tbase) 4)) ∧
      (n = 1#5 → c.shipped = none → exec (.tstamp d n) s = .next (s.finishG id d (BitVec.ofNat 64 (s.tile (s.ltile c.ltk).tile).clockEvents) 4)) ∧
      (∀ n', n = 1#5 → c.shipped = some n' → exec (.tstamp d n) s = .next (s.finishG id d (BitVec.ofNat 64 (s.ctrl (n' / 16)).clockEvents) 4)) ∧
      (1 < n.toNat → exec (.tstamp d n) s = .next (s.trap id 0x01#8 (n.setWidth 64)))) ∧
    (∀ (s : State) (id : Nat) (c : Ctx) (d a : Reg) (x : Tile), Stated.Runs s id c (.pcntr d a) → x = s.tile (s.ltile c.ltk).tile →
      (15 < (c.getG a).toNat → exec (.pcntr d a) s = .next (s.trap id 0x01#8 (c.getG a))) ∧
      (∀ i, (c.getG a).toNat = i → i ≤ 15 → x.banks.toList[i / 4]? = some (some (s.partOf c.kid, c.kid)) →
        ∃ v, x.counters.toList[i]? = some v ∧ exec (.pcntr d a) s = .next (s.finishG id d v 4)) ∧
      (∀ i, (c.getG a).toNat = i → i ≤ 15 → x.banks.toList[i / 4]? ≠ some (some (s.partOf c.kid, c.kid)) → exec (.pcntr d a) s = .next (s.finishG id d 0#64 4))) ∧
    (∀ (s : State) (id : Nat) (c : Ctx) (a b : Reg) (x : Tile), Stated.Runs s id c (.trace a b) → x = s.tile (s.ltile c.ltk).tile →
      (x.traceKids.contains c.kid = false → exec (.trace a b) s = .next (s.retire id (c.pc + 4#64))) ∧
      (∀ t0, x.traceKids.contains c.kid = true → x.traceAt = some t0 → t0 ≤ s.tbase → s.tbase - t0 < 2 ^ 32 → x.traceLost = 0 → x.traceRoom ≠ 0 →
        ∃ (t : State) (c' : Ctx) (r : TraceRec), exec (.trace a b) s = .next t ∧ t.ctx? id = some c' ∧ c'.g = c.g ∧ c'.run = .ready ∧ (c.rep = none → c'.pc = c.pc + 4#64) ∧ t.glob = s.glob ∧
          (t.tile (s.ltile c.ltk).tile).trace = x.trace ++ [r] ∧ (t.tile (s.ltile c.ltk).tile).traceRoom = x.traceRoom - 1 ∧ r.words[0].extractLsb' 60 4 = 3#4 ∧
          (r.words[0].extractLsb' 0 32).toNat = s.tbase - t0 ∧ r.words[1] = c.workId ∧ r.words[3] = c.item.src ∧ r.words[4] = c.entryAt ∧ r.words[5] = c.item.vrt ∧
          r.words[6] = c.getG a ∧ r.words[7] = c.getG b) ∧
      (∀ t0, x.traceKids.contains c.kid = true → x.traceAt = some t0 → t0 ≤ s.tbase → s.tbase - t0 < 2 ^ 32 → x.traceLost ≠ 0 → x.traceLost < 2 ^ 64 → 2 ≤ x.traceRoom →
        ∃ (t : State) (l r : TraceRec), exec (.trace a b) s = .next t ∧ (t.tile (s.ltile c.ltk).tile).trace = x.trace ++ [l, r] ∧ (t.tile (s.ltile c.ltk).tile).traceLost = 0 ∧
          l.words[0].extractLsb' 60 4 = 6#4 ∧ (l.words[0].extractLsb' 0 32).toNat = s.tbase - t0 ∧ l.words[5].toNat = x.traceLost ∧
          r.words[0].extractLsb' 60 4 = 3#4 ∧ r.words[0].extractLsb' 0 32 = 0#32 ∧ r.words[6] = c.getG a ∧ r.words[7] = c.getG b) ∧
      (x.traceKids.contains c.kid = true → (x.traceAt = none ∨ ∃ t0, x.traceAt = some t0 ∧ 2 ^ 32 ≤ s.tbase - t0) → x.traceLost = 0 → 2 ≤ x.traceRoom →
        ∃ (t : State) (y r : TraceRec), exec (.trace a b) s = .next t ∧ (t.tile (s.ltile c.ltk).tile).trace = x.trace ++ [y, r] ∧ y.words[0].extractLsb' 60 4 = 4#4 ∧
          y.words[4] = BitVec.ofNat 64 s.tbase ∧ y.words[5] = BitVec.ofNat 64 (s.die (dieOfTile (s.ltile c.ltk).tile)).mhz ∧
          r.words[0].extractLsb' 60 4 = 3#4 ∧ r.words[0].extractLsb' 0 32 = 0#32 ∧ r.words[6] = c.getG a ∧ r.words[7] = c.getG b) ∧
      (x.traceKids.contains c.kid = true → x.traceRoom = 0 → ∃ (t : State) (c' : Ctx), exec (.trace a b) s = .next t ∧ t.ctx? id = some c' ∧ c'.g = c.g ∧ c'.run = .ready ∧
        (t.tile (s.ltile c.ltk).tile).trace = x.trace ∧ x.traceLost < (t.tile (s.ltile c.ltk).tile).traceLost)))
/-! ## Parks, teams, stops, switches, cuts and restorations -/

/-- R102, R404, R405: a parked strand goes on when what it waits for holds, with the answer when it waited for one; a park longer than WAITLIM spills the
team, and a spilled context returns to a slot, one by one (the model's reading, notes/assumptions/64.md). -/
def Obligations.ParksAndTeams : Prop :=
  (∀ (s : State) (c : Ctx), s.ctx? s.ev.id = some c → c.id = s.ev.id → c.run = .parked → c.spilled = false → c.switched = false → s.kernelRuns c.kid = true →
    (∀ h, c.wait = .answer → c.held = some h → h.answered = false → (∀ d a, h.instr ≠ .trap d a) →
      ∃ t : State, exec .parkResume s = .next t ∧ t.ctx? s.ev.id = some { c with run := .ready, wait := .none, held := some { h with answered := true, ans := s.ev.fw } }) ∧
    (c.asks = false → s.holds c = true → ∃ t : State, exec .parkResume s = .next t ∧ t.ctx? s.ev.id = some { c with run := .ready, wait := .none } ∧ t.glob = s.glob) ∧
    (c.asks = false → s.holds c = false → exec .parkResume s = .next s) ∧
    (c.wait = .muSpace → (s.holds c = true ↔ (s.lcore c.lck).mu.queue.length < 16)) ∧
    (∀ v, c.wait = .gvt v → (s.holds c = true ↔ v.toNat < (s.lcore c.alck).gvt)) ∧
    (∀ ea v, c.wait = .word ea v → ea.toNat < 2 ^ 20 → (s.holds c = true ↔ BitVec.ofNat 64 (leNat (s.scratchBytes c.ltk ea.toNat 8)) = v))) ∧
  (∀ (s : State) (c : Ctx), s.ctx? s.ev.id = some c → (c.run = .parked ∨ c.run = .trapped) → c.spilled = false → c.switched = false → c.parkedAt + c.waitlim.toNat < s.tbase →
    s.kernelRuns c.kid = true → ∃ t : State, exec .teamSpill s = .next t ∧ (t.tile (s.homeTile c)).spills = (s.tile (s.homeTile c)).spills + 1 ∧ s.ev.id ∈ s.team c ∧
      ∀ j x, j ∈ s.team c → s.ctx? j = some x → ∃ x', t.ctx? j = some x' ∧ x'.spilled = true ∧ x'.shipped = none ∧ (x.shipped = none → x'.shipWait = false) ∧ x'.g = x.g ∧ x'.f = x.f ∧ x'.pc = x.pc) ∧
  (∀ (s : State) (id : Nat) (c : Ctx) sl, s.kernelRuns (s.ev.id / 4096) = true → s.spilledOf s.ev.id = [id] → s.ctx? id = some c → s.slotFor c = some sl →
    ∃ (t : State) (c' : Ctx), exec .teamResume s = .next t ∧ t.ctx? id = some c' ∧ c'.spilled = false ∧ c'.strand = BitVec.ofNat 2 sl ∧ c'.g = c.g ∧ c'.f = c.f ∧ c'.pc = c.pc)

/-- R240, R368, R407, R412, R413: a gang stop, which writes stop records, and its release, a debug stop, step and drain, and the monitor's freeze. A strand that was stopped while it was
shipped goes on at home. What a debug stop does to the unit, and whose stop records are written, is the model's reading (notes/assumptions/90.md, 123.md). -/
def Obligations.Stops : Prop :=
  (∀ (s : State) p, p = s.part s.ev.id → p.present = true → (p.gang = .running ∨ p.gang = .armed) → ∃ t : State, exec .gangStop s = .next t ∧
    t.part s.ev.id = { p with gang := .stopped, gangBefore := p.gang } ∧ s.gangRuns s.ev.id = true ∧ t.gangRuns s.ev.id = false ∧ t.ctxs = s.ctxs ∧ t.glob = s.glob ∧ t.ltiles = s.ltiles ∧
    ∃ rs, t.hostSide.stops = s.hostSide.stops ++ rs ∧ (∀ e, e ∈ rs → (e.2.drop 8).take 8 = leBytes 8 s.tbase) ∧
      ∀ e x i, e ∈ s.kernels → e.2.part = s.ev.id → x ∈ s.terr e.1 → i < 8 → ∃ r, r ∈ rs ∧ r.1 = 8 * x + i) ∧
  (∀ (s : State) p, p = s.part s.ev.id → s.ev.flag = false → p.gang = .stopped → (∀ e, e ∈ s.lcores → e.2.heldIn = []) → ∃ t : State, exec .stopRelease s = .next t ∧
    t.part s.ev.id = { p with gang := p.gangBefore, gangBefore := .running } ∧
    (∀ j x, s.ctx? j = some x → x.shipped = none → x.shipWait = false → t.ctx? j = some x) ∧
    ∀ j x, s.ctx? j = some x → s.partOf x.kid = s.ev.id → ∃ x', t.ctx? j = some x' ∧ x'.shipped = none ∧ x'.g = x.g ∧ x'.f = x.f ∧ x'.pc = x.pc) ∧
  (∀ (s : State), s.ev.flag = true → ∃ t : State, exec .stopRelease s = .next t ∧ (t.tile s.ev.idx).debugStops = (s.tile s.ev.idx).debugStops &&& ~~~(s.ev.w0.setWidth 32) ∧
    ∀ j x, s.ctx? j = some x → x.spilled = false → x.switched = false → s.homeTile x = s.ev.idx → s.ev.w0.getLsbD (4 * x.homeCore + x.strand.toNat) = true → 4 * x.homeCore + x.strand.toNat < 32 →
      ((x.stopped = true → x.shipped = none ∧ x.shipWait = false) → t.ctx? j = some { x with stopped := false }) ∧
      (x.stopped = true → ∃ x', t.ctx? j = some x' ∧ x'.stopped = false ∧ x'.shipped = none ∧ (x.shipped = none → x'.shipWait = false) ∧ x'.g = x.g ∧ x'.f = x.f ∧ x'.pc = x.pc)) ∧
  (∀ (s : State), s.ev.id < 1024 → ∃ t : State, exec .debugStop s = .next t ∧ (t.tile s.ev.id).debugStops = (s.tile s.ev.id).debugStops ||| s.ev.w0.setWidth 32 ∧ t.ctxs = s.ctxs) ∧
  (∀ (s : State) (c : Ctx), s.ctx? s.ev.id = some c → c.id = s.ev.id → (c.stopped = true ∨ (s.part (s.partOf c.kid)).gang = .stopped ∨ (s.kernelD c.kid).restoring = true) → c.run ≠ .trapped → c.spilled = false → c.switched = false →
    ∃ t : State, exec .debugStep s = .next t ∧ t.ctx? s.ev.id = some { c with stepping := true }) ∧
  (∀ (s : State) p, p = s.part (s.partOf (lcKid s.ev.id)) → p.gang ≠ .saving → p.gang ≠ .switched → p.gang ≠ .restoring → (s.kernelD (lcKid s.ev.id)).state ≠ .switched →
    (s.kernelD (lcKid s.ev.id)).state ≠ .frozen → (p.gang = .stopped ∨ (s.kernelD (lcKid s.ev.id)).restoring = true ∨ s.muHeld s.ev.id = true ∨
      ∃ e, e ∈ s.ctxs ∧ e.2.lck = s.ev.id ∧ e.2.stopped = true ∧ e.2.switched = false) → (s.lcore s.ev.id).mu.queue ≠ [] →
    ∃ t : State, exec .debugDrain s = .next t ∧ (t.lcore s.ev.id).mu = { (s.lcore s.ev.id).mu with drain := true } ∧ t.ctxs = s.ctxs) ∧
  (∀ (s : State), (s.part s.ev.id).present = true → (s.part s.ev.id).gang ≠ .frozen → ∃ t : State, exec .partitionFreeze s = .next t ∧
    t.part s.ev.id = { s.part s.ev.id with gang := .frozen } ∧ t.hostSide.frames = s.hostSide.frames ++ [(s.ev.id, s.ev.bytes)] ∧
    ∀ kid k, s.kernel? kid = some k → k.part = s.ev.id → (t.kernelD kid).state = .frozen)

/-- R414-R419, R427, R458: a gang switch is set and withdrawn; at its time every strand of the partition is taken; the save ends; the gang comes back; and
the power cycle of a partition, which leaves none of its kernels and zeroes its memory. What a gang that was not stopped before comes back as is the model's reading
(notes/assumptions/98.md), and so are the details of the power cycle (99). -/
def Obligations.GangSwitches : Prop :=
  (∀ (s : State) p, p = s.part s.ev.id → p.present = true → p.gang = .running → s.tbase + 50000 ≤ s.ev.w0.toNat → ∃ t : State, exec .gangSwitchSet s = .next t ∧
    t.part s.ev.id = { p with gang := .armed, switchAt := s.ev.w0.toNat } ∧ t.ctxs = s.ctxs) ∧
  (∀ (s : State) p, p = s.part s.ev.id → p.present = true → (p.gang = .armed ∨ s.ev.w0.toNat < s.tbase + 50000) → ∃ t : State, exec .gangSwitchSet s = .next t ∧ t.parts = s.parts) ∧
  (∀ (s : State) p, p = s.part s.ev.id → p.gang = .armed → s.tbase + 10000 < p.switchAt → ∃ t : State, exec .gangSwitchWithdraw s = .next t ∧ t.part s.ev.id = { p with gang := .running }) ∧
  (∀ (s : State) p, p = s.part s.ev.id → p.gang = .armed → p.switchAt ≤ s.tbase + 10000 → exec .gangSwitchWithdraw s = .next s) ∧
  (∀ (s : State) p, p = s.part s.ev.id → (p.gang = .armed ∨ p.gang = .stopped ∧ p.gangBefore = .armed) → p.switchAt ≤ s.tbase → ∃ t : State, exec .gangSwitch s = .next t ∧
    (t.part s.ev.id).gang = .saving ∧ (t.part s.ev.id).gangBefore = (if p.gang = .stopped then .stopped else .running) ∧ t.gangRuns s.ev.id = false ∧
    ∀ j x, s.ctx? j = some x → s.partOf x.kid = s.ev.id → ∃ x', t.ctx? j = some x' ∧ x'.switched = true ∧ x'.shipped = none ∧ t.stopMarked j = (decide (p.gang = .stopped) || x.stopped) ∧
      x'.g = x.g ∧ x'.f = x.f ∧ x'.pc = x.pc) ∧
  (∀ (s : State), (s.part s.ev.id).gang = .saving → s.copiesQuiet s.ev.id = true → (∀ lc r, r ∈ (s.lcore lc).copies → r.state ≠ 2) → (∀ kid k, s.kernel? kid = some k → k.part = s.ev.id → k.state ≠ .ending) →
    ∃ t : State, exec .saveComplete s = .next t ∧ (t.part s.ev.id).gang = .switched ∧
      ∀ kid k, s.kernel? kid = some k → k.part = s.ev.id → k.state ≠ .ended → (t.kernelD kid).state = .switched) ∧
  (∀ (s : State) kid k fw, (s.part s.ev.id).gang = .switched → (s.kidsOf s.ev.id).filter (fun k => decide ((s.kernelD k).state ≠ .ended)) = [kid] → s.kernel? kid = some k →
    s.ev.fws = [(kid, fw)] → s.placeOk k.part k.tiles k.k fw = true → ∃ t : State, exec .gangResume s = .next t ∧ (t.part s.ev.id).gang = .restoring ∧
      (t.kernelD kid).state = (if k.heldBefore then .held else .running) ∧ (t.kernelD kid).gen = k.gen + 1#16 ∧
      ∀ i e, fw.place[i]? = some e → (t.ltile (ltKey kid i)).tile = e.1 ∧ (t.ltile (ltKey kid i)).j = e.2 ∧ (t.ltile (ltKey kid i)).saved = false ∧
        (t.ltile (ltKey kid i)).mapGen = (s.ltile (ltKey kid i)).mapGen + 1#32 ∧ (t.ltile (ltKey kid i)).scratch = (s.ltile (ltKey kid i)).scratch) ∧
  (∀ (s : State) p, p = s.part s.ev.id → p.gang = .restoring → (∀ e, e ∈ s.lcores → e.2.heldIn = []) → ∃ t : State, exec .gangResume s = .next t ∧
    (p.gangBefore ≠ .stopped → (t.part s.ev.id).gang = .running) ∧
    (∀ e, p.gangBefore = .stopped → e ∈ s.ctxs → s.partOf e.2.kid = s.ev.id → s.stopMarked e.1 = true → (t.part s.ev.id).gang = .stopped) ∧
    ∀ j x, s.ctx? j = some x → (s.kernel? x.kid).isSome = true → s.partOf x.kid = s.ev.id → (s.kernelD x.kid).state ≠ .ended →
      ∃ x', t.ctx? j = some x' ∧ x'.switched = false ∧ x'.g = x.g ∧ x'.f = x.f ∧ x'.pc = x.pc) ∧
  (∀ (s : State), (s.part s.ev.id).present = true → ∃ t : State, exec .partitionPowerCycle s = .next t ∧
    t.part s.ev.id = { s.part s.ev.id with gang := .running, gangBefore := .running, switchAt := 0, xtsKey := (s.part s.ev.id).xtsKey + 1, cycled := (s.part s.ev.id).cycled + 1 } ∧
    (∀ kid k, s.kernel? kid = some k → k.part = s.ev.id → t.kernel? kid = none) ∧
    (∀ pa r, r ∈ (s.part s.ev.id).memory → r.1 ≤ pa → pa < r.1 + r.2 → memGet t.glob pa = 0#8 ∧ memGet t.dram pa = 0#8))

/-- R421-R425: a cut starts at a kernel, each logical core records its image, that of core 0 with its tile's, and a stopped kernel is restored from its latest usable cut, or ends with cause
2 when its territory is too small. What a core records when, and what a restoration does outside the kernel, is the model's reading (notes/assumptions/11.md, 103.md). -/
def Obligations.CutsAndRestores : Prop :=
  (∀ (s : State) k, s.kernel? s.ev.id = some k → k.state = .running → k.cut = none → k.cutSpace = true → s.kernelRuns s.ev.id = true →
    ∃ t : State, exec .cutStart s = .next t ∧ t.kernel? s.ev.id = some { k with cut := some { id := k.cutNum, by_ := none }, cutNum := k.cutNum + 1#32 } ∧ t.ctxs = s.ctxs ∧ t.ltiles = s.ltiles ∧ t.glob = s.glob ∧
      -- each core counts anew
      ∀ l i, l < k.tiles → i < 8 → (t.lcore (8 * ltKey s.ev.id l + i)).cutRecv = 0 ∧ ((s.lcore (8 * ltKey s.ev.id l + i)).retx = [] → (t.lcore (8 * ltKey s.ev.id l + i)).cutSent = 0)) ∧
  (∀ (s : State) k ct lt lc, s.kernel? s.ev.id = some k → k.cut = some ct → ct.complete = false → lt = ltKey s.ev.id s.ev.idx → s.ev.idx < 4096 → s.ev.idx < k.tiles → s.ev.slot < 8 → lc = 8 * lt + s.ev.slot →
    lc ∉ ct.recorded → (∀ e, e ∈ s.taken → ltKey e.1.kid e.1.lt ≠ lt) → s.kernelRuns s.ev.id = true → ∃ (t : State) (ct' : Cut), exec .cutRecord s = .next t ∧ (t.kernelD s.ev.id).cut = some ct' ∧
      ct'.recorded = lc :: ct.recorded ∧ ct'.id = ct.id ∧ ct'.by_ = ct.by_ ∧ (s.ev.slot = 0 → (lt, s.ltile lt) ∈ ct'.shard.lts) ∧ (lc, s.lcore lc) ∈ ct'.shard.lcs ∧
      t.lcore lc = { s.lcore lc with cutFlag := true } ∧ (∀ e, e ∈ s.ctxs → e.2.alck = lc → e.2 ∈ ct'.shard.ctxs) ∧ t.ctxs = s.ctxs ∧ t.ltiles = s.ltiles) ∧
  (∀ (s : State) k, s.kernel? s.ev.id = some k → k.restoring = true → (k.state = .running ∨ k.state = .held) → (s.gangRuns k.part = true ∨ (s.part k.part).gang = .stopped) →
    ((s.terr s.ev.id).length < k.least → ∃ t : State, exec .kernelRestore s = .next t ∧ (t.kernelD s.ev.id).state = .ended) ∧
    (k.least ≤ (s.terr s.ev.id).length → (∀ l, l ∈ s.ltsOf s.ev.id → (s.ltile l).tile ∈ s.terr s.ev.id) →
      (∃ t : State, exec .kernelRestore s = .next t ∧ (t.kernelD s.ev.id).restoring = false ∧ (t.kernelD s.ev.id).failed = []) ∧
      ∀ ct, k.lastCut = some ct → s.ev.flag = true → s.shardsMatch s.ev.id ct = true → k.warp = false → (ct.shard.ctxs.map (fun x => x.id)).Nodup → (ct.shard.lts.map (fun e => e.1)).Nodup →
        (∀ e, e ∈ ct.shard.lcs → e.2.chanLog = [] ∧ e.2.heldIn = []) →
        (∀ e, e ∈ s.lcores → e.2.afterCut = [] ∧ e.2.heldIn = []) → (∀ e r, e ∈ s.lcores ++ ct.shard.lcs → r ∈ e.2.colls → r.result = none) → ∃ t : State, exec .kernelRestore s = .next t ∧
          (∀ x, x ∈ ct.shard.ctxs → ∃ x', t.ctx? x.id = some x' ∧ x'.spilled = true ∧ x'.g = x.g ∧ x'.f = x.f ∧ x'.pc = x.pc ∧ x'.item = x.item) ∧
          (∀ e, e ∈ ct.shard.lts → (t.ltile e.1).scratch = e.2.scratch ∧ (t.ltile e.1).windows = e.2.windows ∧ (t.ltile e.1).keeps = e.2.keeps)))

/-! ## The fabric and the links -/

namespace Sys2Proof.Stated

/-- Work that a flit brings to its destination, as against acknowledgements, hints, the group engine's flits and idle ones (R431). -/
@[reducible] def WorkCarry (c : Carry) : Prop := (∀ n v, c ≠ .ack n v) ∧ (∀ n v, c ≠ .nack n v) ∧ (∀ n, c ≠ .mapHint n) ∧ (∀ o, c ≠ .group o) ∧ c ≠ .idle
/-- The flit is at the tile that its translation and the territory map name, whole, and of this device (R433, R435). -/
@[reducible] def AtHome (s : State) (f : Flit) : Prop :=
  s.arrival? s.ev.id = none ∧ s.flit? s.ev.id = some f ∧ f.good = true ∧ f.dev = s.device.toNat ∧ f.dst.map (·.1) = some f.at_ ∧ s.hereFor f = true
/-- No other copy of the flit waits at its destination, and its kernel takes flits in stream order (R435). -/
@[reducible] def OnlyCopy (s : State) (f : Flit) : Prop :=
  (∀ g, (g ∈ s.arrivals ∨ g ∈ (s.lcore f.lck).reorder) → ¬(g.lck = f.lck ∧ streamFrom g = streamFrom f ∧ g.chseq = f.chseq)) ∧
    (∀ g, g ∈ (s.ltile (ltKey f.kid f.lt)).fallout → g.fid ≠ f.fid) ∧ s.ordered f = true
/-- The fabric without the first flit of a number. -/
def without (s : State) (n : Nat) : List Flit := s.flits.eraseP fun x => x.fid = n
/-- A step leaves a device port in a state, and every other port as it was. -/
def PortBecomes (s : State) (i : Instr) (p' : LinkPort) : Prop :=
  ∃ t : State, exec i s = .next t ∧ t.ports.toList[s.ev.id]? = some p' ∧ (∀ j, j ≠ s.ev.id → t.ports.toList[j]? = s.ports.toList[j]?) ∧ t.flits = s.flits ∧ t.ctxs = s.ctxs

end Sys2Proof.Stated

/-- R430-R434, R437, R438: a router drops a flit whose check fails, translates one at the first router of the device, passes it on to a neighbour over a working link,
sends one for another device out on a port, and forwards one whose logical tile has moved; hints and map updates reach the map caches; a router's reset
loses what is inside it. The router's choices are the event's, and a map update's acknowledgement is kept at the stub (notes/assumptions/59.md, 62.md). -/
def Obligations.Routing : Prop :=
  (∀ (s : State) (f : Flit), s.flit? s.ev.id = some f → (f.crc ≠ f.check ∨ 10 < f.kind ∨ bits f.hdr 16 7 ≠ 0) → exec .flitRouting s = .next { s with flits := Stated.without s f.fid }) ∧
  (∀ (s : State) (f : Flit), s.flit? s.ev.id = some f → f.good = true → s.leasedOut f.at_ (s.partOf (lcKid f.sender)) = false →
    (∀ p, f.dev ≠ s.device.toNat → s.ev.idx < 16 → s.portFor f.dev s.ev.idx = true → s.ports.toList[s.ev.idx]? = some p →
      ∃ (t : State) (p' : LinkPort), exec .flitRouting s = .next t ∧ t.flits = Stated.without s f.fid ∧ t.outbox = s.outbox ++ [(s.ev.idx, beatOf f)] ∧ t.ports.toList[s.ev.idx]? = some p' ∧
        p'.state = p.state ∧ p'.replay.length ≤ max 64 p.replay.length ∧ (p.replay.length < 64 → p'.replay = p.replay ++ [beatOf f])) ∧
    (∀ e, f.dev = s.device.toNat → f.dst = none → s.locate f = some e → mget (ltKey f.kid f.lt) (s.tile f.at_).mapCache = none →
      ∃ t : State, exec .flitRouting s = .next t ∧ t.flits = Stated.without s f.fid ++ [{ f with dst := some (e.1, e.2.1), router := f.at_ }] ∧
        mget (ltKey f.kid f.lt) (t.tile f.at_).mapCache = some e) ∧
    (∀ e o, f.dev = s.device.toNat → f.dst = none → s.locate f = some e → mget (ltKey f.kid f.lt) (s.tile f.at_).mapCache = some o →
      exec .flitRouting s = .next { s with flits := Stated.without s f.fid ++ [{ f with dst := some (o.1, o.2.1), router := f.at_ }] }) ∧
    (∀ t0 j u, f.dev = s.device.toNat → f.dst = some (t0, j) → t0 ≠ f.at_ → neighbour f.at_ s.ev.idx = some u → (min f.at_ u, max f.at_ u) ∉ s.deadLinks →
      exec .flitRouting s = .next { s with flits := Stated.without s f.fid ++ [{ f with at_ := u }] }) ∧
    (∀ t0 j u, f.dev = s.device.toNat → f.dst = some (t0, j) → t0 ≠ f.at_ → neighbour f.at_ s.ev.idx = some u → (min f.at_ u, max f.at_ u) ∈ s.deadLinks → exec .flitRouting s = .next s) ∧
    (∀ j e, f.dev = s.device.toNat → f.dst = some (f.at_, j) → f.kind ≠ 9 → s.locate f = some e → e.1 ≠ f.at_ →
      ((∀ b, b ∈ (s.tile f.at_).stubs → b.lt ≠ ltKey f.kid f.lt) →
        exec .flitRouting s = .next { s with flits := Stated.without s f.fid ++ [{ f with dst := some (e.1, e.2.1), router := f.at_ }] }) ∧
      (∀ b, (s.tile f.at_).stubs.find? (fun b => b.lt = ltKey f.kid f.lt) = some b → ∃ t : State, exec .flitRouting s = .next t ∧ { f with dst := some (e.1, e.2.1) } ∈ t.flits ∧
        (∀ b', b' ∈ (t.tile f.at_).stubs → b'.lt = ltKey f.kid f.lt → b'.fwd = true ∧ f.router ∈ b'.hinted) ∧
        (f.router ∉ b.hinted → ∃ h : Flit, h ∈ t.flits ∧ h.carry = .mapHint (ltKey f.kid f.lt) ∧ h.dst = some (f.router, 0) ∧ h.kind = 9 ∧ h.crc = h.check)))) ∧
  (∀ (s : State) (f : Flit) lt n, s.flit? s.ev.id = some f → f.carry = .mapHint lt → f.dst = some (f.at_, n) → mget lt (s.tile f.at_).mapCache = none →
    ∃ t : State, exec .mapHint s = .next t ∧ t.flits = Stated.without s f.fid ∧
      mget lt (t.tile f.at_).mapCache = some ((s.ltile lt).tile, (s.ltile lt).j, (s.ltile lt).mapGen.toNat)) ∧
  (∀ (s : State) (b : Stub), b ∈ (s.tile s.ev.id).stubs → b.lt = s.ev.slot → s.ev.idx ∈ b.pending → s.staleAt s.ev.idx s.ev.slot = false →
    ∃ t : State, exec .mapUpdate s = .next t ∧ (∀ b', b' ∈ (t.tile s.ev.id).stubs → b'.lt = s.ev.slot → s.ev.idx ∉ b'.pending ∧ b'.ackedAt = s.tbase) ∧
      (b.pending = [s.ev.idx] → { b with pending := [], ackedAt := s.tbase, fwd := false } ∈ (t.tile s.ev.id).stubs) ∧
      (mget s.ev.slot (s.tile s.ev.idx).mapCache = none →
        mget s.ev.slot (t.tile s.ev.idx).mapCache = some ((s.ltile s.ev.slot).tile, (s.ltile s.ev.slot).j, (s.ltile s.ev.slot).mapGen.toNat))) ∧
  (∀ (s : State), s.ev.id < 1024 → ∃ t : State, exec .routerReset s = .next t ∧ (t.tile s.ev.id).mapCache = [] ∧ (∀ (f : Flit), f ∈ t.flits ↔ f ∈ s.flits ∧ f.at_ ≠ s.ev.id) ∧ t.lcores = s.lcores) ∧
  (∀ (s : State), s.ev.id < 1024 → s.ev.idx < 1024 → directionTo s.ev.id s.ev.idx ≠ 0 → dieOfTile s.ev.id ≠ dieOfTile s.ev.idx → (min s.ev.id s.ev.idx, max s.ev.id s.ev.idx) ∉ s.deadLinks →
    exec .d2dModuleFailure s = .next { s with deadLinks := s.deadLinks ++ [(min s.ev.id s.ev.idx, max s.ev.id s.ev.idx)] })

/-- R280, R435, R436: a flit at its destination is taken in when every number of its stream before it has been, is kept while one is missing, and is only
acknowledged again when it was accepted before, an access or a codelet update with the answer that it had; an acknowledgement frees the sender's buffer, and the first flit
that waits behind its 64 entries enters (notes/assumptions/28.md); and an unacknowledged flit is sent again after 2 µs. -/
def Obligations.Acceptance : Prop :=
  (∀ (s : State) (f : Flit), Stated.AtHome s f → Stated.WorkCarry f.carry → Stated.OnlyCopy s f →
    ((s.rxOf f).has f.chseq = false → ((s.rxOf f).ready f.chseq = true ∨ s.isWarp f.kid = true ∧ f.kind ≤ 1) →
      exec .flitAcceptance s = .next { s with flits := Stated.without s f.fid, arrivals := s.arrivals ++ [f] }) ∧
    ((s.rxOf f).has f.chseq = false → (s.rxOf f).ready f.chseq = false → (s.isWarp f.kid = false ∨ 1 < f.kind) → (s.lcore f.lck).reorder.length < 16 →
      ∃ t : State, exec .flitAcceptance s = .next t ∧ t.flits = Stated.without s f.fid ∧ t.arrivals = s.arrivals ∧ t.lcore f.lck = { s.lcore f.lck with reorder := (s.lcore f.lck).reorder ++ [f] }) ∧
    ((s.rxOf f).has f.chseq = true → (∀ op a k d, f.carry ≠ .access op a k d) → (∀ h u, f.carry ≠ .codelet h u) → ∃ (t : State) (r : Flit), exec .flitAcceptance s = .next t ∧ t.flits = Stated.without s f.fid ++ [r] ∧
      r.carry = .ack f.fid none ∧ r.crc = r.check ∧ t.arrivals = s.arrivals ∧ t.lcores = s.lcores) ∧
    (∀ op addr k d x, (s.rxOf f).has f.chseq = true → f.carry = .access op addr k d →
      (s.lcore f.lck).answers.find? (fun a => decide (a.stream = streamFrom f) && decide (a.num = f.chseq)) = some x → ∃ (t : State) (r : Flit), exec .flitAcceptance s = .next t ∧
        t.flits = Stated.without s f.fid ++ [r] ∧ r.carry = (if x.refused then .nack f.fid addr else .ack f.fid x.value) ∧ t.arrivals = s.arrivals ∧ t.lcores = s.lcores) ∧
    (∀ h u, (s.rxOf f).has f.chseq = true → f.carry = .codelet h u → ∃ (t : State) (r : Flit), exec .flitAcceptance s = .next t ∧ t.flits = Stated.without s f.fid ++ [r] ∧
      t.arrivals = s.arrivals ∧ t.lcores = s.lcores ∧ r.carry = (if (s.lcore f.lck).answers.any (fun a => decide (a.stream = streamFrom f) && decide (a.num = f.chseq) && a.refused) then
        .nack f.fid h else .ack f.fid none))) ∧
  (∀ (s : State) (f o : Flit) n v, Stated.AtHome s f → f.carry = .ack n v → (s.lcore f.lck).retx.find? (fun g => g.fid = n) = some o → o.issuer = .none →
    ∃ t : State, exec .flitAcceptance s = .next t ∧ (t.lcore f.lck).retx = (s.lcore f.lck).retx.filter (fun g => g.fid ≠ n) ∧
      ((s.lcore f.lck).retx.length ≤ 64 → t.flits = Stated.without s f.fid) ∧
      (∀ g, ((s.lcore f.lck).retx.map fun x => x.fid).Nodup → o ∈ (s.lcore f.lck).retx.take 64 → (s.lcore f.lck).retx[64]? = some g →
        t.flits = Stated.without s f.fid ++ [{ g with at_ := (s.ltile (f.lck / 8)).tile, dst := none, sentAt := s.tbase }])) ∧
  (∀ (s : State) (f : Flit) n v, Stated.AtHome s f → f.carry = .ack n v → (∀ o, o ∈ (s.lcore f.lck).retx → o.fid ≠ n) →
    exec .flitAcceptance s = .next { s with flits := Stated.without s f.fid }) ∧
  (∀ (s : State) (f : Flit), ((s.lcore s.ev.id).retx.take 64).find? (fun g => g.fid = s.ev.idx) = some f → f.sentAt + 2000 ≤ s.tbase → (lcKid s.ev.id = 63 ∨ s.kernelRuns (lcKid s.ev.id) = true) →
    ∃ t : State, exec .retransmit s = .next t ∧ t.flits = s.flits ++ [{ f with at_ := (s.ltile (s.ev.id / 8)).tile, dst := none, sentAt := s.tbase }] ∧
      (t.lcore s.ev.id).retx.map (fun g => g.fid) = (s.lcore s.ev.id).retx.map (fun g => g.fid) ∧ t.arrivals = s.arrivals) ∧
  (∀ (s : State) (f : Flit), ((s.lcore s.ev.id).retx.take 64).find? (fun g => g.fid = s.ev.idx) = some f → s.tbase < f.sentAt + 2000 → exec .retransmit s = .next s)

/-- R439-R441, R453: a beat of four slots enters at a router, one whose check fails is refused, and a slot that no router forwards is dropped; a refused beat and those after
it are sent again; the states of a device port; and the host's reads and writes of the DRAM over CXL.mem, which end in an error until READY.
Whether a beat arrives whole is the event's (notes/assumptions/109.md). -/
def Obligations.DeviceLinks : Prop :=
  (∀ (s : State) (f : Flit) p, s.ports.toList[s.ev.id]? = some p → (p.state = .up ∨ p.state = .degraded) → s.ev.idx < 1024 → s.ev.flits = beatOf f → s.ev.flag = false →
    ((f.good = false ∨ f.carry.fits f.kind = false) → exec .beatReceive s = .next s) ∧
    (f.good = true → f.carry.fits f.kind = true → ∃ t : State, exec .beatReceive s = .next t ∧
      t.flits = s.flits ++ [{ f with fid := s.nextId, at_ := s.ev.idx, dst := none, issuer := .remote (srcDev f.src), sentAt := s.tbase, stamp := (s.clock (engineCore s.ev.idx)).t }] ∧ t.nextId = s.nextId + 1)) ∧
  (∀ (s : State) p, s.ports.toList[s.ev.id]? = some p → (p.state = .up ∨ p.state = .degraded) → s.ev.idx < 1024 → s.ev.flits.length = 4 → s.ev.flag = true →
    Stated.PortBecomes s .beatReceive { p with refused := p.refused + 1 }) ∧
  (∀ (s : State) p, s.ports.toList[s.ev.id]? = some p → (p.state = .up ∨ p.state = .degraded) → s.ev.idx < p.replay.length →
    ∃ (t : State) (p' : LinkPort), exec .beatRefusal s = .next t ∧ t.outbox = s.outbox ++ (p.replay.drop s.ev.idx).map (fun b => (s.ev.id, b)) ∧ t.ports.toList[s.ev.id]? = some p' ∧
      p'.replay = p.replay.drop s.ev.idx ∧ p'.replays = p.replays ++ [s.tbase] ∧ p'.state = p.state) ∧
  (∀ (s : State) p, s.ports.toList[s.ev.id]? = some p →
    ((p.state = .down ∨ p.state = .failed) → Stated.PortBecomes s .portEnable { p with state := .train, trainAt := s.tbase }) ∧
    (p.state = .train → s.tbase < p.trainAt + 100000000 → s.ev.idx = 4 → Stated.PortBecomes s .laneTrainingDone { p with state := .up, lanes := 4 }) ∧
    (p.state = .train → s.tbase < p.trainAt + 100000000 → (s.ev.idx = 2 ∨ s.ev.idx = 3) → Stated.PortBecomes s .laneTrainingDone { p with state := .degraded, lanes := 2 }) ∧
    (p.state = .train → s.tbase < p.trainAt + 100000000 → s.ev.idx < 2 → Stated.PortBecomes s .laneTrainingDone { p with state := .failed }) ∧
    (p.state = .train → p.trainAt + 100000000 ≤ s.tbase → Stated.PortBecomes s .trainingTimeout { p with state := .failed }) ∧
    ((p.state = .up ∨ p.state = .degraded) → 16 < (p.replays.filter fun a => decide (s.tbase < a + 1000000)).length →
      Stated.PortBecomes s .replayStorm { p with state := .train, trainAt := s.tbase, replay := [], replays := [] }) ∧
    (p.state = .up → Stated.PortBecomes s .laneLost { p with state := .train, trainAt := s.tbase }) ∧
    Stated.PortBecomes s .portDisable { p with state := .down }) ∧
  (∀ (s : State), s.hostSide.ready = true → s.ev.idx ≤ 64 → s.hdmOk s.ev.id s.ev.idx = true → ∃ (t : State) (bs : List Byte), exec .cxlMemRead s = .next t ∧
    t.hostSide.reads = s.hostSide.reads ++ [(s.ev.id, bs)] ∧ bs.length = s.ev.idx ∧ (∀ i, i < s.ev.idx → bs[i]? = some (memGet s.dram (s.ev.id + i))) ∧ t.dram = s.dram ∧ t.glob = s.glob) ∧
  (∀ (s : State), s.hostSide.ready = true → s.ev.bytes.length ≤ 64 → s.hdmOk s.ev.id s.ev.bytes.length = true → ∃ t : State, exec .cxlMemWrite s = .next t ∧
    (∀ i b, s.ev.bytes[i]? = some b → memGet t.dram (s.ev.id + i) = b) ∧ (∀ x, (x < s.ev.id ∨ s.ev.id + s.ev.bytes.length ≤ x) → memGet t.dram x = memGet s.dram x) ∧ t.glob = s.glob) ∧
  (∀ (s : State) i, s.hostSide.ready = false → (i = .cxlMemRead ∨ i = .cxlMemWrite) →
    exec i s = .next { s with hostSide := { s.hostSide with cxlErrors := s.hostSide.cxlErrors ++ [s.ev.id] } })

/-! ## Clocks, leases, boot and the management side -/

/-- R165-R168, R444, R449, R450, R460: a logical clock's ticks, the raise of a line's times, a core clock that stops and restarts, the lowering of a die's clock, and profiling
leases. That the near-memory clusters keep their clock, and how long leases of one holder last, is the model's reading (notes/assumptions/100.md, 106.md). -/
def Obligations.ClocksAndLeases : Prop :=
  (∀ (s : State) k, s.ev.id < 8240 → mget s.ev.id s.clocks = some k → ∃ t : State, exec .logicalClockTick s = .next t ∧
    (k.stopped = true → t.clock s.ev.id = k) ∧
    (k.stopped = false → t.clock s.ev.id = { k with t := k.t + BitVec.ofNat 48 ((s.tbase - k.tickAt) / 256), tickAt := k.tickAt + (s.tbase - k.tickAt) / 256 * 256 }) ∧
    ∀ n, t.clock n = s.clock n) ∧
  (∀ (s : State) top, top = (s.home s.ev.id).1 → ∃ t : State, exec .homeTimeRaise s = .next t ∧ (t.home s.ev.id).1 = top ∧
    (∀ l, homeKey l = s.ev.id → t.wts l = serialMax (s.wts l) (top - 0x10000000000#48) ∧ t.rts l = serialMax (s.rts l) (top - 0x10000000000#48)) ∧
    ∀ l, homeKey l ≠ s.ev.id → t.wts l = s.wts l ∧ t.rts l = s.rts l) ∧
  (∀ (s : State), s.ev.id < 8240 → (s.clock s.ev.id).stopped = false → ∃ t : State, exec .coreClockStop s = .next t ∧ (t.clock s.ev.id).stopped = true ∧
    (t.clock s.ev.id).t = (s.clock s.ev.id).t ∧ (t.clock s.ev.id).tickAt = s.tbase - (s.clock s.ev.id).tickAt ∧
    ∀ (id : Nat) (c : Ctx), s.ctx? id = some c → s.coreNo c = s.ev.id → t.issues id = false) ∧
  (∀ (s : State), s.ev.id < 8192 → (s.clock s.ev.id).stopped = true → (s.clock s.ev.id).tickAt < 256 → ∃ t : State, exec .coreClockRestart s = .next t ∧ (t.clock s.ev.id).stopped = false ∧ (t.clock s.ev.id).t = (s.clock s.ev.id).t ∧
    (t.clock s.ev.id).tickAt = s.tbase - (s.clock s.ev.id).tickAt ∧ (t.tile (s.ev.id / 8)).clockEvents = (s.tile (s.ev.id / 8)).clockEvents + 1) ∧
  (∀ (s : State), s.ev.id < 4 → 600 ≤ (s.die s.ev.id).mhz → s.tempLimit < s.ev.w0.toNat → ∃ t : State, exec .dieClockStep s = .next t ∧ (t.die s.ev.id).mhz = (s.die s.ev.id).mhz - 100 ∧
    (∀ x, x < 1024 → (t.tile x).clockEvents = (s.tile x).clockEvents + (if dieOfTile x = s.ev.id then 1 else 0)) ∧ t.ctxs = s.ctxs ∧ t.glob = s.glob) ∧
  (∀ (s : State), s.ev.id < 4 → ((s.die s.ev.id).mhz < 600 ∨ s.ev.w0.toNat ≤ s.tempLimit) → exec .dieClockStep s = .next s) ∧
  (∀ (s : State) till, till = s.tbase + s.ev.w0.toNat → (s.part s.ev.id).present = true → s.ev.picks ≠ [] →
    (∀ x, x ∈ s.ev.picks → x < 1024 ∧ ∀ p e, (s.tile x).leased = some (p, e) → p = s.ev.id ∨ e ≤ s.tbase) →
    ∃ t : State, exec .profilingLease s = .next t ∧ (t.part s.ev.id).leases = (s.part s.ev.id).leases ++ [(s.ev.picks, till)] ∧
      ∀ x, x ∈ s.ev.picks → ((∀ e, (s.tile x).leased ≠ some (s.ev.id, e)) → (t.tile x).leased = some (s.ev.id, till)) ∧
        (∀ e, (s.tile x).leased = some (s.ev.id, e) → (t.tile x).leased = some (s.ev.id, max e till)) ∧ ∀ p, p ≠ s.ev.id → 0 < s.ev.w0.toNat → t.leasedOut x p = true) ∧
  (∀ (s : State) x p e, (s.part s.ev.id).present = true → x ∈ s.ev.picks → (s.tile x).leased = some (p, e) → p ≠ s.ev.id → s.tbase < e → exec .profilingLease s = .next s) ∧
  (∀ (s : State), ∃ t : State, exec .profilingLeaseExpiry s = .next t ∧ (t.part s.ev.id).leases = (s.part s.ev.id).leases.filter (fun l => decide (s.tbase < l.2)) ∧
    ∀ x e, (s.tile x).leased = some (s.ev.id, e) → (e ≤ s.tbase → (t.tile x).leased = none) ∧ (s.tbase < e → (t.tile x).leased = some (s.ev.id, e)))

namespace Sys2Proof.Stated

/-- The partitions of an image: 1 to 16, each with a root that R363 admits and a queue-window base that R461 admits. -/
@[reducible] def PartsFit (i : Image) : Prop :=
  1 ≤ i.parts.length ∧ i.parts.length ≤ 16 ∧ ∀ p, p ∈ i.parts → p.root % 2048 = 0 ∧ p.qbase % 2 ^ 21 = 0 ∧ 2 ^ 21 ≤ p.qbase ∧ p.qbase ≤ 2 ^ 56 - 2 ^ 21

end Sys2Proof.Stated

/-- R4, R278, R318, R363, R407-R409, R451-R458, R461: BOOT with each of its failures, attestation, the resident kernel's answers, and firmware's register writes. The order of a
boot's checks where several fail, that an image whose partitions break R363 or R461 has a bad format, and the layout of a report, are the model's (notes/assumptions/92.md);
so is that an image says whether its signatures verify, and PRESUMED that SHA-384 and ECDSA are as their standards say (notes/assumptions/130.md). -/
def Obligations.ManagementEvents : Prop :=
  (∀ (s : State) (i : Image), i = s.ev.image →
    (i.selfTest = true → i.fetched = true → i.format = true → Stated.PartsFit i → i.keysMatch s.rom = true → i.rsa = true → i.slhDsa = true →
      ∃ t : State, exec .boot s = .next t ∧ t.hostSide.ready = true ∧ t.hostSide.stage = 4#8 ∧ t.hostSide.err = 0#8 ∧ t.hostSide.version = i.version ∧ t.hostSide.imageDigest = i.digest ∧
        t.kernels = [] ∧ t.ctxs = [] ∧ t.tiles = [] ∧ t.clocks = [] ∧ t.flits = [] ∧ t.routes = i.routes ∧ (∀ n (c : PartCfg), i.parts[n]? = some c → (t.part n).present = true ∧ (t.part n).root = c.root ∧
          (t.part n).quota = c.quota ∧ (t.part n).qbase = c.qbase ∧ (t.part n).gang = .running ∧
          ∀ d, d < 4 → mgetD 0 d (t.part n).l2Quota = c.l2Quota.getD d 0 ∧ mgetD 0 d (t.part n).rdcQuota = c.rdcQuota.getD d 0) ∧ (∀ n, i.parts.length ≤ n → (t.part n).present = false)) ∧
    (∀ code, (i.selfTest = false ∧ code = 6#8 ∨ i.selfTest = true ∧ i.fetched = false ∧ code = 1#8 ∨ i.selfTest = true ∧ i.fetched = true ∧ i.format = false ∧ code = 5#8 ∨
        i.selfTest = true ∧ i.fetched = true ∧ (i.format = true ∧ ¬Stated.PartsFit i ∧ code = 5#8) ∨ i.selfTest = true ∧ i.fetched = true ∧ i.format = true ∧ Stated.PartsFit i ∧
          (i.keysMatch s.rom = false ∧ code = 4#8 ∨ i.keysMatch s.rom = true ∧ i.rsa = false ∧ code = 2#8 ∨ i.keysMatch s.rom = true ∧ i.rsa = true ∧ i.slhDsa = false ∧ code = 3#8)) →
      ∃ t : State, exec .boot s = .next t ∧ t.hostSide.ready = false ∧ t.hostSide.stage = 5#8 ∧ t.hostSide.err = code ∧ t.kernels = [] ∧ t.ctxs = [])) ∧
  (∀ (s : State), s.hostSide.ready = true → s.ev.bytes.length = 32 → ∃ (t : State) (r : List Byte), exec .attestationRequest s = .next t ∧ t.hostSide.reports = s.hostSide.reports ++ [r] ∧
    r.take 32 = s.ev.bytes ∧ (r.drop 32).take 48 = beBytes 48 s.hostSide.imageDigest.toNat ∧ (r.drop 80).take 2 = leBytes 2 s.hostSide.version.toNat ∧ t.ctxs = s.ctxs ∧
    ∃ (k : Nat) (body : List Byte), r = body ++ ecdsaSign identityKey k body ∧ body.drop 82 = sha384Bytes s.partTable) ∧
  (∀ (s : State) (r : ResMsg), s.resident[s.ev.idx]? = some r → s.gangRuns r.part = true →
    (∀ (id : Nat) (c : Ctx) h, r.ctx = some id → r.notice = false → s.ctx? id = some c → c.held = some h → ∃ t : State, exec .residentKernelRequest s = .next t ∧ t.resident = s.resident.eraseIdx s.ev.idx ∧
      t.ctx? id = some { c with held := some { h with answered := true, ans := s.ev.fw } }) ∧
    (r.ctx = none → (r.notice = true ∨ bits r.item.p3 0 4 = 15) → exec .residentKernelRequest s = .next { s with resident := s.resident.eraseIdx s.ev.idx }) ∧
    (r.ctx = none → r.notice = false → bits r.item.p3 0 4 ≠ 15 → (s.lcore (lcKey 63 0 0)).retx.length < 64 → ∃ (t : State) (f : Flit), exec .residentKernelRequest s = .next t ∧
      t.flits = s.flits ++ [f] ∧ f.dev = srcDev r.item.src ∧ f.kid = srcKid r.item.src ∧ f.lt = srcLt r.item.src ∧ f.core = srcCore r.item.src ∧ f.chan = bits r.item.p3 0 4 ∧
      f.kind = 0 ∧ srcKid f.src = 63) ∧
    (∀ (id : Nat) (c : Ctx), r.ctx = some id → r.notice = true → s.ctx? id = some c → c.run = .trapped → c.trapHandle = r.item.p3 → s.ev.fw.accept = true → s.ev.fw.value.toNat % 4 = 0 → s.ev.fw.value ≠ 0#64 →
      ∃ t : State, exec .residentKernelRequest s = .next t ∧ t.ctx? id = some { c with run := .ready, pc := s.ev.fw.value, trapWaits := false, trapHandle := 0#64 })) ∧
  (∀ (s : State), s.hostSide.ready = true →
    (∀ d, s.ev.fwreg = .borderConfig d → d < 4 → ∃ t : State, exec .registerWrite s = .next t ∧ (t.die d).en = s.ev.w0.getLsbD 63 ∧ (t.die d).lvt = s.ev.w0.extractLsb' 40 10 ∧
      (t.die d).h = (if s.ev.w0.extractLsb' 24 16 = 0#16 then 1#16 else s.ev.w0.extractLsb' 24 16) ∧ (t.die d).ws = s.ev.w0.extractLsb' 16 8 ∧ (t.die d).ww = s.ev.w0.extractLsb' 8 8 ∧
      (t.die d).wr = s.ev.w0.extractLsb' 0 8 ∧ (t.die d).pages = (s.die d).pages) ∧
    (s.ev.fwreg = .phaseLength → ∃ t : State, exec .registerWrite s = .next t ∧ t.phaseLen = min 10000 (max 10 (s.ev.w0.toNat % 2 ^ 32))) ∧
    (∀ kid k, s.ev.fwreg = .claim kid → s.kernel? kid = some k → ∃ t : State, exec .registerWrite s = .next t ∧ t.kernel? kid = some { k with claim := s.ev.w0.toNat % 65536 }) ∧
    (∀ j i w, s.ev.fwreg = .winErr j i → j < 12 → (s.ctrl j).wins.toList[i]? = some w → ∃ (t : State) (w' : FmtWin), exec .registerWrite s = .next t ∧ (t.ctrl j).wins.toList[i]? = some w' ∧
      w'.err = w.err &&& ~~~(s.ev.w0.extractLsb' 0 3) ∧ w'.ctl = w.ctl) ∧
    (∀ p, s.ev.fwreg = .qbase p → (s.part p).present = true → s.ev.w0.toNat % 2 ^ 21 = 0 → 2 ^ 21 ≤ s.ev.w0.toNat → s.ev.w0.toNat ≤ 2 ^ 56 - 2 ^ 21 → (∀ e, e ∈ s.kernels → e.2.part ≠ p) →
      ∃ t : State, exec .registerWrite s = .next t ∧ t.part p = { s.part p with qbase := s.ev.w0.toNat }) ∧
    (∀ p, s.ev.fwreg = .root p → (s.part p).present = true → s.ev.w0.toNat % 2048 = 0 → ∃ t : State, exec .registerWrite s = .next t ∧ t.part p = { s.part p with root := s.ev.w0.toNat }) ∧
    (∀ p, s.ev.fwreg = .debugAgent p → (s.part p).present = true → ∃ t : State, exec .registerWrite s = .next t ∧ t.part p = { s.part p with debugAgent := s.ev.w0.getLsbD 0 }) ∧
    (∀ d, s.ev.fwreg = .route d → d < 64 → ∃ t : State, exec .registerWrite s = .next t ∧ mget d t.routes = some (s.ev.w0.setWidth 16))) ∧
  (∀ (s : State), s.hostSide.ready = false → exec .registerWrite s = .next s ∧ (s.ev.bytes.length = 32 → exec .attestationRequest s = .next s))

/-! ## Reset, decoding and the step -/

/-- R4, R96, R165, R276, R317, R453: what the module is right after reset: no kernel, no strand and no flit, every tile FREE and unowned, no partition, no group, the status
register at zero and not READY, every logical clock at 0, and memory that lists nothing (that an unlisted byte reads as zero is the model's choice, notes/assumptions/5.md);
and the invariants of CurrentStrandMayIssue and MemoriesStayCanonical hold. -/
def Obligations.ResetState : Prop :=
  State.reset.kernels = [] ∧ State.reset.ctxs = [] ∧ State.reset.flits = [] ∧ State.reset.arrivals = [] ∧ State.reset.groups = [] ∧ State.reset.tbase = 0 ∧ State.reset.cur = none ∧
  (∀ x, (State.reset.tile x).ts = .free ∧ (State.reset.tile x).owner = 63#6) ∧ (∀ p, (State.reset.part p).present = false) ∧ (∀ n, (State.reset.clock n).t = 0#48 ∧ (State.reset.clock n).stopped = false) ∧
  State.reset.hostSide.status = 0#64 ∧ (∀ a, memGet State.reset.glob a = 0#8) ∧ Safety.memoriesWf State.reset = true ∧
  (∀ off, 0x100 ≤ off → State.reset.bar0 off = some (BitVec.allOnes 64)) ∧ Safety.curIssues State.reset = true

/-- R46, R60, R65, R102: a strand's turn runs the instruction whose words stand at its PC: the step is `exec` of it in a state in which that strand issues, and after it the counts of issues and completions and the choice whether the strand stays the current one. A word that decodes to nothing runs as an illegal word, and a
held instruction runs in place of a fetch; after every step partition memory holds what the module keeps there (notes/assumptions/131.md). The word fetched is the one that memory holds at the PC's physical address. What moves next comes from the schedule, which is the model's
(notes/assumptions/1.md). -/
def Obligations.StepRunsDecoded : Prop :=
  (∀ (s s0 s1 : State) (id : Nat), s.sched = [] → s.cur = some id → s0 = s.passTime 1 → s0.issues id = true →
    s1 = { ({ s0 with ev := {} } : State).upd id (fun c => { c with run := .running }) with cur := some id } →
    (∀ h, (s1.ctxD id).held = some h → step s = onNext (exec h.instr s1) fun t => (State.countIssue s0 t id).settle.writeBack) ∧
    (∀ (s2 : State) ws i, (s1.ctxD id).held = none → s1.fetch .next id runWords = runWords s2 ws → decode ws = .ok i →
      step s = onNext (exec i s2) fun t => (State.countIssue s0 t id).settle.writeBack) ∧
    (∀ (s2 : State) ws r, (s1.ctxD id).held = none → s1.fetch .next id runWords = runWords s2 ws → decode ws = .error r →
      step s = onNext (exec .illegalWord { s2 with ev := { s2.ev with w0 := ws.w0.setWidth 64 } }) fun t => (State.countIssue s0 t id).settle.writeBack)) ∧
  (∀ (s : State) (id : Nat) (c : Ctx) pa dt s1, s.ctx? id = some c → c.shipped = none → c.pc.toNat % 4 = 0 → 2 ^ 20 ≤ c.pc.toNat → c.pc.toNat < 2 ^ 56 → s.ev.fetchErr = none →
    s.xlate (s.partOf c.kid) (s.xlUnit c) true (s.coreNo c) c.pc.toNat aFetch = (.ok pa dt, s1) → shipTarget c pa = none → pa % 4 = 0 → apertureCtrl pa = none → (∀ e, e ∈ c.oldWords → e.1 ≠ pa) →
    findLease (lineOf pa) (mgetD [] (s.coreNo c) s.copies) = none → findLease (lineOf pa) (mgetD [] (dieOfCore (s.coreNo c)) s.rdcs) = none → memLoad s.glob pa 4 % 4 = 0 →
    ∃ (s2 : State) (ws : Words) (st aq : BitVec 48), s.fetch .next id runWords = runWords s2 ws ∧ ws.w0 = BitVec.ofNat 32 (memLoad s.glob pa 4) ∧ s2.ctx? id = some { c with stamp := st, acq := aq } ∧
      s2.glob = s.glob ∧ s2.ltiles = s.ltiles ∧ s2.kernels = s.kernels ∧ s2.cur = s.cur) ∧
  (∀ (s : State) dt rest i args s1, s.sched = { dt := dt, who := .event i args } :: rest → encode i = [] → s1 = { ({ s with sched := rest } : State).passTime dt with ev := args } →
    step s = onNext (exec i s1) fun t => (State.countSteps s1 t).settle.writeBack) ∧
  (∀ (s : State) dt rest lc err i s1, s.sched = { dt := dt, who := .unit lc err } :: rest → s1 = { ({ s with sched := rest } : State).passTime dt with ev := { id := lc, flag := err } } →
    unitCommand s1 lc = some i → step s = onNext (exec i s1) fun t => (State.countSteps s1 t).settle.writeBack) ∧
  (∀ (s : State) (id : Nat), s.sched = [] → s.cur = some id → (s.passTime 1).issues id = false → step s = .next ({ s.passTime 1 with cur := none } : State).writeBack) ∧
  (∀ (s : State), s.sched = [] → s.cur = none → step s = .next (s.passTime 1).writeBack ∧ (s.passTime 1).writeBack.tbase = s.tbase + 1)

/-- R102: a strand that issues next is READY or is stepped, and nothing lies over it: in every state in which the current strand may issue, a step leaves a state of which the same
holds. -/
def Obligations.CurrentStrandMayIssue : Prop :=
  ∀ s t : State, Safety.curIssues s = true → step s = .next t → Safety.curIssues t = true

/-- The model's form of memory: in every state whose memories, the scratchpads that cuts have recorded among them, list addresses that strictly rise and no zero byte, every step
leaves such a state. -/
def Obligations.MemoriesStayCanonical : Prop :=
  ∀ s t : State, Safety.memoriesWf s = true → step s = .next t → Safety.memoriesWf t = true

/-- R3, R45, R49-R64: the bytes of every well-formed instruction, followed by any others, decode to that instruction, with every operand at every value that its encoding admits. -/
def Obligations.DecodeEncode : Prop :=
  ∀ (i : Instr) (bs : List Byte), WellFormed i = true → encode i ≠ [] → decode (Words.ofBytes (encodeBytes i ++ bs)) = .ok i

/-- R45, R49-R56, R65: the spec's worked encodings, by their bytes, and two words that are refused: a reserved B of CLZ, and OP 0. -/
def Obligations.WorkedEncodings : Prop :=
  decode (Words.ofBytes [0x08#8, 0x69#8, 0x04#8, 0x00#8]) = .ok (.addi 9#5 3#5 1#14) ∧
  decode (Words.ofBytes [0x64#8, 0x43#8, 0x24#8, 0x00#8]) = .ok (.st 2#5 9#5 0#10 false .d) ∧
  decode (Words.ofBytes [0x64#8, 0x53#8, 0x24#8, 0x00#8]) = .ok (.st 2#5 9#5 1#10 false .d) ∧
  decode (Words.ofBytes [0x05#8, 0x69#8, 0x00#8, 0x00#8, 0x00#8, 0x00#8, 0x00#8, 0x00#8, 0x01#8, 0x00#8, 0x00#8, 0x00#8]) = .ok (.addL 9#5 3#5 0x100000000#64) ∧
  decode (Words.ofBytes [0x80#8, 0xA4#8, 0x98#8, 0x1C#8]) = .ok (.fadd 4#5 5#5 6#5 .dyn .bf16) ∧
  decode (Words.ofBytes [0xA0#8, 0x64#8, 0x40#8, 0x30#8]) = .ok (.fmulImm 4#5 .e4m3 0x3040#16) ∧
  decode (Words.ofBytes [0x40#8, 0x7E#8, 0x90#8, 0xFF#8]) = .ok (.beq 3#5 4#5 0x3FFE#14) ∧
  decode (Words.ofBytes [0x04#8, 0x69#8, 0x40#8, 0x00#8]) = .ok (.add 9#5 3#5 16#5) ∧
  (∀ i, decode (Words.ofBytes [0x04#8, 0x69#8, 0x40#8, 0x10#8]) ≠ .ok i) ∧ (∀ i, decode (Words.ofBytes [0x00#8, 0x00#8, 0x00#8, 0x00#8]) ≠ .ok i)
end

