-- ==== Sys2Proof/Laws/Fields.lean ====
section
/-! SUPPORT. What the fields of an encoded word read as (R49). -/

namespace Sys2Proof.Laws

open Sys2Proof

set_option linter.unusedSimpArgs false

/-- Bits above the low part of an append come from its high part. -/
theorem extract_append_hi {m n : Nat} (x : BitVec n) (y : BitVec m) (s k : Nat) (h : m ≤ s) :
    (x ++ y).extractLsb' s k = x.extractLsb' (s - m) k := by
  apply BitVec.eq_of_getLsbD_eq
  intro i hi
  simp only [BitVec.getLsbD_extractLsb', BitVec.getLsbD_append]
  rw [if_neg (by omega), show s - m + i = s + i - m by omega]
/-- Bits inside the low part of an append come from it. -/
theorem extract_append_lo {m n : Nat} (x : BitVec n) (y : BitVec m) (s k : Nat) (h : s + k ≤ m) :
    (x ++ y).extractLsb' s k = y.extractLsb' s k := by
  apply BitVec.eq_of_getLsbD_eq
  intro i hi
  simp only [BitVec.getLsbD_extractLsb', BitVec.getLsbD_append]
  rw [if_pos (by omega)]
theorem extract_self {n : Nat} (x : BitVec n) : x.extractLsb' 0 n = x := by
  apply BitVec.eq_of_getLsbD_eq
  intro i hi
  simp [hi]
/-- Two neighbouring parts of a word, joined. -/
theorem extract_join {n : Nat} (x : BitVec n) (k j : Nat) (h : n = k + j) :
    (x.extractLsb' j k ++ x.extractLsb' 0 j).toNat = x.toNat := by
  subst h
  have e : x.extractLsb' j k ++ x.extractLsb' 0 j = x := by
    apply BitVec.eq_of_getLsbD_eq
    intro i hi
    simp only [BitVec.getLsbD_append, BitVec.getLsbD_extractLsb']
    by_cases h : i < j
    · simp [h]
    · have h1 : i - j < k := by omega
      have h2 : j + (i - j) = i := by omega
      simp [h, h1, h2]
  rw [e]

@[simp] theorem fLen_mkR (fn : BitVec 9) (b : BitVec 5) (a : BitVec 5) (d : BitVec 5) (op : BitVec 6) (len : BitVec 2) : fLen (mkR fn b a d op len) = len := by
  unfold fLen mkR; simp (disch := decide) only [extract_append_hi, extract_append_lo, Nat.reduceSub, extract_self]
@[simp] theorem fOp_mkR (fn : BitVec 9) (b : BitVec 5) (a : BitVec 5) (d : BitVec 5) (op : BitVec 6) (len : BitVec 2) : fOp (mkR fn b a d op len) = op := by
  unfold fOp mkR; simp (disch := decide) only [extract_append_hi, extract_append_lo, Nat.reduceSub, extract_self]
@[simp] theorem fD_mkR (fn : BitVec 9) (b : BitVec 5) (a : BitVec 5) (d : BitVec 5) (op : BitVec 6) (len : BitVec 2) : fD (mkR fn b a d op len) = d := by
  unfold fD mkR; simp (disch := decide) only [extract_append_hi, extract_append_lo, Nat.reduceSub, extract_self]
@[simp] theorem fA_mkR (fn : BitVec 9) (b : BitVec 5) (a : BitVec 5) (d : BitVec 5) (op : BitVec 6) (len : BitVec 2) : fA (mkR fn b a d op len) = a := by
  unfold fA mkR; simp (disch := decide) only [extract_append_hi, extract_append_lo, Nat.reduceSub, extract_self]
@[simp] theorem fB_mkR (fn : BitVec 9) (b : BitVec 5) (a : BitVec 5) (d : BitVec 5) (op : BitVec 6) (len : BitVec 2) : fB (mkR fn b a d op len) = b := by
  unfold fB mkR; simp (disch := decide) only [extract_append_hi, extract_append_lo, Nat.reduceSub, extract_self]
@[simp] theorem fFn_mkR (fn : BitVec 9) (b : BitVec 5) (a : BitVec 5) (d : BitVec 5) (op : BitVec 6) (len : BitVec 2) : fFn (mkR fn b a d op len) = fn := by
  unfold fFn mkR; simp (disch := decide) only [extract_append_hi, extract_append_lo, Nat.reduceSub, extract_self]
@[simp] theorem fLen_mkI (imm : BitVec 14) (a : BitVec 5) (d : BitVec 5) (op : BitVec 6) (len : BitVec 2) : fLen (mkI imm a d op len) = len := by
  unfold fLen mkI; simp (disch := decide) only [extract_append_hi, extract_append_lo, Nat.reduceSub, extract_self]
@[simp] theorem fOp_mkI (imm : BitVec 14) (a : BitVec 5) (d : BitVec 5) (op : BitVec 6) (len : BitVec 2) : fOp (mkI imm a d op len) = op := by
  unfold fOp mkI; simp (disch := decide) only [extract_append_hi, extract_append_lo, Nat.reduceSub, extract_self]
@[simp] theorem fD_mkI (imm : BitVec 14) (a : BitVec 5) (d : BitVec 5) (op : BitVec 6) (len : BitVec 2) : fD (mkI imm a d op len) = d := by
  unfold fD mkI; simp (disch := decide) only [extract_append_hi, extract_append_lo, Nat.reduceSub, extract_self]
@[simp] theorem fA_mkI (imm : BitVec 14) (a : BitVec 5) (d : BitVec 5) (op : BitVec 6) (len : BitVec 2) : fA (mkI imm a d op len) = a := by
  unfold fA mkI; simp (disch := decide) only [extract_append_hi, extract_append_lo, Nat.reduceSub, extract_self]
@[simp] theorem fImm14_mkI (imm : BitVec 14) (a : BitVec 5) (d : BitVec 5) (op : BitVec 6) (len : BitVec 2) : fImm14 (mkI imm a d op len) = imm := by
  unfold fImm14 mkI; simp (disch := decide) only [extract_append_hi, extract_append_lo, Nat.reduceSub, extract_self]
@[simp] theorem fLen_mkJ (imm : BitVec 19) (d : BitVec 5) (op : BitVec 6) (len : BitVec 2) : fLen (mkJ imm d op len) = len := by
  unfold fLen mkJ; simp (disch := decide) only [extract_append_hi, extract_append_lo, Nat.reduceSub, extract_self]
@[simp] theorem fOp_mkJ (imm : BitVec 19) (d : BitVec 5) (op : BitVec 6) (len : BitVec 2) : fOp (mkJ imm d op len) = op := by
  unfold fOp mkJ; simp (disch := decide) only [extract_append_hi, extract_append_lo, Nat.reduceSub, extract_self]
@[simp] theorem fD_mkJ (imm : BitVec 19) (d : BitVec 5) (op : BitVec 6) (len : BitVec 2) : fD (mkJ imm d op len) = d := by
  unfold fD mkJ; simp (disch := decide) only [extract_append_hi, extract_append_lo, Nat.reduceSub, extract_self]
@[simp] theorem fImm19_mkJ (imm : BitVec 19) (d : BitVec 5) (op : BitVec 6) (len : BitVec 2) : fImm19 (mkJ imm d op len) = imm := by
  unfold fImm19 mkJ; simp (disch := decide) only [extract_append_hi, extract_append_lo, Nat.reduceSub, extract_self]
@[simp] theorem fLen_mkH (imm : BitVec 16) (et : BitVec 3) (d : BitVec 5) (op : BitVec 6) (len : BitVec 2) : fLen (mkH imm et d op len) = len := by
  unfold fLen mkH; simp (disch := decide) only [extract_append_hi, extract_append_lo, Nat.reduceSub, extract_self]
@[simp] theorem fOp_mkH (imm : BitVec 16) (et : BitVec 3) (d : BitVec 5) (op : BitVec 6) (len : BitVec 2) : fOp (mkH imm et d op len) = op := by
  unfold fOp mkH; simp (disch := decide) only [extract_append_hi, extract_append_lo, Nat.reduceSub, extract_self]
@[simp] theorem fD_mkH (imm : BitVec 16) (et : BitVec 3) (d : BitVec 5) (op : BitVec 6) (len : BitVec 2) : fD (mkH imm et d op len) = d := by
  unfold fD mkH; simp (disch := decide) only [extract_append_hi, extract_append_lo, Nat.reduceSub, extract_self]
@[simp] theorem fImm16_mkH (imm : BitVec 16) (et : BitVec 3) (d : BitVec 5) (op : BitVec 6) (len : BitVec 2) : fImm16 (mkH imm et d op len) = imm := by
  unfold fImm16 mkH; simp (disch := decide) only [extract_append_hi, extract_append_lo, Nat.reduceSub, extract_self]
@[simp] theorem fEtH_mkH (imm : BitVec 16) (et : BitVec 3) (d : BitVec 5) (op : BitVec 6) (len : BitVec 2) : fEtH (mkH imm et d op len) = et := by
  unfold fEtH mkH; simp (disch := decide) only [extract_append_hi, extract_append_lo, Nat.reduceSub, extract_self]
@[simp] theorem fLen_mkRaw (top : BitVec 24) (op : BitVec 6) (len : BitVec 2) : fLen (mkRaw top op len) = len := by
  unfold fLen mkRaw; simp (disch := decide) only [extract_append_hi, extract_append_lo, Nat.reduceSub, extract_self]
@[simp] theorem fOp_mkRaw (top : BitVec 24) (op : BitVec 6) (len : BitVec 2) : fOp (mkRaw top op len) = op := by
  unfold fOp mkRaw; simp (disch := decide) only [extract_append_hi, extract_append_lo, Nat.reduceSub, extract_self]
@[simp] theorem fLen_mkS (imm : BitVec 14) (b a : BitVec 5) (op : BitVec 6) (len : BitVec 2) : fLen (mkS imm b a op len) = len := by
  unfold fLen mkS; simp (disch := decide) only [extract_append_lo, extract_self]
@[simp] theorem fOp_mkS (imm : BitVec 14) (b a : BitVec 5) (op : BitVec 6) (len : BitVec 2) : fOp (mkS imm b a op len) = op := by
  unfold fOp mkS; simp (disch := decide) only [extract_append_hi, extract_append_lo, Nat.reduceSub, extract_self]
@[simp] theorem fA_mkS (imm : BitVec 14) (b a : BitVec 5) (op : BitVec 6) (len : BitVec 2) : fA (mkS imm b a op len) = a := by
  unfold fA mkS; simp (disch := decide) only [extract_append_hi, extract_append_lo, Nat.reduceSub, extract_self]
@[simp] theorem fB_mkS (imm : BitVec 14) (b a : BitVec 5) (op : BitVec 6) (len : BitVec 2) : fB (mkS imm b a op len) = b := by
  unfold fB mkS; simp (disch := decide) only [extract_append_hi, extract_append_lo, Nat.reduceSub, extract_self]
@[simp] theorem fImm14S_mkS (imm : BitVec 14) (b a : BitVec 5) (op : BitVec 6) (len : BitVec 2) : fImm14S (mkS imm b a op len) = imm := by
  unfold fImm14S mkS; simp (disch := decide) only [extract_append_hi, extract_append_lo, Nat.reduceSub, extract_self]
  exact BitVec.eq_of_toNat_eq (extract_join imm 9 5 rfl)
/-- The literal of a short form with literal is read back (R45). -/
theorem lit_join (lit : Word) : lit.extractLsb' 32 32 ++ lit.extractLsb' 0 32 = lit :=
  BitVec.eq_of_toNat_eq (extract_join lit 32 32 rfl)

/-- The parts of a memory immediate (R51). -/
@[simp] theorem memImm_sz (off : BitVec 10) (ef : Bool) (sz : Sz) : (memImm off ef sz).extractLsb' 0 3 = szCode sz := by
  unfold memImm; simp (disch := decide) only [extract_append_lo, extract_self]
@[simp] theorem memImm_off (off : BitVec 10) (ef : Bool) (sz : Sz) : (memImm off ef sz).extractLsb' 4 10 = off := by
  unfold memImm; simp (disch := decide) only [extract_append_hi, Nat.reduceSub, extract_self]
@[simp] theorem memImm_ef (off : BitVec 10) (ef : Bool) (sz : Sz) : (memImm off ef sz).getLsbD 3 = ef := by
  unfold memImm
  rw [BitVec.getLsbD_append, if_neg (by decide), BitVec.getLsbD_append, if_pos (by decide)]
  cases ef <;> rfl

@[simp] theorem memImm_ef' (off : BitVec 10) (ef : Bool) (sz : Sz) : (memImm off ef sz)[3] = ef := memImm_ef off ef sz
/-- A queue register number in a five-bit field (R56). -/
theorem q5_lt (q : BitVec 3) : (q.setWidth 5).toNat < 8 := by simp only [BitVec.toNat_setWidth]; omega
theorem q5_back (q : BitVec 3) : (q.setWidth 5).setWidth 3 = q := by
  apply BitVec.eq_of_toNat_eq; simp
/-- A one-bit operand is read back (R59). -/
theorem bit0_get (v : Bool) : (bit0 v).getLsbD 0 = v := by cases v <;> rfl
theorem bit0_get' (v : Bool) : (bit0 v)[0] = v := by cases v <;> rfl
theorem bit0_high (v : Bool) : (bit0 v).extractLsb' 1 4 = 0#4 := by cases v <;> rfl
/-- The parts of major 0x1C's function code (R59). -/
@[simp] theorem fnEfOpxSz_sz (ef : Bool) (o : BitVec 5) (z : BitVec 3) : (fnEfOpxSz ef o z).extractLsb' 0 3 = z := by
  unfold fnEfOpxSz; simp (disch := decide) only [extract_append_lo, extract_self]
@[simp] theorem fnEfOpxSz_opx (ef : Bool) (o : BitVec 5) (z : BitVec 3) : (fnEfOpxSz ef o z).extractLsb' 3 5 = o := by
  unfold fnEfOpxSz; simp (disch := decide) only [extract_append_hi, extract_append_lo, Nat.reduceSub, extract_self]
@[simp] theorem fnEfOpxSz_ef (ef : Bool) (o : BitVec 5) (z : BitVec 3) : (fnEfOpxSz ef o z).getLsbD 8 = ef := by
  unfold fnEfOpxSz
  rw [BitVec.getLsbD_append, if_neg (by decide), BitVec.getLsbD_append, if_neg (by decide)]
  cases ef <;> rfl
/-- A part of a part. -/
theorem extract_extract {n : Nat} (x : BitVec n) (s k a b : Nat) (h : a + b ≤ k) : (x.extractLsb' s k).extractLsb' a b = x.extractLsb' (s + a) b := by
  apply BitVec.eq_of_getLsbD_eq
  intro i hi
  simp only [BitVec.getLsbD_extractLsb']
  have h1 : a + i < k := by omega
  simp [h1, Nat.add_assoc]
/-- The fields of the hint space (R64). -/
theorem hint_fn (top : BitVec 24) (op : BitVec 6) (len : BitVec 2) : (fFn (mkRaw top op len)).extractLsb' 6 3 = top.extractLsb' 21 3 := by
  unfold fFn mkRaw
  rw [extract_extract _ _ _ _ _ (by decide), extract_append_hi _ _ _ _ (by decide), extract_append_hi _ _ _ _ (by decide)]
theorem hint_raw (top : BitVec 24) (op : BitVec 6) (len : BitVec 2) : (mkRaw top op len).extractLsb' 8 21 = top.extractLsb' 0 21 := by
  unfold mkRaw
  rw [extract_append_hi _ _ _ _ (by decide), extract_append_hi _ _ _ _ (by decide)]
/-- Word 1 of the extended forms (R60). -/
theorem x_scfg : ∀ (dir : Bool) (ndim : BitVec 2), let w := mkX (0#19 ++ BitVec.ofBool dir ++ ndim) 0#5 0#5
    xfOnly w 3 = true ∧ w.getLsbD 12 = dir ∧ w.extractLsb' 10 2 = ndim := by decide
theorem x_winset : ∀ win : BitVec 3, let w := mkX (0#19 ++ win) 0#5 0#5
    xfOnly w 3 = true ∧ w.extractLsb' 10 3 = win := by decide
theorem x_sendt : ∀ c : BitVec 5, let w := mkX 0#22 0#5 c
    w.extractLsb' 5 27 = 0#27 ∧ w.extractLsb' 0 5 = c := by decide
theorem x_mxgang : ∀ (dis : Bool) (cm1 : BitVec 4) (rm1 : BitVec 3), let w := mkX (0#14 ++ BitVec.ofBool dis ++ cm1 ++ rm1) 0#5 0#5
    xfOnly w 8 = true ∧ w.getLsbD 17 = dis ∧ w.extractLsb' 13 4 = cm1 ∧ w.extractLsb' 10 3 = rm1 := by decide
/-- The operand limits hold of a well-formed instruction. -/
theorem needWf_of {i : Instr} (h : WellFormed i = true) : needWf i = .ok i := by unfold needWf; rw [if_pos h]

/-! ## Codes (R53) -/

@[simp] theorem szOf_szCode (z : Sz) : szOf (szCode z) = some z := by cases z <;> rfl
@[simp] theorem etOf_etCode (e : ET) : etOf (etCode e) = some e := by cases e <;> rfl
@[simp] theorem itOf_itCode (e : IT) : itOf (itCode e) = some e := by cases e <;> rfl
@[simp] theorem dtOf_dtCode (e : DT) : dtOf (dtCode e) = some e := by cases e <;> rfl
@[simp] theorem rmOf_rmCode (e : RM) : rmOf (rmCode e) = some e := by cases e <;> rfl
@[simp] theorem pathOf_pathCode (e : Path) : pathOf (pathCode e) = some e := by cases e <;> rfl

end Sys2Proof.Laws
end

