-- ==== Sys2Proof/Laws/Majors.lean ====
section
/-! SUPPORT. What the decoder does for each major opcode (R57). -/

namespace Sys2Proof.Laws

open Sys2Proof

set_option Elab.async false

theorem decode_01 (w : Words) (h : fOp w.w0 = 0x01#6) : decode w = (decInt w) := by
  unfold decode; simp only [h]; rfl
theorem decode_0b (w : Words) (h : fOp w.w0 = 0x0b#6) : decode w = (if fLen w.w0 = 0#2 then .ok (.lim (fD w.w0) (fImm19 w.w0)) else if fLen w.w0 = 1#2 then (if fImm19 w.w0 = 0#19 then .ok (.limL (fD w.w0) (lit01 w)) else .error .displacedField) else .error .lenMismatch) := by
  unfold decode; simp only [h]; rfl
theorem decode_0c (w : Words) (h : fOp w.w0 = 0x0c#6) : decode w = (shortOnly w.w0 (.ok (.addpc (fD w.w0) (fImm19 w.w0)))) := by
  unfold decode; simp only [h]; rfl
theorem decode_16 (w : Words) (h : fOp w.w0 = 0x16#6) : decode w = (shortOnly w.w0 (.ok (.jal (fD w.w0) (fImm19 w.w0)))) := by
  unfold decode; simp only [h]; rfl
theorem decode_17 (w : Words) (h : fOp w.w0 = 0x17#6) : decode w = (shortOnly w.w0 <| if fFn w.w0 = 1#9 then needZero (fD w.w0 = 0#5) (needWf (.rep (fA w.w0) (fB w.w0))) else plain17 w.w0) := by
  unfold decode; simp only [h]; rfl
theorem decode_18 (w : Words) (h : fOp w.w0 = 0x18#6) : decode w = (decMem w) := by
  unfold decode; simp only [h]; rfl
theorem decode_19 (w : Words) (h : fOp w.w0 = 0x19#6) : decode w = (decMem w) := by
  unfold decode; simp only [h]; rfl
theorem decode_1a (w : Words) (h : fOp w.w0 = 0x1a#6) : decode w = (decMem w) := by
  unfold decode; simp only [h]; rfl
theorem decode_1b (w : Words) (h : fOp w.w0 = 0x1b#6) : decode w = (decMem w) := by
  unfold decode; simp only [h]; rfl
theorem decode_1c (w : Words) (h : fOp w.w0 = 0x1c#6) : decode w = (shortOnly w.w0 (dec1C w.w0)) := by
  unfold decode; simp only [h]; rfl
theorem decode_1d (w : Words) (h : fOp w.w0 = 0x1d#6) : decode w = (shortOnly w.w0 (dec1D w.w0)) := by
  unfold decode; simp only [h]; rfl
theorem decode_1e (w : Words) (h : fOp w.w0 = 0x1e#6) : decode w = (shortOnly w.w0 (dec1E w.w0)) := by
  unfold decode; simp only [h]; rfl
theorem decode_20 (w : Words) (h : fOp w.w0 = 0x20#6) : decode w = (shortOnly w.w0 (decArith w.w0)) := by
  unfold decode; simp only [h]; rfl
theorem decode_21 (w : Words) (h : fOp w.w0 = 0x21#6) : decode w = (shortOnly w.w0 (decArith w.w0)) := by
  unfold decode; simp only [h]; rfl
theorem decode_22 (w : Words) (h : fOp w.w0 = 0x22#6) : decode w = (shortOnly w.w0 (decLane w.w0)) := by
  unfold decode; simp only [h]; rfl
theorem decode_23 (w : Words) (h : fOp w.w0 = 0x23#6) : decode w = (shortOnly w.w0 (dec23 w.w0)) := by
  unfold decode; simp only [h]; rfl
theorem decode_24 (w : Words) (h : fOp w.w0 = 0x24#6) : decode w = (shortOnly w.w0 (decCvt w.w0)) := by
  unfold decode; simp only [h]; rfl
theorem decode_25 (w : Words) (h : fOp w.w0 = 0x25#6) : decode w = (shortOnly w.w0 (decCvt w.w0)) := by
  unfold decode; simp only [h]; rfl
theorem decode_26 (w : Words) (h : fOp w.w0 = 0x26#6) : decode w = (shortOnly w.w0 (decCvt w.w0)) := by
  unfold decode; simp only [h]; rfl
theorem decode_27 (w : Words) (h : fOp w.w0 = 0x27#6) : decode w = (shortOnly w.w0 (decH w.w0)) := by
  unfold decode; simp only [h]; rfl
theorem decode_28 (w : Words) (h : fOp w.w0 = 0x28#6) : decode w = (shortOnly w.w0 (decH w.w0)) := by
  unfold decode; simp only [h]; rfl
theorem decode_29 (w : Words) (h : fOp w.w0 = 0x29#6) : decode w = (shortOnly w.w0 (decH w.w0)) := by
  unfold decode; simp only [h]; rfl
theorem decode_2a (w : Words) (h : fOp w.w0 = 0x2a#6) : decode w = (shortOnly w.w0 (decSfu w.w0)) := by
  unfold decode; simp only [h]; rfl
theorem decode_2c (w : Words) (h : fOp w.w0 = 0x2c#6) : decode w = (dec2C w) := by
  unfold decode; simp only [h]; rfl
theorem decode_2d (w : Words) (h : fOp w.w0 = 0x2d#6) : decode w = (shortOnly w.w0 (plain2D w.w0)) := by
  unfold decode; simp only [h]; rfl
theorem decode_30 (w : Words) (h : fOp w.w0 = 0x30#6) : decode w = (dec30 w) := by
  unfold decode; simp only [h]; rfl
theorem decode_31 (w : Words) (h : fOp w.w0 = 0x31#6) : decode w = (shortOnly w.w0 (plain31 w.w0)) := by
  unfold decode; simp only [h]; rfl
theorem decode_34 (w : Words) (h : fOp w.w0 = 0x34#6) : decode w = (shortOnly w.w0 (plain34 w.w0)) := by
  unfold decode; simp only [h]; rfl
theorem decode_35 (w : Words) (h : fOp w.w0 = 0x35#6) : decode w = (shortOnly w.w0 (plain35 w.w0)) := by
  unfold decode; simp only [h]; rfl
theorem decode_36 (w : Words) (h : fOp w.w0 = 0x36#6) : decode w = (shortOnly w.w0 (plain36 w.w0)) := by
  unfold decode; simp only [h]; rfl
theorem decode_38 (w : Words) (h : fOp w.w0 = 0x38#6) : decode w = (dec38 w) := by
  unfold decode; simp only [h]; rfl
theorem decode_39 (w : Words) (h : fOp w.w0 = 0x39#6) : decode w = (dec39 w) := by
  unfold decode; simp only [h]; rfl
theorem decode_3a (w : Words) (h : fOp w.w0 = 0x3a#6) : decode w = (dec3A w) := by
  unfold decode; simp only [h]; rfl
theorem decode_3b (w : Words) (h : fOp w.w0 = 0x3b#6) : decode w = (dec3B w) := by
  unfold decode; simp only [h]; rfl
theorem decode_3c (w : Words) (h : fOp w.w0 = 0x3c#6) : decode w = (shortOnly w.w0 (plain3C w.w0)) := by
  unfold decode; simp only [h]; rfl
theorem decode_3d (w : Words) (h : fOp w.w0 = 0x3d#6) : decode w = (shortOnly w.w0 (dec3D w.w0)) := by
  unfold decode; simp only [h]; rfl
theorem decode_3e (w : Words) (h : fOp w.w0 = 0x3e#6) : decode w = (dec3E w) := by
  unfold decode; simp only [h]; rfl
theorem decode_02 (w : Words) (h : fOp w.w0 = 0x02#6) : decode w = (if fLen w.w0 = 0#2 then .ok (.addi (fD w.w0) (fA w.w0) (fImm14 w.w0)) else if fLen w.w0 = 1#2 then (if fImm14 w.w0 = 0#14 then .ok (.addiL (fD w.w0) (fA w.w0) (lit01 w)) else .error .displacedField) else .error .lenMismatch) := by
  unfold decode; simp only [h]; rfl
theorem decode_03 (w : Words) (h : fOp w.w0 = 0x03#6) : decode w = (if fLen w.w0 = 0#2 then .ok (.andi (fD w.w0) (fA w.w0) (fImm14 w.w0)) else if fLen w.w0 = 1#2 then (if fImm14 w.w0 = 0#14 then .ok (.andiL (fD w.w0) (fA w.w0) (lit01 w)) else .error .displacedField) else .error .lenMismatch) := by
  unfold decode; simp only [h]; rfl
theorem decode_04 (w : Words) (h : fOp w.w0 = 0x04#6) : decode w = (if fLen w.w0 = 0#2 then .ok (.ori (fD w.w0) (fA w.w0) (fImm14 w.w0)) else if fLen w.w0 = 1#2 then (if fImm14 w.w0 = 0#14 then .ok (.oriL (fD w.w0) (fA w.w0) (lit01 w)) else .error .displacedField) else .error .lenMismatch) := by
  unfold decode; simp only [h]; rfl
theorem decode_05 (w : Words) (h : fOp w.w0 = 0x05#6) : decode w = (if fLen w.w0 = 0#2 then .ok (.xori (fD w.w0) (fA w.w0) (fImm14 w.w0)) else if fLen w.w0 = 1#2 then (if fImm14 w.w0 = 0#14 then .ok (.xoriL (fD w.w0) (fA w.w0) (lit01 w)) else .error .displacedField) else .error .lenMismatch) := by
  unfold decode; simp only [h]; rfl
theorem decode_06 (w : Words) (h : fOp w.w0 = 0x06#6) : decode w = (if fLen w.w0 = 0#2 then .ok (.slti (fD w.w0) (fA w.w0) (fImm14 w.w0)) else if fLen w.w0 = 1#2 then (if fImm14 w.w0 = 0#14 then .ok (.sltiL (fD w.w0) (fA w.w0) (lit01 w)) else .error .displacedField) else .error .lenMismatch) := by
  unfold decode; simp only [h]; rfl
theorem decode_07 (w : Words) (h : fOp w.w0 = 0x07#6) : decode w = (if fLen w.w0 = 0#2 then .ok (.sltiu (fD w.w0) (fA w.w0) (fImm14 w.w0)) else if fLen w.w0 = 1#2 then (if fImm14 w.w0 = 0#14 then .ok (.sltiuL (fD w.w0) (fA w.w0) (lit01 w)) else .error .displacedField) else .error .lenMismatch) := by
  unfold decode; simp only [h]; rfl
theorem decode_08 (w : Words) (h : fOp w.w0 = 0x08#6) : decode w = shortOnly w.w0 (needWf (.shli (fD w.w0) (fA w.w0) (fImm14 w.w0))) := by
  unfold decode; simp only [h]; rfl
theorem decode_09 (w : Words) (h : fOp w.w0 = 0x09#6) : decode w = shortOnly w.w0 (needWf (.shri (fD w.w0) (fA w.w0) (fImm14 w.w0))) := by
  unfold decode; simp only [h]; rfl
theorem decode_0a (w : Words) (h : fOp w.w0 = 0x0a#6) : decode w = shortOnly w.w0 (needWf (.srai (fD w.w0) (fA w.w0) (fImm14 w.w0))) := by
  unfold decode; simp only [h]; rfl
theorem decode_10 (w : Words) (h : fOp w.w0 = 0x10#6) : decode w = shortOnly w.w0 (.ok (.beq (fA w.w0) (fB w.w0) (fImm14S w.w0))) := by
  unfold decode; simp only [h]; rfl
theorem decode_11 (w : Words) (h : fOp w.w0 = 0x11#6) : decode w = shortOnly w.w0 (.ok (.bne (fA w.w0) (fB w.w0) (fImm14S w.w0))) := by
  unfold decode; simp only [h]; rfl
theorem decode_12 (w : Words) (h : fOp w.w0 = 0x12#6) : decode w = shortOnly w.w0 (.ok (.blt (fA w.w0) (fB w.w0) (fImm14S w.w0))) := by
  unfold decode; simp only [h]; rfl
theorem decode_13 (w : Words) (h : fOp w.w0 = 0x13#6) : decode w = shortOnly w.w0 (.ok (.bge (fA w.w0) (fB w.w0) (fImm14S w.w0))) := by
  unfold decode; simp only [h]; rfl
theorem decode_14 (w : Words) (h : fOp w.w0 = 0x14#6) : decode w = shortOnly w.w0 (.ok (.bltu (fA w.w0) (fB w.w0) (fImm14S w.w0))) := by
  unfold decode; simp only [h]; rfl
theorem decode_15 (w : Words) (h : fOp w.w0 = 0x15#6) : decode w = shortOnly w.w0 (.ok (.bgeu (fA w.w0) (fB w.w0) (fImm14S w.w0))) := by
  unfold decode; simp only [h]; rfl

end Sys2Proof.Laws
end

