-- ==== Sys2Proof/Laws/Maps.lean ====
section
/-! SUPPORT. Keyed lists: what a key holds after another or the same key has been listed or taken off. -/

namespace Sys2Proof.Laws

open Sys2Proof.Machine

variable {α : Type}

@[simp] theorem mget_mset_self (k : Nat) (a : α) (m : List (Nat × α)) : mget k (mset k a m) = some a := by
  induction m with
  | nil => simp [mset, mget]
  | cons e t ih =>
    obtain ⟨i, b⟩ := e
    simp only [mset]
    split
    · simp [mget]
    · split <;> simp_all [mget]
theorem mget_mset_ne (k i : Nat) (a : α) (m : List (Nat × α)) (h : i ≠ k) : mget i (mset k a m) = mget i m := by
  induction m with
  | nil => simp [mset, mget, Ne.symm h]
  | cons e t ih =>
    obtain ⟨j, b⟩ := e
    simp only [mset]
    split
    · rename_i e; subst e; simp [mget, Ne.symm h]
    · split <;> simp [mget, Ne.symm h, ih]
@[simp] theorem mgetD_mset_self (d : α) (k : Nat) (a : α) (m : List (Nat × α)) : mgetD d k (mset k a m) = a := by
  simp [mgetD]
theorem mgetD_mset_ne (d : α) (k i : Nat) (a : α) (m : List (Nat × α)) (h : i ≠ k) : mgetD d i (mset k a m) = mgetD d i m := by
  simp [mgetD, mget_mset_ne _ _ _ _ h]
@[simp] theorem mget_mdel_self (k : Nat) (m : List (Nat × α)) : mget k (mdel k m) = none := by
  induction m with
  | nil => rfl
  | cons e t ih =>
    obtain ⟨j, b⟩ := e
    by_cases h : j = k <;> simp_all [mdel, mget]
theorem mget_mdel_ne (k i : Nat) (m : List (Nat × α)) (h : i ≠ k) : mget i (mdel k m) = mget i m := by
  induction m with
  | nil => rfl
  | cons e t ih =>
    obtain ⟨j, b⟩ := e
    by_cases hj : j = k
    · subst hj; simp_all [mdel, mget, Ne.symm h]
    · simp_all [mdel, mget]

end Sys2Proof.Laws
end

