-- ==== Sys2Proof/Laws/Memory.lean ====
section
/-! SUPPORT. Byte memory: what one write leaves to be read, and that every operation keeps the canonical form. -/

namespace Sys2Proof.Laws

open Sys2Proof Sys2Proof.Machine

/-- The canonical form said of the list: addresses strictly rising, and no entry zero. -/
theorem wf_iff (m : Mem) : Memory.wf m = true ↔ m.Pairwise (fun c d => c.1 < d.1) ∧ ∀ c ∈ m, c.2 ≠ 0#8 := by
  induction m with
  | nil => simp [Memory.wf]
  | cons c t ih =>
    cases t with
    | nil => simp [Memory.wf]
    | cons d u =>
      simp only [Memory.wf, Bool.and_eq_true, decide_eq_true_eq, ih]
      constructor
      · rintro ⟨⟨h0, h1⟩, h2, h3⟩
        refine ⟨List.pairwise_cons.2 ⟨fun e he => ?_, h2⟩, ?_⟩
        · rcases List.mem_cons.1 he with rfl | he
          · exact h1
          · exact lt_trans h1 ((List.pairwise_cons.1 h2).1 e he)
        · intro e he
          rcases List.mem_cons.1 he with rfl | he
          · simpa using h0
          · exact h3 e he
      · rintro ⟨h1, h2⟩
        have h3 := List.pairwise_cons.1 h1
        exact ⟨⟨by simpa using h2 c (by simp), h3.1 d (by simp)⟩, h3.2, fun e he => h2 e (List.mem_cons_of_mem _ he)⟩

/-- An address that no entry names reads as zero. -/
theorem memGet_unlisted (m : Mem) (a : Nat) (h : ∀ c ∈ m, c.1 ≠ a) : memGet m a = 0#8 := by
  induction m with
  | nil => rfl
  | cons c t ih =>
    obtain ⟨i, b⟩ := c
    simp only [memGet, if_neg (h (i, b) (by simp))]
    exact ih fun c hc => h c (List.mem_cons_of_mem _ hc)

theorem memGet_filter_ne (m : Mem) (p : Nat → Bool) (x : Nat) :
    memGet (m.filter fun c => p c.1) x = if p x then memGet m x else 0#8 := by
  induction m with
  | nil => simp [memGet]
  | cons c t ih =>
    obtain ⟨i, b⟩ := c
    by_cases hp : p i <;> by_cases hx : i = x <;> simp_all [memGet]

theorem memGet_memIns (m : Mem) (a : Nat) (b : Byte) (x : Nat) :
    memGet (memIns m a b) x = if x = a then b else memGet m x := by
  induction m with
  | nil => simp [memIns, memGet, eq_comm]
  | cons c t ih =>
    obtain ⟨i, v⟩ := c
    simp only [memIns]
    split
    · rename_i h; subst h; by_cases hx : x = i <;> simp [memGet, hx, eq_comm]
    · split
      · by_cases hx : x = a
        · simp [memGet, hx]
        · simp [memGet, hx, Ne.symm hx]
      · rename_i h1 h2
        by_cases hx : i = x
        · subst hx; simp [memGet, h1]
        · simp [memGet, hx, ih]

/-- A byte reads back, and no other byte changes (R3). -/
theorem memGet_memSet (m : Mem) (a : Nat) (b : Byte) (x : Nat) :
    memGet (memSet m a b) x = if x = a then b else memGet m x := by
  unfold memSet
  split
  · rename_i h
    rw [memGet_filter_ne m (fun i => decide (i ≠ a))]
    by_cases hx : x = a <;> simp [hx, h]
  · exact memGet_memIns m a b x

theorem mem_memIns (m : Mem) (a : Nat) (b : Byte) (c : Host.Cell) (h : c ∈ memIns m a b) : c = (a, b) ∨ c ∈ m := by
  induction m with
  | nil => simpa [memIns] using h
  | cons d t ih =>
    obtain ⟨i, v⟩ := d
    simp only [memIns] at h
    split at h
    · rcases List.mem_cons.1 h with h | h
      · exact .inl h
      · exact .inr (List.mem_cons_of_mem _ h)
    · split at h
      · rcases List.mem_cons.1 h with h | h
        · exact .inl h
        · exact .inr h
      · rcases List.mem_cons.1 h with h | h
        · exact .inr (by simp [h])
        · rcases ih h with h | h
          · exact .inl h
          · exact .inr (List.mem_cons_of_mem _ h)

theorem memIns_wf (m : Mem) (a : Nat) (b : Byte) (hb : b ≠ 0#8) (h : Memory.wf m = true) : Memory.wf (memIns m a b) = true := by
  rw [wf_iff] at *
  obtain ⟨h1, h2⟩ := h
  refine ⟨?_, fun c hc => ?_⟩
  · clear h2
    induction m with
    | nil => simp [memIns]
    | cons d t ih =>
      obtain ⟨i, v⟩ := d
      obtain ⟨h3, h4⟩ := List.pairwise_cons.1 h1
      simp only [memIns]
      split
      · rename_i e; subst e; exact List.pairwise_cons.2 ⟨h3, h4⟩
      · split
        · rename_i _ lt
          refine List.pairwise_cons.2 ⟨fun e he => ?_, h1⟩
          rcases List.mem_cons.1 he with rfl | he
          · exact lt
          · exact Nat.lt_trans lt (h3 e he)
        · rename_i n1 n2
          refine List.pairwise_cons.2 ⟨fun e he => ?_, ih h4⟩
          rcases mem_memIns t a b e he with rfl | he
          · show i < a; omega
          · exact h3 e he
  · rcases mem_memIns m a b c hc with rfl | hc
    · exact hb
    · exact h2 c hc

theorem wf_filter (m : Mem) (p : Host.Cell → Bool) (h : Memory.wf m = true) : Memory.wf (m.filter p) = true := by
  rw [wf_iff] at *
  exact ⟨h.1.sublist List.filter_sublist, fun c hc => h.2 c (List.mem_of_mem_filter hc)⟩

theorem memSet_wf (m : Mem) (a : Nat) (b : Byte) (h : Memory.wf m = true) : Memory.wf (memSet m a b) = true := by
  unfold memSet
  split
  · exact wf_filter m _ h
  · rename_i hb; exact memIns_wf m a b hb h

theorem memPut_keeps_wf (m : Mem) (a : Nat) (bs : List Byte) (h : Memory.wf m = true) : Memory.wf (memPut m a bs) = true := by
  induction bs generalizing m a with
  | nil => exact h
  | cons b t ih => exact ih _ _ (memSet_wf m a b h)

theorem memStore_wf (m : Mem) (a n v : Nat) (h : Memory.wf m = true) : Memory.wf (memStore m a n v) = true :=
  memPut_keeps_wf m a _ h

theorem memRange_wf (m : Mem) (lo hi : Nat) (h : Memory.wf m = true) : Memory.wf (memRange m lo hi) = true := wf_filter m _ h

/-- Bytes set one after the other keep the form. -/
theorem foldl_memSet_wf (at_ : Host.Cell → Nat) (l : List Host.Cell) (m : Mem) (h : Memory.wf m = true) : Memory.wf (l.foldl (fun r c => memSet r (at_ c) c.2) m) = true := by
  induction l generalizing m with
  | nil => exact h
  | cons c t ih => exact ih _ (memSet_wf m _ _ h)

theorem memCopyRange_wf (dst src : Mem) (lo hi : Nat) (h : Memory.wf dst = true) : Memory.wf (memCopyRange dst src lo hi) = true :=
  foldl_memSet_wf (·.1) _ _ (wf_filter dst _ h)

theorem memMove_wf (m : Mem) (lo len to_ : Nat) (h : Memory.wf m = true) : Memory.wf (memMove m lo len to_) = true :=
  foldl_memSet_wf _ _ _ (wf_filter m _ h)

/-- The memories of the module right after reset have the form. -/
theorem reset_memory_wf : Memory.wf State.reset.glob = true ∧ Memory.wf State.reset.dram = true ∧ State.reset.ltiles = [] := by decide

@[simp] theorem memBytes_length (m : Mem) (a n : Nat) : (memBytes m a n).length = n := by
  induction n generalizing a with
  | zero => rfl
  | succ n ih => simp [memBytes, ih]
@[simp] theorem leBytes_length (n v : Nat) : (leBytes n v).length = n := by
  induction n generalizing v with
  | zero => rfl
  | succ n ih => simp [leBytes, ih]
/-- The value of a value's bytes (R3). -/
theorem leNat_leBytes (n v : Nat) : leNat (leBytes n v) = v % 256 ^ n := by
  induction n generalizing v with
  | zero => simp [leBytes, leNat, Nat.mod_one]
  | succ n ih =>
    simp only [leBytes, leNat, ih, BitVec.toNat_ofNat]
    rw [show 256 ^ (n + 1) = 256 * 256 ^ n by rw [Nat.pow_succ, Nat.mul_comm], Nat.mod_mul]

end Sys2Proof.Laws
end

