-- ==== Sys2Proof/Laws/PerInstr.lean ====
section
/-! SUPPORT. Decoding the words of a well-formed instruction gives it back, whatever words follow: one lemma per constructor. -/

namespace Sys2Proof.Laws.RoundTrip

open Sys2Proof Sys2Proof.Laws

set_option Elab.async false
set_option linter.unusedSimpArgs false

/-- The words of a well-formed instruction, followed by any others, decode to it; a step without words has nothing to decode. -/
def Statement (i : Instr) : Prop :=
  WellFormed i = true → encode i ≠ [] → ∀ x : List (BitVec 32), decode (Words.ofList (encode i ++ x)) = .ok i
theorem add (d : Reg) (a : Reg) (b : Reg) : Statement (.add d a b) := by
  intro h _ x; refine (decode_01 ⟨mkR 0x0#9 b a d 0x01#6 0#2, _, _, _, _⟩ (fOp_mkR ..)).trans ?_
  simp only [shortOnly, extOnly, needZero, needCode, needWf_of h, lit01, lit_join, ↓reduceIte, BitVec.reduceToNat, BitVec.reduceEq, BitVec.reduceAppend, BitVec.reduceExtractLsb', BitVec.reduceGetLsb, BitVec.reduceGetElem, BitVec.reduceSetWidth, decide_true, decide_false, and_self, or_self, true_and, and_true, true_or, or_true, ne_eq, not_true_eq_false, not_false_eq_true, Bool.false_eq_true, fLen_mkR, fOp_mkR, fFn_mkR, fD_mkR, fA_mkR, fB_mkR, decInt, litOp, regOp3, regOp2]
theorem addL (d : Reg) (a : Reg) (lit : Word) : Statement (.addL d a lit) := by
  intro h _ x; refine (decode_01 ⟨mkR 0x0#9 0#5 a d 0x01#6 1#2, lit.extractLsb' 0 32, lit.extractLsb' 32 32, _, _⟩ (fOp_mkR ..)).trans ?_
  simp only [shortOnly, extOnly, needZero, needCode, needWf_of h, lit01, lit_join, ↓reduceIte, BitVec.reduceToNat, BitVec.reduceEq, BitVec.reduceAppend, BitVec.reduceExtractLsb', BitVec.reduceGetLsb, BitVec.reduceGetElem, BitVec.reduceSetWidth, decide_true, decide_false, and_self, or_self, true_and, and_true, true_or, or_true, ne_eq, not_true_eq_false, not_false_eq_true, Bool.false_eq_true, fLen_mkR, fOp_mkR, fFn_mkR, fD_mkR, fA_mkR, fB_mkR, decInt, litOp, regOp3, regOp2]
theorem sub (d : Reg) (a : Reg) (b : Reg) : Statement (.sub d a b) := by
  intro h _ x; refine (decode_01 ⟨mkR 0x1#9 b a d 0x01#6 0#2, _, _, _, _⟩ (fOp_mkR ..)).trans ?_
  simp only [shortOnly, extOnly, needZero, needCode, needWf_of h, lit01, lit_join, ↓reduceIte, BitVec.reduceToNat, BitVec.reduceEq, BitVec.reduceAppend, BitVec.reduceExtractLsb', BitVec.reduceGetLsb, BitVec.reduceGetElem, BitVec.reduceSetWidth, decide_true, decide_false, and_self, or_self, true_and, and_true, true_or, or_true, ne_eq, not_true_eq_false, not_false_eq_true, Bool.false_eq_true, fLen_mkR, fOp_mkR, fFn_mkR, fD_mkR, fA_mkR, fB_mkR, decInt, litOp, regOp3, regOp2]
theorem subL (d : Reg) (a : Reg) (lit : Word) : Statement (.subL d a lit) := by
  intro h _ x; refine (decode_01 ⟨mkR 0x1#9 0#5 a d 0x01#6 1#2, lit.extractLsb' 0 32, lit.extractLsb' 32 32, _, _⟩ (fOp_mkR ..)).trans ?_
  simp only [shortOnly, extOnly, needZero, needCode, needWf_of h, lit01, lit_join, ↓reduceIte, BitVec.reduceToNat, BitVec.reduceEq, BitVec.reduceAppend, BitVec.reduceExtractLsb', BitVec.reduceGetLsb, BitVec.reduceGetElem, BitVec.reduceSetWidth, decide_true, decide_false, and_self, or_self, true_and, and_true, true_or, or_true, ne_eq, not_true_eq_false, not_false_eq_true, Bool.false_eq_true, fLen_mkR, fOp_mkR, fFn_mkR, fD_mkR, fA_mkR, fB_mkR, decInt, litOp, regOp3, regOp2]
theorem and (d : Reg) (a : Reg) (b : Reg) : Statement (.and d a b) := by
  intro h _ x; refine (decode_01 ⟨mkR 0x2#9 b a d 0x01#6 0#2, _, _, _, _⟩ (fOp_mkR ..)).trans ?_
  simp only [shortOnly, extOnly, needZero, needCode, needWf_of h, lit01, lit_join, ↓reduceIte, BitVec.reduceToNat, BitVec.reduceEq, BitVec.reduceAppend, BitVec.reduceExtractLsb', BitVec.reduceGetLsb, BitVec.reduceGetElem, BitVec.reduceSetWidth, decide_true, decide_false, and_self, or_self, true_and, and_true, true_or, or_true, ne_eq, not_true_eq_false, not_false_eq_true, Bool.false_eq_true, fLen_mkR, fOp_mkR, fFn_mkR, fD_mkR, fA_mkR, fB_mkR, decInt, litOp, regOp3, regOp2]
theorem andL (d : Reg) (a : Reg) (lit : Word) : Statement (.andL d a lit) := by
  intro h _ x; refine (decode_01 ⟨mkR 0x2#9 0#5 a d 0x01#6 1#2, lit.extractLsb' 0 32, lit.extractLsb' 32 32, _, _⟩ (fOp_mkR ..)).trans ?_
  simp only [shortOnly, extOnly, needZero, needCode, needWf_of h, lit01, lit_join, ↓reduceIte, BitVec.reduceToNat, BitVec.reduceEq, BitVec.reduceAppend, BitVec.reduceExtractLsb', BitVec.reduceGetLsb, BitVec.reduceGetElem, BitVec.reduceSetWidth, decide_true, decide_false, and_self, or_self, true_and, and_true, true_or, or_true, ne_eq, not_true_eq_false, not_false_eq_true, Bool.false_eq_true, fLen_mkR, fOp_mkR, fFn_mkR, fD_mkR, fA_mkR, fB_mkR, decInt, litOp, regOp3, regOp2]
theorem or (d : Reg) (a : Reg) (b : Reg) : Statement (.or d a b) := by
  intro h _ x; refine (decode_01 ⟨mkR 0x3#9 b a d 0x01#6 0#2, _, _, _, _⟩ (fOp_mkR ..)).trans ?_
  simp only [shortOnly, extOnly, needZero, needCode, needWf_of h, lit01, lit_join, ↓reduceIte, BitVec.reduceToNat, BitVec.reduceEq, BitVec.reduceAppend, BitVec.reduceExtractLsb', BitVec.reduceGetLsb, BitVec.reduceGetElem, BitVec.reduceSetWidth, decide_true, decide_false, and_self, or_self, true_and, and_true, true_or, or_true, ne_eq, not_true_eq_false, not_false_eq_true, Bool.false_eq_true, fLen_mkR, fOp_mkR, fFn_mkR, fD_mkR, fA_mkR, fB_mkR, decInt, litOp, regOp3, regOp2]
theorem orL (d : Reg) (a : Reg) (lit : Word) : Statement (.orL d a lit) := by
  intro h _ x; refine (decode_01 ⟨mkR 0x3#9 0#5 a d 0x01#6 1#2, lit.extractLsb' 0 32, lit.extractLsb' 32 32, _, _⟩ (fOp_mkR ..)).trans ?_
  simp only [shortOnly, extOnly, needZero, needCode, needWf_of h, lit01, lit_join, ↓reduceIte, BitVec.reduceToNat, BitVec.reduceEq, BitVec.reduceAppend, BitVec.reduceExtractLsb', BitVec.reduceGetLsb, BitVec.reduceGetElem, BitVec.reduceSetWidth, decide_true, decide_false, and_self, or_self, true_and, and_true, true_or, or_true, ne_eq, not_true_eq_false, not_false_eq_true, Bool.false_eq_true, fLen_mkR, fOp_mkR, fFn_mkR, fD_mkR, fA_mkR, fB_mkR, decInt, litOp, regOp3, regOp2]
theorem xor (d : Reg) (a : Reg) (b : Reg) : Statement (.xor d a b) := by
  intro h _ x; refine (decode_01 ⟨mkR 0x4#9 b a d 0x01#6 0#2, _, _, _, _⟩ (fOp_mkR ..)).trans ?_
  simp only [shortOnly, extOnly, needZero, needCode, needWf_of h, lit01, lit_join, ↓reduceIte, BitVec.reduceToNat, BitVec.reduceEq, BitVec.reduceAppend, BitVec.reduceExtractLsb', BitVec.reduceGetLsb, BitVec.reduceGetElem, BitVec.reduceSetWidth, decide_true, decide_false, and_self, or_self, true_and, and_true, true_or, or_true, ne_eq, not_true_eq_false, not_false_eq_true, Bool.false_eq_true, fLen_mkR, fOp_mkR, fFn_mkR, fD_mkR, fA_mkR, fB_mkR, decInt, litOp, regOp3, regOp2]
theorem xorL (d : Reg) (a : Reg) (lit : Word) : Statement (.xorL d a lit) := by
  intro h _ x; refine (decode_01 ⟨mkR 0x4#9 0#5 a d 0x01#6 1#2, lit.extractLsb' 0 32, lit.extractLsb' 32 32, _, _⟩ (fOp_mkR ..)).trans ?_
  simp only [shortOnly, extOnly, needZero, needCode, needWf_of h, lit01, lit_join, ↓reduceIte, BitVec.reduceToNat, BitVec.reduceEq, BitVec.reduceAppend, BitVec.reduceExtractLsb', BitVec.reduceGetLsb, BitVec.reduceGetElem, BitVec.reduceSetWidth, decide_true, decide_false, and_self, or_self, true_and, and_true, true_or, or_true, ne_eq, not_true_eq_false, not_false_eq_true, Bool.false_eq_true, fLen_mkR, fOp_mkR, fFn_mkR, fD_mkR, fA_mkR, fB_mkR, decInt, litOp, regOp3, regOp2]
theorem andn (d : Reg) (a : Reg) (b : Reg) : Statement (.andn d a b) := by
  intro h _ x; refine (decode_01 ⟨mkR 0x5#9 b a d 0x01#6 0#2, _, _, _, _⟩ (fOp_mkR ..)).trans ?_
  simp only [shortOnly, extOnly, needZero, needCode, needWf_of h, lit01, lit_join, ↓reduceIte, BitVec.reduceToNat, BitVec.reduceEq, BitVec.reduceAppend, BitVec.reduceExtractLsb', BitVec.reduceGetLsb, BitVec.reduceGetElem, BitVec.reduceSetWidth, decide_true, decide_false, and_self, or_self, true_and, and_true, true_or, or_true, ne_eq, not_true_eq_false, not_false_eq_true, Bool.false_eq_true, fLen_mkR, fOp_mkR, fFn_mkR, fD_mkR, fA_mkR, fB_mkR, decInt, litOp, regOp3, regOp2]
theorem andnL (d : Reg) (a : Reg) (lit : Word) : Statement (.andnL d a lit) := by
  intro h _ x; refine (decode_01 ⟨mkR 0x5#9 0#5 a d 0x01#6 1#2, lit.extractLsb' 0 32, lit.extractLsb' 32 32, _, _⟩ (fOp_mkR ..)).trans ?_
  simp only [shortOnly, extOnly, needZero, needCode, needWf_of h, lit01, lit_join, ↓reduceIte, BitVec.reduceToNat, BitVec.reduceEq, BitVec.reduceAppend, BitVec.reduceExtractLsb', BitVec.reduceGetLsb, BitVec.reduceGetElem, BitVec.reduceSetWidth, decide_true, decide_false, and_self, or_self, true_and, and_true, true_or, or_true, ne_eq, not_true_eq_false, not_false_eq_true, Bool.false_eq_true, fLen_mkR, fOp_mkR, fFn_mkR, fD_mkR, fA_mkR, fB_mkR, decInt, litOp, regOp3, regOp2]
theorem orn (d : Reg) (a : Reg) (b : Reg) : Statement (.orn d a b) := by
  intro h _ x; refine (decode_01 ⟨mkR 0x6#9 b a d 0x01#6 0#2, _, _, _, _⟩ (fOp_mkR ..)).trans ?_
  simp only [shortOnly, extOnly, needZero, needCode, needWf_of h, lit01, lit_join, ↓reduceIte, BitVec.reduceToNat, BitVec.reduceEq, BitVec.reduceAppend, BitVec.reduceExtractLsb', BitVec.reduceGetLsb, BitVec.reduceGetElem, BitVec.reduceSetWidth, decide_true, decide_false, and_self, or_self, true_and, and_true, true_or, or_true, ne_eq, not_true_eq_false, not_false_eq_true, Bool.false_eq_true, fLen_mkR, fOp_mkR, fFn_mkR, fD_mkR, fA_mkR, fB_mkR, decInt, litOp, regOp3, regOp2]
theorem ornL (d : Reg) (a : Reg) (lit : Word) : Statement (.ornL d a lit) := by
  intro h _ x; refine (decode_01 ⟨mkR 0x6#9 0#5 a d 0x01#6 1#2, lit.extractLsb' 0 32, lit.extractLsb' 32 32, _, _⟩ (fOp_mkR ..)).trans ?_
  simp only [shortOnly, extOnly, needZero, needCode, needWf_of h, lit01, lit_join, ↓reduceIte, BitVec.reduceToNat, BitVec.reduceEq, BitVec.reduceAppend, BitVec.reduceExtractLsb', BitVec.reduceGetLsb, BitVec.reduceGetElem, BitVec.reduceSetWidth, decide_true, decide_false, and_self, or_self, true_and, and_true, true_or, or_true, ne_eq, not_true_eq_false, not_false_eq_true, Bool.false_eq_true, fLen_mkR, fOp_mkR, fFn_mkR, fD_mkR, fA_mkR, fB_mkR, decInt, litOp, regOp3, regOp2]
theorem sel (d : Reg) (a : Reg) (b : Reg) : Statement (.sel d a b) := by
  intro h _ x; refine (decode_01 ⟨mkR 0x7#9 b a d 0x01#6 0#2, _, _, _, _⟩ (fOp_mkR ..)).trans ?_
  simp only [shortOnly, extOnly, needZero, needCode, needWf_of h, lit01, lit_join, ↓reduceIte, BitVec.reduceToNat, BitVec.reduceEq, BitVec.reduceAppend, BitVec.reduceExtractLsb', BitVec.reduceGetLsb, BitVec.reduceGetElem, BitVec.reduceSetWidth, decide_true, decide_false, and_self, or_self, true_and, and_true, true_or, or_true, ne_eq, not_true_eq_false, not_false_eq_true, Bool.false_eq_true, fLen_mkR, fOp_mkR, fFn_mkR, fD_mkR, fA_mkR, fB_mkR, decInt, litOp, regOp3, regOp2]
theorem selL (d : Reg) (a : Reg) (lit : Word) : Statement (.selL d a lit) := by
  intro h _ x; refine (decode_01 ⟨mkR 0x7#9 0#5 a d 0x01#6 1#2, lit.extractLsb' 0 32, lit.extractLsb' 32 32, _, _⟩ (fOp_mkR ..)).trans ?_
  simp only [shortOnly, extOnly, needZero, needCode, needWf_of h, lit01, lit_join, ↓reduceIte, BitVec.reduceToNat, BitVec.reduceEq, BitVec.reduceAppend, BitVec.reduceExtractLsb', BitVec.reduceGetLsb, BitVec.reduceGetElem, BitVec.reduceSetWidth, decide_true, decide_false, and_self, or_self, true_and, and_true, true_or, or_true, ne_eq, not_true_eq_false, not_false_eq_true, Bool.false_eq_true, fLen_mkR, fOp_mkR, fFn_mkR, fD_mkR, fA_mkR, fB_mkR, decInt, litOp, regOp3, regOp2]
theorem shl (d : Reg) (a : Reg) (b : Reg) : Statement (.shl d a b) := by
  intro h _ x; refine (decode_01 ⟨mkR 0x8#9 b a d 0x01#6 0#2, _, _, _, _⟩ (fOp_mkR ..)).trans ?_
  simp only [shortOnly, extOnly, needZero, needCode, needWf_of h, lit01, lit_join, ↓reduceIte, BitVec.reduceToNat, BitVec.reduceEq, BitVec.reduceAppend, BitVec.reduceExtractLsb', BitVec.reduceGetLsb, BitVec.reduceGetElem, BitVec.reduceSetWidth, decide_true, decide_false, and_self, or_self, true_and, and_true, true_or, or_true, ne_eq, not_true_eq_false, not_false_eq_true, Bool.false_eq_true, fLen_mkR, fOp_mkR, fFn_mkR, fD_mkR, fA_mkR, fB_mkR, decInt, litOp, regOp3, regOp2]
theorem shr (d : Reg) (a : Reg) (b : Reg) : Statement (.shr d a b) := by
  intro h _ x; refine (decode_01 ⟨mkR 0x9#9 b a d 0x01#6 0#2, _, _, _, _⟩ (fOp_mkR ..)).trans ?_
  simp only [shortOnly, extOnly, needZero, needCode, needWf_of h, lit01, lit_join, ↓reduceIte, BitVec.reduceToNat, BitVec.reduceEq, BitVec.reduceAppend, BitVec.reduceExtractLsb', BitVec.reduceGetLsb, BitVec.reduceGetElem, BitVec.reduceSetWidth, decide_true, decide_false, and_self, or_self, true_and, and_true, true_or, or_true, ne_eq, not_true_eq_false, not_false_eq_true, Bool.false_eq_true, fLen_mkR, fOp_mkR, fFn_mkR, fD_mkR, fA_mkR, fB_mkR, decInt, litOp, regOp3, regOp2]
theorem sra (d : Reg) (a : Reg) (b : Reg) : Statement (.sra d a b) := by
  intro h _ x; refine (decode_01 ⟨mkR 0xa#9 b a d 0x01#6 0#2, _, _, _, _⟩ (fOp_mkR ..)).trans ?_
  simp only [shortOnly, extOnly, needZero, needCode, needWf_of h, lit01, lit_join, ↓reduceIte, BitVec.reduceToNat, BitVec.reduceEq, BitVec.reduceAppend, BitVec.reduceExtractLsb', BitVec.reduceGetLsb, BitVec.reduceGetElem, BitVec.reduceSetWidth, decide_true, decide_false, and_self, or_self, true_and, and_true, true_or, or_true, ne_eq, not_true_eq_false, not_false_eq_true, Bool.false_eq_true, fLen_mkR, fOp_mkR, fFn_mkR, fD_mkR, fA_mkR, fB_mkR, decInt, litOp, regOp3, regOp2]
theorem rotr (d : Reg) (a : Reg) (b : Reg) : Statement (.rotr d a b) := by
  intro h _ x; refine (decode_01 ⟨mkR 0xb#9 b a d 0x01#6 0#2, _, _, _, _⟩ (fOp_mkR ..)).trans ?_
  simp only [shortOnly, extOnly, needZero, needCode, needWf_of h, lit01, lit_join, ↓reduceIte, BitVec.reduceToNat, BitVec.reduceEq, BitVec.reduceAppend, BitVec.reduceExtractLsb', BitVec.reduceGetLsb, BitVec.reduceGetElem, BitVec.reduceSetWidth, decide_true, decide_false, and_self, or_self, true_and, and_true, true_or, or_true, ne_eq, not_true_eq_false, not_false_eq_true, Bool.false_eq_true, fLen_mkR, fOp_mkR, fFn_mkR, fD_mkR, fA_mkR, fB_mkR, decInt, litOp, regOp3, regOp2]
theorem mul (d : Reg) (a : Reg) (b : Reg) : Statement (.mul d a b) := by
  intro h _ x; refine (decode_01 ⟨mkR 0x10#9 b a d 0x01#6 0#2, _, _, _, _⟩ (fOp_mkR ..)).trans ?_
  simp only [shortOnly, extOnly, needZero, needCode, needWf_of h, lit01, lit_join, ↓reduceIte, BitVec.reduceToNat, BitVec.reduceEq, BitVec.reduceAppend, BitVec.reduceExtractLsb', BitVec.reduceGetLsb, BitVec.reduceGetElem, BitVec.reduceSetWidth, decide_true, decide_false, and_self, or_self, true_and, and_true, true_or, or_true, ne_eq, not_true_eq_false, not_false_eq_true, Bool.false_eq_true, fLen_mkR, fOp_mkR, fFn_mkR, fD_mkR, fA_mkR, fB_mkR, decInt, litOp, regOp3, regOp2]
theorem mulL (d : Reg) (a : Reg) (lit : Word) : Statement (.mulL d a lit) := by
  intro h _ x; refine (decode_01 ⟨mkR 0x10#9 0#5 a d 0x01#6 1#2, lit.extractLsb' 0 32, lit.extractLsb' 32 32, _, _⟩ (fOp_mkR ..)).trans ?_
  simp only [shortOnly, extOnly, needZero, needCode, needWf_of h, lit01, lit_join, ↓reduceIte, BitVec.reduceToNat, BitVec.reduceEq, BitVec.reduceAppend, BitVec.reduceExtractLsb', BitVec.reduceGetLsb, BitVec.reduceGetElem, BitVec.reduceSetWidth, decide_true, decide_false, and_self, or_self, true_and, and_true, true_or, or_true, ne_eq, not_true_eq_false, not_false_eq_true, Bool.false_eq_true, fLen_mkR, fOp_mkR, fFn_mkR, fD_mkR, fA_mkR, fB_mkR, decInt, litOp, regOp3, regOp2]
theorem mulh (d : Reg) (a : Reg) (b : Reg) : Statement (.mulh d a b) := by
  intro h _ x; refine (decode_01 ⟨mkR 0x11#9 b a d 0x01#6 0#2, _, _, _, _⟩ (fOp_mkR ..)).trans ?_
  simp only [shortOnly, extOnly, needZero, needCode, needWf_of h, lit01, lit_join, ↓reduceIte, BitVec.reduceToNat, BitVec.reduceEq, BitVec.reduceAppend, BitVec.reduceExtractLsb', BitVec.reduceGetLsb, BitVec.reduceGetElem, BitVec.reduceSetWidth, decide_true, decide_false, and_self, or_self, true_and, and_true, true_or, or_true, ne_eq, not_true_eq_false, not_false_eq_true, Bool.false_eq_true, fLen_mkR, fOp_mkR, fFn_mkR, fD_mkR, fA_mkR, fB_mkR, decInt, litOp, regOp3, regOp2]
theorem mulhL (d : Reg) (a : Reg) (lit : Word) : Statement (.mulhL d a lit) := by
  intro h _ x; refine (decode_01 ⟨mkR 0x11#9 0#5 a d 0x01#6 1#2, lit.extractLsb' 0 32, lit.extractLsb' 32 32, _, _⟩ (fOp_mkR ..)).trans ?_
  simp only [shortOnly, extOnly, needZero, needCode, needWf_of h, lit01, lit_join, ↓reduceIte, BitVec.reduceToNat, BitVec.reduceEq, BitVec.reduceAppend, BitVec.reduceExtractLsb', BitVec.reduceGetLsb, BitVec.reduceGetElem, BitVec.reduceSetWidth, decide_true, decide_false, and_self, or_self, true_and, and_true, true_or, or_true, ne_eq, not_true_eq_false, not_false_eq_true, Bool.false_eq_true, fLen_mkR, fOp_mkR, fFn_mkR, fD_mkR, fA_mkR, fB_mkR, decInt, litOp, regOp3, regOp2]
theorem mulhu (d : Reg) (a : Reg) (b : Reg) : Statement (.mulhu d a b) := by
  intro h _ x; refine (decode_01 ⟨mkR 0x12#9 b a d 0x01#6 0#2, _, _, _, _⟩ (fOp_mkR ..)).trans ?_
  simp only [shortOnly, extOnly, needZero, needCode, needWf_of h, lit01, lit_join, ↓reduceIte, BitVec.reduceToNat, BitVec.reduceEq, BitVec.reduceAppend, BitVec.reduceExtractLsb', BitVec.reduceGetLsb, BitVec.reduceGetElem, BitVec.reduceSetWidth, decide_true, decide_false, and_self, or_self, true_and, and_true, true_or, or_true, ne_eq, not_true_eq_false, not_false_eq_true, Bool.false_eq_true, fLen_mkR, fOp_mkR, fFn_mkR, fD_mkR, fA_mkR, fB_mkR, decInt, litOp, regOp3, regOp2]
theorem mulhuL (d : Reg) (a : Reg) (lit : Word) : Statement (.mulhuL d a lit) := by
  intro h _ x; refine (decode_01 ⟨mkR 0x12#9 0#5 a d 0x01#6 1#2, lit.extractLsb' 0 32, lit.extractLsb' 32 32, _, _⟩ (fOp_mkR ..)).trans ?_
  simp only [shortOnly, extOnly, needZero, needCode, needWf_of h, lit01, lit_join, ↓reduceIte, BitVec.reduceToNat, BitVec.reduceEq, BitVec.reduceAppend, BitVec.reduceExtractLsb', BitVec.reduceGetLsb, BitVec.reduceGetElem, BitVec.reduceSetWidth, decide_true, decide_false, and_self, or_self, true_and, and_true, true_or, or_true, ne_eq, not_true_eq_false, not_false_eq_true, Bool.false_eq_true, fLen_mkR, fOp_mkR, fFn_mkR, fD_mkR, fA_mkR, fB_mkR, decInt, litOp, regOp3, regOp2]
theorem div (d : Reg) (a : Reg) (b : Reg) : Statement (.div d a b) := by
  intro h _ x; refine (decode_01 ⟨mkR 0x14#9 b a d 0x01#6 0#2, _, _, _, _⟩ (fOp_mkR ..)).trans ?_
  simp only [shortOnly, extOnly, needZero, needCode, needWf_of h, lit01, lit_join, ↓reduceIte, BitVec.reduceToNat, BitVec.reduceEq, BitVec.reduceAppend, BitVec.reduceExtractLsb', BitVec.reduceGetLsb, BitVec.reduceGetElem, BitVec.reduceSetWidth, decide_true, decide_false, and_self, or_self, true_and, and_true, true_or, or_true, ne_eq, not_true_eq_false, not_false_eq_true, Bool.false_eq_true, fLen_mkR, fOp_mkR, fFn_mkR, fD_mkR, fA_mkR, fB_mkR, decInt, litOp, regOp3, regOp2]
theorem divL (d : Reg) (a : Reg) (lit : Word) : Statement (.divL d a lit) := by
  intro h _ x; refine (decode_01 ⟨mkR 0x14#9 0#5 a d 0x01#6 1#2, lit.extractLsb' 0 32, lit.extractLsb' 32 32, _, _⟩ (fOp_mkR ..)).trans ?_
  simp only [shortOnly, extOnly, needZero, needCode, needWf_of h, lit01, lit_join, ↓reduceIte, BitVec.reduceToNat, BitVec.reduceEq, BitVec.reduceAppend, BitVec.reduceExtractLsb', BitVec.reduceGetLsb, BitVec.reduceGetElem, BitVec.reduceSetWidth, decide_true, decide_false, and_self, or_self, true_and, and_true, true_or, or_true, ne_eq, not_true_eq_false, not_false_eq_true, Bool.false_eq_true, fLen_mkR, fOp_mkR, fFn_mkR, fD_mkR, fA_mkR, fB_mkR, decInt, litOp, regOp3, regOp2]
theorem divu (d : Reg) (a : Reg) (b : Reg) : Statement (.divu d a b) := by
  intro h _ x; refine (decode_01 ⟨mkR 0x15#9 b a d 0x01#6 0#2, _, _, _, _⟩ (fOp_mkR ..)).trans ?_
  simp only [shortOnly, extOnly, needZero, needCode, needWf_of h, lit01, lit_join, ↓reduceIte, BitVec.reduceToNat, BitVec.reduceEq, BitVec.reduceAppend, BitVec.reduceExtractLsb', BitVec.reduceGetLsb, BitVec.reduceGetElem, BitVec.reduceSetWidth, decide_true, decide_false, and_self, or_self, true_and, and_true, true_or, or_true, ne_eq, not_true_eq_false, not_false_eq_true, Bool.false_eq_true, fLen_mkR, fOp_mkR, fFn_mkR, fD_mkR, fA_mkR, fB_mkR, decInt, litOp, regOp3, regOp2]
theorem divuL (d : Reg) (a : Reg) (lit : Word) : Statement (.divuL d a lit) := by
  intro h _ x; refine (decode_01 ⟨mkR 0x15#9 0#5 a d 0x01#6 1#2, lit.extractLsb' 0 32, lit.extractLsb' 32 32, _, _⟩ (fOp_mkR ..)).trans ?_
  simp only [shortOnly, extOnly, needZero, needCode, needWf_of h, lit01, lit_join, ↓reduceIte, BitVec.reduceToNat, BitVec.reduceEq, BitVec.reduceAppend, BitVec.reduceExtractLsb', BitVec.reduceGetLsb, BitVec.reduceGetElem, BitVec.reduceSetWidth, decide_true, decide_false, and_self, or_self, true_and, and_true, true_or, or_true, ne_eq, not_true_eq_false, not_false_eq_true, Bool.false_eq_true, fLen_mkR, fOp_mkR, fFn_mkR, fD_mkR, fA_mkR, fB_mkR, decInt, litOp, regOp3, regOp2]
theorem rem (d : Reg) (a : Reg) (b : Reg) : Statement (.rem d a b) := by
  intro h _ x; refine (decode_01 ⟨mkR 0x16#9 b a d 0x01#6 0#2, _, _, _, _⟩ (fOp_mkR ..)).trans ?_
  simp only [shortOnly, extOnly, needZero, needCode, needWf_of h, lit01, lit_join, ↓reduceIte, BitVec.reduceToNat, BitVec.reduceEq, BitVec.reduceAppend, BitVec.reduceExtractLsb', BitVec.reduceGetLsb, BitVec.reduceGetElem, BitVec.reduceSetWidth, decide_true, decide_false, and_self, or_self, true_and, and_true, true_or, or_true, ne_eq, not_true_eq_false, not_false_eq_true, Bool.false_eq_true, fLen_mkR, fOp_mkR, fFn_mkR, fD_mkR, fA_mkR, fB_mkR, decInt, litOp, regOp3, regOp2]
theorem remL (d : Reg) (a : Reg) (lit : Word) : Statement (.remL d a lit) := by
  intro h _ x; refine (decode_01 ⟨mkR 0x16#9 0#5 a d 0x01#6 1#2, lit.extractLsb' 0 32, lit.extractLsb' 32 32, _, _⟩ (fOp_mkR ..)).trans ?_
  simp only [shortOnly, extOnly, needZero, needCode, needWf_of h, lit01, lit_join, ↓reduceIte, BitVec.reduceToNat, BitVec.reduceEq, BitVec.reduceAppend, BitVec.reduceExtractLsb', BitVec.reduceGetLsb, BitVec.reduceGetElem, BitVec.reduceSetWidth, decide_true, decide_false, and_self, or_self, true_and, and_true, true_or, or_true, ne_eq, not_true_eq_false, not_false_eq_true, Bool.false_eq_true, fLen_mkR, fOp_mkR, fFn_mkR, fD_mkR, fA_mkR, fB_mkR, decInt, litOp, regOp3, regOp2]
theorem remu (d : Reg) (a : Reg) (b : Reg) : Statement (.remu d a b) := by
  intro h _ x; refine (decode_01 ⟨mkR 0x17#9 b a d 0x01#6 0#2, _, _, _, _⟩ (fOp_mkR ..)).trans ?_
  simp only [shortOnly, extOnly, needZero, needCode, needWf_of h, lit01, lit_join, ↓reduceIte, BitVec.reduceToNat, BitVec.reduceEq, BitVec.reduceAppend, BitVec.reduceExtractLsb', BitVec.reduceGetLsb, BitVec.reduceGetElem, BitVec.reduceSetWidth, decide_true, decide_false, and_self, or_self, true_and, and_true, true_or, or_true, ne_eq, not_true_eq_false, not_false_eq_true, Bool.false_eq_true, fLen_mkR, fOp_mkR, fFn_mkR, fD_mkR, fA_mkR, fB_mkR, decInt, litOp, regOp3, regOp2]
theorem remuL (d : Reg) (a : Reg) (lit : Word) : Statement (.remuL d a lit) := by
  intro h _ x; refine (decode_01 ⟨mkR 0x17#9 0#5 a d 0x01#6 1#2, lit.extractLsb' 0 32, lit.extractLsb' 32 32, _, _⟩ (fOp_mkR ..)).trans ?_
  simp only [shortOnly, extOnly, needZero, needCode, needWf_of h, lit01, lit_join, ↓reduceIte, BitVec.reduceToNat, BitVec.reduceEq, BitVec.reduceAppend, BitVec.reduceExtractLsb', BitVec.reduceGetLsb, BitVec.reduceGetElem, BitVec.reduceSetWidth, decide_true, decide_false, and_self, or_self, true_and, and_true, true_or, or_true, ne_eq, not_true_eq_false, not_false_eq_true, Bool.false_eq_true, fLen_mkR, fOp_mkR, fFn_mkR, fD_mkR, fA_mkR, fB_mkR, decInt, litOp, regOp3, regOp2]
theorem min (d : Reg) (a : Reg) (b : Reg) : Statement (.min d a b) := by
  intro h _ x; refine (decode_01 ⟨mkR 0x18#9 b a d 0x01#6 0#2, _, _, _, _⟩ (fOp_mkR ..)).trans ?_
  simp only [shortOnly, extOnly, needZero, needCode, needWf_of h, lit01, lit_join, ↓reduceIte, BitVec.reduceToNat, BitVec.reduceEq, BitVec.reduceAppend, BitVec.reduceExtractLsb', BitVec.reduceGetLsb, BitVec.reduceGetElem, BitVec.reduceSetWidth, decide_true, decide_false, and_self, or_self, true_and, and_true, true_or, or_true, ne_eq, not_true_eq_false, not_false_eq_true, Bool.false_eq_true, fLen_mkR, fOp_mkR, fFn_mkR, fD_mkR, fA_mkR, fB_mkR, decInt, litOp, regOp3, regOp2]
theorem minL (d : Reg) (a : Reg) (lit : Word) : Statement (.minL d a lit) := by
  intro h _ x; refine (decode_01 ⟨mkR 0x18#9 0#5 a d 0x01#6 1#2, lit.extractLsb' 0 32, lit.extractLsb' 32 32, _, _⟩ (fOp_mkR ..)).trans ?_
  simp only [shortOnly, extOnly, needZero, needCode, needWf_of h, lit01, lit_join, ↓reduceIte, BitVec.reduceToNat, BitVec.reduceEq, BitVec.reduceAppend, BitVec.reduceExtractLsb', BitVec.reduceGetLsb, BitVec.reduceGetElem, BitVec.reduceSetWidth, decide_true, decide_false, and_self, or_self, true_and, and_true, true_or, or_true, ne_eq, not_true_eq_false, not_false_eq_true, Bool.false_eq_true, fLen_mkR, fOp_mkR, fFn_mkR, fD_mkR, fA_mkR, fB_mkR, decInt, litOp, regOp3, regOp2]
theorem max (d : Reg) (a : Reg) (b : Reg) : Statement (.max d a b) := by
  intro h _ x; refine (decode_01 ⟨mkR 0x19#9 b a d 0x01#6 0#2, _, _, _, _⟩ (fOp_mkR ..)).trans ?_
  simp only [shortOnly, extOnly, needZero, needCode, needWf_of h, lit01, lit_join, ↓reduceIte, BitVec.reduceToNat, BitVec.reduceEq, BitVec.reduceAppend, BitVec.reduceExtractLsb', BitVec.reduceGetLsb, BitVec.reduceGetElem, BitVec.reduceSetWidth, decide_true, decide_false, and_self, or_self, true_and, and_true, true_or, or_true, ne_eq, not_true_eq_false, not_false_eq_true, Bool.false_eq_true, fLen_mkR, fOp_mkR, fFn_mkR, fD_mkR, fA_mkR, fB_mkR, decInt, litOp, regOp3, regOp2]
theorem maxL (d : Reg) (a : Reg) (lit : Word) : Statement (.maxL d a lit) := by
  intro h _ x; refine (decode_01 ⟨mkR 0x19#9 0#5 a d 0x01#6 1#2, lit.extractLsb' 0 32, lit.extractLsb' 32 32, _, _⟩ (fOp_mkR ..)).trans ?_
  simp only [shortOnly, extOnly, needZero, needCode, needWf_of h, lit01, lit_join, ↓reduceIte, BitVec.reduceToNat, BitVec.reduceEq, BitVec.reduceAppend, BitVec.reduceExtractLsb', BitVec.reduceGetLsb, BitVec.reduceGetElem, BitVec.reduceSetWidth, decide_true, decide_false, and_self, or_self, true_and, and_true, true_or, or_true, ne_eq, not_true_eq_false, not_false_eq_true, Bool.false_eq_true, fLen_mkR, fOp_mkR, fFn_mkR, fD_mkR, fA_mkR, fB_mkR, decInt, litOp, regOp3, regOp2]
theorem minu (d : Reg) (a : Reg) (b : Reg) : Statement (.minu d a b) := by
  intro h _ x; refine (decode_01 ⟨mkR 0x1a#9 b a d 0x01#6 0#2, _, _, _, _⟩ (fOp_mkR ..)).trans ?_
  simp only [shortOnly, extOnly, needZero, needCode, needWf_of h, lit01, lit_join, ↓reduceIte, BitVec.reduceToNat, BitVec.reduceEq, BitVec.reduceAppend, BitVec.reduceExtractLsb', BitVec.reduceGetLsb, BitVec.reduceGetElem, BitVec.reduceSetWidth, decide_true, decide_false, and_self, or_self, true_and, and_true, true_or, or_true, ne_eq, not_true_eq_false, not_false_eq_true, Bool.false_eq_true, fLen_mkR, fOp_mkR, fFn_mkR, fD_mkR, fA_mkR, fB_mkR, decInt, litOp, regOp3, regOp2]
theorem minuL (d : Reg) (a : Reg) (lit : Word) : Statement (.minuL d a lit) := by
  intro h _ x; refine (decode_01 ⟨mkR 0x1a#9 0#5 a d 0x01#6 1#2, lit.extractLsb' 0 32, lit.extractLsb' 32 32, _, _⟩ (fOp_mkR ..)).trans ?_
  simp only [shortOnly, extOnly, needZero, needCode, needWf_of h, lit01, lit_join, ↓reduceIte, BitVec.reduceToNat, BitVec.reduceEq, BitVec.reduceAppend, BitVec.reduceExtractLsb', BitVec.reduceGetLsb, BitVec.reduceGetElem, BitVec.reduceSetWidth, decide_true, decide_false, and_self, or_self, true_and, and_true, true_or, or_true, ne_eq, not_true_eq_false, not_false_eq_true, Bool.false_eq_true, fLen_mkR, fOp_mkR, fFn_mkR, fD_mkR, fA_mkR, fB_mkR, decInt, litOp, regOp3, regOp2]
theorem maxu (d : Reg) (a : Reg) (b : Reg) : Statement (.maxu d a b) := by
  intro h _ x; refine (decode_01 ⟨mkR 0x1b#9 b a d 0x01#6 0#2, _, _, _, _⟩ (fOp_mkR ..)).trans ?_
  simp only [shortOnly, extOnly, needZero, needCode, needWf_of h, lit01, lit_join, ↓reduceIte, BitVec.reduceToNat, BitVec.reduceEq, BitVec.reduceAppend, BitVec.reduceExtractLsb', BitVec.reduceGetLsb, BitVec.reduceGetElem, BitVec.reduceSetWidth, decide_true, decide_false, and_self, or_self, true_and, and_true, true_or, or_true, ne_eq, not_true_eq_false, not_false_eq_true, Bool.false_eq_true, fLen_mkR, fOp_mkR, fFn_mkR, fD_mkR, fA_mkR, fB_mkR, decInt, litOp, regOp3, regOp2]
theorem maxuL (d : Reg) (a : Reg) (lit : Word) : Statement (.maxuL d a lit) := by
  intro h _ x; refine (decode_01 ⟨mkR 0x1b#9 0#5 a d 0x01#6 1#2, lit.extractLsb' 0 32, lit.extractLsb' 32 32, _, _⟩ (fOp_mkR ..)).trans ?_
  simp only [shortOnly, extOnly, needZero, needCode, needWf_of h, lit01, lit_join, ↓reduceIte, BitVec.reduceToNat, BitVec.reduceEq, BitVec.reduceAppend, BitVec.reduceExtractLsb', BitVec.reduceGetLsb, BitVec.reduceGetElem, BitVec.reduceSetWidth, decide_true, decide_false, and_self, or_self, true_and, and_true, true_or, or_true, ne_eq, not_true_eq_false, not_false_eq_true, Bool.false_eq_true, fLen_mkR, fOp_mkR, fFn_mkR, fD_mkR, fA_mkR, fB_mkR, decInt, litOp, regOp3, regOp2]
theorem slt (d : Reg) (a : Reg) (b : Reg) : Statement (.slt d a b) := by
  intro h _ x; refine (decode_01 ⟨mkR 0x1c#9 b a d 0x01#6 0#2, _, _, _, _⟩ (fOp_mkR ..)).trans ?_
  simp only [shortOnly, extOnly, needZero, needCode, needWf_of h, lit01, lit_join, ↓reduceIte, BitVec.reduceToNat, BitVec.reduceEq, BitVec.reduceAppend, BitVec.reduceExtractLsb', BitVec.reduceGetLsb, BitVec.reduceGetElem, BitVec.reduceSetWidth, decide_true, decide_false, and_self, or_self, true_and, and_true, true_or, or_true, ne_eq, not_true_eq_false, not_false_eq_true, Bool.false_eq_true, fLen_mkR, fOp_mkR, fFn_mkR, fD_mkR, fA_mkR, fB_mkR, decInt, litOp, regOp3, regOp2]
theorem sltL (d : Reg) (a : Reg) (lit : Word) : Statement (.sltL d a lit) := by
  intro h _ x; refine (decode_01 ⟨mkR 0x1c#9 0#5 a d 0x01#6 1#2, lit.extractLsb' 0 32, lit.extractLsb' 32 32, _, _⟩ (fOp_mkR ..)).trans ?_
  simp only [shortOnly, extOnly, needZero, needCode, needWf_of h, lit01, lit_join, ↓reduceIte, BitVec.reduceToNat, BitVec.reduceEq, BitVec.reduceAppend, BitVec.reduceExtractLsb', BitVec.reduceGetLsb, BitVec.reduceGetElem, BitVec.reduceSetWidth, decide_true, decide_false, and_self, or_self, true_and, and_true, true_or, or_true, ne_eq, not_true_eq_false, not_false_eq_true, Bool.false_eq_true, fLen_mkR, fOp_mkR, fFn_mkR, fD_mkR, fA_mkR, fB_mkR, decInt, litOp, regOp3, regOp2]
theorem sltu (d : Reg) (a : Reg) (b : Reg) : Statement (.sltu d a b) := by
  intro h _ x; refine (decode_01 ⟨mkR 0x1d#9 b a d 0x01#6 0#2, _, _, _, _⟩ (fOp_mkR ..)).trans ?_
  simp only [shortOnly, extOnly, needZero, needCode, needWf_of h, lit01, lit_join, ↓reduceIte, BitVec.reduceToNat, BitVec.reduceEq, BitVec.reduceAppend, BitVec.reduceExtractLsb', BitVec.reduceGetLsb, BitVec.reduceGetElem, BitVec.reduceSetWidth, decide_true, decide_false, and_self, or_self, true_and, and_true, true_or, or_true, ne_eq, not_true_eq_false, not_false_eq_true, Bool.false_eq_true, fLen_mkR, fOp_mkR, fFn_mkR, fD_mkR, fA_mkR, fB_mkR, decInt, litOp, regOp3, regOp2]
theorem sltuL (d : Reg) (a : Reg) (lit : Word) : Statement (.sltuL d a lit) := by
  intro h _ x; refine (decode_01 ⟨mkR 0x1d#9 0#5 a d 0x01#6 1#2, lit.extractLsb' 0 32, lit.extractLsb' 32 32, _, _⟩ (fOp_mkR ..)).trans ?_
  simp only [shortOnly, extOnly, needZero, needCode, needWf_of h, lit01, lit_join, ↓reduceIte, BitVec.reduceToNat, BitVec.reduceEq, BitVec.reduceAppend, BitVec.reduceExtractLsb', BitVec.reduceGetLsb, BitVec.reduceGetElem, BitVec.reduceSetWidth, decide_true, decide_false, and_self, or_self, true_and, and_true, true_or, or_true, ne_eq, not_true_eq_false, not_false_eq_true, Bool.false_eq_true, fLen_mkR, fOp_mkR, fFn_mkR, fD_mkR, fA_mkR, fB_mkR, decInt, litOp, regOp3, regOp2]
theorem seq (d : Reg) (a : Reg) (b : Reg) : Statement (.seq d a b) := by
  intro h _ x; refine (decode_01 ⟨mkR 0x1e#9 b a d 0x01#6 0#2, _, _, _, _⟩ (fOp_mkR ..)).trans ?_
  simp only [shortOnly, extOnly, needZero, needCode, needWf_of h, lit01, lit_join, ↓reduceIte, BitVec.reduceToNat, BitVec.reduceEq, BitVec.reduceAppend, BitVec.reduceExtractLsb', BitVec.reduceGetLsb, BitVec.reduceGetElem, BitVec.reduceSetWidth, decide_true, decide_false, and_self, or_self, true_and, and_true, true_or, or_true, ne_eq, not_true_eq_false, not_false_eq_true, Bool.false_eq_true, fLen_mkR, fOp_mkR, fFn_mkR, fD_mkR, fA_mkR, fB_mkR, decInt, litOp, regOp3, regOp2]
theorem seqL (d : Reg) (a : Reg) (lit : Word) : Statement (.seqL d a lit) := by
  intro h _ x; refine (decode_01 ⟨mkR 0x1e#9 0#5 a d 0x01#6 1#2, lit.extractLsb' 0 32, lit.extractLsb' 32 32, _, _⟩ (fOp_mkR ..)).trans ?_
  simp only [shortOnly, extOnly, needZero, needCode, needWf_of h, lit01, lit_join, ↓reduceIte, BitVec.reduceToNat, BitVec.reduceEq, BitVec.reduceAppend, BitVec.reduceExtractLsb', BitVec.reduceGetLsb, BitVec.reduceGetElem, BitVec.reduceSetWidth, decide_true, decide_false, and_self, or_self, true_and, and_true, true_or, or_true, ne_eq, not_true_eq_false, not_false_eq_true, Bool.false_eq_true, fLen_mkR, fOp_mkR, fFn_mkR, fD_mkR, fA_mkR, fB_mkR, decInt, litOp, regOp3, regOp2]
theorem clz (d : Reg) (a : Reg) : Statement (.clz d a) := by
  intro h _ x; refine (decode_01 ⟨mkR 0x20#9 0#5 a d 0x01#6 0#2, _, _, _, _⟩ (fOp_mkR ..)).trans ?_
  simp only [shortOnly, extOnly, needZero, needCode, needWf_of h, lit01, lit_join, ↓reduceIte, BitVec.reduceToNat, BitVec.reduceEq, BitVec.reduceAppend, BitVec.reduceExtractLsb', BitVec.reduceGetLsb, BitVec.reduceGetElem, BitVec.reduceSetWidth, decide_true, decide_false, and_self, or_self, true_and, and_true, true_or, or_true, ne_eq, not_true_eq_false, not_false_eq_true, Bool.false_eq_true, fLen_mkR, fOp_mkR, fFn_mkR, fD_mkR, fA_mkR, fB_mkR, decInt, litOp, regOp3, regOp2]
theorem ctz (d : Reg) (a : Reg) : Statement (.ctz d a) := by
  intro h _ x; refine (decode_01 ⟨mkR 0x21#9 0#5 a d 0x01#6 0#2, _, _, _, _⟩ (fOp_mkR ..)).trans ?_
  simp only [shortOnly, extOnly, needZero, needCode, needWf_of h, lit01, lit_join, ↓reduceIte, BitVec.reduceToNat, BitVec.reduceEq, BitVec.reduceAppend, BitVec.reduceExtractLsb', BitVec.reduceGetLsb, BitVec.reduceGetElem, BitVec.reduceSetWidth, decide_true, decide_false, and_self, or_self, true_and, and_true, true_or, or_true, ne_eq, not_true_eq_false, not_false_eq_true, Bool.false_eq_true, fLen_mkR, fOp_mkR, fFn_mkR, fD_mkR, fA_mkR, fB_mkR, decInt, litOp, regOp3, regOp2]
theorem popc (d : Reg) (a : Reg) : Statement (.popc d a) := by
  intro h _ x; refine (decode_01 ⟨mkR 0x22#9 0#5 a d 0x01#6 0#2, _, _, _, _⟩ (fOp_mkR ..)).trans ?_
  simp only [shortOnly, extOnly, needZero, needCode, needWf_of h, lit01, lit_join, ↓reduceIte, BitVec.reduceToNat, BitVec.reduceEq, BitVec.reduceAppend, BitVec.reduceExtractLsb', BitVec.reduceGetLsb, BitVec.reduceGetElem, BitVec.reduceSetWidth, decide_true, decide_false, and_self, or_self, true_and, and_true, true_or, or_true, ne_eq, not_true_eq_false, not_false_eq_true, Bool.false_eq_true, fLen_mkR, fOp_mkR, fFn_mkR, fD_mkR, fA_mkR, fB_mkR, decInt, litOp, regOp3, regOp2]
theorem brev (d : Reg) (a : Reg) : Statement (.brev d a) := by
  intro h _ x; refine (decode_01 ⟨mkR 0x23#9 0#5 a d 0x01#6 0#2, _, _, _, _⟩ (fOp_mkR ..)).trans ?_
  simp only [shortOnly, extOnly, needZero, needCode, needWf_of h, lit01, lit_join, ↓reduceIte, BitVec.reduceToNat, BitVec.reduceEq, BitVec.reduceAppend, BitVec.reduceExtractLsb', BitVec.reduceGetLsb, BitVec.reduceGetElem, BitVec.reduceSetWidth, decide_true, decide_false, and_self, or_self, true_and, and_true, true_or, or_true, ne_eq, not_true_eq_false, not_false_eq_true, Bool.false_eq_true, fLen_mkR, fOp_mkR, fFn_mkR, fD_mkR, fA_mkR, fB_mkR, decInt, litOp, regOp3, regOp2]
theorem bswap (d : Reg) (a : Reg) : Statement (.bswap d a) := by
  intro h _ x; refine (decode_01 ⟨mkR 0x24#9 0#5 a d 0x01#6 0#2, _, _, _, _⟩ (fOp_mkR ..)).trans ?_
  simp only [shortOnly, extOnly, needZero, needCode, needWf_of h, lit01, lit_join, ↓reduceIte, BitVec.reduceToNat, BitVec.reduceEq, BitVec.reduceAppend, BitVec.reduceExtractLsb', BitVec.reduceGetLsb, BitVec.reduceGetElem, BitVec.reduceSetWidth, decide_true, decide_false, and_self, or_self, true_and, and_true, true_or, or_true, ne_eq, not_true_eq_false, not_false_eq_true, Bool.false_eq_true, fLen_mkR, fOp_mkR, fFn_mkR, fD_mkR, fA_mkR, fB_mkR, decInt, litOp, regOp3, regOp2]
theorem sext (d : Reg) (a : Reg) (b : Reg) : Statement (.sext d a b) := by
  intro h _ x; refine (decode_01 ⟨mkR 0x28#9 b a d 0x01#6 0#2, _, _, _, _⟩ (fOp_mkR ..)).trans ?_
  simp only [shortOnly, extOnly, needZero, needCode, needWf_of h, lit01, lit_join, ↓reduceIte, BitVec.reduceToNat, BitVec.reduceEq, BitVec.reduceAppend, BitVec.reduceExtractLsb', BitVec.reduceGetLsb, BitVec.reduceGetElem, BitVec.reduceSetWidth, decide_true, decide_false, and_self, or_self, true_and, and_true, true_or, or_true, ne_eq, not_true_eq_false, not_false_eq_true, Bool.false_eq_true, fLen_mkR, fOp_mkR, fFn_mkR, fD_mkR, fA_mkR, fB_mkR, decInt, litOp, regOp3, regOp2]
theorem zext (d : Reg) (a : Reg) (b : Reg) : Statement (.zext d a b) := by
  intro h _ x; refine (decode_01 ⟨mkR 0x29#9 b a d 0x01#6 0#2, _, _, _, _⟩ (fOp_mkR ..)).trans ?_
  simp only [shortOnly, extOnly, needZero, needCode, needWf_of h, lit01, lit_join, ↓reduceIte, BitVec.reduceToNat, BitVec.reduceEq, BitVec.reduceAppend, BitVec.reduceExtractLsb', BitVec.reduceGetLsb, BitVec.reduceGetElem, BitVec.reduceSetWidth, decide_true, decide_false, and_self, or_self, true_and, and_true, true_or, or_true, ne_eq, not_true_eq_false, not_false_eq_true, Bool.false_eq_true, fLen_mkR, fOp_mkR, fFn_mkR, fD_mkR, fA_mkR, fB_mkR, decInt, litOp, regOp3, regOp2]
theorem bfx (d : Reg) (a : Reg) (b : Reg) : Statement (.bfx d a b) := by
  intro h _ x; refine (decode_01 ⟨mkR 0x2c#9 b a d 0x01#6 0#2, _, _, _, _⟩ (fOp_mkR ..)).trans ?_
  simp only [shortOnly, extOnly, needZero, needCode, needWf_of h, lit01, lit_join, ↓reduceIte, BitVec.reduceToNat, BitVec.reduceEq, BitVec.reduceAppend, BitVec.reduceExtractLsb', BitVec.reduceGetLsb, BitVec.reduceGetElem, BitVec.reduceSetWidth, decide_true, decide_false, and_self, or_self, true_and, and_true, true_or, or_true, ne_eq, not_true_eq_false, not_false_eq_true, Bool.false_eq_true, fLen_mkR, fOp_mkR, fFn_mkR, fD_mkR, fA_mkR, fB_mkR, decInt, litOp, regOp3, regOp2]
theorem bfi (d : Reg) (a : Reg) (b : Reg) : Statement (.bfi d a b) := by
  intro h _ x; refine (decode_01 ⟨mkR 0x2d#9 b a d 0x01#6 0#2, _, _, _, _⟩ (fOp_mkR ..)).trans ?_
  simp only [shortOnly, extOnly, needZero, needCode, needWf_of h, lit01, lit_join, ↓reduceIte, BitVec.reduceToNat, BitVec.reduceEq, BitVec.reduceAppend, BitVec.reduceExtractLsb', BitVec.reduceGetLsb, BitVec.reduceGetElem, BitVec.reduceSetWidth, decide_true, decide_false, and_self, or_self, true_and, and_true, true_or, or_true, ne_eq, not_true_eq_false, not_false_eq_true, Bool.false_eq_true, fLen_mkR, fOp_mkR, fFn_mkR, fD_mkR, fA_mkR, fB_mkR, decInt, litOp, regOp3, regOp2]
theorem addi (d : Reg) (a : Reg) (imm14 : BitVec 14) : Statement (.addi d a imm14) := by
  intro h _ x; refine (decode_02 ⟨mkI imm14 a d 0x02#6 0#2, _, _, _, _⟩ (fOp_mkI ..)).trans ?_
  simp only [shortOnly, extOnly, needZero, needCode, needWf_of h, lit01, lit_join, ↓reduceIte, BitVec.reduceToNat, BitVec.reduceEq, BitVec.reduceAppend, BitVec.reduceExtractLsb', BitVec.reduceGetLsb, BitVec.reduceGetElem, BitVec.reduceSetWidth, decide_true, decide_false, and_self, or_self, true_and, and_true, true_or, or_true, ne_eq, not_true_eq_false, not_false_eq_true, Bool.false_eq_true, fLen_mkI, fOp_mkI, fImm14_mkI, fD_mkI, fA_mkI]
theorem addiL (d : Reg) (a : Reg) (lit : Word) : Statement (.addiL d a lit) := by
  intro h _ x; refine (decode_02 ⟨mkI 0#14 a d 0x02#6 1#2, lit.extractLsb' 0 32, lit.extractLsb' 32 32, _, _⟩ (fOp_mkI ..)).trans ?_
  simp only [shortOnly, extOnly, needZero, needCode, needWf_of h, lit01, lit_join, ↓reduceIte, BitVec.reduceToNat, BitVec.reduceEq, BitVec.reduceAppend, BitVec.reduceExtractLsb', BitVec.reduceGetLsb, BitVec.reduceGetElem, BitVec.reduceSetWidth, decide_true, decide_false, and_self, or_self, true_and, and_true, true_or, or_true, ne_eq, not_true_eq_false, not_false_eq_true, Bool.false_eq_true, fLen_mkI, fOp_mkI, fImm14_mkI, fD_mkI, fA_mkI]
theorem andi (d : Reg) (a : Reg) (imm14 : BitVec 14) : Statement (.andi d a imm14) := by
  intro h _ x; refine (decode_03 ⟨mkI imm14 a d 0x03#6 0#2, _, _, _, _⟩ (fOp_mkI ..)).trans ?_
  simp only [shortOnly, extOnly, needZero, needCode, needWf_of h, lit01, lit_join, ↓reduceIte, BitVec.reduceToNat, BitVec.reduceEq, BitVec.reduceAppend, BitVec.reduceExtractLsb', BitVec.reduceGetLsb, BitVec.reduceGetElem, BitVec.reduceSetWidth, decide_true, decide_false, and_self, or_self, true_and, and_true, true_or, or_true, ne_eq, not_true_eq_false, not_false_eq_true, Bool.false_eq_true, fLen_mkI, fOp_mkI, fImm14_mkI, fD_mkI, fA_mkI]
theorem andiL (d : Reg) (a : Reg) (lit : Word) : Statement (.andiL d a lit) := by
  intro h _ x; refine (decode_03 ⟨mkI 0#14 a d 0x03#6 1#2, lit.extractLsb' 0 32, lit.extractLsb' 32 32, _, _⟩ (fOp_mkI ..)).trans ?_
  simp only [shortOnly, extOnly, needZero, needCode, needWf_of h, lit01, lit_join, ↓reduceIte, BitVec.reduceToNat, BitVec.reduceEq, BitVec.reduceAppend, BitVec.reduceExtractLsb', BitVec.reduceGetLsb, BitVec.reduceGetElem, BitVec.reduceSetWidth, decide_true, decide_false, and_self, or_self, true_and, and_true, true_or, or_true, ne_eq, not_true_eq_false, not_false_eq_true, Bool.false_eq_true, fLen_mkI, fOp_mkI, fImm14_mkI, fD_mkI, fA_mkI]
theorem ori (d : Reg) (a : Reg) (imm14 : BitVec 14) : Statement (.ori d a imm14) := by
  intro h _ x; refine (decode_04 ⟨mkI imm14 a d 0x04#6 0#2, _, _, _, _⟩ (fOp_mkI ..)).trans ?_
  simp only [shortOnly, extOnly, needZero, needCode, needWf_of h, lit01, lit_join, ↓reduceIte, BitVec.reduceToNat, BitVec.reduceEq, BitVec.reduceAppend, BitVec.reduceExtractLsb', BitVec.reduceGetLsb, BitVec.reduceGetElem, BitVec.reduceSetWidth, decide_true, decide_false, and_self, or_self, true_and, and_true, true_or, or_true, ne_eq, not_true_eq_false, not_false_eq_true, Bool.false_eq_true, fLen_mkI, fOp_mkI, fImm14_mkI, fD_mkI, fA_mkI]
theorem oriL (d : Reg) (a : Reg) (lit : Word) : Statement (.oriL d a lit) := by
  intro h _ x; refine (decode_04 ⟨mkI 0#14 a d 0x04#6 1#2, lit.extractLsb' 0 32, lit.extractLsb' 32 32, _, _⟩ (fOp_mkI ..)).trans ?_
  simp only [shortOnly, extOnly, needZero, needCode, needWf_of h, lit01, lit_join, ↓reduceIte, BitVec.reduceToNat, BitVec.reduceEq, BitVec.reduceAppend, BitVec.reduceExtractLsb', BitVec.reduceGetLsb, BitVec.reduceGetElem, BitVec.reduceSetWidth, decide_true, decide_false, and_self, or_self, true_and, and_true, true_or, or_true, ne_eq, not_true_eq_false, not_false_eq_true, Bool.false_eq_true, fLen_mkI, fOp_mkI, fImm14_mkI, fD_mkI, fA_mkI]
theorem xori (d : Reg) (a : Reg) (imm14 : BitVec 14) : Statement (.xori d a imm14) := by
  intro h _ x; refine (decode_05 ⟨mkI imm14 a d 0x05#6 0#2, _, _, _, _⟩ (fOp_mkI ..)).trans ?_
  simp only [shortOnly, extOnly, needZero, needCode, needWf_of h, lit01, lit_join, ↓reduceIte, BitVec.reduceToNat, BitVec.reduceEq, BitVec.reduceAppend, BitVec.reduceExtractLsb', BitVec.reduceGetLsb, BitVec.reduceGetElem, BitVec.reduceSetWidth, decide_true, decide_false, and_self, or_self, true_and, and_true, true_or, or_true, ne_eq, not_true_eq_false, not_false_eq_true, Bool.false_eq_true, fLen_mkI, fOp_mkI, fImm14_mkI, fD_mkI, fA_mkI]
theorem xoriL (d : Reg) (a : Reg) (lit : Word) : Statement (.xoriL d a lit) := by
  intro h _ x; refine (decode_05 ⟨mkI 0#14 a d 0x05#6 1#2, lit.extractLsb' 0 32, lit.extractLsb' 32 32, _, _⟩ (fOp_mkI ..)).trans ?_
  simp only [shortOnly, extOnly, needZero, needCode, needWf_of h, lit01, lit_join, ↓reduceIte, BitVec.reduceToNat, BitVec.reduceEq, BitVec.reduceAppend, BitVec.reduceExtractLsb', BitVec.reduceGetLsb, BitVec.reduceGetElem, BitVec.reduceSetWidth, decide_true, decide_false, and_self, or_self, true_and, and_true, true_or, or_true, ne_eq, not_true_eq_false, not_false_eq_true, Bool.false_eq_true, fLen_mkI, fOp_mkI, fImm14_mkI, fD_mkI, fA_mkI]
theorem slti (d : Reg) (a : Reg) (imm14 : BitVec 14) : Statement (.slti d a imm14) := by
  intro h _ x; refine (decode_06 ⟨mkI imm14 a d 0x06#6 0#2, _, _, _, _⟩ (fOp_mkI ..)).trans ?_
  simp only [shortOnly, extOnly, needZero, needCode, needWf_of h, lit01, lit_join, ↓reduceIte, BitVec.reduceToNat, BitVec.reduceEq, BitVec.reduceAppend, BitVec.reduceExtractLsb', BitVec.reduceGetLsb, BitVec.reduceGetElem, BitVec.reduceSetWidth, decide_true, decide_false, and_self, or_self, true_and, and_true, true_or, or_true, ne_eq, not_true_eq_false, not_false_eq_true, Bool.false_eq_true, fLen_mkI, fOp_mkI, fImm14_mkI, fD_mkI, fA_mkI]
theorem sltiL (d : Reg) (a : Reg) (lit : Word) : Statement (.sltiL d a lit) := by
  intro h _ x; refine (decode_06 ⟨mkI 0#14 a d 0x06#6 1#2, lit.extractLsb' 0 32, lit.extractLsb' 32 32, _, _⟩ (fOp_mkI ..)).trans ?_
  simp only [shortOnly, extOnly, needZero, needCode, needWf_of h, lit01, lit_join, ↓reduceIte, BitVec.reduceToNat, BitVec.reduceEq, BitVec.reduceAppend, BitVec.reduceExtractLsb', BitVec.reduceGetLsb, BitVec.reduceGetElem, BitVec.reduceSetWidth, decide_true, decide_false, and_self, or_self, true_and, and_true, true_or, or_true, ne_eq, not_true_eq_false, not_false_eq_true, Bool.false_eq_true, fLen_mkI, fOp_mkI, fImm14_mkI, fD_mkI, fA_mkI]
theorem sltiu (d : Reg) (a : Reg) (imm14 : BitVec 14) : Statement (.sltiu d a imm14) := by
  intro h _ x; refine (decode_07 ⟨mkI imm14 a d 0x07#6 0#2, _, _, _, _⟩ (fOp_mkI ..)).trans ?_
  simp only [shortOnly, extOnly, needZero, needCode, needWf_of h, lit01, lit_join, ↓reduceIte, BitVec.reduceToNat, BitVec.reduceEq, BitVec.reduceAppend, BitVec.reduceExtractLsb', BitVec.reduceGetLsb, BitVec.reduceGetElem, BitVec.reduceSetWidth, decide_true, decide_false, and_self, or_self, true_and, and_true, true_or, or_true, ne_eq, not_true_eq_false, not_false_eq_true, Bool.false_eq_true, fLen_mkI, fOp_mkI, fImm14_mkI, fD_mkI, fA_mkI]
theorem sltiuL (d : Reg) (a : Reg) (lit : Word) : Statement (.sltiuL d a lit) := by
  intro h _ x; refine (decode_07 ⟨mkI 0#14 a d 0x07#6 1#2, lit.extractLsb' 0 32, lit.extractLsb' 32 32, _, _⟩ (fOp_mkI ..)).trans ?_
  simp only [shortOnly, extOnly, needZero, needCode, needWf_of h, lit01, lit_join, ↓reduceIte, BitVec.reduceToNat, BitVec.reduceEq, BitVec.reduceAppend, BitVec.reduceExtractLsb', BitVec.reduceGetLsb, BitVec.reduceGetElem, BitVec.reduceSetWidth, decide_true, decide_false, and_self, or_self, true_and, and_true, true_or, or_true, ne_eq, not_true_eq_false, not_false_eq_true, Bool.false_eq_true, fLen_mkI, fOp_mkI, fImm14_mkI, fD_mkI, fA_mkI]
theorem shli (d : Reg) (a : Reg) (imm14 : BitVec 14) : Statement (.shli d a imm14) := by
  intro h _ x; refine (decode_08 ⟨mkI imm14 a d 0x08#6 0#2, _, _, _, _⟩ (fOp_mkI ..)).trans ?_
  simp only [shortOnly, extOnly, needZero, needCode, needWf_of h, lit01, lit_join, ↓reduceIte, BitVec.reduceToNat, BitVec.reduceEq, BitVec.reduceAppend, BitVec.reduceExtractLsb', BitVec.reduceGetLsb, BitVec.reduceGetElem, BitVec.reduceSetWidth, decide_true, decide_false, and_self, or_self, true_and, and_true, true_or, or_true, ne_eq, not_true_eq_false, not_false_eq_true, Bool.false_eq_true, fLen_mkI, fOp_mkI, fImm14_mkI, fD_mkI, fA_mkI]
theorem shri (d : Reg) (a : Reg) (imm14 : BitVec 14) : Statement (.shri d a imm14) := by
  intro h _ x; refine (decode_09 ⟨mkI imm14 a d 0x09#6 0#2, _, _, _, _⟩ (fOp_mkI ..)).trans ?_
  simp only [shortOnly, extOnly, needZero, needCode, needWf_of h, lit01, lit_join, ↓reduceIte, BitVec.reduceToNat, BitVec.reduceEq, BitVec.reduceAppend, BitVec.reduceExtractLsb', BitVec.reduceGetLsb, BitVec.reduceGetElem, BitVec.reduceSetWidth, decide_true, decide_false, and_self, or_self, true_and, and_true, true_or, or_true, ne_eq, not_true_eq_false, not_false_eq_true, Bool.false_eq_true, fLen_mkI, fOp_mkI, fImm14_mkI, fD_mkI, fA_mkI]
theorem srai (d : Reg) (a : Reg) (imm14 : BitVec 14) : Statement (.srai d a imm14) := by
  intro h _ x; refine (decode_0a ⟨mkI imm14 a d 0x0a#6 0#2, _, _, _, _⟩ (fOp_mkI ..)).trans ?_
  simp only [shortOnly, extOnly, needZero, needCode, needWf_of h, lit01, lit_join, ↓reduceIte, BitVec.reduceToNat, BitVec.reduceEq, BitVec.reduceAppend, BitVec.reduceExtractLsb', BitVec.reduceGetLsb, BitVec.reduceGetElem, BitVec.reduceSetWidth, decide_true, decide_false, and_self, or_self, true_and, and_true, true_or, or_true, ne_eq, not_true_eq_false, not_false_eq_true, Bool.false_eq_true, fLen_mkI, fOp_mkI, fImm14_mkI, fD_mkI, fA_mkI]
theorem lim (d : Reg) (imm19 : BitVec 19) : Statement (.lim d imm19) := by
  intro h _ x; refine (decode_0b ⟨mkJ imm19 d 0x0b#6 0#2, _, _, _, _⟩ (fOp_mkJ ..)).trans ?_
  simp only [shortOnly, extOnly, needZero, needCode, needWf_of h, lit01, lit_join, ↓reduceIte, BitVec.reduceToNat, BitVec.reduceEq, BitVec.reduceAppend, BitVec.reduceExtractLsb', BitVec.reduceGetLsb, BitVec.reduceGetElem, BitVec.reduceSetWidth, decide_true, decide_false, and_self, or_self, true_and, and_true, true_or, or_true, ne_eq, not_true_eq_false, not_false_eq_true, Bool.false_eq_true, fLen_mkJ, fOp_mkJ, fImm19_mkJ, fD_mkJ]
theorem limL (d : Reg) (lit : Word) : Statement (.limL d lit) := by
  intro h _ x; refine (decode_0b ⟨mkJ 0#19 d 0x0b#6 1#2, lit.extractLsb' 0 32, lit.extractLsb' 32 32, _, _⟩ (fOp_mkJ ..)).trans ?_
  simp only [shortOnly, extOnly, needZero, needCode, needWf_of h, lit01, lit_join, ↓reduceIte, BitVec.reduceToNat, BitVec.reduceEq, BitVec.reduceAppend, BitVec.reduceExtractLsb', BitVec.reduceGetLsb, BitVec.reduceGetElem, BitVec.reduceSetWidth, decide_true, decide_false, and_self, or_self, true_and, and_true, true_or, or_true, ne_eq, not_true_eq_false, not_false_eq_true, Bool.false_eq_true, fLen_mkJ, fOp_mkJ, fImm19_mkJ, fD_mkJ]
theorem addpc (d : Reg) (imm19 : BitVec 19) : Statement (.addpc d imm19) := by
  intro h _ x; refine (decode_0c ⟨mkJ imm19 d 0x0c#6 0#2, _, _, _, _⟩ (fOp_mkJ ..)).trans ?_
  simp only [shortOnly, extOnly, needZero, needCode, needWf_of h, lit01, lit_join, ↓reduceIte, BitVec.reduceToNat, BitVec.reduceEq, BitVec.reduceAppend, BitVec.reduceExtractLsb', BitVec.reduceGetLsb, BitVec.reduceGetElem, BitVec.reduceSetWidth, decide_true, decide_false, and_self, or_self, true_and, and_true, true_or, or_true, ne_eq, not_true_eq_false, not_false_eq_true, Bool.false_eq_true, fLen_mkJ, fOp_mkJ, fImm19_mkJ, fD_mkJ]
theorem beq (a : Reg) (b : Reg) (off14 : BitVec 14) : Statement (.beq a b off14) := by
  intro h _ x; refine (decode_10 ⟨mkS off14 b a 0x10#6 0#2, _, _, _, _⟩ (fOp_mkS ..)).trans ?_
  simp only [shortOnly, extOnly, needZero, needCode, needWf_of h, lit01, lit_join, ↓reduceIte, BitVec.reduceToNat, BitVec.reduceEq, BitVec.reduceAppend, BitVec.reduceExtractLsb', BitVec.reduceGetLsb, BitVec.reduceGetElem, BitVec.reduceSetWidth, decide_true, decide_false, and_self, or_self, true_and, and_true, true_or, or_true, ne_eq, not_true_eq_false, not_false_eq_true, Bool.false_eq_true, fLen_mkS, fOp_mkS, fImm14S_mkS, fB_mkS, fA_mkS]
theorem bne (a : Reg) (b : Reg) (off14 : BitVec 14) : Statement (.bne a b off14) := by
  intro h _ x; refine (decode_11 ⟨mkS off14 b a 0x11#6 0#2, _, _, _, _⟩ (fOp_mkS ..)).trans ?_
  simp only [shortOnly, extOnly, needZero, needCode, needWf_of h, lit01, lit_join, ↓reduceIte, BitVec.reduceToNat, BitVec.reduceEq, BitVec.reduceAppend, BitVec.reduceExtractLsb', BitVec.reduceGetLsb, BitVec.reduceGetElem, BitVec.reduceSetWidth, decide_true, decide_false, and_self, or_self, true_and, and_true, true_or, or_true, ne_eq, not_true_eq_false, not_false_eq_true, Bool.false_eq_true, fLen_mkS, fOp_mkS, fImm14S_mkS, fB_mkS, fA_mkS]
theorem blt (a : Reg) (b : Reg) (off14 : BitVec 14) : Statement (.blt a b off14) := by
  intro h _ x; refine (decode_12 ⟨mkS off14 b a 0x12#6 0#2, _, _, _, _⟩ (fOp_mkS ..)).trans ?_
  simp only [shortOnly, extOnly, needZero, needCode, needWf_of h, lit01, lit_join, ↓reduceIte, BitVec.reduceToNat, BitVec.reduceEq, BitVec.reduceAppend, BitVec.reduceExtractLsb', BitVec.reduceGetLsb, BitVec.reduceGetElem, BitVec.reduceSetWidth, decide_true, decide_false, and_self, or_self, true_and, and_true, true_or, or_true, ne_eq, not_true_eq_false, not_false_eq_true, Bool.false_eq_true, fLen_mkS, fOp_mkS, fImm14S_mkS, fB_mkS, fA_mkS]
theorem bge (a : Reg) (b : Reg) (off14 : BitVec 14) : Statement (.bge a b off14) := by
  intro h _ x; refine (decode_13 ⟨mkS off14 b a 0x13#6 0#2, _, _, _, _⟩ (fOp_mkS ..)).trans ?_
  simp only [shortOnly, extOnly, needZero, needCode, needWf_of h, lit01, lit_join, ↓reduceIte, BitVec.reduceToNat, BitVec.reduceEq, BitVec.reduceAppend, BitVec.reduceExtractLsb', BitVec.reduceGetLsb, BitVec.reduceGetElem, BitVec.reduceSetWidth, decide_true, decide_false, and_self, or_self, true_and, and_true, true_or, or_true, ne_eq, not_true_eq_false, not_false_eq_true, Bool.false_eq_true, fLen_mkS, fOp_mkS, fImm14S_mkS, fB_mkS, fA_mkS]
theorem bltu (a : Reg) (b : Reg) (off14 : BitVec 14) : Statement (.bltu a b off14) := by
  intro h _ x; refine (decode_14 ⟨mkS off14 b a 0x14#6 0#2, _, _, _, _⟩ (fOp_mkS ..)).trans ?_
  simp only [shortOnly, extOnly, needZero, needCode, needWf_of h, lit01, lit_join, ↓reduceIte, BitVec.reduceToNat, BitVec.reduceEq, BitVec.reduceAppend, BitVec.reduceExtractLsb', BitVec.reduceGetLsb, BitVec.reduceGetElem, BitVec.reduceSetWidth, decide_true, decide_false, and_self, or_self, true_and, and_true, true_or, or_true, ne_eq, not_true_eq_false, not_false_eq_true, Bool.false_eq_true, fLen_mkS, fOp_mkS, fImm14S_mkS, fB_mkS, fA_mkS]
theorem bgeu (a : Reg) (b : Reg) (off14 : BitVec 14) : Statement (.bgeu a b off14) := by
  intro h _ x; refine (decode_15 ⟨mkS off14 b a 0x15#6 0#2, _, _, _, _⟩ (fOp_mkS ..)).trans ?_
  simp only [shortOnly, extOnly, needZero, needCode, needWf_of h, lit01, lit_join, ↓reduceIte, BitVec.reduceToNat, BitVec.reduceEq, BitVec.reduceAppend, BitVec.reduceExtractLsb', BitVec.reduceGetLsb, BitVec.reduceGetElem, BitVec.reduceSetWidth, decide_true, decide_false, and_self, or_self, true_and, and_true, true_or, or_true, ne_eq, not_true_eq_false, not_false_eq_true, Bool.false_eq_true, fLen_mkS, fOp_mkS, fImm14S_mkS, fB_mkS, fA_mkS]
theorem jal (d : Reg) (imm19 : BitVec 19) : Statement (.jal d imm19) := by
  intro h _ x; refine (decode_16 ⟨mkJ imm19 d 0x16#6 0#2, _, _, _, _⟩ (fOp_mkJ ..)).trans ?_
  simp only [shortOnly, extOnly, needZero, needCode, needWf_of h, lit01, lit_join, ↓reduceIte, BitVec.reduceToNat, BitVec.reduceEq, BitVec.reduceAppend, BitVec.reduceExtractLsb', BitVec.reduceGetLsb, BitVec.reduceGetElem, BitVec.reduceSetWidth, decide_true, decide_false, and_self, or_self, true_and, and_true, true_or, or_true, ne_eq, not_true_eq_false, not_false_eq_true, Bool.false_eq_true, fLen_mkJ, fOp_mkJ, fImm19_mkJ, fD_mkJ]
theorem jalr (d : Reg) (a : Reg) : Statement (.jalr d a) := by
  intro h _ x; refine (decode_17 ⟨mkR 0x0#9 0#5 a d 0x17#6 0#2, _, _, _, _⟩ (fOp_mkR ..)).trans ?_
  simp only [shortOnly, extOnly, needZero, needCode, needWf_of h, lit01, lit_join, ↓reduceIte, BitVec.reduceToNat, BitVec.reduceEq, BitVec.reduceAppend, BitVec.reduceExtractLsb', BitVec.reduceGetLsb, BitVec.reduceGetElem, BitVec.reduceSetWidth, decide_true, decide_false, and_self, or_self, true_and, and_true, true_or, or_true, ne_eq, not_true_eq_false, not_false_eq_true, Bool.false_eq_true, fLen_mkR, fOp_mkR, fFn_mkR, fD_mkR, fA_mkR, fB_mkR, plain17]
theorem rep (a : Reg) (n : BitVec 5) : Statement (.rep a n) := by
  intro h _ x; refine (decode_17 ⟨mkR 0x001#9 n a 0#5 0x17#6 0#2, _, _, _, _⟩ (fOp_mkR ..)).trans ?_
  simp only [shortOnly, extOnly, needZero, needCode, needWf_of h, lit01, lit_join, ↓reduceIte, BitVec.reduceToNat, BitVec.reduceEq, BitVec.reduceAppend, BitVec.reduceExtractLsb', BitVec.reduceGetLsb, BitVec.reduceGetElem, BitVec.reduceSetWidth, decide_true, decide_false, and_self, or_self, true_and, and_true, true_or, or_true, ne_eq, not_true_eq_false, not_false_eq_true, Bool.false_eq_true, fLen_mkR, fOp_mkR, fFn_mkR, fD_mkR, fA_mkR, fB_mkR, plain17]
theorem ld (d : Reg) (a : Reg) (off10 : BitVec 10) (ef : Bool) (sz : Sz) : Statement (.ld d a off10 ef sz) := by
  intro h _ x; refine (decode_18 ⟨mkI (memImm off10 ef sz) a d 0x18#6 0#2, _, _, _, _⟩ (fOp_mkI ..)).trans ?_
  simp only [shortOnly, extOnly, needZero, needCode, needWf_of h, lit01, lit_join, ↓reduceIte, BitVec.reduceToNat, BitVec.reduceEq, BitVec.reduceAppend, BitVec.reduceExtractLsb', BitVec.reduceGetLsb, BitVec.reduceGetElem, BitVec.reduceSetWidth, decide_true, decide_false, and_self, or_self, true_and, and_true, true_or, or_true, ne_eq, not_true_eq_false, not_false_eq_true, Bool.false_eq_true, fLen_mkI, fOp_mkI, fImm14_mkI, fD_mkI, fA_mkI, decMem, szOf_szCode, etOf_etCode, itOf_itCode, dtOf_dtCode, rmOf_rmCode, pathOf_pathCode, bit0_get, bit0_get', bit0_high, memImm_sz, memImm_ef, memImm_ef', memImm_off]
theorem ldL (d : Reg) (a : Reg) (ef : Bool) (sz : Sz) (lit : Word) : Statement (.ldL d a ef sz lit) := by
  intro h _ x; refine (decode_18 ⟨mkI (memImm 0#10 ef sz) a d 0x18#6 1#2, lit.extractLsb' 0 32, lit.extractLsb' 32 32, _, _⟩ (fOp_mkI ..)).trans ?_
  simp only [shortOnly, extOnly, needZero, needCode, needWf_of h, lit01, lit_join, ↓reduceIte, BitVec.reduceToNat, BitVec.reduceEq, BitVec.reduceAppend, BitVec.reduceExtractLsb', BitVec.reduceGetLsb, BitVec.reduceGetElem, BitVec.reduceSetWidth, decide_true, decide_false, and_self, or_self, true_and, and_true, true_or, or_true, ne_eq, not_true_eq_false, not_false_eq_true, Bool.false_eq_true, fLen_mkI, fOp_mkI, fImm14_mkI, fD_mkI, fA_mkI, decMem, szOf_szCode, etOf_etCode, itOf_itCode, dtOf_dtCode, rmOf_rmCode, pathOf_pathCode, bit0_get, bit0_get', bit0_high, memImm_sz, memImm_ef, memImm_ef', memImm_off]
theorem st (a : Reg) (b : Reg) (off10 : BitVec 10) (ef : Bool) (sz : Sz) : Statement (.st a b off10 ef sz) := by
  intro h _ x; refine (decode_19 ⟨mkS (memImm off10 ef sz) b a 0x19#6 0#2, _, _, _, _⟩ (fOp_mkS ..)).trans ?_
  simp only [shortOnly, extOnly, needZero, needCode, needWf_of h, lit01, lit_join, ↓reduceIte, BitVec.reduceToNat, BitVec.reduceEq, BitVec.reduceAppend, BitVec.reduceExtractLsb', BitVec.reduceGetLsb, BitVec.reduceGetElem, BitVec.reduceSetWidth, decide_true, decide_false, and_self, or_self, true_and, and_true, true_or, or_true, ne_eq, not_true_eq_false, not_false_eq_true, Bool.false_eq_true, fLen_mkS, fOp_mkS, fImm14S_mkS, fB_mkS, fA_mkS, decMem, szOf_szCode, etOf_etCode, itOf_itCode, dtOf_dtCode, rmOf_rmCode, pathOf_pathCode, bit0_get, bit0_get', bit0_high, memImm_sz, memImm_ef, memImm_ef', memImm_off]
theorem stL (a : Reg) (b : Reg) (ef : Bool) (sz : Sz) (lit : Word) : Statement (.stL a b ef sz lit) := by
  intro h _ x; refine (decode_19 ⟨mkS (memImm 0#10 ef sz) b a 0x19#6 1#2, lit.extractLsb' 0 32, lit.extractLsb' 32 32, _, _⟩ (fOp_mkS ..)).trans ?_
  simp only [shortOnly, extOnly, needZero, needCode, needWf_of h, lit01, lit_join, ↓reduceIte, BitVec.reduceToNat, BitVec.reduceEq, BitVec.reduceAppend, BitVec.reduceExtractLsb', BitVec.reduceGetLsb, BitVec.reduceGetElem, BitVec.reduceSetWidth, decide_true, decide_false, and_self, or_self, true_and, and_true, true_or, or_true, ne_eq, not_true_eq_false, not_false_eq_true, Bool.false_eq_true, fLen_mkS, fOp_mkS, fImm14S_mkS, fB_mkS, fA_mkS, decMem, szOf_szCode, etOf_etCode, itOf_itCode, dtOf_dtCode, rmOf_rmCode, pathOf_pathCode, bit0_get, bit0_get', bit0_high, memImm_sz, memImm_ef, memImm_ef', memImm_off]
theorem ldp (d : Reg) (a : Reg) (off10 : BitVec 10) (ef : Bool) (sz : Sz) : Statement (.ldp d a off10 ef sz) := by
  intro h _ x; refine (decode_1a ⟨mkI (memImm off10 ef sz) a d 0x1a#6 0#2, _, _, _, _⟩ (fOp_mkI ..)).trans ?_
  simp only [shortOnly, extOnly, needZero, needCode, needWf_of h, lit01, lit_join, ↓reduceIte, BitVec.reduceToNat, BitVec.reduceEq, BitVec.reduceAppend, BitVec.reduceExtractLsb', BitVec.reduceGetLsb, BitVec.reduceGetElem, BitVec.reduceSetWidth, decide_true, decide_false, and_self, or_self, true_and, and_true, true_or, or_true, ne_eq, not_true_eq_false, not_false_eq_true, Bool.false_eq_true, fLen_mkI, fOp_mkI, fImm14_mkI, fD_mkI, fA_mkI, decMem, szOf_szCode, etOf_etCode, itOf_itCode, dtOf_dtCode, rmOf_rmCode, pathOf_pathCode, bit0_get, bit0_get', bit0_high, memImm_sz, memImm_ef, memImm_ef', memImm_off]
theorem ldpL (d : Reg) (a : Reg) (ef : Bool) (sz : Sz) (lit : Word) : Statement (.ldpL d a ef sz lit) := by
  intro h _ x; refine (decode_1a ⟨mkI (memImm 0#10 ef sz) a d 0x1a#6 1#2, lit.extractLsb' 0 32, lit.extractLsb' 32 32, _, _⟩ (fOp_mkI ..)).trans ?_
  simp only [shortOnly, extOnly, needZero, needCode, needWf_of h, lit01, lit_join, ↓reduceIte, BitVec.reduceToNat, BitVec.reduceEq, BitVec.reduceAppend, BitVec.reduceExtractLsb', BitVec.reduceGetLsb, BitVec.reduceGetElem, BitVec.reduceSetWidth, decide_true, decide_false, and_self, or_self, true_and, and_true, true_or, or_true, ne_eq, not_true_eq_false, not_false_eq_true, Bool.false_eq_true, fLen_mkI, fOp_mkI, fImm14_mkI, fD_mkI, fA_mkI, decMem, szOf_szCode, etOf_etCode, itOf_itCode, dtOf_dtCode, rmOf_rmCode, pathOf_pathCode, bit0_get, bit0_get', bit0_high, memImm_sz, memImm_ef, memImm_ef', memImm_off]
theorem stp (a : Reg) (b : Reg) (off10 : BitVec 10) (ef : Bool) (sz : Sz) : Statement (.stp a b off10 ef sz) := by
  intro h _ x; refine (decode_1b ⟨mkS (memImm off10 ef sz) b a 0x1b#6 0#2, _, _, _, _⟩ (fOp_mkS ..)).trans ?_
  simp only [shortOnly, extOnly, needZero, needCode, needWf_of h, lit01, lit_join, ↓reduceIte, BitVec.reduceToNat, BitVec.reduceEq, BitVec.reduceAppend, BitVec.reduceExtractLsb', BitVec.reduceGetLsb, BitVec.reduceGetElem, BitVec.reduceSetWidth, decide_true, decide_false, and_self, or_self, true_and, and_true, true_or, or_true, ne_eq, not_true_eq_false, not_false_eq_true, Bool.false_eq_true, fLen_mkS, fOp_mkS, fImm14S_mkS, fB_mkS, fA_mkS, decMem, szOf_szCode, etOf_etCode, itOf_itCode, dtOf_dtCode, rmOf_rmCode, pathOf_pathCode, bit0_get, bit0_get', bit0_high, memImm_sz, memImm_ef, memImm_ef', memImm_off]
theorem stpL (a : Reg) (b : Reg) (ef : Bool) (sz : Sz) (lit : Word) : Statement (.stpL a b ef sz lit) := by
  intro h _ x; refine (decode_1b ⟨mkS (memImm 0#10 ef sz) b a 0x1b#6 1#2, lit.extractLsb' 0 32, lit.extractLsb' 32 32, _, _⟩ (fOp_mkS ..)).trans ?_
  simp only [shortOnly, extOnly, needZero, needCode, needWf_of h, lit01, lit_join, ↓reduceIte, BitVec.reduceToNat, BitVec.reduceEq, BitVec.reduceAppend, BitVec.reduceExtractLsb', BitVec.reduceGetLsb, BitVec.reduceGetElem, BitVec.reduceSetWidth, decide_true, decide_false, and_self, or_self, true_and, and_true, true_or, or_true, ne_eq, not_true_eq_false, not_false_eq_true, Bool.false_eq_true, fLen_mkS, fOp_mkS, fImm14S_mkS, fB_mkS, fA_mkS, decMem, szOf_szCode, etOf_etCode, itOf_itCode, dtOf_dtCode, rmOf_rmCode, pathOf_pathCode, bit0_get, bit0_get', bit0_high, memImm_sz, memImm_ef, memImm_ef', memImm_off]
theorem ldv (d : Reg) (a : Reg) (b : Reg) (ef : Bool) (sz : Sz) : Statement (.ldv d a b ef sz) := by
  intro h _ x; refine (decode_1c ⟨mkR (fnEfOpxSz ef 0#5 (szCode sz)) b a d 0x1c#6 0#2, _, _, _, _⟩ (fOp_mkR ..)).trans ?_
  simp (disch := decide) only [shortOnly, extOnly, needZero, needCode, needWf_of h, lit01, lit_join, ↓reduceIte, BitVec.reduceToNat, BitVec.reduceEq, BitVec.reduceAppend, BitVec.reduceExtractLsb', BitVec.reduceGetLsb, BitVec.reduceGetElem, BitVec.reduceSetWidth, decide_true, decide_false, and_self, or_self, true_and, and_true, true_or, or_true, ne_eq, not_true_eq_false, not_false_eq_true, Bool.false_eq_true, fLen_mkR, fOp_mkR, fFn_mkR, fD_mkR, fA_mkR, fB_mkR, dec1C, extract_append_hi, extract_append_lo, Nat.reduceSub, extract_self, szOf_szCode, etOf_etCode, itOf_itCode, dtOf_dtCode, rmOf_rmCode, pathOf_pathCode, bit0_get, bit0_get', bit0_high, fnEfOpxSz_sz, fnEfOpxSz_opx, fnEfOpxSz_ef]
theorem stv (d : Reg) (a : Reg) (b : Reg) (ef : Bool) (sz : Sz) : Statement (.stv d a b ef sz) := by
  intro h _ x; refine (decode_1c ⟨mkR (fnEfOpxSz ef 1#5 (szCode sz)) b a d 0x1c#6 0#2, _, _, _, _⟩ (fOp_mkR ..)).trans ?_
  simp (disch := decide) only [shortOnly, extOnly, needZero, needCode, needWf_of h, lit01, lit_join, ↓reduceIte, BitVec.reduceToNat, BitVec.reduceEq, BitVec.reduceAppend, BitVec.reduceExtractLsb', BitVec.reduceGetLsb, BitVec.reduceGetElem, BitVec.reduceSetWidth, decide_true, decide_false, and_self, or_self, true_and, and_true, true_or, or_true, ne_eq, not_true_eq_false, not_false_eq_true, Bool.false_eq_true, fLen_mkR, fOp_mkR, fFn_mkR, fD_mkR, fA_mkR, fB_mkR, dec1C, extract_append_hi, extract_append_lo, Nat.reduceSub, extract_self, szOf_szCode, etOf_etCode, itOf_itCode, dtOf_dtCode, rmOf_rmCode, pathOf_pathCode, bit0_get, bit0_get', bit0_high, fnEfOpxSz_sz, fnEfOpxSz_opx, fnEfOpxSz_ef]
theorem stq (a : Reg) (b : Reg) : Statement (.stq a b) := by
  intro h _ x; refine (decode_1c ⟨mkR (fnEfOpxSz false 2#5 0#3) b a 0#5 0x1c#6 0#2, _, _, _, _⟩ (fOp_mkR ..)).trans ?_
  simp (disch := decide) only [shortOnly, extOnly, needZero, needCode, needWf_of h, lit01, lit_join, ↓reduceIte, BitVec.reduceToNat, BitVec.reduceEq, BitVec.reduceAppend, BitVec.reduceExtractLsb', BitVec.reduceGetLsb, BitVec.reduceGetElem, BitVec.reduceSetWidth, decide_true, decide_false, and_self, or_self, true_and, and_true, true_or, or_true, ne_eq, not_true_eq_false, not_false_eq_true, Bool.false_eq_true, fLen_mkR, fOp_mkR, fFn_mkR, fD_mkR, fA_mkR, fB_mkR, dec1C, extract_append_hi, extract_append_lo, Nat.reduceSub, extract_self, fnEfOpxSz_sz, fnEfOpxSz_opx, fnEfOpxSz_ef]
theorem prefRd (a : Reg) (b : Reg) : Statement (.prefRd a b) := by
  intro h _ x; refine (decode_1c ⟨mkR (fnEfOpxSz false 3#5 0#3) b a 0#5 0x1c#6 0#2, _, _, _, _⟩ (fOp_mkR ..)).trans ?_
  simp (disch := decide) only [shortOnly, extOnly, needZero, needCode, needWf_of h, lit01, lit_join, ↓reduceIte, BitVec.reduceToNat, BitVec.reduceEq, BitVec.reduceAppend, BitVec.reduceExtractLsb', BitVec.reduceGetLsb, BitVec.reduceGetElem, BitVec.reduceSetWidth, decide_true, decide_false, and_self, or_self, true_and, and_true, true_or, or_true, ne_eq, not_true_eq_false, not_false_eq_true, Bool.false_eq_true, fLen_mkR, fOp_mkR, fFn_mkR, fD_mkR, fA_mkR, fB_mkR, dec1C, extract_append_hi, extract_append_lo, Nat.reduceSub, extract_self, fnEfOpxSz_sz, fnEfOpxSz_opx, fnEfOpxSz_ef]
theorem prefWr (a : Reg) (b : Reg) : Statement (.prefWr a b) := by
  intro h _ x; refine (decode_1c ⟨mkR (fnEfOpxSz false 3#5 1#3) b a 0#5 0x1c#6 0#2, _, _, _, _⟩ (fOp_mkR ..)).trans ?_
  simp (disch := decide) only [shortOnly, extOnly, needZero, needCode, needWf_of h, lit01, lit_join, ↓reduceIte, BitVec.reduceToNat, BitVec.reduceEq, BitVec.reduceAppend, BitVec.reduceExtractLsb', BitVec.reduceGetLsb, BitVec.reduceGetElem, BitVec.reduceSetWidth, decide_true, decide_false, and_self, or_self, true_and, and_true, true_or, or_true, ne_eq, not_true_eq_false, not_false_eq_true, Bool.false_eq_true, fLen_mkR, fOp_mkR, fFn_mkR, fD_mkR, fA_mkR, fB_mkR, dec1C, extract_append_hi, extract_append_lo, Nat.reduceSub, extract_self, fnEfOpxSz_sz, fnEfOpxSz_opx, fnEfOpxSz_ef]
theorem amoadd (d : Reg) (a : Reg) (b : Reg) (sz : Sz) : Statement (.amoadd d a b sz) := by
  intro h _ x; refine (decode_1d ⟨mkR (0#5 ++ 0#1 ++ szCode sz) b a d 0x1d#6 0#2, _, _, _, _⟩ (fOp_mkR ..)).trans ?_
  cases sz <;> simp (disch := decide) only [shortOnly, extOnly, needZero, needCode, needWf_of h, lit01, lit_join, ↓reduceIte, BitVec.reduceToNat, BitVec.reduceEq, BitVec.reduceAppend, BitVec.reduceExtractLsb', BitVec.reduceGetLsb, BitVec.reduceGetElem, BitVec.reduceSetWidth, decide_true, decide_false, and_self, or_self, true_and, and_true, true_or, or_true, ne_eq, not_true_eq_false, not_false_eq_true, Bool.false_eq_true, fLen_mkR, fOp_mkR, fFn_mkR, fD_mkR, fA_mkR, fB_mkR, dec1D, amoOp, extract_append_hi, extract_append_lo, Nat.reduceSub, extract_self, szOf_szCode, etOf_etCode, itOf_itCode, dtOf_dtCode, rmOf_rmCode, pathOf_pathCode, bit0_get, bit0_get', bit0_high, szCode, szOf]
theorem amoswap (d : Reg) (a : Reg) (b : Reg) (sz : Sz) : Statement (.amoswap d a b sz) := by
  intro h _ x; refine (decode_1d ⟨mkR (1#5 ++ 0#1 ++ szCode sz) b a d 0x1d#6 0#2, _, _, _, _⟩ (fOp_mkR ..)).trans ?_
  cases sz <;> simp (disch := decide) only [shortOnly, extOnly, needZero, needCode, needWf_of h, lit01, lit_join, ↓reduceIte, BitVec.reduceToNat, BitVec.reduceEq, BitVec.reduceAppend, BitVec.reduceExtractLsb', BitVec.reduceGetLsb, BitVec.reduceGetElem, BitVec.reduceSetWidth, decide_true, decide_false, and_self, or_self, true_and, and_true, true_or, or_true, ne_eq, not_true_eq_false, not_false_eq_true, Bool.false_eq_true, fLen_mkR, fOp_mkR, fFn_mkR, fD_mkR, fA_mkR, fB_mkR, dec1D, amoOp, extract_append_hi, extract_append_lo, Nat.reduceSub, extract_self, szOf_szCode, etOf_etCode, itOf_itCode, dtOf_dtCode, rmOf_rmCode, pathOf_pathCode, bit0_get, bit0_get', bit0_high, szCode, szOf]
theorem amoand (d : Reg) (a : Reg) (b : Reg) (sz : Sz) : Statement (.amoand d a b sz) := by
  intro h _ x; refine (decode_1d ⟨mkR (2#5 ++ 0#1 ++ szCode sz) b a d 0x1d#6 0#2, _, _, _, _⟩ (fOp_mkR ..)).trans ?_
  cases sz <;> simp (disch := decide) only [shortOnly, extOnly, needZero, needCode, needWf_of h, lit01, lit_join, ↓reduceIte, BitVec.reduceToNat, BitVec.reduceEq, BitVec.reduceAppend, BitVec.reduceExtractLsb', BitVec.reduceGetLsb, BitVec.reduceGetElem, BitVec.reduceSetWidth, decide_true, decide_false, and_self, or_self, true_and, and_true, true_or, or_true, ne_eq, not_true_eq_false, not_false_eq_true, Bool.false_eq_true, fLen_mkR, fOp_mkR, fFn_mkR, fD_mkR, fA_mkR, fB_mkR, dec1D, amoOp, extract_append_hi, extract_append_lo, Nat.reduceSub, extract_self, szOf_szCode, etOf_etCode, itOf_itCode, dtOf_dtCode, rmOf_rmCode, pathOf_pathCode, bit0_get, bit0_get', bit0_high, szCode, szOf]
theorem amoor (d : Reg) (a : Reg) (b : Reg) (sz : Sz) : Statement (.amoor d a b sz) := by
  intro h _ x; refine (decode_1d ⟨mkR (3#5 ++ 0#1 ++ szCode sz) b a d 0x1d#6 0#2, _, _, _, _⟩ (fOp_mkR ..)).trans ?_
  cases sz <;> simp (disch := decide) only [shortOnly, extOnly, needZero, needCode, needWf_of h, lit01, lit_join, ↓reduceIte, BitVec.reduceToNat, BitVec.reduceEq, BitVec.reduceAppend, BitVec.reduceExtractLsb', BitVec.reduceGetLsb, BitVec.reduceGetElem, BitVec.reduceSetWidth, decide_true, decide_false, and_self, or_self, true_and, and_true, true_or, or_true, ne_eq, not_true_eq_false, not_false_eq_true, Bool.false_eq_true, fLen_mkR, fOp_mkR, fFn_mkR, fD_mkR, fA_mkR, fB_mkR, dec1D, amoOp, extract_append_hi, extract_append_lo, Nat.reduceSub, extract_self, szOf_szCode, etOf_etCode, itOf_itCode, dtOf_dtCode, rmOf_rmCode, pathOf_pathCode, bit0_get, bit0_get', bit0_high, szCode, szOf]
theorem amoxor (d : Reg) (a : Reg) (b : Reg) (sz : Sz) : Statement (.amoxor d a b sz) := by
  intro h _ x; refine (decode_1d ⟨mkR (4#5 ++ 0#1 ++ szCode sz) b a d 0x1d#6 0#2, _, _, _, _⟩ (fOp_mkR ..)).trans ?_
  cases sz <;> simp (disch := decide) only [shortOnly, extOnly, needZero, needCode, needWf_of h, lit01, lit_join, ↓reduceIte, BitVec.reduceToNat, BitVec.reduceEq, BitVec.reduceAppend, BitVec.reduceExtractLsb', BitVec.reduceGetLsb, BitVec.reduceGetElem, BitVec.reduceSetWidth, decide_true, decide_false, and_self, or_self, true_and, and_true, true_or, or_true, ne_eq, not_true_eq_false, not_false_eq_true, Bool.false_eq_true, fLen_mkR, fOp_mkR, fFn_mkR, fD_mkR, fA_mkR, fB_mkR, dec1D, amoOp, extract_append_hi, extract_append_lo, Nat.reduceSub, extract_self, szOf_szCode, etOf_etCode, itOf_itCode, dtOf_dtCode, rmOf_rmCode, pathOf_pathCode, bit0_get, bit0_get', bit0_high, szCode, szOf]
theorem amomin (d : Reg) (a : Reg) (b : Reg) (sz : Sz) : Statement (.amomin d a b sz) := by
  intro h _ x; refine (decode_1d ⟨mkR (5#5 ++ 0#1 ++ szCode sz) b a d 0x1d#6 0#2, _, _, _, _⟩ (fOp_mkR ..)).trans ?_
  cases sz <;> simp (disch := decide) only [shortOnly, extOnly, needZero, needCode, needWf_of h, lit01, lit_join, ↓reduceIte, BitVec.reduceToNat, BitVec.reduceEq, BitVec.reduceAppend, BitVec.reduceExtractLsb', BitVec.reduceGetLsb, BitVec.reduceGetElem, BitVec.reduceSetWidth, decide_true, decide_false, and_self, or_self, true_and, and_true, true_or, or_true, ne_eq, not_true_eq_false, not_false_eq_true, Bool.false_eq_true, fLen_mkR, fOp_mkR, fFn_mkR, fD_mkR, fA_mkR, fB_mkR, dec1D, amoOp, extract_append_hi, extract_append_lo, Nat.reduceSub, extract_self, szOf_szCode, etOf_etCode, itOf_itCode, dtOf_dtCode, rmOf_rmCode, pathOf_pathCode, bit0_get, bit0_get', bit0_high, szCode, szOf]
theorem amomax (d : Reg) (a : Reg) (b : Reg) (sz : Sz) : Statement (.amomax d a b sz) := by
  intro h _ x; refine (decode_1d ⟨mkR (6#5 ++ 0#1 ++ szCode sz) b a d 0x1d#6 0#2, _, _, _, _⟩ (fOp_mkR ..)).trans ?_
  cases sz <;> simp (disch := decide) only [shortOnly, extOnly, needZero, needCode, needWf_of h, lit01, lit_join, ↓reduceIte, BitVec.reduceToNat, BitVec.reduceEq, BitVec.reduceAppend, BitVec.reduceExtractLsb', BitVec.reduceGetLsb, BitVec.reduceGetElem, BitVec.reduceSetWidth, decide_true, decide_false, and_self, or_self, true_and, and_true, true_or, or_true, ne_eq, not_true_eq_false, not_false_eq_true, Bool.false_eq_true, fLen_mkR, fOp_mkR, fFn_mkR, fD_mkR, fA_mkR, fB_mkR, dec1D, amoOp, extract_append_hi, extract_append_lo, Nat.reduceSub, extract_self, szOf_szCode, etOf_etCode, itOf_itCode, dtOf_dtCode, rmOf_rmCode, pathOf_pathCode, bit0_get, bit0_get', bit0_high, szCode, szOf]
theorem amominu (d : Reg) (a : Reg) (b : Reg) (sz : Sz) : Statement (.amominu d a b sz) := by
  intro h _ x; refine (decode_1d ⟨mkR (7#5 ++ 0#1 ++ szCode sz) b a d 0x1d#6 0#2, _, _, _, _⟩ (fOp_mkR ..)).trans ?_
  cases sz <;> simp (disch := decide) only [shortOnly, extOnly, needZero, needCode, needWf_of h, lit01, lit_join, ↓reduceIte, BitVec.reduceToNat, BitVec.reduceEq, BitVec.reduceAppend, BitVec.reduceExtractLsb', BitVec.reduceGetLsb, BitVec.reduceGetElem, BitVec.reduceSetWidth, decide_true, decide_false, and_self, or_self, true_and, and_true, true_or, or_true, ne_eq, not_true_eq_false, not_false_eq_true, Bool.false_eq_true, fLen_mkR, fOp_mkR, fFn_mkR, fD_mkR, fA_mkR, fB_mkR, dec1D, amoOp, extract_append_hi, extract_append_lo, Nat.reduceSub, extract_self, szOf_szCode, etOf_etCode, itOf_itCode, dtOf_dtCode, rmOf_rmCode, pathOf_pathCode, bit0_get, bit0_get', bit0_high, szCode, szOf]
theorem amomaxu (d : Reg) (a : Reg) (b : Reg) (sz : Sz) : Statement (.amomaxu d a b sz) := by
  intro h _ x; refine (decode_1d ⟨mkR (8#5 ++ 0#1 ++ szCode sz) b a d 0x1d#6 0#2, _, _, _, _⟩ (fOp_mkR ..)).trans ?_
  cases sz <;> simp (disch := decide) only [shortOnly, extOnly, needZero, needCode, needWf_of h, lit01, lit_join, ↓reduceIte, BitVec.reduceToNat, BitVec.reduceEq, BitVec.reduceAppend, BitVec.reduceExtractLsb', BitVec.reduceGetLsb, BitVec.reduceGetElem, BitVec.reduceSetWidth, decide_true, decide_false, and_self, or_self, true_and, and_true, true_or, or_true, ne_eq, not_true_eq_false, not_false_eq_true, Bool.false_eq_true, fLen_mkR, fOp_mkR, fFn_mkR, fD_mkR, fA_mkR, fB_mkR, dec1D, amoOp, extract_append_hi, extract_append_lo, Nat.reduceSub, extract_self, szOf_szCode, etOf_etCode, itOf_itCode, dtOf_dtCode, rmOf_rmCode, pathOf_pathCode, bit0_get, bit0_get', bit0_high, szCode, szOf]
theorem cas (d : Reg) (a : Reg) (b : Reg) (sz : Sz) : Statement (.cas d a b sz) := by
  intro h _ x; refine (decode_1d ⟨mkR (9#5 ++ 0#1 ++ szCode sz) b a d 0x1d#6 0#2, _, _, _, _⟩ (fOp_mkR ..)).trans ?_
  cases sz <;> simp (disch := decide) only [shortOnly, extOnly, needZero, needCode, needWf_of h, lit01, lit_join, ↓reduceIte, BitVec.reduceToNat, BitVec.reduceEq, BitVec.reduceAppend, BitVec.reduceExtractLsb', BitVec.reduceGetLsb, BitVec.reduceGetElem, BitVec.reduceSetWidth, decide_true, decide_false, and_self, or_self, true_and, and_true, true_or, or_true, ne_eq, not_true_eq_false, not_false_eq_true, Bool.false_eq_true, fLen_mkR, fOp_mkR, fFn_mkR, fD_mkR, fA_mkR, fB_mkR, dec1D, amoOp, extract_append_hi, extract_append_lo, Nat.reduceSub, extract_self, szOf_szCode, etOf_etCode, itOf_itCode, dtOf_dtCode, rmOf_rmCode, pathOf_pathCode, bit0_get, bit0_get', bit0_high, szCode, szOf]
theorem famoadd (d : Reg) (a : Reg) (b : Reg) (rm : RM) (et : ET) : Statement (.famoadd d a b rm et) := by
  intro h _ x; refine (decode_1e ⟨mkR (0#3 ++ rmCode rm ++ etCode et) b a d 0x1e#6 0#2, _, _, _, _⟩ (fOp_mkR ..)).trans ?_
  simp (disch := decide) only [shortOnly, extOnly, needZero, needCode, needWf_of h, lit01, lit_join, ↓reduceIte, BitVec.reduceToNat, BitVec.reduceEq, BitVec.reduceAppend, BitVec.reduceExtractLsb', BitVec.reduceGetLsb, BitVec.reduceGetElem, BitVec.reduceSetWidth, decide_true, decide_false, and_self, or_self, true_and, and_true, true_or, or_true, ne_eq, not_true_eq_false, not_false_eq_true, Bool.false_eq_true, fLen_mkR, fOp_mkR, fFn_mkR, fD_mkR, fA_mkR, fB_mkR, dec1E, extract_append_hi, extract_append_lo, Nat.reduceSub, extract_self, szOf_szCode, etOf_etCode, itOf_itCode, dtOf_dtCode, rmOf_rmCode, pathOf_pathCode, bit0_get, bit0_get', bit0_high]
theorem fadd (d : Reg) (a : Reg) (b : Reg) (rm : RM) (et : ET) : Statement (.fadd d a b rm et) := by
  intro h _ x; refine (decode_20 ⟨mkR (0#3 ++ rmCode rm ++ etCode et) b a d 0x20#6 0#2, _, _, _, _⟩ (fOp_mkR ..)).trans ?_
  simp (disch := decide) only [shortOnly, extOnly, needZero, needCode, needWf_of h, lit01, lit_join, ↓reduceIte, BitVec.reduceToNat, BitVec.reduceEq, BitVec.reduceAppend, BitVec.reduceExtractLsb', BitVec.reduceGetLsb, BitVec.reduceGetElem, BitVec.reduceSetWidth, decide_true, decide_false, and_self, or_self, true_and, and_true, true_or, or_true, ne_eq, not_true_eq_false, not_false_eq_true, Bool.false_eq_true, fLen_mkR, fOp_mkR, fFn_mkR, fD_mkR, fA_mkR, fB_mkR, decArith, arithOp, extract_append_hi, extract_append_lo, Nat.reduceSub, extract_self, szOf_szCode, etOf_etCode, itOf_itCode, dtOf_dtCode, rmOf_rmCode, pathOf_pathCode, bit0_get, bit0_get', bit0_high]
theorem fsub (d : Reg) (a : Reg) (b : Reg) (rm : RM) (et : ET) : Statement (.fsub d a b rm et) := by
  intro h _ x; refine (decode_20 ⟨mkR (1#3 ++ rmCode rm ++ etCode et) b a d 0x20#6 0#2, _, _, _, _⟩ (fOp_mkR ..)).trans ?_
  simp (disch := decide) only [shortOnly, extOnly, needZero, needCode, needWf_of h, lit01, lit_join, ↓reduceIte, BitVec.reduceToNat, BitVec.reduceEq, BitVec.reduceAppend, BitVec.reduceExtractLsb', BitVec.reduceGetLsb, BitVec.reduceGetElem, BitVec.reduceSetWidth, decide_true, decide_false, and_self, or_self, true_and, and_true, true_or, or_true, ne_eq, not_true_eq_false, not_false_eq_true, Bool.false_eq_true, fLen_mkR, fOp_mkR, fFn_mkR, fD_mkR, fA_mkR, fB_mkR, decArith, arithOp, extract_append_hi, extract_append_lo, Nat.reduceSub, extract_self, szOf_szCode, etOf_etCode, itOf_itCode, dtOf_dtCode, rmOf_rmCode, pathOf_pathCode, bit0_get, bit0_get', bit0_high]
theorem fmul (d : Reg) (a : Reg) (b : Reg) (rm : RM) (et : ET) : Statement (.fmul d a b rm et) := by
  intro h _ x; refine (decode_20 ⟨mkR (2#3 ++ rmCode rm ++ etCode et) b a d 0x20#6 0#2, _, _, _, _⟩ (fOp_mkR ..)).trans ?_
  simp (disch := decide) only [shortOnly, extOnly, needZero, needCode, needWf_of h, lit01, lit_join, ↓reduceIte, BitVec.reduceToNat, BitVec.reduceEq, BitVec.reduceAppend, BitVec.reduceExtractLsb', BitVec.reduceGetLsb, BitVec.reduceGetElem, BitVec.reduceSetWidth, decide_true, decide_false, and_self, or_self, true_and, and_true, true_or, or_true, ne_eq, not_true_eq_false, not_false_eq_true, Bool.false_eq_true, fLen_mkR, fOp_mkR, fFn_mkR, fD_mkR, fA_mkR, fB_mkR, decArith, arithOp, extract_append_hi, extract_append_lo, Nat.reduceSub, extract_self, szOf_szCode, etOf_etCode, itOf_itCode, dtOf_dtCode, rmOf_rmCode, pathOf_pathCode, bit0_get, bit0_get', bit0_high]
theorem fdiv (d : Reg) (a : Reg) (b : Reg) (rm : RM) (et : ET) : Statement (.fdiv d a b rm et) := by
  intro h _ x; refine (decode_20 ⟨mkR (3#3 ++ rmCode rm ++ etCode et) b a d 0x20#6 0#2, _, _, _, _⟩ (fOp_mkR ..)).trans ?_
  simp (disch := decide) only [shortOnly, extOnly, needZero, needCode, needWf_of h, lit01, lit_join, ↓reduceIte, BitVec.reduceToNat, BitVec.reduceEq, BitVec.reduceAppend, BitVec.reduceExtractLsb', BitVec.reduceGetLsb, BitVec.reduceGetElem, BitVec.reduceSetWidth, decide_true, decide_false, and_self, or_self, true_and, and_true, true_or, or_true, ne_eq, not_true_eq_false, not_false_eq_true, Bool.false_eq_true, fLen_mkR, fOp_mkR, fFn_mkR, fD_mkR, fA_mkR, fB_mkR, decArith, arithOp, extract_append_hi, extract_append_lo, Nat.reduceSub, extract_self, szOf_szCode, etOf_etCode, itOf_itCode, dtOf_dtCode, rmOf_rmCode, pathOf_pathCode, bit0_get, bit0_get', bit0_high]
theorem fma (d : Reg) (a : Reg) (b : Reg) (rm : RM) (et : ET) : Statement (.fma d a b rm et) := by
  intro h _ x; refine (decode_20 ⟨mkR (4#3 ++ rmCode rm ++ etCode et) b a d 0x20#6 0#2, _, _, _, _⟩ (fOp_mkR ..)).trans ?_
  simp (disch := decide) only [shortOnly, extOnly, needZero, needCode, needWf_of h, lit01, lit_join, ↓reduceIte, BitVec.reduceToNat, BitVec.reduceEq, BitVec.reduceAppend, BitVec.reduceExtractLsb', BitVec.reduceGetLsb, BitVec.reduceGetElem, BitVec.reduceSetWidth, decide_true, decide_false, and_self, or_self, true_and, and_true, true_or, or_true, ne_eq, not_true_eq_false, not_false_eq_true, Bool.false_eq_true, fLen_mkR, fOp_mkR, fFn_mkR, fD_mkR, fA_mkR, fB_mkR, decArith, arithOp, extract_append_hi, extract_append_lo, Nat.reduceSub, extract_self, szOf_szCode, etOf_etCode, itOf_itCode, dtOf_dtCode, rmOf_rmCode, pathOf_pathCode, bit0_get, bit0_get', bit0_high]
theorem fms (d : Reg) (a : Reg) (b : Reg) (rm : RM) (et : ET) : Statement (.fms d a b rm et) := by
  intro h _ x; refine (decode_20 ⟨mkR (5#3 ++ rmCode rm ++ etCode et) b a d 0x20#6 0#2, _, _, _, _⟩ (fOp_mkR ..)).trans ?_
  simp (disch := decide) only [shortOnly, extOnly, needZero, needCode, needWf_of h, lit01, lit_join, ↓reduceIte, BitVec.reduceToNat, BitVec.reduceEq, BitVec.reduceAppend, BitVec.reduceExtractLsb', BitVec.reduceGetLsb, BitVec.reduceGetElem, BitVec.reduceSetWidth, decide_true, decide_false, and_self, or_self, true_and, and_true, true_or, or_true, ne_eq, not_true_eq_false, not_false_eq_true, Bool.false_eq_true, fLen_mkR, fOp_mkR, fFn_mkR, fD_mkR, fA_mkR, fB_mkR, decArith, arithOp, extract_append_hi, extract_append_lo, Nat.reduceSub, extract_self, szOf_szCode, etOf_etCode, itOf_itCode, dtOf_dtCode, rmOf_rmCode, pathOf_pathCode, bit0_get, bit0_get', bit0_high]
theorem fnma (d : Reg) (a : Reg) (b : Reg) (rm : RM) (et : ET) : Statement (.fnma d a b rm et) := by
  intro h _ x; refine (decode_20 ⟨mkR (6#3 ++ rmCode rm ++ etCode et) b a d 0x20#6 0#2, _, _, _, _⟩ (fOp_mkR ..)).trans ?_
  simp (disch := decide) only [shortOnly, extOnly, needZero, needCode, needWf_of h, lit01, lit_join, ↓reduceIte, BitVec.reduceToNat, BitVec.reduceEq, BitVec.reduceAppend, BitVec.reduceExtractLsb', BitVec.reduceGetLsb, BitVec.reduceGetElem, BitVec.reduceSetWidth, decide_true, decide_false, and_self, or_self, true_and, and_true, true_or, or_true, ne_eq, not_true_eq_false, not_false_eq_true, Bool.false_eq_true, fLen_mkR, fOp_mkR, fFn_mkR, fD_mkR, fA_mkR, fB_mkR, decArith, arithOp, extract_append_hi, extract_append_lo, Nat.reduceSub, extract_self, szOf_szCode, etOf_etCode, itOf_itCode, dtOf_dtCode, rmOf_rmCode, pathOf_pathCode, bit0_get, bit0_get', bit0_high]
theorem fnms (d : Reg) (a : Reg) (b : Reg) (rm : RM) (et : ET) : Statement (.fnms d a b rm et) := by
  intro h _ x; refine (decode_20 ⟨mkR (7#3 ++ rmCode rm ++ etCode et) b a d 0x20#6 0#2, _, _, _, _⟩ (fOp_mkR ..)).trans ?_
  simp (disch := decide) only [shortOnly, extOnly, needZero, needCode, needWf_of h, lit01, lit_join, ↓reduceIte, BitVec.reduceToNat, BitVec.reduceEq, BitVec.reduceAppend, BitVec.reduceExtractLsb', BitVec.reduceGetLsb, BitVec.reduceGetElem, BitVec.reduceSetWidth, decide_true, decide_false, and_self, or_self, true_and, and_true, true_or, or_true, ne_eq, not_true_eq_false, not_false_eq_true, Bool.false_eq_true, fLen_mkR, fOp_mkR, fFn_mkR, fD_mkR, fA_mkR, fB_mkR, decArith, arithOp, extract_append_hi, extract_append_lo, Nat.reduceSub, extract_self, szOf_szCode, etOf_etCode, itOf_itCode, dtOf_dtCode, rmOf_rmCode, pathOf_pathCode, bit0_get, bit0_get', bit0_high]
theorem fsqrt (d : Reg) (a : Reg) (rm : RM) (et : ET) : Statement (.fsqrt d a rm et) := by
  intro h _ x; refine (decode_21 ⟨mkR (0#3 ++ rmCode rm ++ etCode et) 0#5 a d 0x21#6 0#2, _, _, _, _⟩ (fOp_mkR ..)).trans ?_
  simp (disch := decide) only [shortOnly, extOnly, needZero, needCode, needWf_of h, lit01, lit_join, ↓reduceIte, BitVec.reduceToNat, BitVec.reduceEq, BitVec.reduceAppend, BitVec.reduceExtractLsb', BitVec.reduceGetLsb, BitVec.reduceGetElem, BitVec.reduceSetWidth, decide_true, decide_false, and_self, or_self, true_and, and_true, true_or, or_true, ne_eq, not_true_eq_false, not_false_eq_true, Bool.false_eq_true, fLen_mkR, fOp_mkR, fFn_mkR, fD_mkR, fA_mkR, fB_mkR, decArith, extract_append_hi, extract_append_lo, Nat.reduceSub, extract_self, szOf_szCode, etOf_etCode, itOf_itCode, dtOf_dtCode, rmOf_rmCode, pathOf_pathCode, bit0_get, bit0_get', bit0_high]
theorem fsum (d : Reg) (a : Reg) (rm : RM) (et : ET) : Statement (.fsum d a rm et) := by
  intro h _ x; refine (decode_21 ⟨mkR (1#3 ++ rmCode rm ++ etCode et) 0#5 a d 0x21#6 0#2, _, _, _, _⟩ (fOp_mkR ..)).trans ?_
  simp (disch := decide) only [shortOnly, extOnly, needZero, needCode, needWf_of h, lit01, lit_join, ↓reduceIte, BitVec.reduceToNat, BitVec.reduceEq, BitVec.reduceAppend, BitVec.reduceExtractLsb', BitVec.reduceGetLsb, BitVec.reduceGetElem, BitVec.reduceSetWidth, decide_true, decide_false, and_self, or_self, true_and, and_true, true_or, or_true, ne_eq, not_true_eq_false, not_false_eq_true, Bool.false_eq_true, fLen_mkR, fOp_mkR, fFn_mkR, fD_mkR, fA_mkR, fB_mkR, decArith, extract_append_hi, extract_append_lo, Nat.reduceSub, extract_self, szOf_szCode, etOf_etCode, itOf_itCode, dtOf_dtCode, rmOf_rmCode, pathOf_pathCode, bit0_get, bit0_get', bit0_high]
theorem fmin (d : Reg) (a : Reg) (b : Reg) (et : ET) : Statement (.fmin d a b et) := by
  intro h _ x; refine (decode_22 ⟨mkR (0#3 ++ 0#3 ++ etCode et) b a d 0x22#6 0#2, _, _, _, _⟩ (fOp_mkR ..)).trans ?_
  simp (disch := decide) only [shortOnly, extOnly, needZero, needCode, needWf_of h, lit01, lit_join, ↓reduceIte, BitVec.reduceToNat, BitVec.reduceEq, BitVec.reduceAppend, BitVec.reduceExtractLsb', BitVec.reduceGetLsb, BitVec.reduceGetElem, BitVec.reduceSetWidth, decide_true, decide_false, and_self, or_self, true_and, and_true, true_or, or_true, ne_eq, not_true_eq_false, not_false_eq_true, Bool.false_eq_true, fLen_mkR, fOp_mkR, fFn_mkR, fD_mkR, fA_mkR, fB_mkR, decLane, laneOp3, extract_append_hi, extract_append_lo, Nat.reduceSub, extract_self, szOf_szCode, etOf_etCode, itOf_itCode, dtOf_dtCode, rmOf_rmCode, pathOf_pathCode, bit0_get, bit0_get', bit0_high]
theorem fmax (d : Reg) (a : Reg) (b : Reg) (et : ET) : Statement (.fmax d a b et) := by
  intro h _ x; refine (decode_22 ⟨mkR (1#3 ++ 0#3 ++ etCode et) b a d 0x22#6 0#2, _, _, _, _⟩ (fOp_mkR ..)).trans ?_
  simp (disch := decide) only [shortOnly, extOnly, needZero, needCode, needWf_of h, lit01, lit_join, ↓reduceIte, BitVec.reduceToNat, BitVec.reduceEq, BitVec.reduceAppend, BitVec.reduceExtractLsb', BitVec.reduceGetLsb, BitVec.reduceGetElem, BitVec.reduceSetWidth, decide_true, decide_false, and_self, or_self, true_and, and_true, true_or, or_true, ne_eq, not_true_eq_false, not_false_eq_true, Bool.false_eq_true, fLen_mkR, fOp_mkR, fFn_mkR, fD_mkR, fA_mkR, fB_mkR, decLane, laneOp3, extract_append_hi, extract_append_lo, Nat.reduceSub, extract_self, szOf_szCode, etOf_etCode, itOf_itCode, dtOf_dtCode, rmOf_rmCode, pathOf_pathCode, bit0_get, bit0_get', bit0_high]
theorem fabs (d : Reg) (a : Reg) (et : ET) : Statement (.fabs d a et) := by
  intro h _ x; refine (decode_22 ⟨mkR (2#3 ++ 0#3 ++ etCode et) 0#5 a d 0x22#6 0#2, _, _, _, _⟩ (fOp_mkR ..)).trans ?_
  simp (disch := decide) only [shortOnly, extOnly, needZero, needCode, needWf_of h, lit01, lit_join, ↓reduceIte, BitVec.reduceToNat, BitVec.reduceEq, BitVec.reduceAppend, BitVec.reduceExtractLsb', BitVec.reduceGetLsb, BitVec.reduceGetElem, BitVec.reduceSetWidth, decide_true, decide_false, and_self, or_self, true_and, and_true, true_or, or_true, ne_eq, not_true_eq_false, not_false_eq_true, Bool.false_eq_true, fLen_mkR, fOp_mkR, fFn_mkR, fD_mkR, fA_mkR, fB_mkR, decLane, laneOp3, extract_append_hi, extract_append_lo, Nat.reduceSub, extract_self, szOf_szCode, etOf_etCode, itOf_itCode, dtOf_dtCode, rmOf_rmCode, pathOf_pathCode, bit0_get, bit0_get', bit0_high]
theorem fneg (d : Reg) (a : Reg) (et : ET) : Statement (.fneg d a et) := by
  intro h _ x; refine (decode_22 ⟨mkR (3#3 ++ 0#3 ++ etCode et) 0#5 a d 0x22#6 0#2, _, _, _, _⟩ (fOp_mkR ..)).trans ?_
  simp (disch := decide) only [shortOnly, extOnly, needZero, needCode, needWf_of h, lit01, lit_join, ↓reduceIte, BitVec.reduceToNat, BitVec.reduceEq, BitVec.reduceAppend, BitVec.reduceExtractLsb', BitVec.reduceGetLsb, BitVec.reduceGetElem, BitVec.reduceSetWidth, decide_true, decide_false, and_self, or_self, true_and, and_true, true_or, or_true, ne_eq, not_true_eq_false, not_false_eq_true, Bool.false_eq_true, fLen_mkR, fOp_mkR, fFn_mkR, fD_mkR, fA_mkR, fB_mkR, decLane, laneOp3, extract_append_hi, extract_append_lo, Nat.reduceSub, extract_self, szOf_szCode, etOf_etCode, itOf_itCode, dtOf_dtCode, rmOf_rmCode, pathOf_pathCode, bit0_get, bit0_get', bit0_high]
theorem fsgnj (d : Reg) (a : Reg) (b : Reg) (et : ET) : Statement (.fsgnj d a b et) := by
  intro h _ x; refine (decode_22 ⟨mkR (4#3 ++ 0#3 ++ etCode et) b a d 0x22#6 0#2, _, _, _, _⟩ (fOp_mkR ..)).trans ?_
  simp (disch := decide) only [shortOnly, extOnly, needZero, needCode, needWf_of h, lit01, lit_join, ↓reduceIte, BitVec.reduceToNat, BitVec.reduceEq, BitVec.reduceAppend, BitVec.reduceExtractLsb', BitVec.reduceGetLsb, BitVec.reduceGetElem, BitVec.reduceSetWidth, decide_true, decide_false, and_self, or_self, true_and, and_true, true_or, or_true, ne_eq, not_true_eq_false, not_false_eq_true, Bool.false_eq_true, fLen_mkR, fOp_mkR, fFn_mkR, fD_mkR, fA_mkR, fB_mkR, decLane, laneOp3, extract_append_hi, extract_append_lo, Nat.reduceSub, extract_self, szOf_szCode, etOf_etCode, itOf_itCode, dtOf_dtCode, rmOf_rmCode, pathOf_pathCode, bit0_get, bit0_get', bit0_high]
theorem fcmpeq (d : Reg) (a : Reg) (b : Reg) (et : ET) : Statement (.fcmpeq d a b et) := by
  intro h _ x; refine (decode_22 ⟨mkR (5#3 ++ 0#3 ++ etCode et) b a d 0x22#6 0#2, _, _, _, _⟩ (fOp_mkR ..)).trans ?_
  simp (disch := decide) only [shortOnly, extOnly, needZero, needCode, needWf_of h, lit01, lit_join, ↓reduceIte, BitVec.reduceToNat, BitVec.reduceEq, BitVec.reduceAppend, BitVec.reduceExtractLsb', BitVec.reduceGetLsb, BitVec.reduceGetElem, BitVec.reduceSetWidth, decide_true, decide_false, and_self, or_self, true_and, and_true, true_or, or_true, ne_eq, not_true_eq_false, not_false_eq_true, Bool.false_eq_true, fLen_mkR, fOp_mkR, fFn_mkR, fD_mkR, fA_mkR, fB_mkR, decLane, laneOp3, extract_append_hi, extract_append_lo, Nat.reduceSub, extract_self, szOf_szCode, etOf_etCode, itOf_itCode, dtOf_dtCode, rmOf_rmCode, pathOf_pathCode, bit0_get, bit0_get', bit0_high]
theorem fcmplt (d : Reg) (a : Reg) (b : Reg) (et : ET) : Statement (.fcmplt d a b et) := by
  intro h _ x; refine (decode_22 ⟨mkR (6#3 ++ 0#3 ++ etCode et) b a d 0x22#6 0#2, _, _, _, _⟩ (fOp_mkR ..)).trans ?_
  simp (disch := decide) only [shortOnly, extOnly, needZero, needCode, needWf_of h, lit01, lit_join, ↓reduceIte, BitVec.reduceToNat, BitVec.reduceEq, BitVec.reduceAppend, BitVec.reduceExtractLsb', BitVec.reduceGetLsb, BitVec.reduceGetElem, BitVec.reduceSetWidth, decide_true, decide_false, and_self, or_self, true_and, and_true, true_or, or_true, ne_eq, not_true_eq_false, not_false_eq_true, Bool.false_eq_true, fLen_mkR, fOp_mkR, fFn_mkR, fD_mkR, fA_mkR, fB_mkR, decLane, laneOp3, extract_append_hi, extract_append_lo, Nat.reduceSub, extract_self, szOf_szCode, etOf_etCode, itOf_itCode, dtOf_dtCode, rmOf_rmCode, pathOf_pathCode, bit0_get, bit0_get', bit0_high]
theorem fcmple (d : Reg) (a : Reg) (b : Reg) (et : ET) : Statement (.fcmple d a b et) := by
  intro h _ x; refine (decode_22 ⟨mkR (7#3 ++ 0#3 ++ etCode et) b a d 0x22#6 0#2, _, _, _, _⟩ (fOp_mkR ..)).trans ?_
  simp (disch := decide) only [shortOnly, extOnly, needZero, needCode, needWf_of h, lit01, lit_join, ↓reduceIte, BitVec.reduceToNat, BitVec.reduceEq, BitVec.reduceAppend, BitVec.reduceExtractLsb', BitVec.reduceGetLsb, BitVec.reduceGetElem, BitVec.reduceSetWidth, decide_true, decide_false, and_self, or_self, true_and, and_true, true_or, or_true, ne_eq, not_true_eq_false, not_false_eq_true, Bool.false_eq_true, fLen_mkR, fOp_mkR, fFn_mkR, fD_mkR, fA_mkR, fB_mkR, decLane, laneOp3, extract_append_hi, extract_append_lo, Nat.reduceSub, extract_self, szOf_szCode, etOf_etCode, itOf_itCode, dtOf_dtCode, rmOf_rmCode, pathOf_pathCode, bit0_get, bit0_get', bit0_high]
theorem fclass (d : Reg) (a : Reg) (et : ET) : Statement (.fclass d a et) := by
  intro h _ x; refine (decode_23 ⟨mkR (0#3 ++ 0#3 ++ etCode et) 0#5 a d 0x23#6 0#2, _, _, _, _⟩ (fOp_mkR ..)).trans ?_
  simp (disch := decide) only [shortOnly, extOnly, needZero, needCode, needWf_of h, lit01, lit_join, ↓reduceIte, BitVec.reduceToNat, BitVec.reduceEq, BitVec.reduceAppend, BitVec.reduceExtractLsb', BitVec.reduceGetLsb, BitVec.reduceGetElem, BitVec.reduceSetWidth, decide_true, decide_false, and_self, or_self, true_and, and_true, true_or, or_true, ne_eq, not_true_eq_false, not_false_eq_true, Bool.false_eq_true, fLen_mkR, fOp_mkR, fFn_mkR, fD_mkR, fA_mkR, fB_mkR, dec23, extract_append_hi, extract_append_lo, Nat.reduceSub, extract_self, szOf_szCode, etOf_etCode, itOf_itCode, dtOf_dtCode, rmOf_rmCode, pathOf_pathCode, bit0_get, bit0_get', bit0_high]
theorem fmvFF (d : Reg) (a : Reg) : Statement (.fmvFF d a) := by
  intro h _ x; refine (decode_23 ⟨mkR (1#3 ++ 0#3 ++ 0#3) 0#5 a d 0x23#6 0#2, _, _, _, _⟩ (fOp_mkR ..)).trans ?_
  simp (disch := decide) only [shortOnly, extOnly, needZero, needCode, needWf_of h, lit01, lit_join, ↓reduceIte, BitVec.reduceToNat, BitVec.reduceEq, BitVec.reduceAppend, BitVec.reduceExtractLsb', BitVec.reduceGetLsb, BitVec.reduceGetElem, BitVec.reduceSetWidth, decide_true, decide_false, and_self, or_self, true_and, and_true, true_or, or_true, ne_eq, not_true_eq_false, not_false_eq_true, Bool.false_eq_true, fLen_mkR, fOp_mkR, fFn_mkR, fD_mkR, fA_mkR, fB_mkR, dec23, extract_append_hi, extract_append_lo, Nat.reduceSub, extract_self]
  rfl
theorem fmvFG (d : Reg) (a : Reg) : Statement (.fmvFG d a) := by
  intro h _ x; refine (decode_23 ⟨mkR (1#3 ++ 1#3 ++ 0#3) 0#5 a d 0x23#6 0#2, _, _, _, _⟩ (fOp_mkR ..)).trans ?_
  simp (disch := decide) only [shortOnly, extOnly, needZero, needCode, needWf_of h, lit01, lit_join, ↓reduceIte, BitVec.reduceToNat, BitVec.reduceEq, BitVec.reduceAppend, BitVec.reduceExtractLsb', BitVec.reduceGetLsb, BitVec.reduceGetElem, BitVec.reduceSetWidth, decide_true, decide_false, and_self, or_self, true_and, and_true, true_or, or_true, ne_eq, not_true_eq_false, not_false_eq_true, Bool.false_eq_true, fLen_mkR, fOp_mkR, fFn_mkR, fD_mkR, fA_mkR, fB_mkR, dec23, extract_append_hi, extract_append_lo, Nat.reduceSub, extract_self]
  rfl
theorem fmvGF (d : Reg) (a : Reg) : Statement (.fmvGF d a) := by
  intro h _ x; refine (decode_23 ⟨mkR (1#3 ++ 2#3 ++ 0#3) 0#5 a d 0x23#6 0#2, _, _, _, _⟩ (fOp_mkR ..)).trans ?_
  simp (disch := decide) only [shortOnly, extOnly, needZero, needCode, needWf_of h, lit01, lit_join, ↓reduceIte, BitVec.reduceToNat, BitVec.reduceEq, BitVec.reduceAppend, BitVec.reduceExtractLsb', BitVec.reduceGetLsb, BitVec.reduceGetElem, BitVec.reduceSetWidth, decide_true, decide_false, and_self, or_self, true_and, and_true, true_or, or_true, ne_eq, not_true_eq_false, not_false_eq_true, Bool.false_eq_true, fLen_mkR, fOp_mkR, fFn_mkR, fD_mkR, fA_mkR, fB_mkR, dec23, extract_append_hi, extract_append_lo, Nat.reduceSub, extract_self]
  rfl
theorem fpack (d : Reg) (a : Reg) (b : Reg) (dst : ET) (et : ET) : Statement (.fpack d a b dst et) := by
  intro h _ x; refine (decode_23 ⟨mkR (2#3 ++ etCode dst ++ etCode et) b a d 0x23#6 0#2, _, _, _, _⟩ (fOp_mkR ..)).trans ?_
  simp (disch := decide) only [shortOnly, extOnly, needZero, needCode, needWf_of h, lit01, lit_join, ↓reduceIte, BitVec.reduceToNat, BitVec.reduceEq, BitVec.reduceAppend, BitVec.reduceExtractLsb', BitVec.reduceGetLsb, BitVec.reduceGetElem, BitVec.reduceSetWidth, decide_true, decide_false, and_self, or_self, true_and, and_true, true_or, or_true, ne_eq, not_true_eq_false, not_false_eq_true, Bool.false_eq_true, fLen_mkR, fOp_mkR, fFn_mkR, fD_mkR, fA_mkR, fB_mkR, dec23, extract_append_hi, extract_append_lo, Nat.reduceSub, extract_self, szOf_szCode, etOf_etCode, itOf_itCode, dtOf_dtCode, rmOf_rmCode, pathOf_pathCode, bit0_get, bit0_get', bit0_high]
theorem funpk (d : Reg) (a : Reg) (hi : Bool) (dst : ET) (et : ET) : Statement (.funpk d a hi dst et) := by
  intro h _ x; refine (decode_23 ⟨mkR (3#3 ++ etCode dst ++ etCode et) (bit0 hi) a d 0x23#6 0#2, _, _, _, _⟩ (fOp_mkR ..)).trans ?_
  simp (disch := decide) only [shortOnly, extOnly, needZero, needCode, needWf_of h, lit01, lit_join, ↓reduceIte, BitVec.reduceToNat, BitVec.reduceEq, BitVec.reduceAppend, BitVec.reduceExtractLsb', BitVec.reduceGetLsb, BitVec.reduceGetElem, BitVec.reduceSetWidth, decide_true, decide_false, and_self, or_self, true_and, and_true, true_or, or_true, ne_eq, not_true_eq_false, not_false_eq_true, Bool.false_eq_true, fLen_mkR, fOp_mkR, fFn_mkR, fD_mkR, fA_mkR, fB_mkR, dec23, extract_append_hi, extract_append_lo, Nat.reduceSub, extract_self, szOf_szCode, etOf_etCode, itOf_itCode, dtOf_dtCode, rmOf_rmCode, pathOf_pathCode, bit0_get, bit0_get', bit0_high]
theorem fshuf (d : Reg) (a : Reg) (b : Reg) (et : ET) : Statement (.fshuf d a b et) := by
  intro h _ x; refine (decode_23 ⟨mkR (4#3 ++ 0#3 ++ etCode et) b a d 0x23#6 0#2, _, _, _, _⟩ (fOp_mkR ..)).trans ?_
  simp (disch := decide) only [shortOnly, extOnly, needZero, needCode, needWf_of h, lit01, lit_join, ↓reduceIte, BitVec.reduceToNat, BitVec.reduceEq, BitVec.reduceAppend, BitVec.reduceExtractLsb', BitVec.reduceGetLsb, BitVec.reduceGetElem, BitVec.reduceSetWidth, decide_true, decide_false, and_self, or_self, true_and, and_true, true_or, or_true, ne_eq, not_true_eq_false, not_false_eq_true, Bool.false_eq_true, fLen_mkR, fOp_mkR, fFn_mkR, fD_mkR, fA_mkR, fB_mkR, dec23, extract_append_hi, extract_append_lo, Nat.reduceSub, extract_self, szOf_szCode, etOf_etCode, itOf_itCode, dtOf_dtCode, rmOf_rmCode, pathOf_pathCode, bit0_get, bit0_get', bit0_high]
theorem fcvt (d : Reg) (a : Reg) (sat : Bool) (rm : RM) (dst : ET) (et : ET) : Statement (.fcvt d a sat rm dst et) := by
  intro h _ x; refine (decode_24 ⟨mkR (rmCode rm ++ etCode dst ++ etCode et) (bit0 sat) a d 0x24#6 0#2, _, _, _, _⟩ (fOp_mkR ..)).trans ?_
  simp (disch := decide) only [shortOnly, extOnly, needZero, needCode, needWf_of h, lit01, lit_join, ↓reduceIte, BitVec.reduceToNat, BitVec.reduceEq, BitVec.reduceAppend, BitVec.reduceExtractLsb', BitVec.reduceGetLsb, BitVec.reduceGetElem, BitVec.reduceSetWidth, decide_true, decide_false, and_self, or_self, true_and, and_true, true_or, or_true, ne_eq, not_true_eq_false, not_false_eq_true, Bool.false_eq_true, fLen_mkR, fOp_mkR, fFn_mkR, fD_mkR, fA_mkR, fB_mkR, decCvt, extract_append_hi, extract_append_lo, Nat.reduceSub, extract_self, szOf_szCode, etOf_etCode, itOf_itCode, dtOf_dtCode, rmOf_rmCode, pathOf_pathCode, bit0_get, bit0_get', bit0_high]
theorem fcvti (d : Reg) (a : Reg) (sat : Bool) (rm : RM) (idst : IT) (et : ET) : Statement (.fcvti d a sat rm idst et) := by
  intro h _ x; refine (decode_25 ⟨mkR (rmCode rm ++ itCode idst ++ etCode et) (bit0 sat) a d 0x25#6 0#2, _, _, _, _⟩ (fOp_mkR ..)).trans ?_
  simp (disch := decide) only [shortOnly, extOnly, needZero, needCode, needWf_of h, lit01, lit_join, ↓reduceIte, BitVec.reduceToNat, BitVec.reduceEq, BitVec.reduceAppend, BitVec.reduceExtractLsb', BitVec.reduceGetLsb, BitVec.reduceGetElem, BitVec.reduceSetWidth, decide_true, decide_false, and_self, or_self, true_and, and_true, true_or, or_true, ne_eq, not_true_eq_false, not_false_eq_true, Bool.false_eq_true, fLen_mkR, fOp_mkR, fFn_mkR, fD_mkR, fA_mkR, fB_mkR, decCvt, extract_append_hi, extract_append_lo, Nat.reduceSub, extract_self, szOf_szCode, etOf_etCode, itOf_itCode, dtOf_dtCode, rmOf_rmCode, pathOf_pathCode, bit0_get, bit0_get', bit0_high]
theorem fcvtf (d : Reg) (a : Reg) (sat : Bool) (rm : RM) (dst : ET) (isrc : IT) : Statement (.fcvtf d a sat rm dst isrc) := by
  intro h _ x; refine (decode_26 ⟨mkR (rmCode rm ++ etCode dst ++ itCode isrc) (bit0 sat) a d 0x26#6 0#2, _, _, _, _⟩ (fOp_mkR ..)).trans ?_
  simp (disch := decide) only [shortOnly, extOnly, needZero, needCode, needWf_of h, lit01, lit_join, ↓reduceIte, BitVec.reduceToNat, BitVec.reduceEq, BitVec.reduceAppend, BitVec.reduceExtractLsb', BitVec.reduceGetLsb, BitVec.reduceGetElem, BitVec.reduceSetWidth, decide_true, decide_false, and_self, or_self, true_and, and_true, true_or, or_true, ne_eq, not_true_eq_false, not_false_eq_true, Bool.false_eq_true, fLen_mkR, fOp_mkR, fFn_mkR, fD_mkR, fA_mkR, fB_mkR, decCvt, extract_append_hi, extract_append_lo, Nat.reduceSub, extract_self, szOf_szCode, etOf_etCode, itOf_itCode, dtOf_dtCode, rmOf_rmCode, pathOf_pathCode, bit0_get, bit0_get', bit0_high]
theorem faddImm (d : Reg) (et : ET) (imm16 : BitVec 16) : Statement (.faddImm d et imm16) := by
  intro h _ x; refine (decode_27 ⟨mkH imm16 (etCode et) d 0x27#6 0#2, _, _, _, _⟩ (fOp_mkH ..)).trans ?_
  simp only [shortOnly, extOnly, needZero, needCode, needWf_of h, lit01, lit_join, ↓reduceIte, BitVec.reduceToNat, BitVec.reduceEq, BitVec.reduceAppend, BitVec.reduceExtractLsb', BitVec.reduceGetLsb, BitVec.reduceGetElem, BitVec.reduceSetWidth, decide_true, decide_false, and_self, or_self, true_and, and_true, true_or, or_true, ne_eq, not_true_eq_false, not_false_eq_true, Bool.false_eq_true, fLen_mkH, fOp_mkH, fImm16_mkH, fEtH_mkH, fD_mkH, decH, szOf_szCode, etOf_etCode, itOf_itCode, dtOf_dtCode, rmOf_rmCode, pathOf_pathCode, bit0_get, bit0_get', bit0_high]
theorem fmulImm (d : Reg) (et : ET) (imm16 : BitVec 16) : Statement (.fmulImm d et imm16) := by
  intro h _ x; refine (decode_28 ⟨mkH imm16 (etCode et) d 0x28#6 0#2, _, _, _, _⟩ (fOp_mkH ..)).trans ?_
  simp only [shortOnly, extOnly, needZero, needCode, needWf_of h, lit01, lit_join, ↓reduceIte, BitVec.reduceToNat, BitVec.reduceEq, BitVec.reduceAppend, BitVec.reduceExtractLsb', BitVec.reduceGetLsb, BitVec.reduceGetElem, BitVec.reduceSetWidth, decide_true, decide_false, and_self, or_self, true_and, and_true, true_or, or_true, ne_eq, not_true_eq_false, not_false_eq_true, Bool.false_eq_true, fLen_mkH, fOp_mkH, fImm16_mkH, fEtH_mkH, fD_mkH, decH, szOf_szCode, etOf_etCode, itOf_itCode, dtOf_dtCode, rmOf_rmCode, pathOf_pathCode, bit0_get, bit0_get', bit0_high]
theorem fmvImm (d : Reg) (et : ET) (imm16 : BitVec 16) : Statement (.fmvImm d et imm16) := by
  intro h _ x; refine (decode_29 ⟨mkH imm16 (etCode et) d 0x29#6 0#2, _, _, _, _⟩ (fOp_mkH ..)).trans ?_
  simp only [shortOnly, extOnly, needZero, needCode, needWf_of h, lit01, lit_join, ↓reduceIte, BitVec.reduceToNat, BitVec.reduceEq, BitVec.reduceAppend, BitVec.reduceExtractLsb', BitVec.reduceGetLsb, BitVec.reduceGetElem, BitVec.reduceSetWidth, decide_true, decide_false, and_self, or_self, true_and, and_true, true_or, or_true, ne_eq, not_true_eq_false, not_false_eq_true, Bool.false_eq_true, fLen_mkH, fOp_mkH, fImm16_mkH, fEtH_mkH, fD_mkH, decH, szOf_szCode, etOf_etCode, itOf_itCode, dtOf_dtCode, rmOf_rmCode, pathOf_pathCode, bit0_get, bit0_get', bit0_high]
theorem fexp2 (d : Reg) (a : Reg) (rm : RM) : Statement (.fexp2 d a rm) := by
  intro h _ x; refine (decode_2a ⟨mkR (0#3 ++ rmCode rm ++ 0#3) 0#5 a d 0x2a#6 0#2, _, _, _, _⟩ (fOp_mkR ..)).trans ?_
  simp (disch := decide) only [shortOnly, extOnly, needZero, needCode, needWf_of h, lit01, lit_join, ↓reduceIte, BitVec.reduceToNat, BitVec.reduceEq, BitVec.reduceAppend, BitVec.reduceExtractLsb', BitVec.reduceGetLsb, BitVec.reduceGetElem, BitVec.reduceSetWidth, decide_true, decide_false, and_self, or_self, true_and, and_true, true_or, or_true, ne_eq, not_true_eq_false, not_false_eq_true, Bool.false_eq_true, fLen_mkR, fOp_mkR, fFn_mkR, fD_mkR, fA_mkR, fB_mkR, decSfu, sfuOp, extract_append_hi, extract_append_lo, Nat.reduceSub, extract_self, szOf_szCode, etOf_etCode, itOf_itCode, dtOf_dtCode, rmOf_rmCode, pathOf_pathCode, bit0_get, bit0_get', bit0_high]
theorem flog2 (d : Reg) (a : Reg) (rm : RM) : Statement (.flog2 d a rm) := by
  intro h _ x; refine (decode_2a ⟨mkR (1#3 ++ rmCode rm ++ 0#3) 0#5 a d 0x2a#6 0#2, _, _, _, _⟩ (fOp_mkR ..)).trans ?_
  simp (disch := decide) only [shortOnly, extOnly, needZero, needCode, needWf_of h, lit01, lit_join, ↓reduceIte, BitVec.reduceToNat, BitVec.reduceEq, BitVec.reduceAppend, BitVec.reduceExtractLsb', BitVec.reduceGetLsb, BitVec.reduceGetElem, BitVec.reduceSetWidth, decide_true, decide_false, and_self, or_self, true_and, and_true, true_or, or_true, ne_eq, not_true_eq_false, not_false_eq_true, Bool.false_eq_true, fLen_mkR, fOp_mkR, fFn_mkR, fD_mkR, fA_mkR, fB_mkR, decSfu, sfuOp, extract_append_hi, extract_append_lo, Nat.reduceSub, extract_self, szOf_szCode, etOf_etCode, itOf_itCode, dtOf_dtCode, rmOf_rmCode, pathOf_pathCode, bit0_get, bit0_get', bit0_high]
theorem frcp (d : Reg) (a : Reg) (rm : RM) : Statement (.frcp d a rm) := by
  intro h _ x; refine (decode_2a ⟨mkR (2#3 ++ rmCode rm ++ 0#3) 0#5 a d 0x2a#6 0#2, _, _, _, _⟩ (fOp_mkR ..)).trans ?_
  simp (disch := decide) only [shortOnly, extOnly, needZero, needCode, needWf_of h, lit01, lit_join, ↓reduceIte, BitVec.reduceToNat, BitVec.reduceEq, BitVec.reduceAppend, BitVec.reduceExtractLsb', BitVec.reduceGetLsb, BitVec.reduceGetElem, BitVec.reduceSetWidth, decide_true, decide_false, and_self, or_self, true_and, and_true, true_or, or_true, ne_eq, not_true_eq_false, not_false_eq_true, Bool.false_eq_true, fLen_mkR, fOp_mkR, fFn_mkR, fD_mkR, fA_mkR, fB_mkR, decSfu, sfuOp, extract_append_hi, extract_append_lo, Nat.reduceSub, extract_self, szOf_szCode, etOf_etCode, itOf_itCode, dtOf_dtCode, rmOf_rmCode, pathOf_pathCode, bit0_get, bit0_get', bit0_high]
theorem frsq (d : Reg) (a : Reg) (rm : RM) : Statement (.frsq d a rm) := by
  intro h _ x; refine (decode_2a ⟨mkR (3#3 ++ rmCode rm ++ 0#3) 0#5 a d 0x2a#6 0#2, _, _, _, _⟩ (fOp_mkR ..)).trans ?_
  simp (disch := decide) only [shortOnly, extOnly, needZero, needCode, needWf_of h, lit01, lit_join, ↓reduceIte, BitVec.reduceToNat, BitVec.reduceEq, BitVec.reduceAppend, BitVec.reduceExtractLsb', BitVec.reduceGetLsb, BitVec.reduceGetElem, BitVec.reduceSetWidth, decide_true, decide_false, and_self, or_self, true_and, and_true, true_or, or_true, ne_eq, not_true_eq_false, not_false_eq_true, Bool.false_eq_true, fLen_mkR, fOp_mkR, fFn_mkR, fD_mkR, fA_mkR, fB_mkR, decSfu, sfuOp, extract_append_hi, extract_append_lo, Nat.reduceSub, extract_self, szOf_szCode, etOf_etCode, itOf_itCode, dtOf_dtCode, rmOf_rmCode, pathOf_pathCode, bit0_get, bit0_get', bit0_high]
theorem fsin (d : Reg) (a : Reg) (rm : RM) : Statement (.fsin d a rm) := by
  intro h _ x; refine (decode_2a ⟨mkR (4#3 ++ rmCode rm ++ 0#3) 0#5 a d 0x2a#6 0#2, _, _, _, _⟩ (fOp_mkR ..)).trans ?_
  simp (disch := decide) only [shortOnly, extOnly, needZero, needCode, needWf_of h, lit01, lit_join, ↓reduceIte, BitVec.reduceToNat, BitVec.reduceEq, BitVec.reduceAppend, BitVec.reduceExtractLsb', BitVec.reduceGetLsb, BitVec.reduceGetElem, BitVec.reduceSetWidth, decide_true, decide_false, and_self, or_self, true_and, and_true, true_or, or_true, ne_eq, not_true_eq_false, not_false_eq_true, Bool.false_eq_true, fLen_mkR, fOp_mkR, fFn_mkR, fD_mkR, fA_mkR, fB_mkR, decSfu, sfuOp, extract_append_hi, extract_append_lo, Nat.reduceSub, extract_self, szOf_szCode, etOf_etCode, itOf_itCode, dtOf_dtCode, rmOf_rmCode, pathOf_pathCode, bit0_get, bit0_get', bit0_high]
theorem fcos (d : Reg) (a : Reg) (rm : RM) : Statement (.fcos d a rm) := by
  intro h _ x; refine (decode_2a ⟨mkR (5#3 ++ rmCode rm ++ 0#3) 0#5 a d 0x2a#6 0#2, _, _, _, _⟩ (fOp_mkR ..)).trans ?_
  simp (disch := decide) only [shortOnly, extOnly, needZero, needCode, needWf_of h, lit01, lit_join, ↓reduceIte, BitVec.reduceToNat, BitVec.reduceEq, BitVec.reduceAppend, BitVec.reduceExtractLsb', BitVec.reduceGetLsb, BitVec.reduceGetElem, BitVec.reduceSetWidth, decide_true, decide_false, and_self, or_self, true_and, and_true, true_or, or_true, ne_eq, not_true_eq_false, not_false_eq_true, Bool.false_eq_true, fLen_mkR, fOp_mkR, fFn_mkR, fD_mkR, fA_mkR, fB_mkR, decSfu, sfuOp, extract_append_hi, extract_append_lo, Nat.reduceSub, extract_self, szOf_szCode, etOf_etCode, itOf_itCode, dtOf_dtCode, rmOf_rmCode, pathOf_pathCode, bit0_get, bit0_get', bit0_high]
theorem ftanh (d : Reg) (a : Reg) (rm : RM) : Statement (.ftanh d a rm) := by
  intro h _ x; refine (decode_2a ⟨mkR (6#3 ++ rmCode rm ++ 0#3) 0#5 a d 0x2a#6 0#2, _, _, _, _⟩ (fOp_mkR ..)).trans ?_
  simp (disch := decide) only [shortOnly, extOnly, needZero, needCode, needWf_of h, lit01, lit_join, ↓reduceIte, BitVec.reduceToNat, BitVec.reduceEq, BitVec.reduceAppend, BitVec.reduceExtractLsb', BitVec.reduceGetLsb, BitVec.reduceGetElem, BitVec.reduceSetWidth, decide_true, decide_false, and_self, or_self, true_and, and_true, true_or, or_true, ne_eq, not_true_eq_false, not_false_eq_true, Bool.false_eq_true, fLen_mkR, fOp_mkR, fFn_mkR, fD_mkR, fA_mkR, fB_mkR, decSfu, sfuOp, extract_append_hi, extract_append_lo, Nat.reduceSub, extract_self, szOf_szCode, etOf_etCode, itOf_itCode, dtOf_dtCode, rmOf_rmCode, pathOf_pathCode, bit0_get, bit0_get', bit0_high]
theorem flgst (d : Reg) (a : Reg) (rm : RM) : Statement (.flgst d a rm) := by
  intro h _ x; refine (decode_2a ⟨mkR (7#3 ++ rmCode rm ++ 0#3) 0#5 a d 0x2a#6 0#2, _, _, _, _⟩ (fOp_mkR ..)).trans ?_
  simp (disch := decide) only [shortOnly, extOnly, needZero, needCode, needWf_of h, lit01, lit_join, ↓reduceIte, BitVec.reduceToNat, BitVec.reduceEq, BitVec.reduceAppend, BitVec.reduceExtractLsb', BitVec.reduceGetLsb, BitVec.reduceGetElem, BitVec.reduceSetWidth, decide_true, decide_false, and_self, or_self, true_and, and_true, true_or, or_true, ne_eq, not_true_eq_false, not_false_eq_true, Bool.false_eq_true, fLen_mkR, fOp_mkR, fFn_mkR, fD_mkR, fA_mkR, fB_mkR, decSfu, sfuOp, extract_append_hi, extract_append_lo, Nat.reduceSub, extract_self, szOf_szCode, etOf_etCode, itOf_itCode, dtOf_dtCode, rmOf_rmCode, pathOf_pathCode, bit0_get, bit0_get', bit0_high]
theorem scfg (d : Reg) (a : Reg) (b : Reg) (dir : Bool) (ndim : BitVec 2) (imm32 : BitVec 32) : Statement (.scfg d a b dir ndim imm32) := by
  intro h _ x; obtain ⟨x1, x2, x3⟩ := x_scfg dir ndim
  refine (decode_2c ⟨mkR 0x000#9 b a d 0x2c#6 2#2, mkX (0#19 ++ BitVec.ofBool dir ++ ndim) 0#5 0#5, imm32, _, _⟩ (fOp_mkR ..)).trans ?_
  simp only [shortOnly, extOnly, needZero, needCode, needWf_of h, lit01, lit_join, ↓reduceIte, BitVec.reduceToNat, BitVec.reduceEq, BitVec.reduceAppend, BitVec.reduceExtractLsb', BitVec.reduceGetLsb, BitVec.reduceGetElem, BitVec.reduceSetWidth, decide_true, decide_false, and_self, or_self, true_and, and_true, true_or, or_true, ne_eq, not_true_eq_false, not_false_eq_true, Bool.false_eq_true, fLen_mkR, fOp_mkR, fFn_mkR, fD_mkR, fA_mkR, fB_mkR, dec2C, plain2C, x1, x2, x3]
theorem sdim (d : Reg) (a : Reg) : Statement (.sdim d a) := by
  intro h _ x; have h1 : 28 ≤ d.toNat := of_decide_eq_true h
  refine (decode_2c ⟨mkR 0x1#9 0#5 a d 0x2c#6 0#2, _, _, _, _⟩ (fOp_mkR ..)).trans ?_
  simp only [shortOnly, extOnly, needZero, needCode, needWf_of h, lit01, lit_join, ↓reduceIte, BitVec.reduceToNat, BitVec.reduceEq, BitVec.reduceAppend, BitVec.reduceExtractLsb', BitVec.reduceGetLsb, BitVec.reduceGetElem, BitVec.reduceSetWidth, decide_true, decide_false, and_self, or_self, true_and, and_true, true_or, or_true, ne_eq, not_true_eq_false, not_false_eq_true, Bool.false_eq_true, fLen_mkR, fOp_mkR, fFn_mkR, fD_mkR, fA_mkR, fB_mkR, dec2C, plain2C, if_pos h1]
theorem sen (d : Reg) : Statement (.sen d) := by
  intro h _ x; have h1 : 28 ≤ d.toNat := of_decide_eq_true h
  refine (decode_2c ⟨mkR 0x2#9 0#5 0#5 d 0x2c#6 0#2, _, _, _, _⟩ (fOp_mkR ..)).trans ?_
  simp only [shortOnly, extOnly, needZero, needCode, needWf_of h, lit01, lit_join, ↓reduceIte, BitVec.reduceToNat, BitVec.reduceEq, BitVec.reduceAppend, BitVec.reduceExtractLsb', BitVec.reduceGetLsb, BitVec.reduceGetElem, BitVec.reduceSetWidth, decide_true, decide_false, and_self, or_self, true_and, and_true, true_or, or_true, ne_eq, not_true_eq_false, not_false_eq_true, Bool.false_eq_true, fLen_mkR, fOp_mkR, fFn_mkR, fD_mkR, fA_mkR, fB_mkR, dec2C, plain2C, if_pos h1]
theorem sdis (d : Reg) : Statement (.sdis d) := by
  intro h _ x; have h1 : 28 ≤ d.toNat := of_decide_eq_true h
  refine (decode_2c ⟨mkR 0x3#9 0#5 0#5 d 0x2c#6 0#2, _, _, _, _⟩ (fOp_mkR ..)).trans ?_
  simp only [shortOnly, extOnly, needZero, needCode, needWf_of h, lit01, lit_join, ↓reduceIte, BitVec.reduceToNat, BitVec.reduceEq, BitVec.reduceAppend, BitVec.reduceExtractLsb', BitVec.reduceGetLsb, BitVec.reduceGetElem, BitVec.reduceSetWidth, decide_true, decide_false, and_self, or_self, true_and, and_true, true_or, or_true, ne_eq, not_true_eq_false, not_false_eq_true, Bool.false_eq_true, fLen_mkR, fOp_mkR, fFn_mkR, fD_mkR, fA_mkR, fB_mkR, dec2C, plain2C, if_pos h1]
theorem sstat (d : Reg) (a : Reg) : Statement (.sstat d a) := by
  intro h _ x; have h1 : 28 ≤ a.toNat := of_decide_eq_true h
  refine (decode_2c ⟨mkR 0x4#9 0#5 a d 0x2c#6 0#2, _, _, _, _⟩ (fOp_mkR ..)).trans ?_
  simp only [shortOnly, extOnly, needZero, needCode, needWf_of h, lit01, lit_join, ↓reduceIte, BitVec.reduceToNat, BitVec.reduceEq, BitVec.reduceAppend, BitVec.reduceExtractLsb', BitVec.reduceGetLsb, BitVec.reduceGetElem, BitVec.reduceSetWidth, decide_true, decide_false, and_self, or_self, true_and, and_true, true_or, or_true, ne_eq, not_true_eq_false, not_false_eq_true, Bool.false_eq_true, fLen_mkR, fOp_mkR, fFn_mkR, fD_mkR, fA_mkR, fB_mkR, dec2C, plain2C, if_pos h1]
theorem qget (d : Reg) (q : BitVec 3) : Statement (.qget d q) := by
  intro h _ x; refine (decode_2d ⟨mkR 0x0#9 0#5 (q.setWidth 5) d 0x2d#6 0#2, _, _, _, _⟩ (fOp_mkR ..)).trans ?_
  simp only [shortOnly, extOnly, needZero, needCode, needWf_of h, lit01, lit_join, ↓reduceIte, BitVec.reduceToNat, BitVec.reduceEq, BitVec.reduceAppend, BitVec.reduceExtractLsb', BitVec.reduceGetLsb, BitVec.reduceGetElem, BitVec.reduceSetWidth, decide_true, decide_false, and_self, or_self, true_and, and_true, true_or, or_true, ne_eq, not_true_eq_false, not_false_eq_true, Bool.false_eq_true, fLen_mkR, fOp_mkR, fFn_mkR, fD_mkR, fA_mkR, fB_mkR, plain2D, q5_lt, q5_back]
theorem qput (q : BitVec 3) (b : Reg) : Statement (.qput q b) := by
  intro h _ x; refine (decode_2d ⟨mkR 0x1#9 b (q.setWidth 5) 0#5 0x2d#6 0#2, _, _, _, _⟩ (fOp_mkR ..)).trans ?_
  simp only [shortOnly, extOnly, needZero, needCode, needWf_of h, lit01, lit_join, ↓reduceIte, BitVec.reduceToNat, BitVec.reduceEq, BitVec.reduceAppend, BitVec.reduceExtractLsb', BitVec.reduceGetLsb, BitVec.reduceGetElem, BitVec.reduceSetWidth, decide_true, decide_false, and_self, or_self, true_and, and_true, true_or, or_true, ne_eq, not_true_eq_false, not_false_eq_true, Bool.false_eq_true, fLen_mkR, fOp_mkR, fFn_mkR, fD_mkR, fA_mkR, fB_mkR, plain2D, q5_lt, q5_back]
theorem qpeek (d : Reg) (q : BitVec 3) : Statement (.qpeek d q) := by
  intro h _ x; refine (decode_2d ⟨mkR 0x2#9 0#5 (q.setWidth 5) d 0x2d#6 0#2, _, _, _, _⟩ (fOp_mkR ..)).trans ?_
  simp only [shortOnly, extOnly, needZero, needCode, needWf_of h, lit01, lit_join, ↓reduceIte, BitVec.reduceToNat, BitVec.reduceEq, BitVec.reduceAppend, BitVec.reduceExtractLsb', BitVec.reduceGetLsb, BitVec.reduceGetElem, BitVec.reduceSetWidth, decide_true, decide_false, and_self, or_self, true_and, and_true, true_or, or_true, ne_eq, not_true_eq_false, not_false_eq_true, Bool.false_eq_true, fLen_mkR, fOp_mkR, fFn_mkR, fD_mkR, fA_mkR, fB_mkR, plain2D, q5_lt, q5_back]
theorem qtry (d : Reg) (q : BitVec 3) : Statement (.qtry d q) := by
  intro h _ x; have h1 : d.getLsbD 0 = false := by have h2 : (!d.getLsbD 0) = true := h; cases h3 : d.getLsbD 0 <;> simp_all
  refine (decode_2d ⟨mkR 0x3#9 0#5 (q.setWidth 5) d 0x2d#6 0#2, _, _, _, _⟩ (fOp_mkR ..)).trans ?_
  simp only [shortOnly, extOnly, needZero, needCode, needWf_of h, lit01, lit_join, ↓reduceIte, BitVec.reduceToNat, BitVec.reduceEq, BitVec.reduceAppend, BitVec.reduceExtractLsb', BitVec.reduceGetLsb, BitVec.reduceGetElem, BitVec.reduceSetWidth, decide_true, decide_false, and_self, or_self, true_and, and_true, true_or, or_true, ne_eq, not_true_eq_false, not_false_eq_true, Bool.false_eq_true, fLen_mkR, fOp_mkR, fFn_mkR, fD_mkR, fA_mkR, fB_mkR, plain2D, q5_lt, q5_back, h1]
theorem qtput (d : Reg) (q : BitVec 3) (b : Reg) : Statement (.qtput d q b) := by
  intro h _ x; refine (decode_2d ⟨mkR 0x4#9 b (q.setWidth 5) d 0x2d#6 0#2, _, _, _, _⟩ (fOp_mkR ..)).trans ?_
  simp only [shortOnly, extOnly, needZero, needCode, needWf_of h, lit01, lit_join, ↓reduceIte, BitVec.reduceToNat, BitVec.reduceEq, BitVec.reduceAppend, BitVec.reduceExtractLsb', BitVec.reduceGetLsb, BitVec.reduceGetElem, BitVec.reduceSetWidth, decide_true, decide_false, and_self, or_self, true_and, and_true, true_or, or_true, ne_eq, not_true_eq_false, not_false_eq_true, Bool.false_eq_true, fLen_mkR, fOp_mkR, fFn_mkR, fD_mkR, fA_mkR, fB_mkR, plain2D, q5_lt, q5_back]
theorem qcfg (d : Reg) (q : BitVec 3) (b : Reg) : Statement (.qcfg d q b) := by
  intro h _ x; refine (decode_2d ⟨mkR 0x5#9 b (q.setWidth 5) d 0x2d#6 0#2, _, _, _, _⟩ (fOp_mkR ..)).trans ?_
  simp only [shortOnly, extOnly, needZero, needCode, needWf_of h, lit01, lit_join, ↓reduceIte, BitVec.reduceToNat, BitVec.reduceEq, BitVec.reduceAppend, BitVec.reduceExtractLsb', BitVec.reduceGetLsb, BitVec.reduceGetElem, BitVec.reduceSetWidth, decide_true, decide_false, and_self, or_self, true_and, and_true, true_or, or_true, ne_eq, not_true_eq_false, not_false_eq_true, Bool.false_eq_true, fLen_mkR, fOp_mkR, fFn_mkR, fD_mkR, fA_mkR, fB_mkR, plain2D, q5_lt, q5_back]
theorem qstat (d : Reg) (q : BitVec 3) : Statement (.qstat d q) := by
  intro h _ x; refine (decode_2d ⟨mkR 0x6#9 0#5 (q.setWidth 5) d 0x2d#6 0#2, _, _, _, _⟩ (fOp_mkR ..)).trans ?_
  simp only [shortOnly, extOnly, needZero, needCode, needWf_of h, lit01, lit_join, ↓reduceIte, BitVec.reduceToNat, BitVec.reduceEq, BitVec.reduceAppend, BitVec.reduceExtractLsb', BitVec.reduceGetLsb, BitVec.reduceGetElem, BitVec.reduceSetWidth, decide_true, decide_false, and_self, or_self, true_and, and_true, true_or, or_true, ne_eq, not_true_eq_false, not_false_eq_true, Bool.false_eq_true, fLen_mkR, fOp_mkR, fFn_mkR, fD_mkR, fA_mkR, fB_mkR, plain2D, q5_lt, q5_back]
theorem send (d : Reg) (a : Reg) (b : Reg) : Statement (.send d a b) := by
  intro h _ x; refine (decode_30 ⟨mkR 0x0#9 b a d 0x30#6 0#2, _, _, _, _⟩ (fOp_mkR ..)).trans ?_
  simp only [shortOnly, extOnly, needZero, needCode, needWf_of h, lit01, lit_join, ↓reduceIte, BitVec.reduceToNat, BitVec.reduceEq, BitVec.reduceAppend, BitVec.reduceExtractLsb', BitVec.reduceGetLsb, BitVec.reduceGetElem, BitVec.reduceSetWidth, decide_true, decide_false, and_self, or_self, true_and, and_true, true_or, or_true, ne_eq, not_true_eq_false, not_false_eq_true, Bool.false_eq_true, fLen_mkR, fOp_mkR, fFn_mkR, fD_mkR, fA_mkR, fB_mkR, dec30, plain30]
theorem sendt (d : Reg) (a : Reg) (b : Reg) (c : Reg) (imm32 : BitVec 32) : Statement (.sendt d a b c imm32) := by
  intro h _ x; obtain ⟨x1, x2⟩ := x_sendt c
  refine (decode_30 ⟨mkR 0x001#9 b a d 0x30#6 2#2, mkX 0#22 0#5 c, imm32, _, _⟩ (fOp_mkR ..)).trans ?_
  simp only [shortOnly, extOnly, needZero, needCode, needWf_of h, lit01, lit_join, ↓reduceIte, BitVec.reduceToNat, BitVec.reduceEq, BitVec.reduceAppend, BitVec.reduceExtractLsb', BitVec.reduceGetLsb, BitVec.reduceGetElem, BitVec.reduceSetWidth, decide_true, decide_false, and_self, or_self, true_and, and_true, true_or, or_true, ne_eq, not_true_eq_false, not_false_eq_true, Bool.false_eq_true, fLen_mkR, fOp_mkR, fFn_mkR, fD_mkR, fA_mkR, fB_mkR, dec30, plain30, x1, x2]
theorem keep (d : Reg) (a : Reg) (b : Reg) : Statement (.keep d a b) := by
  intro h _ x; refine (decode_30 ⟨mkR 0x3#9 b a d 0x30#6 0#2, _, _, _, _⟩ (fOp_mkR ..)).trans ?_
  simp only [shortOnly, extOnly, needZero, needCode, needWf_of h, lit01, lit_join, ↓reduceIte, BitVec.reduceToNat, BitVec.reduceEq, BitVec.reduceAppend, BitVec.reduceExtractLsb', BitVec.reduceGetLsb, BitVec.reduceGetElem, BitVec.reduceSetWidth, decide_true, decide_false, and_self, or_self, true_and, and_true, true_or, or_true, ne_eq, not_true_eq_false, not_false_eq_true, Bool.false_eq_true, fLen_mkR, fOp_mkR, fFn_mkR, fD_mkR, fA_mkR, fB_mkR, dec30, plain30]
theorem unkeep (a : Reg) : Statement (.unkeep a) := by
  intro h _ x; refine (decode_30 ⟨mkR 0x4#9 0#5 a 0#5 0x30#6 0#2, _, _, _, _⟩ (fOp_mkR ..)).trans ?_
  simp only [shortOnly, extOnly, needZero, needCode, needWf_of h, lit01, lit_join, ↓reduceIte, BitVec.reduceToNat, BitVec.reduceEq, BitVec.reduceAppend, BitVec.reduceExtractLsb', BitVec.reduceGetLsb, BitVec.reduceGetElem, BitVec.reduceSetWidth, decide_true, decide_false, and_self, or_self, true_and, and_true, true_or, or_true, ne_eq, not_true_eq_false, not_false_eq_true, Bool.false_eq_true, fLen_mkR, fOp_mkR, fFn_mkR, fD_mkR, fA_mkR, fB_mkR, dec30, plain30]
theorem gvtr (d : Reg) (a : Reg) : Statement (.gvtr d a) := by
  intro h _ x; refine (decode_30 ⟨mkR 0x6#9 0#5 a d 0x30#6 0#2, _, _, _, _⟩ (fOp_mkR ..)).trans ?_
  simp only [shortOnly, extOnly, needZero, needCode, needWf_of h, lit01, lit_join, ↓reduceIte, BitVec.reduceToNat, BitVec.reduceEq, BitVec.reduceAppend, BitVec.reduceExtractLsb', BitVec.reduceGetLsb, BitVec.reduceGetElem, BitVec.reduceSetWidth, decide_true, decide_false, and_self, or_self, true_and, and_true, true_or, or_true, ne_eq, not_true_eq_false, not_false_eq_true, Bool.false_eq_true, fLen_mkR, fOp_mkR, fFn_mkR, fD_mkR, fA_mkR, fB_mkR, dec30, plain30]
theorem anti (d : Reg) (a : Reg) : Statement (.anti d a) := by
  intro h _ x; refine (decode_30 ⟨mkR 0x7#9 0#5 a d 0x30#6 0#2, _, _, _, _⟩ (fOp_mkR ..)).trans ?_
  simp only [shortOnly, extOnly, needZero, needCode, needWf_of h, lit01, lit_join, ↓reduceIte, BitVec.reduceToNat, BitVec.reduceEq, BitVec.reduceAppend, BitVec.reduceExtractLsb', BitVec.reduceGetLsb, BitVec.reduceGetElem, BitVec.reduceSetWidth, decide_true, decide_false, and_self, or_self, true_and, and_true, true_or, or_true, ne_eq, not_true_eq_false, not_false_eq_true, Bool.false_eq_true, fLen_mkR, fOp_mkR, fFn_mkR, fD_mkR, fA_mkR, fB_mkR, dec30, plain30]
theorem launch (d : Reg) (a : Reg) (b : Reg) : Statement (.launch d a b) := by
  intro h _ x; refine (decode_31 ⟨mkR 0x0#9 b a d 0x31#6 0#2, _, _, _, _⟩ (fOp_mkR ..)).trans ?_
  simp only [shortOnly, extOnly, needZero, needCode, needWf_of h, lit01, lit_join, ↓reduceIte, BitVec.reduceToNat, BitVec.reduceEq, BitVec.reduceAppend, BitVec.reduceExtractLsb', BitVec.reduceGetLsb, BitVec.reduceGetElem, BitVec.reduceSetWidth, decide_true, decide_false, and_self, or_self, true_and, and_true, true_or, or_true, ne_eq, not_true_eq_false, not_false_eq_true, Bool.false_eq_true, fLen_mkR, fOp_mkR, fFn_mkR, fD_mkR, fA_mkR, fB_mkR, plain31]
theorem wid (d : Reg) (a : Reg) (n : BitVec 5) : Statement (.wid d a n) := by
  intro h _ x; refine (decode_31 ⟨mkR 0x1#9 n a d 0x31#6 0#2, _, _, _, _⟩ (fOp_mkR ..)).trans ?_
  simp only [shortOnly, extOnly, needZero, needCode, needWf_of h, lit01, lit_join, ↓reduceIte, BitVec.reduceToNat, BitVec.reduceEq, BitVec.reduceAppend, BitVec.reduceExtractLsb', BitVec.reduceGetLsb, BitVec.reduceGetElem, BitVec.reduceSetWidth, decide_true, decide_false, and_self, or_self, true_and, and_true, true_or, or_true, ne_eq, not_true_eq_false, not_false_eq_true, Bool.false_eq_true, fLen_mkR, fOp_mkR, fFn_mkR, fD_mkR, fA_mkR, fB_mkR, plain31]
theorem kstat (d : Reg) (a : Reg) : Statement (.kstat d a) := by
  intro h _ x; refine (decode_31 ⟨mkR 0x2#9 0#5 a d 0x31#6 0#2, _, _, _, _⟩ (fOp_mkR ..)).trans ?_
  simp only [shortOnly, extOnly, needZero, needCode, needWf_of h, lit01, lit_join, ↓reduceIte, BitVec.reduceToNat, BitVec.reduceEq, BitVec.reduceAppend, BitVec.reduceExtractLsb', BitVec.reduceGetLsb, BitVec.reduceGetElem, BitVec.reduceSetWidth, decide_true, decide_false, and_self, or_self, true_and, and_true, true_or, or_true, ne_eq, not_true_eq_false, not_false_eq_true, Bool.false_eq_true, fLen_mkR, fOp_mkR, fFn_mkR, fD_mkR, fA_mkR, fB_mkR, plain31]
theorem kend (d : Reg) (a : Reg) : Statement (.kend d a) := by
  intro h _ x; refine (decode_31 ⟨mkR 0x3#9 0#5 a d 0x31#6 0#2, _, _, _, _⟩ (fOp_mkR ..)).trans ?_
  simp only [shortOnly, extOnly, needZero, needCode, needWf_of h, lit01, lit_join, ↓reduceIte, BitVec.reduceToNat, BitVec.reduceEq, BitVec.reduceAppend, BitVec.reduceExtractLsb', BitVec.reduceGetLsb, BitVec.reduceGetElem, BitVec.reduceSetWidth, decide_true, decide_false, and_self, or_self, true_and, and_true, true_or, or_true, ne_eq, not_true_eq_false, not_false_eq_true, Bool.false_eq_true, fLen_mkR, fOp_mkR, fFn_mkR, fD_mkR, fA_mkR, fB_mkR, plain31]
theorem clnew (d : Reg) (a : Reg) (b : Reg) : Statement (.clnew d a b) := by
  intro h _ x; refine (decode_34 ⟨mkR 0x0#9 b a d 0x34#6 0#2, _, _, _, _⟩ (fOp_mkR ..)).trans ?_
  simp only [shortOnly, extOnly, needZero, needCode, needWf_of h, lit01, lit_join, ↓reduceIte, BitVec.reduceToNat, BitVec.reduceEq, BitVec.reduceAppend, BitVec.reduceExtractLsb', BitVec.reduceGetLsb, BitVec.reduceGetElem, BitVec.reduceSetWidth, decide_true, decide_false, and_self, or_self, true_and, and_true, true_or, or_true, ne_eq, not_true_eq_false, not_false_eq_true, Bool.false_eq_true, fLen_mkR, fOp_mkR, fFn_mkR, fD_mkR, fA_mkR, fB_mkR, plain34]
theorem clpub (a : Reg) (b : Reg) : Statement (.clpub a b) := by
  intro h _ x; refine (decode_34 ⟨mkR 0x1#9 b a 0#5 0x34#6 0#2, _, _, _, _⟩ (fOp_mkR ..)).trans ?_
  simp only [shortOnly, extOnly, needZero, needCode, needWf_of h, lit01, lit_join, ↓reduceIte, BitVec.reduceToNat, BitVec.reduceEq, BitVec.reduceAppend, BitVec.reduceExtractLsb', BitVec.reduceGetLsb, BitVec.reduceGetElem, BitVec.reduceSetWidth, decide_true, decide_false, and_self, or_self, true_and, and_true, true_or, or_true, ne_eq, not_true_eq_false, not_false_eq_true, Bool.false_eq_true, fLen_mkR, fOp_mkR, fFn_mkR, fD_mkR, fA_mkR, fB_mkR, plain34]
theorem cldec (a : Reg) : Statement (.cldec a) := by
  intro h _ x; refine (decode_34 ⟨mkR 0x2#9 0#5 a 0#5 0x34#6 0#2, _, _, _, _⟩ (fOp_mkR ..)).trans ?_
  simp only [shortOnly, extOnly, needZero, needCode, needWf_of h, lit01, lit_join, ↓reduceIte, BitVec.reduceToNat, BitVec.reduceEq, BitVec.reduceAppend, BitVec.reduceExtractLsb', BitVec.reduceGetLsb, BitVec.reduceGetElem, BitVec.reduceSetWidth, decide_true, decide_false, and_self, or_self, true_and, and_true, true_or, or_true, ne_eq, not_true_eq_false, not_false_eq_true, Bool.false_eq_true, fLen_mkR, fOp_mkR, fFn_mkR, fD_mkR, fA_mkR, fB_mkR, plain34]
theorem spawn (a : Reg) : Statement (.spawn a) := by
  intro h _ x; refine (decode_34 ⟨mkR 0x3#9 0#5 a 0#5 0x34#6 0#2, _, _, _, _⟩ (fOp_mkR ..)).trans ?_
  simp only [shortOnly, extOnly, needZero, needCode, needWf_of h, lit01, lit_join, ↓reduceIte, BitVec.reduceToNat, BitVec.reduceEq, BitVec.reduceAppend, BitVec.reduceExtractLsb', BitVec.reduceGetLsb, BitVec.reduceGetElem, BitVec.reduceSetWidth, decide_true, decide_false, and_self, or_self, true_and, and_true, true_or, or_true, ne_eq, not_true_eq_false, not_false_eq_true, Bool.false_eq_true, fLen_mkR, fOp_mkR, fFn_mkR, fD_mkR, fA_mkR, fB_mkR, plain34]
theorem callat (d : Reg) (a : Reg) (b : Reg) : Statement (.callat d a b) := by
  intro h _ x; refine (decode_34 ⟨mkR 0x4#9 b a d 0x34#6 0#2, _, _, _, _⟩ (fOp_mkR ..)).trans ?_
  simp only [shortOnly, extOnly, needZero, needCode, needWf_of h, lit01, lit_join, ↓reduceIte, BitVec.reduceToNat, BitVec.reduceEq, BitVec.reduceAppend, BitVec.reduceExtractLsb', BitVec.reduceGetLsb, BitVec.reduceGetElem, BitVec.reduceSetWidth, decide_true, decide_false, and_self, or_self, true_and, and_true, true_or, or_true, ne_eq, not_true_eq_false, not_false_eq_true, Bool.false_eq_true, fLen_mkR, fOp_mkR, fFn_mkR, fD_mkR, fA_mkR, fB_mkR, plain34]
theorem retv (a : Reg) : Statement (.retv a) := by
  intro h _ x; refine (decode_34 ⟨mkR 0x5#9 0#5 a 0#5 0x34#6 0#2, _, _, _, _⟩ (fOp_mkR ..)).trans ?_
  simp only [shortOnly, extOnly, needZero, needCode, needWf_of h, lit01, lit_join, ↓reduceIte, BitVec.reduceToNat, BitVec.reduceEq, BitVec.reduceAppend, BitVec.reduceExtractLsb', BitVec.reduceGetLsb, BitVec.reduceGetElem, BitVec.reduceSetWidth, decide_true, decide_false, and_self, or_self, true_and, and_true, true_or, or_true, ne_eq, not_true_eq_false, not_false_eq_true, Bool.false_eq_true, fLen_mkR, fOp_mkR, fFn_mkR, fD_mkR, fA_mkR, fB_mkR, plain34]
theorem bind (d : Reg) (a : Reg) (b : Reg) : Statement (.bind d a b) := by
  intro h _ x; refine (decode_35 ⟨mkR 0x0#9 b a d 0x35#6 0#2, _, _, _, _⟩ (fOp_mkR ..)).trans ?_
  simp only [shortOnly, extOnly, needZero, needCode, needWf_of h, lit01, lit_join, ↓reduceIte, BitVec.reduceToNat, BitVec.reduceEq, BitVec.reduceAppend, BitVec.reduceExtractLsb', BitVec.reduceGetLsb, BitVec.reduceGetElem, BitVec.reduceSetWidth, decide_true, decide_false, and_self, or_self, true_and, and_true, true_or, or_true, ne_eq, not_true_eq_false, not_false_eq_true, Bool.false_eq_true, fLen_mkR, fOp_mkR, fFn_mkR, fD_mkR, fA_mkR, fB_mkR, plain35]
theorem chpri (a : Reg) (b : Reg) : Statement (.chpri a b) := by
  intro h _ x; refine (decode_35 ⟨mkR 0x1#9 b a 0#5 0x35#6 0#2, _, _, _, _⟩ (fOp_mkR ..)).trans ?_
  simp only [shortOnly, extOnly, needZero, needCode, needWf_of h, lit01, lit_join, ↓reduceIte, BitVec.reduceToNat, BitVec.reduceEq, BitVec.reduceAppend, BitVec.reduceExtractLsb', BitVec.reduceGetLsb, BitVec.reduceGetElem, BitVec.reduceSetWidth, decide_true, decide_false, and_self, or_self, true_and, and_true, true_or, or_true, ne_eq, not_true_eq_false, not_false_eq_true, Bool.false_eq_true, fLen_mkR, fOp_mkR, fFn_mkR, fD_mkR, fA_mkR, fB_mkR, plain35]
theorem chmask (d : Reg) (a : Reg) : Statement (.chmask d a) := by
  intro h _ x; refine (decode_35 ⟨mkR 0x2#9 0#5 a d 0x35#6 0#2, _, _, _, _⟩ (fOp_mkR ..)).trans ?_
  simp only [shortOnly, extOnly, needZero, needCode, needWf_of h, lit01, lit_join, ↓reduceIte, BitVec.reduceToNat, BitVec.reduceEq, BitVec.reduceAppend, BitVec.reduceExtractLsb', BitVec.reduceGetLsb, BitVec.reduceGetElem, BitVec.reduceSetWidth, decide_true, decide_false, and_self, or_self, true_and, and_true, true_or, or_true, ne_eq, not_true_eq_false, not_false_eq_true, Bool.false_eq_true, fLen_mkR, fOp_mkR, fFn_mkR, fD_mkR, fA_mkR, fB_mkR, plain35]
theorem chain (d : Reg) (a : Reg) (b : Reg) : Statement (.chain d a b) := by
  intro h _ x; refine (decode_36 ⟨mkR 0x0#9 b a d 0x36#6 0#2, _, _, _, _⟩ (fOp_mkR ..)).trans ?_
  simp only [shortOnly, extOnly, needZero, needCode, needWf_of h, lit01, lit_join, ↓reduceIte, BitVec.reduceToNat, BitVec.reduceEq, BitVec.reduceAppend, BitVec.reduceExtractLsb', BitVec.reduceGetLsb, BitVec.reduceGetElem, BitVec.reduceSetWidth, decide_true, decide_false, and_self, or_self, true_and, and_true, true_or, or_true, ne_eq, not_true_eq_false, not_false_eq_true, Bool.false_eq_true, fLen_mkR, fOp_mkR, fFn_mkR, fD_mkR, fA_mkR, fB_mkR, plain36]
theorem recoil (d : Reg) (a : Reg) : Statement (.recoil d a) := by
  intro h _ x; refine (decode_36 ⟨mkR 0x2#9 0#5 a d 0x36#6 0#2, _, _, _, _⟩ (fOp_mkR ..)).trans ?_
  simp only [shortOnly, extOnly, needZero, needCode, needWf_of h, lit01, lit_join, ↓reduceIte, BitVec.reduceToNat, BitVec.reduceEq, BitVec.reduceAppend, BitVec.reduceExtractLsb', BitVec.reduceGetLsb, BitVec.reduceGetElem, BitVec.reduceSetWidth, decide_true, decide_false, and_self, or_self, true_and, and_true, true_or, or_true, ne_eq, not_true_eq_false, not_false_eq_true, Bool.false_eq_true, fLen_mkR, fOp_mkR, fFn_mkR, fD_mkR, fA_mkR, fB_mkR, plain36]
theorem uncoil (d : Reg) (a : Reg) : Statement (.uncoil d a) := by
  intro h _ x; refine (decode_36 ⟨mkR 0x3#9 0#5 a d 0x36#6 0#2, _, _, _, _⟩ (fOp_mkR ..)).trans ?_
  simp only [shortOnly, extOnly, needZero, needCode, needWf_of h, lit01, lit_join, ↓reduceIte, BitVec.reduceToNat, BitVec.reduceEq, BitVec.reduceAppend, BitVec.reduceExtractLsb', BitVec.reduceGetLsb, BitVec.reduceGetElem, BitVec.reduceSetWidth, decide_true, decide_false, and_self, or_self, true_and, and_true, true_or, or_true, ne_eq, not_true_eq_false, not_false_eq_true, Bool.false_eq_true, fLen_mkR, fOp_mkR, fFn_mkR, fD_mkR, fA_mkR, fB_mkR, plain36]
theorem cform (d : Reg) (a : Reg) : Statement (.cform d a) := by
  intro h _ x; refine (decode_36 ⟨mkR 0x4#9 0#5 a d 0x36#6 0#2, _, _, _, _⟩ (fOp_mkR ..)).trans ?_
  simp only [shortOnly, extOnly, needZero, needCode, needWf_of h, lit01, lit_join, ↓reduceIte, BitVec.reduceToNat, BitVec.reduceEq, BitVec.reduceAppend, BitVec.reduceExtractLsb', BitVec.reduceGetLsb, BitVec.reduceGetElem, BitVec.reduceSetWidth, decide_true, decide_false, and_self, or_self, true_and, and_true, true_or, or_true, ne_eq, not_true_eq_false, not_false_eq_true, Bool.false_eq_true, fLen_mkR, fOp_mkR, fFn_mkR, fD_mkR, fA_mkR, fB_mkR, plain36]
theorem put (a : Reg) (b : Reg) (sz : Sz) : Statement (.put a b sz) := by
  intro h _ x; refine (decode_38 ⟨mkR (0#6 ++ szCode sz) b a 0#5 0x38#6 0#2, _, _, _, _⟩ (fOp_mkR ..)).trans ?_
  simp (disch := decide) only [shortOnly, extOnly, needZero, needCode, needWf_of h, lit01, lit_join, ↓reduceIte, BitVec.reduceToNat, BitVec.reduceEq, BitVec.reduceAppend, BitVec.reduceExtractLsb', BitVec.reduceGetLsb, BitVec.reduceGetElem, BitVec.reduceSetWidth, decide_true, decide_false, and_self, or_self, true_and, and_true, true_or, or_true, ne_eq, not_true_eq_false, not_false_eq_true, Bool.false_eq_true, fLen_mkR, fOp_mkR, fFn_mkR, fD_mkR, fA_mkR, fB_mkR, dec38, plain38, extract_append_hi, extract_append_lo, Nat.reduceSub, extract_self, szOf_szCode, etOf_etCode, itOf_itCode, dtOf_dtCode, rmOf_rmCode, pathOf_pathCode, bit0_get, bit0_get', bit0_high]
theorem putL (a : Reg) (sz : Sz) (lit : Word) : Statement (.putL a sz lit) := by
  intro h _ x; refine (decode_38 ⟨mkR (0#6 ++ szCode sz) 0#5 a 0#5 0x38#6 1#2, lit.extractLsb' 0 32, lit.extractLsb' 32 32, _, _⟩ (fOp_mkR ..)).trans ?_
  simp (disch := decide) only [shortOnly, extOnly, needZero, needCode, needWf_of h, lit01, lit_join, ↓reduceIte, BitVec.reduceToNat, BitVec.reduceEq, BitVec.reduceAppend, BitVec.reduceExtractLsb', BitVec.reduceGetLsb, BitVec.reduceGetElem, BitVec.reduceSetWidth, decide_true, decide_false, and_self, or_self, true_and, and_true, true_or, or_true, ne_eq, not_true_eq_false, not_false_eq_true, Bool.false_eq_true, fLen_mkR, fOp_mkR, fFn_mkR, fD_mkR, fA_mkR, fB_mkR, dec38, plain38, extract_append_hi, extract_append_lo, Nat.reduceSub, extract_self, szOf_szCode, etOf_etCode, itOf_itCode, dtOf_dtCode, rmOf_rmCode, pathOf_pathCode, bit0_get, bit0_get', bit0_high]
theorem putv (d : Reg) (a : Reg) (b : Reg) (sz : Sz) : Statement (.putv d a b sz) := by
  intro h _ x; refine (decode_38 ⟨mkR (1#6 ++ szCode sz) b a d 0x38#6 0#2, _, _, _, _⟩ (fOp_mkR ..)).trans ?_
  simp (disch := decide) only [shortOnly, extOnly, needZero, needCode, needWf_of h, lit01, lit_join, ↓reduceIte, BitVec.reduceToNat, BitVec.reduceEq, BitVec.reduceAppend, BitVec.reduceExtractLsb', BitVec.reduceGetLsb, BitVec.reduceGetElem, BitVec.reduceSetWidth, decide_true, decide_false, and_self, or_self, true_and, and_true, true_or, or_true, ne_eq, not_true_eq_false, not_false_eq_true, Bool.false_eq_true, fLen_mkR, fOp_mkR, fFn_mkR, fD_mkR, fA_mkR, fB_mkR, dec38, plain38, extract_append_hi, extract_append_lo, Nat.reduceSub, extract_self, szOf_szCode, etOf_etCode, itOf_itCode, dtOf_dtCode, rmOf_rmCode, pathOf_pathCode, bit0_get, bit0_get', bit0_high]
theorem rld (d : Reg) (a : Reg) (sz : Sz) : Statement (.rld d a sz) := by
  intro h _ x; refine (decode_38 ⟨mkR (2#6 ++ szCode sz) 0#5 a d 0x38#6 0#2, _, _, _, _⟩ (fOp_mkR ..)).trans ?_
  simp (disch := decide) only [shortOnly, extOnly, needZero, needCode, needWf_of h, lit01, lit_join, ↓reduceIte, BitVec.reduceToNat, BitVec.reduceEq, BitVec.reduceAppend, BitVec.reduceExtractLsb', BitVec.reduceGetLsb, BitVec.reduceGetElem, BitVec.reduceSetWidth, decide_true, decide_false, and_self, or_self, true_and, and_true, true_or, or_true, ne_eq, not_true_eq_false, not_false_eq_true, Bool.false_eq_true, fLen_mkR, fOp_mkR, fFn_mkR, fD_mkR, fA_mkR, fB_mkR, dec38, plain38, extract_append_hi, extract_append_lo, Nat.reduceSub, extract_self, szOf_szCode, etOf_etCode, itOf_itCode, dtOf_dtCode, rmOf_rmCode, pathOf_pathCode, bit0_get, bit0_get', bit0_high]
theorem radd (a : Reg) (b : Reg) (sz : Sz) : Statement (.radd a b sz) := by
  intro h _ x; refine (decode_38 ⟨mkR (3#6 ++ szCode sz) b a 0#5 0x38#6 0#2, _, _, _, _⟩ (fOp_mkR ..)).trans ?_
  simp (disch := decide) only [shortOnly, extOnly, needZero, needCode, needWf_of h, lit01, lit_join, ↓reduceIte, BitVec.reduceToNat, BitVec.reduceEq, BitVec.reduceAppend, BitVec.reduceExtractLsb', BitVec.reduceGetLsb, BitVec.reduceGetElem, BitVec.reduceSetWidth, decide_true, decide_false, and_self, or_self, true_and, and_true, true_or, or_true, ne_eq, not_true_eq_false, not_false_eq_true, Bool.false_eq_true, fLen_mkR, fOp_mkR, fFn_mkR, fD_mkR, fA_mkR, fB_mkR, dec38, plain38, extract_append_hi, extract_append_lo, Nat.reduceSub, extract_self, szOf_szCode, etOf_etCode, itOf_itCode, dtOf_dtCode, rmOf_rmCode, pathOf_pathCode, bit0_get, bit0_get', bit0_high]
theorem raddL (a : Reg) (sz : Sz) (lit : Word) : Statement (.raddL a sz lit) := by
  intro h _ x; refine (decode_38 ⟨mkR (3#6 ++ szCode sz) 0#5 a 0#5 0x38#6 1#2, lit.extractLsb' 0 32, lit.extractLsb' 32 32, _, _⟩ (fOp_mkR ..)).trans ?_
  simp (disch := decide) only [shortOnly, extOnly, needZero, needCode, needWf_of h, lit01, lit_join, ↓reduceIte, BitVec.reduceToNat, BitVec.reduceEq, BitVec.reduceAppend, BitVec.reduceExtractLsb', BitVec.reduceGetLsb, BitVec.reduceGetElem, BitVec.reduceSetWidth, decide_true, decide_false, and_self, or_self, true_and, and_true, true_or, or_true, ne_eq, not_true_eq_false, not_false_eq_true, Bool.false_eq_true, fLen_mkR, fOp_mkR, fFn_mkR, fD_mkR, fA_mkR, fB_mkR, dec38, plain38, extract_append_hi, extract_append_lo, Nat.reduceSub, extract_self, szOf_szCode, etOf_etCode, itOf_itCode, dtOf_dtCode, rmOf_rmCode, pathOf_pathCode, bit0_get, bit0_get', bit0_high]
theorem cpy (d : Reg) (a : Reg) : Statement (.cpy d a) := by
  intro h _ x; refine (decode_38 ⟨mkR 0x20#9 0#5 a d 0x38#6 0#2, _, _, _, _⟩ (fOp_mkR ..)).trans ?_
  simp only [shortOnly, extOnly, needZero, needCode, needWf_of h, lit01, lit_join, ↓reduceIte, BitVec.reduceToNat, BitVec.reduceEq, BitVec.reduceAppend, BitVec.reduceExtractLsb', BitVec.reduceGetLsb, BitVec.reduceGetElem, BitVec.reduceSetWidth, decide_true, decide_false, and_self, or_self, true_and, and_true, true_or, or_true, ne_eq, not_true_eq_false, not_false_eq_true, Bool.false_eq_true, fLen_mkR, fOp_mkR, fFn_mkR, fD_mkR, fA_mkR, fB_mkR, dec38, plain38]
theorem cpys (d : Reg) (a : Reg) (imm32 : BitVec 32) : Statement (.cpys d a imm32) := by
  intro h _ x; refine (decode_38 ⟨mkR 0x021#9 0#5 a d 0x38#6 2#2, 0#32, imm32, _, _⟩ (fOp_mkR ..)).trans ?_
  simp only [shortOnly, extOnly, needZero, needCode, needWf_of h, lit01, lit_join, ↓reduceIte, BitVec.reduceToNat, BitVec.reduceEq, BitVec.reduceAppend, BitVec.reduceExtractLsb', BitVec.reduceGetLsb, BitVec.reduceGetElem, BitVec.reduceSetWidth, decide_true, decide_false, and_self, or_self, true_and, and_true, true_or, or_true, ne_eq, not_true_eq_false, not_false_eq_true, Bool.false_eq_true, fLen_mkR, fOp_mkR, fFn_mkR, fD_mkR, fA_mkR, fB_mkR, dec38, plain38]
theorem cpyg (d : Reg) (a : Reg) (imm32 : BitVec 32) : Statement (.cpyg d a imm32) := by
  intro h _ x; refine (decode_38 ⟨mkR 0x022#9 0#5 a d 0x38#6 2#2, 0#32, imm32, _, _⟩ (fOp_mkR ..)).trans ?_
  simp only [shortOnly, extOnly, needZero, needCode, needWf_of h, lit01, lit_join, ↓reduceIte, BitVec.reduceToNat, BitVec.reduceEq, BitVec.reduceAppend, BitVec.reduceExtractLsb', BitVec.reduceGetLsb, BitVec.reduceGetElem, BitVec.reduceSetWidth, decide_true, decide_false, and_self, or_self, true_and, and_true, true_or, or_true, ne_eq, not_true_eq_false, not_false_eq_true, Bool.false_eq_true, fLen_mkR, fOp_mkR, fFn_mkR, fD_mkR, fA_mkR, fB_mkR, dec38, plain38]
theorem cpyx (d : Reg) (a : Reg) (imm32 : BitVec 32) : Statement (.cpyx d a imm32) := by
  intro h _ x; refine (decode_38 ⟨mkR 0x023#9 0#5 a d 0x38#6 2#2, 0#32, imm32, _, _⟩ (fOp_mkR ..)).trans ?_
  simp only [shortOnly, extOnly, needZero, needCode, needWf_of h, lit01, lit_join, ↓reduceIte, BitVec.reduceToNat, BitVec.reduceEq, BitVec.reduceAppend, BitVec.reduceExtractLsb', BitVec.reduceGetLsb, BitVec.reduceGetElem, BitVec.reduceSetWidth, decide_true, decide_false, and_self, or_self, true_and, and_true, true_or, or_true, ne_eq, not_true_eq_false, not_false_eq_true, Bool.false_eq_true, fLen_mkR, fOp_mkR, fFn_mkR, fD_mkR, fA_mkR, fB_mkR, dec38, plain38]
theorem cpyq (d : Reg) (a : Reg) : Statement (.cpyq d a) := by
  intro h _ x; refine (decode_38 ⟨mkR 0x24#9 0#5 a d 0x38#6 0#2, _, _, _, _⟩ (fOp_mkR ..)).trans ?_
  simp only [shortOnly, extOnly, needZero, needCode, needWf_of h, lit01, lit_join, ↓reduceIte, BitVec.reduceToNat, BitVec.reduceEq, BitVec.reduceAppend, BitVec.reduceExtractLsb', BitVec.reduceGetLsb, BitVec.reduceGetElem, BitVec.reduceSetWidth, decide_true, decide_false, and_self, or_self, true_and, and_true, true_or, or_true, ne_eq, not_true_eq_false, not_false_eq_true, Bool.false_eq_true, fLen_mkR, fOp_mkR, fFn_mkR, fD_mkR, fA_mkR, fB_mkR, dec38, plain38]
theorem cpyc (d : Reg) (a : Reg) : Statement (.cpyc d a) := by
  intro h _ x; refine (decode_38 ⟨mkR 0x25#9 0#5 a d 0x38#6 0#2, _, _, _, _⟩ (fOp_mkR ..)).trans ?_
  simp only [shortOnly, extOnly, needZero, needCode, needWf_of h, lit01, lit_join, ↓reduceIte, BitVec.reduceToNat, BitVec.reduceEq, BitVec.reduceAppend, BitVec.reduceExtractLsb', BitVec.reduceGetLsb, BitVec.reduceGetElem, BitVec.reduceSetWidth, decide_true, decide_false, and_self, or_self, true_and, and_true, true_or, or_true, ne_eq, not_true_eq_false, not_false_eq_true, Bool.false_eq_true, fLen_mkR, fOp_mkR, fFn_mkR, fD_mkR, fA_mkR, fB_mkR, dec38, plain38]
theorem pin (d : Reg) (a : Reg) (b : Reg) : Statement (.pin d a b) := by
  intro h _ x; refine (decode_39 ⟨mkR 0x0#9 b a d 0x39#6 0#2, _, _, _, _⟩ (fOp_mkR ..)).trans ?_
  simp only [shortOnly, extOnly, needZero, needCode, needWf_of h, lit01, lit_join, ↓reduceIte, BitVec.reduceToNat, BitVec.reduceEq, BitVec.reduceAppend, BitVec.reduceExtractLsb', BitVec.reduceGetLsb, BitVec.reduceGetElem, BitVec.reduceSetWidth, decide_true, decide_false, and_self, or_self, true_and, and_true, true_or, or_true, ne_eq, not_true_eq_false, not_false_eq_true, Bool.false_eq_true, fLen_mkR, fOp_mkR, fFn_mkR, fD_mkR, fA_mkR, fB_mkR, dec39, plain39]
theorem unpin (a : Reg) : Statement (.unpin a) := by
  intro h _ x; refine (decode_39 ⟨mkR 0x1#9 0#5 a 0#5 0x39#6 0#2, _, _, _, _⟩ (fOp_mkR ..)).trans ?_
  simp only [shortOnly, extOnly, needZero, needCode, needWf_of h, lit01, lit_join, ↓reduceIte, BitVec.reduceToNat, BitVec.reduceEq, BitVec.reduceAppend, BitVec.reduceExtractLsb', BitVec.reduceGetLsb, BitVec.reduceGetElem, BitVec.reduceSetWidth, decide_true, decide_false, and_self, or_self, true_and, and_true, true_or, or_true, ne_eq, not_true_eq_false, not_false_eq_true, Bool.false_eq_true, fLen_mkR, fOp_mkR, fFn_mkR, fD_mkR, fA_mkR, fB_mkR, dec39, plain39]
theorem flsh (a : Reg) (b : Reg) : Statement (.flsh a b) := by
  intro h _ x; refine (decode_39 ⟨mkR 0x2#9 b a 0#5 0x39#6 0#2, _, _, _, _⟩ (fOp_mkR ..)).trans ?_
  simp only [shortOnly, extOnly, needZero, needCode, needWf_of h, lit01, lit_join, ↓reduceIte, BitVec.reduceToNat, BitVec.reduceEq, BitVec.reduceAppend, BitVec.reduceExtractLsb', BitVec.reduceGetLsb, BitVec.reduceGetElem, BitVec.reduceSetWidth, decide_true, decide_false, and_self, or_self, true_and, and_true, true_or, or_true, ne_eq, not_true_eq_false, not_false_eq_true, Bool.false_eq_true, fLen_mkR, fOp_mkR, fFn_mkR, fD_mkR, fA_mkR, fB_mkR, dec39, plain39]
theorem invl (a : Reg) (b : Reg) : Statement (.invl a b) := by
  intro h _ x; refine (decode_39 ⟨mkR 0x3#9 b a 0#5 0x39#6 0#2, _, _, _, _⟩ (fOp_mkR ..)).trans ?_
  simp only [shortOnly, extOnly, needZero, needCode, needWf_of h, lit01, lit_join, ↓reduceIte, BitVec.reduceToNat, BitVec.reduceEq, BitVec.reduceAppend, BitVec.reduceExtractLsb', BitVec.reduceGetLsb, BitVec.reduceGetElem, BitVec.reduceSetWidth, decide_true, decide_false, and_self, or_self, true_and, and_true, true_or, or_true, ne_eq, not_true_eq_false, not_false_eq_true, Bool.false_eq_true, fLen_mkR, fOp_mkR, fFn_mkR, fD_mkR, fA_mkR, fB_mkR, dec39, plain39]
theorem winset (a : Reg) (b : Reg) (win : BitVec 3) (imm32 : BitVec 32) : Statement (.winset a b win imm32) := by
  intro h _ x; obtain ⟨x1, x2⟩ := x_winset win; have h1 : imm32.extractLsb' 12 20 = 0#20 := of_decide_eq_true h
  refine (decode_39 ⟨mkR 0x004#9 b a 0#5 0x39#6 2#2, mkX (0#19 ++ win) 0#5 0#5, imm32, _, _⟩ (fOp_mkR ..)).trans ?_
  simp only [shortOnly, extOnly, needZero, needCode, needWf_of h, lit01, lit_join, ↓reduceIte, BitVec.reduceToNat, BitVec.reduceEq, BitVec.reduceAppend, BitVec.reduceExtractLsb', BitVec.reduceGetLsb, BitVec.reduceGetElem, BitVec.reduceSetWidth, decide_true, decide_false, and_self, or_self, true_and, and_true, true_or, or_true, ne_eq, not_true_eq_false, not_false_eq_true, Bool.false_eq_true, fLen_mkR, fOp_mkR, fFn_mkR, fD_mkR, fA_mkR, fB_mkR, dec39, plain39, x1, x2, h1]
theorem mxstat (d : Reg) (clr : Bool) : Statement (.mxstat d clr) := by
  intro h _ x; refine (decode_3a ⟨mkR 0x002#9 (bit0 clr) 0#5 d 0x3a#6 0#2, _, _, _, _⟩ (fOp_mkR ..)).trans ?_
  simp only [shortOnly, extOnly, needZero, needCode, needWf_of h, lit01, lit_join, ↓reduceIte, BitVec.reduceToNat, BitVec.reduceEq, BitVec.reduceAppend, BitVec.reduceExtractLsb', BitVec.reduceGetLsb, BitVec.reduceGetElem, BitVec.reduceSetWidth, decide_true, decide_false, and_self, or_self, true_and, and_true, true_or, or_true, ne_eq, not_true_eq_false, not_false_eq_true, Bool.false_eq_true, fLen_mkR, fOp_mkR, fFn_mkR, fD_mkR, fA_mkR, fB_mkR, dec3A, plain3A, szOf_szCode, etOf_etCode, itOf_itCode, dtOf_dtCode, rmOf_rmCode, pathOf_pathCode, bit0_get, bit0_get', bit0_high]
theorem mxgang (d : Reg) (a : Reg) (dis : Bool) (cm1 : BitVec 4) (rm1 : BitVec 3) (imm32 : BitVec 32) : Statement (.mxgang d a dis cm1 rm1 imm32) := by
  intro h _ x; obtain ⟨x1, x2, x3, x4⟩ := x_mxgang dis cm1 rm1
  refine (decode_3a ⟨mkR 0x004#9 0#5 a d 0x3a#6 2#2, mkX (0#14 ++ BitVec.ofBool dis ++ cm1 ++ rm1) 0#5 0#5, imm32, _, _⟩ (fOp_mkR ..)).trans ?_
  simp only [shortOnly, extOnly, needZero, needCode, needWf_of h, lit01, lit_join, ↓reduceIte, BitVec.reduceToNat, BitVec.reduceEq, BitVec.reduceAppend, BitVec.reduceExtractLsb', BitVec.reduceGetLsb, BitVec.reduceGetElem, BitVec.reduceSetWidth, decide_true, decide_false, and_self, or_self, true_and, and_true, true_or, or_true, ne_eq, not_true_eq_false, not_false_eq_true, Bool.false_eq_true, fLen_mkR, fOp_mkR, fFn_mkR, fD_mkR, fA_mkR, fB_mkR, dec3A, plain3A, x1, x2, x3, x4]
theorem gjoin (d : Reg) (a : Reg) (b : Reg) : Statement (.gjoin d a b) := by
  intro h _ x; refine (decode_3b ⟨mkR 0x0#9 b a d 0x3b#6 0#2, _, _, _, _⟩ (fOp_mkR ..)).trans ?_
  simp only [shortOnly, extOnly, needZero, needCode, needWf_of h, lit01, lit_join, ↓reduceIte, BitVec.reduceToNat, BitVec.reduceEq, BitVec.reduceAppend, BitVec.reduceExtractLsb', BitVec.reduceGetLsb, BitVec.reduceGetElem, BitVec.reduceSetWidth, decide_true, decide_false, and_self, or_self, true_and, and_true, true_or, or_true, ne_eq, not_true_eq_false, not_false_eq_true, Bool.false_eq_true, fLen_mkR, fOp_mkR, fFn_mkR, fD_mkR, fA_mkR, fB_mkR, dec3B, decColl, plain3B]
theorem gleave (d : Reg) (a : Reg) : Statement (.gleave d a) := by
  intro h _ x; refine (decode_3b ⟨mkR 0x1#9 0#5 a d 0x3b#6 0#2, _, _, _, _⟩ (fOp_mkR ..)).trans ?_
  simp only [shortOnly, extOnly, needZero, needCode, needWf_of h, lit01, lit_join, ↓reduceIte, BitVec.reduceToNat, BitVec.reduceEq, BitVec.reduceAppend, BitVec.reduceExtractLsb', BitVec.reduceGetLsb, BitVec.reduceGetElem, BitVec.reduceSetWidth, decide_true, decide_false, and_self, or_self, true_and, and_true, true_or, or_true, ne_eq, not_true_eq_false, not_false_eq_true, Bool.false_eq_true, fLen_mkR, fOp_mkR, fFn_mkR, fD_mkR, fA_mkR, fB_mkR, dec3B, decColl, plain3B]
theorem ggen (d : Reg) (a : Reg) : Statement (.ggen d a) := by
  intro h _ x; refine (decode_3b ⟨mkR 0x2#9 0#5 a d 0x3b#6 0#2, _, _, _, _⟩ (fOp_mkR ..)).trans ?_
  simp only [shortOnly, extOnly, needZero, needCode, needWf_of h, lit01, lit_join, ↓reduceIte, BitVec.reduceToNat, BitVec.reduceEq, BitVec.reduceAppend, BitVec.reduceExtractLsb', BitVec.reduceGetLsb, BitVec.reduceGetElem, BitVec.reduceSetWidth, decide_true, decide_false, and_self, or_self, true_and, and_true, true_or, or_true, ne_eq, not_true_eq_false, not_false_eq_true, Bool.false_eq_true, fLen_mkR, fOp_mkR, fFn_mkR, fD_mkR, fA_mkR, fB_mkR, dec3B, decColl, plain3B]
theorem cstat (d : Reg) (a : Reg) : Statement (.cstat d a) := by
  intro h _ x; refine (decode_3b ⟨mkR 0x3#9 0#5 a d 0x3b#6 0#2, _, _, _, _⟩ (fOp_mkR ..)).trans ?_
  simp only [shortOnly, extOnly, needZero, needCode, needWf_of h, lit01, lit_join, ↓reduceIte, BitVec.reduceToNat, BitVec.reduceEq, BitVec.reduceAppend, BitVec.reduceExtractLsb', BitVec.reduceGetLsb, BitVec.reduceGetElem, BitVec.reduceSetWidth, decide_true, decide_false, and_self, or_self, true_and, and_true, true_or, or_true, ne_eq, not_true_eq_false, not_false_eq_true, Bool.false_eq_true, fLen_mkR, fOp_mkR, fFn_mkR, fD_mkR, fA_mkR, fB_mkR, dec3B, decColl, plain3B]
theorem cred (d : Reg) (a : Reg) (b : Reg) (rm : RM) (mode : Bool) (dt : DT) : Statement (.cred d a b rm mode dt) := by
  intro h _ x; refine (decode_3b ⟨mkR 0x008#9 b a d 0x3b#6 2#2, mkX (collXf 0#3 rm mode dt) 0#5 0#5, 0#32, _, _⟩ (fOp_mkR ..)).trans ?_
  simp (disch := decide) only [shortOnly, extOnly, needZero, needCode, needWf_of h, lit01, lit_join, ↓reduceIte, BitVec.reduceToNat, BitVec.reduceEq, BitVec.reduceAppend, BitVec.reduceExtractLsb', BitVec.reduceGetLsb, BitVec.reduceGetElem, BitVec.reduceSetWidth, decide_true, decide_false, and_self, or_self, true_and, and_true, true_or, or_true, ne_eq, not_true_eq_false, not_false_eq_true, Bool.false_eq_true, fLen_mkR, fOp_mkR, fFn_mkR, fD_mkR, fA_mkR, fB_mkR, dec3B, decColl, plain3B, extract_append_hi, extract_append_lo, Nat.reduceSub, extract_self]
  cases rm <;> cases dt <;> cases mode <;> rfl
theorem credmin (d : Reg) (a : Reg) (b : Reg) (rm : RM) (mode : Bool) (dt : DT) : Statement (.credmin d a b rm mode dt) := by
  intro h _ x; refine (decode_3b ⟨mkR 0x008#9 b a d 0x3b#6 2#2, mkX (collXf 1#3 rm mode dt) 0#5 0#5, 0#32, _, _⟩ (fOp_mkR ..)).trans ?_
  simp (disch := decide) only [shortOnly, extOnly, needZero, needCode, needWf_of h, lit01, lit_join, ↓reduceIte, BitVec.reduceToNat, BitVec.reduceEq, BitVec.reduceAppend, BitVec.reduceExtractLsb', BitVec.reduceGetLsb, BitVec.reduceGetElem, BitVec.reduceSetWidth, decide_true, decide_false, and_self, or_self, true_and, and_true, true_or, or_true, ne_eq, not_true_eq_false, not_false_eq_true, Bool.false_eq_true, fLen_mkR, fOp_mkR, fFn_mkR, fD_mkR, fA_mkR, fB_mkR, dec3B, decColl, plain3B, extract_append_hi, extract_append_lo, Nat.reduceSub, extract_self]
  cases rm <;> cases dt <;> cases mode <;> rfl
theorem credmax (d : Reg) (a : Reg) (b : Reg) (rm : RM) (mode : Bool) (dt : DT) : Statement (.credmax d a b rm mode dt) := by
  intro h _ x; refine (decode_3b ⟨mkR 0x008#9 b a d 0x3b#6 2#2, mkX (collXf 2#3 rm mode dt) 0#5 0#5, 0#32, _, _⟩ (fOp_mkR ..)).trans ?_
  simp (disch := decide) only [shortOnly, extOnly, needZero, needCode, needWf_of h, lit01, lit_join, ↓reduceIte, BitVec.reduceToNat, BitVec.reduceEq, BitVec.reduceAppend, BitVec.reduceExtractLsb', BitVec.reduceGetLsb, BitVec.reduceGetElem, BitVec.reduceSetWidth, decide_true, decide_false, and_self, or_self, true_and, and_true, true_or, or_true, ne_eq, not_true_eq_false, not_false_eq_true, Bool.false_eq_true, fLen_mkR, fOp_mkR, fFn_mkR, fD_mkR, fA_mkR, fB_mkR, dec3B, decColl, plain3B, extract_append_hi, extract_append_lo, Nat.reduceSub, extract_self]
  cases rm <;> cases dt <;> cases mode <;> rfl
theorem credand (d : Reg) (a : Reg) (b : Reg) (rm : RM) (mode : Bool) (dt : DT) : Statement (.credand d a b rm mode dt) := by
  intro h _ x; refine (decode_3b ⟨mkR 0x008#9 b a d 0x3b#6 2#2, mkX (collXf 3#3 rm mode dt) 0#5 0#5, 0#32, _, _⟩ (fOp_mkR ..)).trans ?_
  simp (disch := decide) only [shortOnly, extOnly, needZero, needCode, needWf_of h, lit01, lit_join, ↓reduceIte, BitVec.reduceToNat, BitVec.reduceEq, BitVec.reduceAppend, BitVec.reduceExtractLsb', BitVec.reduceGetLsb, BitVec.reduceGetElem, BitVec.reduceSetWidth, decide_true, decide_false, and_self, or_self, true_and, and_true, true_or, or_true, ne_eq, not_true_eq_false, not_false_eq_true, Bool.false_eq_true, fLen_mkR, fOp_mkR, fFn_mkR, fD_mkR, fA_mkR, fB_mkR, dec3B, decColl, plain3B, extract_append_hi, extract_append_lo, Nat.reduceSub, extract_self]
  cases rm <;> cases dt <;> cases mode <;> first | rfl | exact needWf_of h
theorem credor (d : Reg) (a : Reg) (b : Reg) (rm : RM) (mode : Bool) (dt : DT) : Statement (.credor d a b rm mode dt) := by
  intro h _ x; refine (decode_3b ⟨mkR 0x008#9 b a d 0x3b#6 2#2, mkX (collXf 4#3 rm mode dt) 0#5 0#5, 0#32, _, _⟩ (fOp_mkR ..)).trans ?_
  simp (disch := decide) only [shortOnly, extOnly, needZero, needCode, needWf_of h, lit01, lit_join, ↓reduceIte, BitVec.reduceToNat, BitVec.reduceEq, BitVec.reduceAppend, BitVec.reduceExtractLsb', BitVec.reduceGetLsb, BitVec.reduceGetElem, BitVec.reduceSetWidth, decide_true, decide_false, and_self, or_self, true_and, and_true, true_or, or_true, ne_eq, not_true_eq_false, not_false_eq_true, Bool.false_eq_true, fLen_mkR, fOp_mkR, fFn_mkR, fD_mkR, fA_mkR, fB_mkR, dec3B, decColl, plain3B, extract_append_hi, extract_append_lo, Nat.reduceSub, extract_self]
  cases rm <;> cases dt <;> cases mode <;> first | rfl | exact needWf_of h
theorem cbcst (d : Reg) (a : Reg) (b : Reg) (rm : RM) (dt : DT) : Statement (.cbcst d a b rm dt) := by
  intro h _ x; refine (decode_3b ⟨mkR 0x009#9 b a d 0x3b#6 2#2, mkX (collXf 0#3 rm false dt) 0#5 0#5, 0#32, _, _⟩ (fOp_mkR ..)).trans ?_
  simp (disch := decide) only [shortOnly, extOnly, needZero, needCode, needWf_of h, lit01, lit_join, ↓reduceIte, BitVec.reduceToNat, BitVec.reduceEq, BitVec.reduceAppend, BitVec.reduceExtractLsb', BitVec.reduceGetLsb, BitVec.reduceGetElem, BitVec.reduceSetWidth, decide_true, decide_false, and_self, or_self, true_and, and_true, true_or, or_true, ne_eq, not_true_eq_false, not_false_eq_true, Bool.false_eq_true, fLen_mkR, fOp_mkR, fFn_mkR, fD_mkR, fA_mkR, fB_mkR, dec3B, decColl, plain3B, extract_append_hi, extract_append_lo, Nat.reduceSub, extract_self]
  cases rm <;> cases dt <;> rfl
theorem cagth (d : Reg) (a : Reg) (b : Reg) (rm : RM) (dt : DT) : Statement (.cagth d a b rm dt) := by
  intro h _ x; refine (decode_3b ⟨mkR 0x00a#9 b a d 0x3b#6 2#2, mkX (collXf 0#3 rm false dt) 0#5 0#5, 0#32, _, _⟩ (fOp_mkR ..)).trans ?_
  simp (disch := decide) only [shortOnly, extOnly, needZero, needCode, needWf_of h, lit01, lit_join, ↓reduceIte, BitVec.reduceToNat, BitVec.reduceEq, BitVec.reduceAppend, BitVec.reduceExtractLsb', BitVec.reduceGetLsb, BitVec.reduceGetElem, BitVec.reduceSetWidth, decide_true, decide_false, and_self, or_self, true_and, and_true, true_or, or_true, ne_eq, not_true_eq_false, not_false_eq_true, Bool.false_eq_true, fLen_mkR, fOp_mkR, fFn_mkR, fD_mkR, fA_mkR, fB_mkR, dec3B, decColl, plain3B, extract_append_hi, extract_append_lo, Nat.reduceSub, extract_self]
  cases rm <;> cases dt <;> rfl
theorem crsct (d : Reg) (a : Reg) (b : Reg) (rm : RM) (mode : Bool) (dt : DT) : Statement (.crsct d a b rm mode dt) := by
  intro h _ x; refine (decode_3b ⟨mkR 0x00b#9 b a d 0x3b#6 2#2, mkX (collXf 0#3 rm mode dt) 0#5 0#5, 0#32, _, _⟩ (fOp_mkR ..)).trans ?_
  simp (disch := decide) only [shortOnly, extOnly, needZero, needCode, needWf_of h, lit01, lit_join, ↓reduceIte, BitVec.reduceToNat, BitVec.reduceEq, BitVec.reduceAppend, BitVec.reduceExtractLsb', BitVec.reduceGetLsb, BitVec.reduceGetElem, BitVec.reduceSetWidth, decide_true, decide_false, and_self, or_self, true_and, and_true, true_or, or_true, ne_eq, not_true_eq_false, not_false_eq_true, Bool.false_eq_true, fLen_mkR, fOp_mkR, fFn_mkR, fD_mkR, fA_mkR, fB_mkR, dec3B, decColl, plain3B, extract_append_hi, extract_append_lo, Nat.reduceSub, extract_self]
  cases rm <;> cases dt <;> cases mode <;> rfl
theorem binit (d : Reg) (a : Reg) (b : Reg) (lo : BitVec 12) (n1 : BitVec 12) : Statement (.binit d a b lo n1) := by
  intro h _ x; refine (decode_3b ⟨mkR 0x010#9 b a d 0x3b#6 2#2, 0#32, 0#4 ++ n1 ++ 0#4 ++ lo, _, _⟩ (fOp_mkR ..)).trans ?_
  simp (disch := decide) only [shortOnly, extOnly, needZero, needCode, needWf_of h, lit01, lit_join, ↓reduceIte, BitVec.reduceToNat, BitVec.reduceEq, BitVec.reduceAppend, BitVec.reduceExtractLsb', BitVec.reduceGetLsb, BitVec.reduceGetElem, BitVec.reduceSetWidth, decide_true, decide_false, and_self, or_self, true_and, and_true, true_or, or_true, ne_eq, not_true_eq_false, not_false_eq_true, Bool.false_eq_true, fLen_mkR, fOp_mkR, fFn_mkR, fD_mkR, fA_mkR, fB_mkR, dec3B, decColl, plain3B, extract_append_hi, extract_append_lo, Nat.reduceSub, extract_self]
theorem barv (d : Reg) (a : Reg) : Statement (.barv d a) := by
  intro h _ x; refine (decode_3b ⟨mkR 0x11#9 0#5 a d 0x3b#6 0#2, _, _, _, _⟩ (fOp_mkR ..)).trans ?_
  simp only [shortOnly, extOnly, needZero, needCode, needWf_of h, lit01, lit_join, ↓reduceIte, BitVec.reduceToNat, BitVec.reduceEq, BitVec.reduceAppend, BitVec.reduceExtractLsb', BitVec.reduceGetLsb, BitVec.reduceGetElem, BitVec.reduceSetWidth, decide_true, decide_false, and_self, or_self, true_and, and_true, true_or, or_true, ne_eq, not_true_eq_false, not_false_eq_true, Bool.false_eq_true, fLen_mkR, fOp_mkR, fFn_mkR, fD_mkR, fA_mkR, fB_mkR, dec3B, decColl, plain3B]
theorem bwait (d : Reg) (a : Reg) (b : Reg) : Statement (.bwait d a b) := by
  intro h _ x; refine (decode_3b ⟨mkR 0x12#9 b a d 0x3b#6 0#2, _, _, _, _⟩ (fOp_mkR ..)).trans ?_
  simp only [shortOnly, extOnly, needZero, needCode, needWf_of h, lit01, lit_join, ↓reduceIte, BitVec.reduceToNat, BitVec.reduceEq, BitVec.reduceAppend, BitVec.reduceExtractLsb', BitVec.reduceGetLsb, BitVec.reduceGetElem, BitVec.reduceSetWidth, decide_true, decide_false, and_self, or_self, true_and, and_true, true_or, or_true, ne_eq, not_true_eq_false, not_false_eq_true, Bool.false_eq_true, fLen_mkR, fOp_mkR, fFn_mkR, fD_mkR, fA_mkR, fB_mkR, dec3B, decColl, plain3B]
theorem btest (d : Reg) (a : Reg) (b : Reg) : Statement (.btest d a b) := by
  intro h _ x; refine (decode_3b ⟨mkR 0x13#9 b a d 0x3b#6 0#2, _, _, _, _⟩ (fOp_mkR ..)).trans ?_
  simp only [shortOnly, extOnly, needZero, needCode, needWf_of h, lit01, lit_join, ↓reduceIte, BitVec.reduceToNat, BitVec.reduceEq, BitVec.reduceAppend, BitVec.reduceExtractLsb', BitVec.reduceGetLsb, BitVec.reduceGetElem, BitVec.reduceSetWidth, decide_true, decide_false, and_self, or_self, true_and, and_true, true_or, or_true, ne_eq, not_true_eq_false, not_false_eq_true, Bool.false_eq_true, fLen_mkR, fOp_mkR, fFn_mkR, fD_mkR, fA_mkR, fB_mkR, dec3B, decColl, plain3B]
theorem bcnt (a : Reg) (b : Reg) : Statement (.bcnt a b) := by
  intro h _ x; refine (decode_3b ⟨mkR 0x14#9 b a 0#5 0x3b#6 0#2, _, _, _, _⟩ (fOp_mkR ..)).trans ?_
  simp only [shortOnly, extOnly, needZero, needCode, needWf_of h, lit01, lit_join, ↓reduceIte, BitVec.reduceToNat, BitVec.reduceEq, BitVec.reduceAppend, BitVec.reduceExtractLsb', BitVec.reduceGetLsb, BitVec.reduceGetElem, BitVec.reduceSetWidth, decide_true, decide_false, and_self, or_self, true_and, and_true, true_or, or_true, ne_eq, not_true_eq_false, not_false_eq_true, Bool.false_eq_true, fLen_mkR, fOp_mkR, fFn_mkR, fD_mkR, fA_mkR, fB_mkR, dec3B, decColl, plain3B]
theorem bwdraw (d : Reg) (a : Reg) : Statement (.bwdraw d a) := by
  intro h _ x; refine (decode_3b ⟨mkR 0x15#9 0#5 a d 0x3b#6 0#2, _, _, _, _⟩ (fOp_mkR ..)).trans ?_
  simp only [shortOnly, extOnly, needZero, needCode, needWf_of h, lit01, lit_join, ↓reduceIte, BitVec.reduceToNat, BitVec.reduceEq, BitVec.reduceAppend, BitVec.reduceExtractLsb', BitVec.reduceGetLsb, BitVec.reduceGetElem, BitVec.reduceSetWidth, decide_true, decide_false, and_self, or_self, true_and, and_true, true_or, or_true, ne_eq, not_true_eq_false, not_false_eq_true, Bool.false_eq_true, fLen_mkR, fOp_mkR, fFn_mkR, fD_mkR, fA_mkR, fB_mkR, dec3B, decColl, plain3B]
theorem waita (a : Reg) (b : Reg) : Statement (.waita a b) := by
  intro h _ x; refine (decode_3b ⟨mkR 0x18#9 b a 0#5 0x3b#6 0#2, _, _, _, _⟩ (fOp_mkR ..)).trans ?_
  simp only [shortOnly, extOnly, needZero, needCode, needWf_of h, lit01, lit_join, ↓reduceIte, BitVec.reduceToNat, BitVec.reduceEq, BitVec.reduceAppend, BitVec.reduceExtractLsb', BitVec.reduceGetLsb, BitVec.reduceGetElem, BitVec.reduceSetWidth, decide_true, decide_false, and_self, or_self, true_and, and_true, true_or, or_true, ne_eq, not_true_eq_false, not_false_eq_true, Bool.false_eq_true, fLen_mkR, fOp_mkR, fFn_mkR, fD_mkR, fA_mkR, fB_mkR, dec3B, decColl, plain3B]
theorem tshape (d : Reg) (a : Reg) : Statement (.tshape d a) := by
  intro h _ x; refine (decode_3c ⟨mkR 0x0#9 0#5 a d 0x3c#6 0#2, _, _, _, _⟩ (fOp_mkR ..)).trans ?_
  simp only [shortOnly, extOnly, needZero, needCode, needWf_of h, lit01, lit_join, ↓reduceIte, BitVec.reduceToNat, BitVec.reduceEq, BitVec.reduceAppend, BitVec.reduceExtractLsb', BitVec.reduceGetLsb, BitVec.reduceGetElem, BitVec.reduceSetWidth, decide_true, decide_false, and_self, or_self, true_and, and_true, true_or, or_true, ne_eq, not_true_eq_false, not_false_eq_true, Bool.false_eq_true, fLen_mkR, fOp_mkR, fFn_mkR, fD_mkR, fA_mkR, fB_mkR, plain3C]
theorem tupc (d : Reg) (a : Reg) : Statement (.tupc d a) := by
  intro h _ x; refine (decode_3c ⟨mkR 0x1#9 0#5 a d 0x3c#6 0#2, _, _, _, _⟩ (fOp_mkR ..)).trans ?_
  simp only [shortOnly, extOnly, needZero, needCode, needWf_of h, lit01, lit_join, ↓reduceIte, BitVec.reduceToNat, BitVec.reduceEq, BitVec.reduceAppend, BitVec.reduceExtractLsb', BitVec.reduceGetLsb, BitVec.reduceGetElem, BitVec.reduceSetWidth, decide_true, decide_false, and_self, or_self, true_and, and_true, true_or, or_true, ne_eq, not_true_eq_false, not_false_eq_true, Bool.false_eq_true, fLen_mkR, fOp_mkR, fFn_mkR, fD_mkR, fA_mkR, fB_mkR, plain3C]
theorem tpress (d : Reg) (a : Reg) : Statement (.tpress d a) := by
  intro h _ x; refine (decode_3c ⟨mkR 0x2#9 0#5 a d 0x3c#6 0#2, _, _, _, _⟩ (fOp_mkR ..)).trans ?_
  simp only [shortOnly, extOnly, needZero, needCode, needWf_of h, lit01, lit_join, ↓reduceIte, BitVec.reduceToNat, BitVec.reduceEq, BitVec.reduceAppend, BitVec.reduceExtractLsb', BitVec.reduceGetLsb, BitVec.reduceGetElem, BitVec.reduceSetWidth, decide_true, decide_false, and_self, or_self, true_and, and_true, true_or, or_true, ne_eq, not_true_eq_false, not_false_eq_true, Bool.false_eq_true, fLen_mkR, fOp_mkR, fFn_mkR, fD_mkR, fA_mkR, fB_mkR, plain3C]
theorem tmap (d : Reg) (a : Reg) : Statement (.tmap d a) := by
  intro h _ x; refine (decode_3c ⟨mkR 0x3#9 0#5 a d 0x3c#6 0#2, _, _, _, _⟩ (fOp_mkR ..)).trans ?_
  simp only [shortOnly, extOnly, needZero, needCode, needWf_of h, lit01, lit_join, ↓reduceIte, BitVec.reduceToNat, BitVec.reduceEq, BitVec.reduceAppend, BitVec.reduceExtractLsb', BitVec.reduceGetLsb, BitVec.reduceGetElem, BitVec.reduceSetWidth, decide_true, decide_false, and_self, or_self, true_and, and_true, true_or, or_true, ne_eq, not_true_eq_false, not_false_eq_true, Bool.false_eq_true, fLen_mkR, fOp_mkR, fFn_mkR, fD_mkR, fA_mkR, fB_mkR, plain3C]
theorem tpin (d : Reg) (a : Reg) (b : Reg) : Statement (.tpin d a b) := by
  intro h _ x; refine (decode_3c ⟨mkR 0x4#9 b a d 0x3c#6 0#2, _, _, _, _⟩ (fOp_mkR ..)).trans ?_
  simp only [shortOnly, extOnly, needZero, needCode, needWf_of h, lit01, lit_join, ↓reduceIte, BitVec.reduceToNat, BitVec.reduceEq, BitVec.reduceAppend, BitVec.reduceExtractLsb', BitVec.reduceGetLsb, BitVec.reduceGetElem, BitVec.reduceSetWidth, decide_true, decide_false, and_self, or_self, true_and, and_true, true_or, or_true, ne_eq, not_true_eq_false, not_false_eq_true, Bool.false_eq_true, fLen_mkR, fOp_mkR, fFn_mkR, fD_mkR, fA_mkR, fB_mkR, plain3C]
theorem cfence (px : Path) (py : Path) : Statement (.cfence px py) := by
  intro h _ x; refine (decode_3d ⟨mkR 0x001#9 (pathCode py) (pathCode px) 0#5 0x3d#6 0#2, _, _, _, _⟩ (fOp_mkR ..)).trans ?_
  simp only [shortOnly, extOnly, needZero, needCode, needWf_of h, lit01, lit_join, ↓reduceIte, BitVec.reduceToNat, BitVec.reduceEq, BitVec.reduceAppend, BitVec.reduceExtractLsb', BitVec.reduceGetLsb, BitVec.reduceGetElem, BitVec.reduceSetWidth, decide_true, decide_false, and_self, or_self, true_and, and_true, true_or, or_true, ne_eq, not_true_eq_false, not_false_eq_true, Bool.false_eq_true, fLen_mkR, fOp_mkR, fFn_mkR, fD_mkR, fA_mkR, fB_mkR, dec3D, plain3D, szOf_szCode, etOf_etCode, itOf_itCode, dtOf_dtCode, rmOf_rmCode, pathOf_pathCode, bit0_get, bit0_get', bit0_high]
theorem tlbi (a : Reg) (b : Reg) : Statement (.tlbi a b) := by
  intro h _ x; refine (decode_3d ⟨mkR 0x8#9 b a 0#5 0x3d#6 0#2, _, _, _, _⟩ (fOp_mkR ..)).trans ?_
  simp only [shortOnly, extOnly, needZero, needCode, needWf_of h, lit01, lit_join, ↓reduceIte, BitVec.reduceToNat, BitVec.reduceEq, BitVec.reduceAppend, BitVec.reduceExtractLsb', BitVec.reduceGetLsb, BitVec.reduceGetElem, BitVec.reduceSetWidth, decide_true, decide_false, and_self, or_self, true_and, and_true, true_or, or_true, ne_eq, not_true_eq_false, not_false_eq_true, Bool.false_eq_true, fLen_mkR, fOp_mkR, fFn_mkR, fD_mkR, fA_mkR, fB_mkR, dec3D, plain3D]
theorem pmig (d : Reg) (a : Reg) (b : Reg) : Statement (.pmig d a b) := by
  intro h _ x; refine (decode_3d ⟨mkR 0x9#9 b a d 0x3d#6 0#2, _, _, _, _⟩ (fOp_mkR ..)).trans ?_
  simp only [shortOnly, extOnly, needZero, needCode, needWf_of h, lit01, lit_join, ↓reduceIte, BitVec.reduceToNat, BitVec.reduceEq, BitVec.reduceAppend, BitVec.reduceExtractLsb', BitVec.reduceGetLsb, BitVec.reduceGetElem, BitVec.reduceSetWidth, decide_true, decide_false, and_self, or_self, true_and, and_true, true_or, or_true, ne_eq, not_true_eq_false, not_false_eq_true, Bool.false_eq_true, fLen_mkR, fOp_mkR, fFn_mkR, fD_mkR, fA_mkR, fB_mkR, dec3D, plain3D]
theorem pdirty (d : Reg) (a : Reg) : Statement (.pdirty d a) := by
  intro h _ x; refine (decode_3d ⟨mkR 0xa#9 0#5 a d 0x3d#6 0#2, _, _, _, _⟩ (fOp_mkR ..)).trans ?_
  simp only [shortOnly, extOnly, needZero, needCode, needWf_of h, lit01, lit_join, ↓reduceIte, BitVec.reduceToNat, BitVec.reduceEq, BitVec.reduceAppend, BitVec.reduceExtractLsb', BitVec.reduceGetLsb, BitVec.reduceGetElem, BitVec.reduceSetWidth, decide_true, decide_false, and_self, or_self, true_and, and_true, true_or, or_true, ne_eq, not_true_eq_false, not_false_eq_true, Bool.false_eq_true, fLen_mkR, fOp_mkR, fFn_mkR, fD_mkR, fA_mkR, fB_mkR, dec3D, plain3D]
theorem pship (a : Reg) : Statement (.pship a) := by
  intro h _ x; refine (decode_3d ⟨mkR 0xb#9 0#5 a 0#5 0x3d#6 0#2, _, _, _, _⟩ (fOp_mkR ..)).trans ?_
  simp only [shortOnly, extOnly, needZero, needCode, needWf_of h, lit01, lit_join, ↓reduceIte, BitVec.reduceToNat, BitVec.reduceEq, BitVec.reduceAppend, BitVec.reduceExtractLsb', BitVec.reduceGetLsb, BitVec.reduceGetElem, BitVec.reduceSetWidth, decide_true, decide_false, and_self, or_self, true_and, and_true, true_or, or_true, ne_eq, not_true_eq_false, not_false_eq_true, Bool.false_eq_true, fLen_mkR, fOp_mkR, fFn_mkR, fD_mkR, fA_mkR, fB_mkR, dec3D, plain3D]
theorem phome (d : Reg) (a : Reg) : Statement (.phome d a) := by
  intro h _ x; refine (decode_3d ⟨mkR 0xc#9 0#5 a d 0x3d#6 0#2, _, _, _, _⟩ (fOp_mkR ..)).trans ?_
  simp only [shortOnly, extOnly, needZero, needCode, needWf_of h, lit01, lit_join, ↓reduceIte, BitVec.reduceToNat, BitVec.reduceEq, BitVec.reduceAppend, BitVec.reduceExtractLsb', BitVec.reduceGetLsb, BitVec.reduceGetElem, BitVec.reduceSetWidth, decide_true, decide_false, and_self, or_self, true_and, and_true, true_or, or_true, ne_eq, not_true_eq_false, not_false_eq_true, Bool.false_eq_true, fLen_mkR, fOp_mkR, fFn_mkR, fD_mkR, fA_mkR, fB_mkR, dec3D, plain3D]
theorem trap (d : Reg) (a : Reg) : Statement (.trap d a) := by
  intro h _ x; refine (decode_3e ⟨mkR 0x0#9 0#5 a d 0x3e#6 0#2, _, _, _, _⟩ (fOp_mkR ..)).trans ?_
  simp only [shortOnly, extOnly, needZero, needCode, needWf_of h, lit01, lit_join, ↓reduceIte, BitVec.reduceToNat, BitVec.reduceEq, BitVec.reduceAppend, BitVec.reduceExtractLsb', BitVec.reduceGetLsb, BitVec.reduceGetElem, BitVec.reduceSetWidth, decide_true, decide_false, and_self, or_self, true_and, and_true, true_or, or_true, ne_eq, not_true_eq_false, not_false_eq_true, Bool.false_eq_true, fLen_mkR, fOp_mkR, fFn_mkR, fD_mkR, fA_mkR, fB_mkR, dec3E, plain3E]
theorem eret (d : Reg) (a : Reg) (b : Reg) : Statement (.eret d a b) := by
  intro h _ x; refine (decode_3e ⟨mkR 0x1#9 b a d 0x3e#6 0#2, _, _, _, _⟩ (fOp_mkR ..)).trans ?_
  simp only [shortOnly, extOnly, needZero, needCode, needWf_of h, lit01, lit_join, ↓reduceIte, BitVec.reduceToNat, BitVec.reduceEq, BitVec.reduceAppend, BitVec.reduceExtractLsb', BitVec.reduceGetLsb, BitVec.reduceGetElem, BitVec.reduceSetWidth, decide_true, decide_false, and_self, or_self, true_and, and_true, true_or, or_true, ne_eq, not_true_eq_false, not_false_eq_true, Bool.false_eq_true, fLen_mkR, fOp_mkR, fFn_mkR, fD_mkR, fA_mkR, fB_mkR, dec3E, plain3E]
theorem crr (d : Reg) (cr : BitVec 5) : Statement (.crr d cr) := by
  intro h _ x; refine (decode_3e ⟨mkR 0x002#9 cr 0#5 d 0x3e#6 0#2, _, _, _, _⟩ (fOp_mkR ..)).trans ?_
  simp only [shortOnly, extOnly, needZero, needCode, needWf_of h, lit01, lit_join, ↓reduceIte, BitVec.reduceToNat, BitVec.reduceEq, BitVec.reduceAppend, BitVec.reduceExtractLsb', BitVec.reduceGetLsb, BitVec.reduceGetElem, BitVec.reduceSetWidth, decide_true, decide_false, and_self, or_self, true_and, and_true, true_or, or_true, ne_eq, not_true_eq_false, not_false_eq_true, Bool.false_eq_true, fLen_mkR, fOp_mkR, fFn_mkR, fD_mkR, fA_mkR, fB_mkR, dec3E, plain3E]
theorem crw (d : Reg) (a : Reg) (cr : BitVec 5) : Statement (.crw d a cr) := by
  intro h _ x; refine (decode_3e ⟨mkR 0x003#9 cr a d 0x3e#6 0#2, _, _, _, _⟩ (fOp_mkR ..)).trans ?_
  simp only [shortOnly, extOnly, needZero, needCode, needWf_of h, lit01, lit_join, ↓reduceIte, BitVec.reduceToNat, BitVec.reduceEq, BitVec.reduceAppend, BitVec.reduceExtractLsb', BitVec.reduceGetLsb, BitVec.reduceGetElem, BitVec.reduceSetWidth, decide_true, decide_false, and_self, or_self, true_and, and_true, true_or, or_true, ne_eq, not_true_eq_false, not_false_eq_true, Bool.false_eq_true, fLen_mkR, fOp_mkR, fFn_mkR, fD_mkR, fA_mkR, fB_mkR, dec3E, plain3E]
theorem crs (d : Reg) (a : Reg) (cr : BitVec 5) : Statement (.crs d a cr) := by
  intro h _ x; refine (decode_3e ⟨mkR 0x004#9 cr a d 0x3e#6 0#2, _, _, _, _⟩ (fOp_mkR ..)).trans ?_
  simp only [shortOnly, extOnly, needZero, needCode, needWf_of h, lit01, lit_join, ↓reduceIte, BitVec.reduceToNat, BitVec.reduceEq, BitVec.reduceAppend, BitVec.reduceExtractLsb', BitVec.reduceGetLsb, BitVec.reduceGetElem, BitVec.reduceSetWidth, decide_true, decide_false, and_self, or_self, true_and, and_true, true_or, or_true, ne_eq, not_true_eq_false, not_false_eq_true, Bool.false_eq_true, fLen_mkR, fOp_mkR, fFn_mkR, fD_mkR, fA_mkR, fB_mkR, dec3E, plain3E]
theorem crc (d : Reg) (a : Reg) (cr : BitVec 5) : Statement (.crc d a cr) := by
  intro h _ x; refine (decode_3e ⟨mkR 0x005#9 cr a d 0x3e#6 0#2, _, _, _, _⟩ (fOp_mkR ..)).trans ?_
  simp only [shortOnly, extOnly, needZero, needCode, needWf_of h, lit01, lit_join, ↓reduceIte, BitVec.reduceToNat, BitVec.reduceEq, BitVec.reduceAppend, BitVec.reduceExtractLsb', BitVec.reduceGetLsb, BitVec.reduceGetElem, BitVec.reduceSetWidth, decide_true, decide_false, and_self, or_self, true_and, and_true, true_or, or_true, ne_eq, not_true_eq_false, not_false_eq_true, Bool.false_eq_true, fLen_mkR, fOp_mkR, fFn_mkR, fD_mkR, fA_mkR, fB_mkR, dec3E, plain3E]
theorem brk (n : BitVec 5) : Statement (.brk n) := by
  intro h _ x; refine (decode_3e ⟨mkR 0x7#9 n 0#5 0#5 0x3e#6 0#2, _, _, _, _⟩ (fOp_mkR ..)).trans ?_
  simp only [shortOnly, extOnly, needZero, needCode, needWf_of h, lit01, lit_join, ↓reduceIte, BitVec.reduceToNat, BitVec.reduceEq, BitVec.reduceAppend, BitVec.reduceExtractLsb', BitVec.reduceGetLsb, BitVec.reduceGetElem, BitVec.reduceSetWidth, decide_true, decide_false, and_self, or_self, true_and, and_true, true_or, or_true, ne_eq, not_true_eq_false, not_false_eq_true, Bool.false_eq_true, fLen_mkR, fOp_mkR, fFn_mkR, fD_mkR, fA_mkR, fB_mkR, dec3E, plain3E]
theorem mark (d : Reg) (a : Reg) : Statement (.mark d a) := by
  intro h _ x; refine (decode_3e ⟨mkR 0x8#9 0#5 a d 0x3e#6 0#2, _, _, _, _⟩ (fOp_mkR ..)).trans ?_
  simp only [shortOnly, extOnly, needZero, needCode, needWf_of h, lit01, lit_join, ↓reduceIte, BitVec.reduceToNat, BitVec.reduceEq, BitVec.reduceAppend, BitVec.reduceExtractLsb', BitVec.reduceGetLsb, BitVec.reduceGetElem, BitVec.reduceSetWidth, decide_true, decide_false, and_self, or_self, true_and, and_true, true_or, or_true, ne_eq, not_true_eq_false, not_false_eq_true, Bool.false_eq_true, fLen_mkR, fOp_mkR, fFn_mkR, fD_mkR, fA_mkR, fB_mkR, dec3E, plain3E]
theorem swset (d : Reg) (a : Reg) (imm32 : BitVec 32) : Statement (.swset d a imm32) := by
  intro h _ x; refine (decode_3e ⟨mkR 0x009#9 0#5 a d 0x3e#6 2#2, 0#32, imm32, _, _⟩ (fOp_mkR ..)).trans ?_
  simp only [shortOnly, extOnly, needZero, needCode, needWf_of h, lit01, lit_join, ↓reduceIte, BitVec.reduceToNat, BitVec.reduceEq, BitVec.reduceAppend, BitVec.reduceExtractLsb', BitVec.reduceGetLsb, BitVec.reduceGetElem, BitVec.reduceSetWidth, decide_true, decide_false, and_self, or_self, true_and, and_true, true_or, or_true, ne_eq, not_true_eq_false, not_false_eq_true, Bool.false_eq_true, fLen_mkR, fOp_mkR, fFn_mkR, fD_mkR, fA_mkR, fB_mkR, dec3E, plain3E]
theorem hint (hlen : BitVec 2) (hraw : BitVec 21) : Statement (.hint hlen hraw) := by
  intro h _ x; refine (decode_3e ⟨mkRaw (7#3 ++ hraw) 0x3e#6 hlen, _, _, _, _⟩ (fOp_mkRaw ..)).trans ?_
  have h1 : (7#3 ++ hraw).extractLsb' 21 3 = 7#3 := by simp (disch := decide) only [extract_append_hi, Nat.reduceSub, extract_self]
  have h2 : (7#3 ++ hraw).extractLsb' 0 21 = hraw := by simp (disch := decide) only [extract_append_lo, extract_self]
  simp only [dec3E, hint_fn, hint_raw, h1, h2, fLen_mkRaw, ↓reduceIte]
theorem tstamp (d : Reg) (sel5 : BitVec 5) : Statement (.tstamp d sel5) := by
  intro h _ x; refine (decode_3e ⟨mkR 0x10#9 sel5 0#5 d 0x3e#6 0#2, _, _, _, _⟩ (fOp_mkR ..)).trans ?_
  simp only [shortOnly, extOnly, needZero, needCode, needWf_of h, lit01, lit_join, ↓reduceIte, BitVec.reduceToNat, BitVec.reduceEq, BitVec.reduceAppend, BitVec.reduceExtractLsb', BitVec.reduceGetLsb, BitVec.reduceGetElem, BitVec.reduceSetWidth, decide_true, decide_false, and_self, or_self, true_and, and_true, true_or, or_true, ne_eq, not_true_eq_false, not_false_eq_true, Bool.false_eq_true, fLen_mkR, fOp_mkR, fFn_mkR, fD_mkR, fA_mkR, fB_mkR, dec3E, plain3E]
theorem pcntr (d : Reg) (a : Reg) : Statement (.pcntr d a) := by
  intro h _ x; refine (decode_3e ⟨mkR 0x11#9 0#5 a d 0x3e#6 0#2, _, _, _, _⟩ (fOp_mkR ..)).trans ?_
  simp only [shortOnly, extOnly, needZero, needCode, needWf_of h, lit01, lit_join, ↓reduceIte, BitVec.reduceToNat, BitVec.reduceEq, BitVec.reduceAppend, BitVec.reduceExtractLsb', BitVec.reduceGetLsb, BitVec.reduceGetElem, BitVec.reduceSetWidth, decide_true, decide_false, and_self, or_self, true_and, and_true, true_or, or_true, ne_eq, not_true_eq_false, not_false_eq_true, Bool.false_eq_true, fLen_mkR, fOp_mkR, fFn_mkR, fD_mkR, fA_mkR, fB_mkR, dec3E, plain3E]
theorem trace (a : Reg) (b : Reg) : Statement (.trace a b) := by
  intro h _ x; refine (decode_3e ⟨mkR 0x12#9 b a 0#5 0x3e#6 0#2, _, _, _, _⟩ (fOp_mkR ..)).trans ?_
  simp only [shortOnly, extOnly, needZero, needCode, needWf_of h, lit01, lit_join, ↓reduceIte, BitVec.reduceToNat, BitVec.reduceEq, BitVec.reduceAppend, BitVec.reduceExtractLsb', BitVec.reduceGetLsb, BitVec.reduceGetElem, BitVec.reduceSetWidth, decide_true, decide_false, and_self, or_self, true_and, and_true, true_or, or_true, ne_eq, not_true_eq_false, not_false_eq_true, Bool.false_eq_true, fLen_mkR, fOp_mkR, fFn_mkR, fD_mkR, fA_mkR, fB_mkR, dec3E, plain3E]
theorem done : Statement (.done) := by
  intro h _ x; refine (decode_30 ⟨mkR 0x2#9 0#5 0#5 0#5 0x30#6 0#2, _, _, _, _⟩ (fOp_mkR ..)).trans ?_
  simp only [shortOnly, extOnly, needZero, needCode, needWf_of h, lit01, lit_join, ↓reduceIte, BitVec.reduceToNat, BitVec.reduceEq, BitVec.reduceAppend, BitVec.reduceExtractLsb', BitVec.reduceGetLsb, BitVec.reduceGetElem, BitVec.reduceSetWidth, decide_true, decide_false, and_self, or_self, true_and, and_true, true_or, or_true, ne_eq, not_true_eq_false, not_false_eq_true, Bool.false_eq_true, fLen_mkR, fOp_mkR, fFn_mkR, fD_mkR, fA_mkR, fB_mkR, dec30, plain30]
theorem irrev : Statement (.irrev) := by
  intro h _ x; refine (decode_30 ⟨mkR 0x5#9 0#5 0#5 0#5 0x30#6 0#2, _, _, _, _⟩ (fOp_mkR ..)).trans ?_
  simp only [shortOnly, extOnly, needZero, needCode, needWf_of h, lit01, lit_join, ↓reduceIte, BitVec.reduceToNat, BitVec.reduceEq, BitVec.reduceAppend, BitVec.reduceExtractLsb', BitVec.reduceGetLsb, BitVec.reduceGetElem, BitVec.reduceSetWidth, decide_true, decide_false, and_self, or_self, true_and, and_true, true_or, or_true, ne_eq, not_true_eq_false, not_false_eq_true, Bool.false_eq_true, fLen_mkR, fOp_mkR, fFn_mkR, fD_mkR, fA_mkR, fB_mkR, dec30, plain30]
theorem eqpt : Statement (.eqpt) := by
  intro h _ x; refine (decode_36 ⟨mkR 0x1#9 0#5 0#5 0#5 0x36#6 0#2, _, _, _, _⟩ (fOp_mkR ..)).trans ?_
  simp only [shortOnly, extOnly, needZero, needCode, needWf_of h, lit01, lit_join, ↓reduceIte, BitVec.reduceToNat, BitVec.reduceEq, BitVec.reduceAppend, BitVec.reduceExtractLsb', BitVec.reduceGetLsb, BitVec.reduceGetElem, BitVec.reduceSetWidth, decide_true, decide_false, and_self, or_self, true_and, and_true, true_or, or_true, ne_eq, not_true_eq_false, not_false_eq_true, Bool.false_eq_true, fLen_mkR, fOp_mkR, fFn_mkR, fD_mkR, fA_mkR, fB_mkR, plain36]
theorem mxswap : Statement (.mxswap) := by
  intro h _ x; refine (decode_3a ⟨mkR 0x0#9 0#5 0#5 0#5 0x3a#6 0#2, _, _, _, _⟩ (fOp_mkR ..)).trans ?_
  simp only [shortOnly, extOnly, needZero, needCode, needWf_of h, lit01, lit_join, ↓reduceIte, BitVec.reduceToNat, BitVec.reduceEq, BitVec.reduceAppend, BitVec.reduceExtractLsb', BitVec.reduceGetLsb, BitVec.reduceGetElem, BitVec.reduceSetWidth, decide_true, decide_false, and_self, or_self, true_and, and_true, true_or, or_true, ne_eq, not_true_eq_false, not_false_eq_true, Bool.false_eq_true, fLen_mkR, fOp_mkR, fFn_mkR, fD_mkR, fA_mkR, fB_mkR, dec3A, plain3A]
theorem mxwait : Statement (.mxwait) := by
  intro h _ x; refine (decode_3a ⟨mkR 0x1#9 0#5 0#5 0#5 0x3a#6 0#2, _, _, _, _⟩ (fOp_mkR ..)).trans ?_
  simp only [shortOnly, extOnly, needZero, needCode, needWf_of h, lit01, lit_join, ↓reduceIte, BitVec.reduceToNat, BitVec.reduceEq, BitVec.reduceAppend, BitVec.reduceExtractLsb', BitVec.reduceGetLsb, BitVec.reduceGetElem, BitVec.reduceSetWidth, decide_true, decide_false, and_self, or_self, true_and, and_true, true_or, or_true, ne_eq, not_true_eq_false, not_false_eq_true, Bool.false_eq_true, fLen_mkR, fOp_mkR, fFn_mkR, fD_mkR, fA_mkR, fB_mkR, dec3A, plain3A]
theorem mxrst : Statement (.mxrst) := by
  intro h _ x; refine (decode_3a ⟨mkR 0x3#9 0#5 0#5 0#5 0x3a#6 0#2, _, _, _, _⟩ (fOp_mkR ..)).trans ?_
  simp only [shortOnly, extOnly, needZero, needCode, needWf_of h, lit01, lit_join, ↓reduceIte, BitVec.reduceToNat, BitVec.reduceEq, BitVec.reduceAppend, BitVec.reduceExtractLsb', BitVec.reduceGetLsb, BitVec.reduceGetElem, BitVec.reduceSetWidth, decide_true, decide_false, and_self, or_self, true_and, and_true, true_or, or_true, ne_eq, not_true_eq_false, not_false_eq_true, Bool.false_eq_true, fLen_mkR, fOp_mkR, fFn_mkR, fD_mkR, fA_mkR, fB_mkR, dec3A, plain3A]
theorem fence : Statement (.fence) := by
  intro h _ x; refine (decode_3d ⟨mkR 0x0#9 0#5 0#5 0#5 0x3d#6 0#2, _, _, _, _⟩ (fOp_mkR ..)).trans ?_
  simp only [shortOnly, extOnly, needZero, needCode, needWf_of h, lit01, lit_join, ↓reduceIte, BitVec.reduceToNat, BitVec.reduceEq, BitVec.reduceAppend, BitVec.reduceExtractLsb', BitVec.reduceGetLsb, BitVec.reduceGetElem, BitVec.reduceSetWidth, decide_true, decide_false, and_self, or_self, true_and, and_true, true_or, or_true, ne_eq, not_true_eq_false, not_false_eq_true, Bool.false_eq_true, fLen_mkR, fOp_mkR, fFn_mkR, fD_mkR, fA_mkR, fB_mkR, dec3D, plain3D]
theorem pfence : Statement (.pfence) := by
  intro h _ x; refine (decode_3d ⟨mkR 0x2#9 0#5 0#5 0#5 0x3d#6 0#2, _, _, _, _⟩ (fOp_mkR ..)).trans ?_
  simp only [shortOnly, extOnly, needZero, needCode, needWf_of h, lit01, lit_join, ↓reduceIte, BitVec.reduceToNat, BitVec.reduceEq, BitVec.reduceAppend, BitVec.reduceExtractLsb', BitVec.reduceGetLsb, BitVec.reduceGetElem, BitVec.reduceSetWidth, decide_true, decide_false, and_self, or_self, true_and, and_true, true_or, or_true, ne_eq, not_true_eq_false, not_false_eq_true, Bool.false_eq_true, fLen_mkR, fOp_mkR, fFn_mkR, fD_mkR, fA_mkR, fB_mkR, dec3D, plain3D]
theorem halt : Statement (.halt) := by
  intro h _ x; refine (decode_3e ⟨mkR 0x6#9 0#5 0#5 0#5 0x3e#6 0#2, _, _, _, _⟩ (fOp_mkR ..)).trans ?_
  simp only [shortOnly, extOnly, needZero, needCode, needWf_of h, lit01, lit_join, ↓reduceIte, BitVec.reduceToNat, BitVec.reduceEq, BitVec.reduceAppend, BitVec.reduceExtractLsb', BitVec.reduceGetLsb, BitVec.reduceGetElem, BitVec.reduceSetWidth, decide_true, decide_false, and_self, or_self, true_and, and_true, true_or, or_true, ne_eq, not_true_eq_false, not_false_eq_true, Bool.false_eq_true, fLen_mkR, fOp_mkR, fFn_mkR, fD_mkR, fA_mkR, fB_mkR, dec3E, plain3E]
theorem sfuResult : Statement (.sfuResult) := fun _ h => absurd rfl h
theorem queueWordArrival : Statement (.queueWordArrival) := fun _ h => absurd rfl h
theorem messageArrival : Statement (.messageArrival) := fun _ h => absurd rfl h
theorem antimessageArrival : Statement (.antimessageArrival) := fun _ h => absurd rfl h
theorem callArrival : Statement (.callArrival) := fun _ h => absurd rfl h
theorem returnArrival : Statement (.returnArrival) := fun _ h => absurd rfl h
theorem gvtDelivery : Statement (.gvtDelivery) := fun _ h => absurd rfl h
theorem firmwareLaunch : Statement (.firmwareLaunch) := fun _ h => absurd rfl h
theorem sweep : Statement (.sweep) := fun _ h => absurd rfl h
theorem kernelStopComplete : Statement (.kernelStopComplete) := fun _ h => absurd rfl h
theorem stealAttempt : Statement (.stealAttempt) := fun _ h => absurd rfl h
theorem codeletUpdate : Statement (.codeletUpdate) := fun _ h => absurd rfl h
theorem dispatch : Statement (.dispatch) := fun _ h => absurd rfl h
theorem priorityPromotion : Statement (.priorityPromotion) := fun _ h => absurd rfl h
theorem sliceExpiry : Statement (.sliceExpiry) := fun _ h => absurd rfl h
theorem bindRecordWrite : Statement (.bindRecordWrite) := fun _ h => absurd rfl h
theorem chainSwitch : Statement (.chainSwitch) := fun _ h => absurd rfl h
theorem copyComplete : Statement (.copyComplete) := fun _ h => absurd rfl h
theorem copyError : Statement (.copyError) := fun _ h => absurd rfl h
theorem remoteAccessArrival : Statement (.remoteAccessArrival) := fun _ h => absurd rfl h
theorem putAcknowledgement : Statement (.putAcknowledgement) := fun _ h => absurd rfl h
theorem negativeAcknowledgement : Statement (.negativeAcknowledgement) := fun _ h => absurd rfl h
theorem rldReturn : Statement (.rldReturn) := fun _ h => absurd rfl h
theorem mnop : Statement (.mnop) := fun _ h => absurd rfl h
theorem mma : Statement (.mma) := fun _ h => absurd rfl h
theorem mmas : Statement (.mmas) := fun _ h => absurd rfl h
theorem mzero : Statement (.mzero) := fun _ h => absurd rfl h
theorem mldb : Statement (.mldb) := fun _ h => absurd rfl h
theorem mstb : Statement (.mstb) := fun _ h => absurd rfl h
theorem mpack : Statement (.mpack) := fun _ h => absurd rfl h
theorem munpk : Statement (.munpk) := fun _ h => absurd rfl h
theorem msig : Statement (.msig) := fun _ h => absurd rfl h
theorem mbar : Statement (.mbar) := fun _ h => absurd rfl h
theorem formatWindowFill : Statement (.formatWindowFill) := fun _ h => absurd rfl h
theorem formatWindowCtlWrite : Statement (.formatWindowCtlWrite) := fun _ h => absurd rfl h
theorem collectiveComplete : Statement (.collectiveComplete) := fun _ h => absurd rfl h
theorem groupTimeout : Statement (.groupTimeout) := fun _ h => absurd rfl h
theorem memberWithdrawal : Statement (.memberWithdrawal) := fun _ h => absurd rfl h
theorem novenaLatch : Statement (.novenaLatch) := fun _ h => absurd rfl h
theorem borderProposal : Statement (.borderProposal) := fun _ h => absurd rfl h
theorem borderGrant : Statement (.borderGrant) := fun _ h => absurd rfl h
theorem proposalDrop : Statement (.proposalDrop) := fun _ h => absurd rfl h
theorem cedeComplete : Statement (.cedeComplete) := fun _ h => absurd rfl h
theorem treeParentChange : Statement (.treeParentChange) := fun _ h => absurd rfl h
theorem levellingCheck : Statement (.levellingCheck) := fun _ h => absurd rfl h
theorem levellingMoveComplete : Statement (.levellingMoveComplete) := fun _ h => absurd rfl h
theorem forcedCede : Statement (.forcedCede) := fun _ h => absurd rfl h
theorem correctedError : Statement (.correctedError) := fun _ h => absurd rfl h
theorem tileReturnAfterRepair : Statement (.tileReturnAfterRepair) := fun _ h => absurd rfl h
theorem shipArrival : Statement (.shipArrival) := fun _ h => absurd rfl h
theorem shipBackCount : Statement (.shipBackCount) := fun _ h => absurd rfl h
theorem pageRequestFlush : Statement (.pageRequestFlush) := fun _ h => absurd rfl h
theorem migrationComplete : Statement (.migrationComplete) := fun _ h => absurd rfl h
theorem migrationAbandon : Statement (.migrationAbandon) := fun _ h => absurd rfl h
theorem pageTableEntryWrite : Statement (.pageTableEntryWrite) := fun _ h => absurd rfl h
theorem illegalWord : Statement (.illegalWord) := fun _ h => absurd rfl h
theorem parkResume : Statement (.parkResume) := fun _ h => absurd rfl h
theorem teamSpill : Statement (.teamSpill) := fun _ h => absurd rfl h
theorem teamResume : Statement (.teamResume) := fun _ h => absurd rfl h
theorem gangStop : Statement (.gangStop) := fun _ h => absurd rfl h
theorem stopRelease : Statement (.stopRelease) := fun _ h => absurd rfl h
theorem debugStop : Statement (.debugStop) := fun _ h => absurd rfl h
theorem debugStep : Statement (.debugStep) := fun _ h => absurd rfl h
theorem debugDrain : Statement (.debugDrain) := fun _ h => absurd rfl h
theorem gangSwitchSet : Statement (.gangSwitchSet) := fun _ h => absurd rfl h
theorem gangSwitchWithdraw : Statement (.gangSwitchWithdraw) := fun _ h => absurd rfl h
theorem gangSwitch : Statement (.gangSwitch) := fun _ h => absurd rfl h
theorem saveComplete : Statement (.saveComplete) := fun _ h => absurd rfl h
theorem gangResume : Statement (.gangResume) := fun _ h => absurd rfl h
theorem partitionFreeze : Statement (.partitionFreeze) := fun _ h => absurd rfl h
theorem partitionPowerCycle : Statement (.partitionPowerCycle) := fun _ h => absurd rfl h
theorem cutStart : Statement (.cutStart) := fun _ h => absurd rfl h
theorem cutRecord : Statement (.cutRecord) := fun _ h => absurd rfl h
theorem kernelRestore : Statement (.kernelRestore) := fun _ h => absurd rfl h
theorem flitRouting : Statement (.flitRouting) := fun _ h => absurd rfl h
theorem flitAcceptance : Statement (.flitAcceptance) := fun _ h => absurd rfl h
theorem mapHint : Statement (.mapHint) := fun _ h => absurd rfl h
theorem mapUpdate : Statement (.mapUpdate) := fun _ h => absurd rfl h
theorem retransmit : Statement (.retransmit) := fun _ h => absurd rfl h
theorem routerReset : Statement (.routerReset) := fun _ h => absurd rfl h
theorem beatReceive : Statement (.beatReceive) := fun _ h => absurd rfl h
theorem beatRefusal : Statement (.beatRefusal) := fun _ h => absurd rfl h
theorem portEnable : Statement (.portEnable) := fun _ h => absurd rfl h
theorem laneTrainingDone : Statement (.laneTrainingDone) := fun _ h => absurd rfl h
theorem trainingTimeout : Statement (.trainingTimeout) := fun _ h => absurd rfl h
theorem replayStorm : Statement (.replayStorm) := fun _ h => absurd rfl h
theorem laneLost : Statement (.laneLost) := fun _ h => absurd rfl h
theorem portDisable : Statement (.portDisable) := fun _ h => absurd rfl h
theorem d2dModuleFailure : Statement (.d2dModuleFailure) := fun _ h => absurd rfl h
theorem cxlMemRead : Statement (.cxlMemRead) := fun _ h => absurd rfl h
theorem cxlMemWrite : Statement (.cxlMemWrite) := fun _ h => absurd rfl h
theorem profilingLease : Statement (.profilingLease) := fun _ h => absurd rfl h
theorem profilingLeaseExpiry : Statement (.profilingLeaseExpiry) := fun _ h => absurd rfl h
theorem logicalClockTick : Statement (.logicalClockTick) := fun _ h => absurd rfl h
theorem homeTimeRaise : Statement (.homeTimeRaise) := fun _ h => absurd rfl h
theorem coreClockStop : Statement (.coreClockStop) := fun _ h => absurd rfl h
theorem coreClockRestart : Statement (.coreClockRestart) := fun _ h => absurd rfl h
theorem dieClockStep : Statement (.dieClockStep) := fun _ h => absurd rfl h
theorem boot : Statement (.boot) := fun _ h => absurd rfl h
theorem attestationRequest : Statement (.attestationRequest) := fun _ h => absurd rfl h
theorem residentKernelRequest : Statement (.residentKernelRequest) := fun _ h => absurd rfl h
theorem registerWrite : Statement (.registerWrite) := fun _ h => absurd rfl h

end Sys2Proof.Laws.RoundTrip
end

