-- ==== Sys2Proof/Laws/Registers.lean ====
section
/-! SUPPORT. Registers of a strand context: g0, a register read after a write, and what writing one or completing leaves alone. -/

namespace Sys2Proof.Machine

open Sys2Proof

@[simp] theorem Ctx.getG_zero (c : Ctx) : c.getG 0#5 = 0#64 := rfl
theorem Ctx.getG_setG (c : Ctx) (d r : Reg) (v : Word) :
    (c.setG d v).getG r = if r = 0#5 then 0#64 else if r = d then v else c.getG r := by
  unfold Ctx.getG Ctx.setG
  by_cases hr : r = 0#5
  · simp [hr]
  · by_cases hd : d = 0#5
    · subst hd; simp [hr]
    · simp only [hr, hd, if_false]
      by_cases e : r = d
      · subst e; simp
      · have : d.toNat ≠ r.toNat := fun h => e (BitVec.eq_of_toNat_eq h.symm)
        simp [e, this]
@[simp] theorem Ctx.getF_setF_self (c : Ctx) (r : Reg) (v : Word) : (c.setF r v).getF r = v := by simp [Ctx.getF, Ctx.setF]
theorem Ctx.getF_setF_other (c : Ctx) (d r : Reg) (v : Word) (h : r ≠ d) : (c.setF d v).getF r = c.getF r := by
  have : d.toNat ≠ r.toNat := fun e => h (BitVec.eq_of_toNat_eq e.symm)
  simp [Ctx.getF, Ctx.setF, this]
/-- Writing a g register changes the g registers only. -/
theorem Ctx.setG_only_g (c : Ctx) (d : Reg) (v : Word) : ∃ g, c.setG d v = { c with g := g } := by
  unfold Ctx.setG; split
  · exact ⟨c.g, rfl⟩
  · exact ⟨_, rfl⟩
@[simp] theorem Ctx.getG_retired (c : Ctx) (np : Word) (r : Reg) : (c.retired np).getG r = c.getG r := rfl
@[simp] theorem Ctx.getF_retired (c : Ctx) (np : Word) (r : Reg) : (c.retired np).getF r = c.getF r := rfl
@[simp] theorem Ctx.retired_run (c : Ctx) (np : Word) : (c.retired np).run = .ready := rfl
@[simp] theorem Ctx.retired_held (c : Ctx) (np : Word) : (c.retired np).held = none := rfl
@[simp] theorem Ctx.retired_wait (c : Ctx) (np : Word) : (c.retired np).wait = .none := rfl
/-- Outside a REP body, an instruction completes at the next PC it gives (R120). -/
theorem Ctx.retired_no_rep (c : Ctx) (np : Word) (h : c.rep = none) : (c.retired np).pc = np ∧ (c.retired np).rep = none := by
  simp [Ctx.retired, repNext, h]

end Sys2Proof.Machine
end

