-- ==== Sys2Proof/Laws/State.lean ====
section
/-! SUPPORT. What each update of the state leaves alone, field by field, and what it makes of the object that it changes. -/

set_option Elab.async false

namespace Sys2Proof.Machine

/-! ## upd -/

@[simp] theorem State.upd_sched (s : State) (id : Nat) (f : Ctx → Ctx) : (s.upd id f).sched = s.sched := by
  unfold State.upd; split <;> rfl
@[simp] theorem State.upd_cur (s : State) (id : Nat) (f : Ctx → Ctx) : (s.upd id f).cur = s.cur := by
  unfold State.upd; split <;> rfl
@[simp] theorem State.upd_ev (s : State) (id : Nat) (f : Ctx → Ctx) : (s.upd id f).ev = s.ev := by
  unfold State.upd; split <;> rfl
@[simp] theorem State.upd_free (s : State) (id : Nat) (f : Ctx → Ctx) : (s.upd id f).free = s.free := by
  unfold State.upd; split <;> rfl
@[simp] theorem State.upd_nextId (s : State) (id : Nat) (f : Ctx → Ctx) : (s.upd id f).nextId = s.nextId := by
  unfold State.upd; split <;> rfl
@[simp] theorem State.upd_tbase (s : State) (id : Nat) (f : Ctx → Ctx) : (s.upd id f).tbase = s.tbase := by
  unfold State.upd; split <;> rfl
@[simp] theorem State.upd_bootAt (s : State) (id : Nat) (f : Ctx → Ctx) : (s.upd id f).bootAt = s.bootAt := by
  unfold State.upd; split <;> rfl
@[simp] theorem State.upd_kernels (s : State) (id : Nat) (f : Ctx → Ctx) : (s.upd id f).kernels = s.kernels := by
  unfold State.upd; split <;> rfl
@[simp] theorem State.upd_ltiles (s : State) (id : Nat) (f : Ctx → Ctx) : (s.upd id f).ltiles = s.ltiles := by
  unfold State.upd; split <;> rfl
@[simp] theorem State.upd_lcores (s : State) (id : Nat) (f : Ctx → Ctx) : (s.upd id f).lcores = s.lcores := by
  unfold State.upd; split <;> rfl
@[simp] theorem State.upd_parts (s : State) (id : Nat) (f : Ctx → Ctx) : (s.upd id f).parts = s.parts := by
  unfold State.upd; split <;> rfl
@[simp] theorem State.upd_tiles (s : State) (id : Nat) (f : Ctx → Ctx) : (s.upd id f).tiles = s.tiles := by
  unfold State.upd; split <;> rfl
@[simp] theorem State.upd_dies (s : State) (id : Nat) (f : Ctx → Ctx) : (s.upd id f).dies = s.dies := by
  unfold State.upd; split <;> rfl
@[simp] theorem State.upd_ctrls (s : State) (id : Nat) (f : Ctx → Ctx) : (s.upd id f).ctrls = s.ctrls := by
  unfold State.upd; split <;> rfl
@[simp] theorem State.upd_glob (s : State) (id : Nat) (f : Ctx → Ctx) : (s.upd id f).glob = s.glob := by
  unfold State.upd; split <;> rfl
@[simp] theorem State.upd_dram (s : State) (id : Nat) (f : Ctx → Ctx) : (s.upd id f).dram = s.dram := by
  unfold State.upd; split <;> rfl
@[simp] theorem State.upd_dirty (s : State) (id : Nat) (f : Ctx → Ctx) : (s.upd id f).dirty = s.dirty := by
  unfold State.upd; split <;> rfl
@[simp] theorem State.upd_viewLines (s : State) (id : Nat) (f : Ctx → Ctx) : (s.upd id f).viewLines = s.viewLines := by
  unfold State.upd; split <;> rfl
@[simp] theorem State.upd_clocks (s : State) (id : Nat) (f : Ctx → Ctx) : (s.upd id f).clocks = s.clocks := by
  unfold State.upd; split <;> rfl
@[simp] theorem State.upd_times (s : State) (id : Nat) (f : Ctx → Ctx) : (s.upd id f).times = s.times := by
  unfold State.upd; split <;> rfl
@[simp] theorem State.upd_homes (s : State) (id : Nat) (f : Ctx → Ctx) : (s.upd id f).homes = s.homes := by
  unfold State.upd; split <;> rfl
@[simp] theorem State.upd_past (s : State) (id : Nat) (f : Ctx → Ctx) : (s.upd id f).past = s.past := by
  unfold State.upd; split <;> rfl
@[simp] theorem State.upd_signals (s : State) (id : Nat) (f : Ctx → Ctx) : (s.upd id f).signals = s.signals := by
  unfold State.upd; split <;> rfl
@[simp] theorem State.upd_l2s (s : State) (id : Nat) (f : Ctx → Ctx) : (s.upd id f).l2s = s.l2s := by
  unfold State.upd; split <;> rfl
@[simp] theorem State.upd_copies (s : State) (id : Nat) (f : Ctx → Ctx) : (s.upd id f).copies = s.copies := by
  unfold State.upd; split <;> rfl
@[simp] theorem State.upd_rdcs (s : State) (id : Nat) (f : Ctx → Ctx) : (s.upd id f).rdcs = s.rdcs := by
  unfold State.upd; split <;> rfl
@[simp] theorem State.upd_tlbs (s : State) (id : Nat) (f : Ctx → Ctx) : (s.upd id f).tlbs = s.tlbs := by
  unfold State.upd; split <;> rfl
@[simp] theorem State.upd_moves (s : State) (id : Nat) (f : Ctx → Ctx) : (s.upd id f).moves = s.moves := by
  unfold State.upd; split <;> rfl
@[simp] theorem State.upd_dirtyGranules (s : State) (id : Nat) (f : Ctx → Ctx) : (s.upd id f).dirtyGranules = s.dirtyGranules := by
  unfold State.upd; split <;> rfl
@[simp] theorem State.upd_bars (s : State) (id : Nat) (f : Ctx → Ctx) : (s.upd id f).bars = s.bars := by
  unfold State.upd; split <;> rfl
@[simp] theorem State.upd_saves (s : State) (id : Nat) (f : Ctx → Ctx) : (s.upd id f).saves = s.saves := by
  unfold State.upd; split <;> rfl
@[simp] theorem State.upd_flits (s : State) (id : Nat) (f : Ctx → Ctx) : (s.upd id f).flits = s.flits := by
  unfold State.upd; split <;> rfl
@[simp] theorem State.upd_arrivals (s : State) (id : Nat) (f : Ctx → Ctx) : (s.upd id f).arrivals = s.arrivals := by
  unfold State.upd; split <;> rfl
@[simp] theorem State.upd_taken (s : State) (id : Nat) (f : Ctx → Ctx) : (s.upd id f).taken = s.taken := by
  unfold State.upd; split <;> rfl
@[simp] theorem State.upd_outbox (s : State) (id : Nat) (f : Ctx → Ctx) : (s.upd id f).outbox = s.outbox := by
  unfold State.upd; split <;> rfl
@[simp] theorem State.upd_device (s : State) (id : Nat) (f : Ctx → Ctx) : (s.upd id f).device = s.device := by
  unfold State.upd; split <;> rfl
@[simp] theorem State.upd_routes (s : State) (id : Nat) (f : Ctx → Ctx) : (s.upd id f).routes = s.routes := by
  unfold State.upd; split <;> rfl
@[simp] theorem State.upd_ports (s : State) (id : Nat) (f : Ctx → Ctx) : (s.upd id f).ports = s.ports := by
  unfold State.upd; split <;> rfl
@[simp] theorem State.upd_deadLinks (s : State) (id : Nat) (f : Ctx → Ctx) : (s.upd id f).deadLinks = s.deadLinks := by
  unfold State.upd; split <;> rfl
@[simp] theorem State.upd_groups (s : State) (id : Nat) (f : Ctx → Ctx) : (s.upd id f).groups = s.groups := by
  unfold State.upd; split <;> rfl
@[simp] theorem State.upd_views (s : State) (id : Nat) (f : Ctx → Ctx) : (s.upd id f).views = s.views := by
  unfold State.upd; split <;> rfl
@[simp] theorem State.upd_insts (s : State) (id : Nat) (f : Ctx → Ctx) : (s.upd id f).insts = s.insts := by
  unfold State.upd; split <;> rfl
@[simp] theorem State.upd_collReads (s : State) (id : Nat) (f : Ctx → Ctx) : (s.upd id f).collReads = s.collReads := by
  unfold State.upd; split <;> rfl
@[simp] theorem State.upd_phaseLen (s : State) (id : Nat) (f : Ctx → Ctx) : (s.upd id f).phaseLen = s.phaseLen := by
  unfold State.upd; split <;> rfl
@[simp] theorem State.upd_novenaCycle (s : State) (id : Nat) (f : Ctx → Ctx) : (s.upd id f).novenaCycle = s.novenaCycle := by
  unfold State.upd; split <;> rfl
@[simp] theorem State.upd_latchedAt (s : State) (id : Nat) (f : Ctx → Ctx) : (s.upd id f).latchedAt = s.latchedAt := by
  unfold State.upd; split <;> rfl
@[simp] theorem State.upd_resident (s : State) (id : Nat) (f : Ctx → Ctx) : (s.upd id f).resident = s.resident := by
  unfold State.upd; split <;> rfl
@[simp] theorem State.upd_hostSide (s : State) (id : Nat) (f : Ctx → Ctx) : (s.upd id f).hostSide = s.hostSide := by
  unfold State.upd; split <;> rfl
@[simp] theorem State.upd_rom (s : State) (id : Nat) (f : Ctx → Ctx) : (s.upd id f).rom = s.rom := by
  unfold State.upd; split <;> rfl
@[simp] theorem State.upd_tempLimit (s : State) (id : Nat) (f : Ctx → Ctx) : (s.upd id f).tempLimit = s.tempLimit := by
  unfold State.upd; split <;> rfl
@[simp] theorem State.upd_kernel_opt_at (s : State) (id : Nat) (f : Ctx → Ctx) (i : Nat) : (s.upd id f).kernel? i = s.kernel? i := by
  unfold State.upd; split <;> rfl
@[simp] theorem State.upd_kernelD_at (s : State) (id : Nat) (f : Ctx → Ctx) (i : Nat) : (s.upd id f).kernelD i = s.kernelD i := by
  unfold State.upd; split <;> rfl
@[simp] theorem State.upd_ltile_at (s : State) (id : Nat) (f : Ctx → Ctx) (i : Nat) : (s.upd id f).ltile i = s.ltile i := by
  unfold State.upd; split <;> rfl
@[simp] theorem State.upd_lcore_at (s : State) (id : Nat) (f : Ctx → Ctx) (i : Nat) : (s.upd id f).lcore i = s.lcore i := by
  unfold State.upd; split <;> rfl
@[simp] theorem State.upd_tile_at (s : State) (id : Nat) (f : Ctx → Ctx) (i : Nat) : (s.upd id f).tile i = s.tile i := by
  unfold State.upd; split <;> rfl
@[simp] theorem State.upd_part_at (s : State) (id : Nat) (f : Ctx → Ctx) (i : Nat) : (s.upd id f).part i = s.part i := by
  unfold State.upd; split <;> rfl
@[simp] theorem State.upd_die_at (s : State) (id : Nat) (f : Ctx → Ctx) (i : Nat) : (s.upd id f).die i = s.die i := by
  unfold State.upd; split <;> rfl
@[simp] theorem State.upd_ctrl_at (s : State) (id : Nat) (f : Ctx → Ctx) (i : Nat) : (s.upd id f).ctrl i = s.ctrl i := by
  unfold State.upd; split <;> rfl
@[simp] theorem State.upd_clock_at (s : State) (id : Nat) (f : Ctx → Ctx) (i : Nat) : (s.upd id f).clock i = s.clock i := by
  unfold State.upd; split <;> rfl
/-! ## updK -/

@[simp] theorem State.updK_sched (s : State) (k : Nat) (f : Kernel → Kernel) : (s.updK k f).sched = s.sched := by
  unfold State.updK; split <;> rfl
@[simp] theorem State.updK_cur (s : State) (k : Nat) (f : Kernel → Kernel) : (s.updK k f).cur = s.cur := by
  unfold State.updK; split <;> rfl
@[simp] theorem State.updK_ev (s : State) (k : Nat) (f : Kernel → Kernel) : (s.updK k f).ev = s.ev := by
  unfold State.updK; split <;> rfl
@[simp] theorem State.updK_free (s : State) (k : Nat) (f : Kernel → Kernel) : (s.updK k f).free = s.free := by
  unfold State.updK; split <;> rfl
@[simp] theorem State.updK_nextId (s : State) (k : Nat) (f : Kernel → Kernel) : (s.updK k f).nextId = s.nextId := by
  unfold State.updK; split <;> rfl
@[simp] theorem State.updK_tbase (s : State) (k : Nat) (f : Kernel → Kernel) : (s.updK k f).tbase = s.tbase := by
  unfold State.updK; split <;> rfl
@[simp] theorem State.updK_bootAt (s : State) (k : Nat) (f : Kernel → Kernel) : (s.updK k f).bootAt = s.bootAt := by
  unfold State.updK; split <;> rfl
@[simp] theorem State.updK_ctxs (s : State) (k : Nat) (f : Kernel → Kernel) : (s.updK k f).ctxs = s.ctxs := by
  unfold State.updK; split <;> rfl
@[simp] theorem State.updK_ltiles (s : State) (k : Nat) (f : Kernel → Kernel) : (s.updK k f).ltiles = s.ltiles := by
  unfold State.updK; split <;> rfl
@[simp] theorem State.updK_lcores (s : State) (k : Nat) (f : Kernel → Kernel) : (s.updK k f).lcores = s.lcores := by
  unfold State.updK; split <;> rfl
@[simp] theorem State.updK_parts (s : State) (k : Nat) (f : Kernel → Kernel) : (s.updK k f).parts = s.parts := by
  unfold State.updK; split <;> rfl
@[simp] theorem State.updK_tiles (s : State) (k : Nat) (f : Kernel → Kernel) : (s.updK k f).tiles = s.tiles := by
  unfold State.updK; split <;> rfl
@[simp] theorem State.updK_dies (s : State) (k : Nat) (f : Kernel → Kernel) : (s.updK k f).dies = s.dies := by
  unfold State.updK; split <;> rfl
@[simp] theorem State.updK_ctrls (s : State) (k : Nat) (f : Kernel → Kernel) : (s.updK k f).ctrls = s.ctrls := by
  unfold State.updK; split <;> rfl
@[simp] theorem State.updK_glob (s : State) (k : Nat) (f : Kernel → Kernel) : (s.updK k f).glob = s.glob := by
  unfold State.updK; split <;> rfl
@[simp] theorem State.updK_dram (s : State) (k : Nat) (f : Kernel → Kernel) : (s.updK k f).dram = s.dram := by
  unfold State.updK; split <;> rfl
@[simp] theorem State.updK_dirty (s : State) (k : Nat) (f : Kernel → Kernel) : (s.updK k f).dirty = s.dirty := by
  unfold State.updK; split <;> rfl
@[simp] theorem State.updK_viewLines (s : State) (k : Nat) (f : Kernel → Kernel) : (s.updK k f).viewLines = s.viewLines := by
  unfold State.updK; split <;> rfl
@[simp] theorem State.updK_clocks (s : State) (k : Nat) (f : Kernel → Kernel) : (s.updK k f).clocks = s.clocks := by
  unfold State.updK; split <;> rfl
@[simp] theorem State.updK_times (s : State) (k : Nat) (f : Kernel → Kernel) : (s.updK k f).times = s.times := by
  unfold State.updK; split <;> rfl
@[simp] theorem State.updK_homes (s : State) (k : Nat) (f : Kernel → Kernel) : (s.updK k f).homes = s.homes := by
  unfold State.updK; split <;> rfl
@[simp] theorem State.updK_past (s : State) (k : Nat) (f : Kernel → Kernel) : (s.updK k f).past = s.past := by
  unfold State.updK; split <;> rfl
@[simp] theorem State.updK_signals (s : State) (k : Nat) (f : Kernel → Kernel) : (s.updK k f).signals = s.signals := by
  unfold State.updK; split <;> rfl
@[simp] theorem State.updK_l2s (s : State) (k : Nat) (f : Kernel → Kernel) : (s.updK k f).l2s = s.l2s := by
  unfold State.updK; split <;> rfl
@[simp] theorem State.updK_copies (s : State) (k : Nat) (f : Kernel → Kernel) : (s.updK k f).copies = s.copies := by
  unfold State.updK; split <;> rfl
@[simp] theorem State.updK_rdcs (s : State) (k : Nat) (f : Kernel → Kernel) : (s.updK k f).rdcs = s.rdcs := by
  unfold State.updK; split <;> rfl
@[simp] theorem State.updK_tlbs (s : State) (k : Nat) (f : Kernel → Kernel) : (s.updK k f).tlbs = s.tlbs := by
  unfold State.updK; split <;> rfl
@[simp] theorem State.updK_moves (s : State) (k : Nat) (f : Kernel → Kernel) : (s.updK k f).moves = s.moves := by
  unfold State.updK; split <;> rfl
@[simp] theorem State.updK_dirtyGranules (s : State) (k : Nat) (f : Kernel → Kernel) : (s.updK k f).dirtyGranules = s.dirtyGranules := by
  unfold State.updK; split <;> rfl
@[simp] theorem State.updK_bars (s : State) (k : Nat) (f : Kernel → Kernel) : (s.updK k f).bars = s.bars := by
  unfold State.updK; split <;> rfl
@[simp] theorem State.updK_saves (s : State) (k : Nat) (f : Kernel → Kernel) : (s.updK k f).saves = s.saves := by
  unfold State.updK; split <;> rfl
@[simp] theorem State.updK_flits (s : State) (k : Nat) (f : Kernel → Kernel) : (s.updK k f).flits = s.flits := by
  unfold State.updK; split <;> rfl
@[simp] theorem State.updK_arrivals (s : State) (k : Nat) (f : Kernel → Kernel) : (s.updK k f).arrivals = s.arrivals := by
  unfold State.updK; split <;> rfl
@[simp] theorem State.updK_taken (s : State) (k : Nat) (f : Kernel → Kernel) : (s.updK k f).taken = s.taken := by
  unfold State.updK; split <;> rfl
@[simp] theorem State.updK_outbox (s : State) (k : Nat) (f : Kernel → Kernel) : (s.updK k f).outbox = s.outbox := by
  unfold State.updK; split <;> rfl
@[simp] theorem State.updK_device (s : State) (k : Nat) (f : Kernel → Kernel) : (s.updK k f).device = s.device := by
  unfold State.updK; split <;> rfl
@[simp] theorem State.updK_routes (s : State) (k : Nat) (f : Kernel → Kernel) : (s.updK k f).routes = s.routes := by
  unfold State.updK; split <;> rfl
@[simp] theorem State.updK_ports (s : State) (k : Nat) (f : Kernel → Kernel) : (s.updK k f).ports = s.ports := by
  unfold State.updK; split <;> rfl
@[simp] theorem State.updK_deadLinks (s : State) (k : Nat) (f : Kernel → Kernel) : (s.updK k f).deadLinks = s.deadLinks := by
  unfold State.updK; split <;> rfl
@[simp] theorem State.updK_groups (s : State) (k : Nat) (f : Kernel → Kernel) : (s.updK k f).groups = s.groups := by
  unfold State.updK; split <;> rfl
@[simp] theorem State.updK_views (s : State) (k : Nat) (f : Kernel → Kernel) : (s.updK k f).views = s.views := by
  unfold State.updK; split <;> rfl
@[simp] theorem State.updK_insts (s : State) (k : Nat) (f : Kernel → Kernel) : (s.updK k f).insts = s.insts := by
  unfold State.updK; split <;> rfl
@[simp] theorem State.updK_collReads (s : State) (k : Nat) (f : Kernel → Kernel) : (s.updK k f).collReads = s.collReads := by
  unfold State.updK; split <;> rfl
@[simp] theorem State.updK_phaseLen (s : State) (k : Nat) (f : Kernel → Kernel) : (s.updK k f).phaseLen = s.phaseLen := by
  unfold State.updK; split <;> rfl
@[simp] theorem State.updK_novenaCycle (s : State) (k : Nat) (f : Kernel → Kernel) : (s.updK k f).novenaCycle = s.novenaCycle := by
  unfold State.updK; split <;> rfl
@[simp] theorem State.updK_latchedAt (s : State) (k : Nat) (f : Kernel → Kernel) : (s.updK k f).latchedAt = s.latchedAt := by
  unfold State.updK; split <;> rfl
@[simp] theorem State.updK_resident (s : State) (k : Nat) (f : Kernel → Kernel) : (s.updK k f).resident = s.resident := by
  unfold State.updK; split <;> rfl
@[simp] theorem State.updK_hostSide (s : State) (k : Nat) (f : Kernel → Kernel) : (s.updK k f).hostSide = s.hostSide := by
  unfold State.updK; split <;> rfl
@[simp] theorem State.updK_rom (s : State) (k : Nat) (f : Kernel → Kernel) : (s.updK k f).rom = s.rom := by
  unfold State.updK; split <;> rfl
@[simp] theorem State.updK_tempLimit (s : State) (k : Nat) (f : Kernel → Kernel) : (s.updK k f).tempLimit = s.tempLimit := by
  unfold State.updK; split <;> rfl
@[simp] theorem State.updK_ctx_opt_at (s : State) (k : Nat) (f : Kernel → Kernel) (i : Nat) : (s.updK k f).ctx? i = s.ctx? i := by
  unfold State.updK; split <;> rfl
@[simp] theorem State.updK_ctxD_at (s : State) (k : Nat) (f : Kernel → Kernel) (i : Nat) : (s.updK k f).ctxD i = s.ctxD i := by
  unfold State.updK; split <;> rfl
@[simp] theorem State.updK_ltile_at (s : State) (k : Nat) (f : Kernel → Kernel) (i : Nat) : (s.updK k f).ltile i = s.ltile i := by
  unfold State.updK; split <;> rfl
@[simp] theorem State.updK_lcore_at (s : State) (k : Nat) (f : Kernel → Kernel) (i : Nat) : (s.updK k f).lcore i = s.lcore i := by
  unfold State.updK; split <;> rfl
@[simp] theorem State.updK_tile_at (s : State) (k : Nat) (f : Kernel → Kernel) (i : Nat) : (s.updK k f).tile i = s.tile i := by
  unfold State.updK; split <;> rfl
@[simp] theorem State.updK_part_at (s : State) (k : Nat) (f : Kernel → Kernel) (i : Nat) : (s.updK k f).part i = s.part i := by
  unfold State.updK; split <;> rfl
@[simp] theorem State.updK_die_at (s : State) (k : Nat) (f : Kernel → Kernel) (i : Nat) : (s.updK k f).die i = s.die i := by
  unfold State.updK; split <;> rfl
@[simp] theorem State.updK_ctrl_at (s : State) (k : Nat) (f : Kernel → Kernel) (i : Nat) : (s.updK k f).ctrl i = s.ctrl i := by
  unfold State.updK; split <;> rfl
@[simp] theorem State.updK_clock_at (s : State) (k : Nat) (f : Kernel → Kernel) (i : Nat) : (s.updK k f).clock i = s.clock i := by
  unfold State.updK; split <;> rfl
/-! ## updLt -/

@[simp] theorem State.updLt_sched (s : State) (k : Nat) (f : LTile → LTile) : (s.updLt k f).sched = s.sched := rfl
@[simp] theorem State.updLt_cur (s : State) (k : Nat) (f : LTile → LTile) : (s.updLt k f).cur = s.cur := rfl
@[simp] theorem State.updLt_ev (s : State) (k : Nat) (f : LTile → LTile) : (s.updLt k f).ev = s.ev := rfl
@[simp] theorem State.updLt_free (s : State) (k : Nat) (f : LTile → LTile) : (s.updLt k f).free = s.free := rfl
@[simp] theorem State.updLt_nextId (s : State) (k : Nat) (f : LTile → LTile) : (s.updLt k f).nextId = s.nextId := rfl
@[simp] theorem State.updLt_tbase (s : State) (k : Nat) (f : LTile → LTile) : (s.updLt k f).tbase = s.tbase := rfl
@[simp] theorem State.updLt_bootAt (s : State) (k : Nat) (f : LTile → LTile) : (s.updLt k f).bootAt = s.bootAt := rfl
@[simp] theorem State.updLt_ctxs (s : State) (k : Nat) (f : LTile → LTile) : (s.updLt k f).ctxs = s.ctxs := rfl
@[simp] theorem State.updLt_kernels (s : State) (k : Nat) (f : LTile → LTile) : (s.updLt k f).kernels = s.kernels := rfl
@[simp] theorem State.updLt_lcores (s : State) (k : Nat) (f : LTile → LTile) : (s.updLt k f).lcores = s.lcores := rfl
@[simp] theorem State.updLt_parts (s : State) (k : Nat) (f : LTile → LTile) : (s.updLt k f).parts = s.parts := rfl
@[simp] theorem State.updLt_tiles (s : State) (k : Nat) (f : LTile → LTile) : (s.updLt k f).tiles = s.tiles := rfl
@[simp] theorem State.updLt_dies (s : State) (k : Nat) (f : LTile → LTile) : (s.updLt k f).dies = s.dies := rfl
@[simp] theorem State.updLt_ctrls (s : State) (k : Nat) (f : LTile → LTile) : (s.updLt k f).ctrls = s.ctrls := rfl
@[simp] theorem State.updLt_glob (s : State) (k : Nat) (f : LTile → LTile) : (s.updLt k f).glob = s.glob := rfl
@[simp] theorem State.updLt_dram (s : State) (k : Nat) (f : LTile → LTile) : (s.updLt k f).dram = s.dram := rfl
@[simp] theorem State.updLt_dirty (s : State) (k : Nat) (f : LTile → LTile) : (s.updLt k f).dirty = s.dirty := rfl
@[simp] theorem State.updLt_viewLines (s : State) (k : Nat) (f : LTile → LTile) : (s.updLt k f).viewLines = s.viewLines := rfl
@[simp] theorem State.updLt_clocks (s : State) (k : Nat) (f : LTile → LTile) : (s.updLt k f).clocks = s.clocks := rfl
@[simp] theorem State.updLt_times (s : State) (k : Nat) (f : LTile → LTile) : (s.updLt k f).times = s.times := rfl
@[simp] theorem State.updLt_homes (s : State) (k : Nat) (f : LTile → LTile) : (s.updLt k f).homes = s.homes := rfl
@[simp] theorem State.updLt_past (s : State) (k : Nat) (f : LTile → LTile) : (s.updLt k f).past = s.past := rfl
@[simp] theorem State.updLt_signals (s : State) (k : Nat) (f : LTile → LTile) : (s.updLt k f).signals = s.signals := rfl
@[simp] theorem State.updLt_l2s (s : State) (k : Nat) (f : LTile → LTile) : (s.updLt k f).l2s = s.l2s := rfl
@[simp] theorem State.updLt_copies (s : State) (k : Nat) (f : LTile → LTile) : (s.updLt k f).copies = s.copies := rfl
@[simp] theorem State.updLt_rdcs (s : State) (k : Nat) (f : LTile → LTile) : (s.updLt k f).rdcs = s.rdcs := rfl
@[simp] theorem State.updLt_tlbs (s : State) (k : Nat) (f : LTile → LTile) : (s.updLt k f).tlbs = s.tlbs := rfl
@[simp] theorem State.updLt_moves (s : State) (k : Nat) (f : LTile → LTile) : (s.updLt k f).moves = s.moves := rfl
@[simp] theorem State.updLt_dirtyGranules (s : State) (k : Nat) (f : LTile → LTile) : (s.updLt k f).dirtyGranules = s.dirtyGranules := rfl
@[simp] theorem State.updLt_bars (s : State) (k : Nat) (f : LTile → LTile) : (s.updLt k f).bars = s.bars := rfl
@[simp] theorem State.updLt_saves (s : State) (k : Nat) (f : LTile → LTile) : (s.updLt k f).saves = s.saves := rfl
@[simp] theorem State.updLt_flits (s : State) (k : Nat) (f : LTile → LTile) : (s.updLt k f).flits = s.flits := rfl
@[simp] theorem State.updLt_arrivals (s : State) (k : Nat) (f : LTile → LTile) : (s.updLt k f).arrivals = s.arrivals := rfl
@[simp] theorem State.updLt_taken (s : State) (k : Nat) (f : LTile → LTile) : (s.updLt k f).taken = s.taken := rfl
@[simp] theorem State.updLt_outbox (s : State) (k : Nat) (f : LTile → LTile) : (s.updLt k f).outbox = s.outbox := rfl
@[simp] theorem State.updLt_device (s : State) (k : Nat) (f : LTile → LTile) : (s.updLt k f).device = s.device := rfl
@[simp] theorem State.updLt_routes (s : State) (k : Nat) (f : LTile → LTile) : (s.updLt k f).routes = s.routes := rfl
@[simp] theorem State.updLt_ports (s : State) (k : Nat) (f : LTile → LTile) : (s.updLt k f).ports = s.ports := rfl
@[simp] theorem State.updLt_deadLinks (s : State) (k : Nat) (f : LTile → LTile) : (s.updLt k f).deadLinks = s.deadLinks := rfl
@[simp] theorem State.updLt_groups (s : State) (k : Nat) (f : LTile → LTile) : (s.updLt k f).groups = s.groups := rfl
@[simp] theorem State.updLt_views (s : State) (k : Nat) (f : LTile → LTile) : (s.updLt k f).views = s.views := rfl
@[simp] theorem State.updLt_insts (s : State) (k : Nat) (f : LTile → LTile) : (s.updLt k f).insts = s.insts := rfl
@[simp] theorem State.updLt_collReads (s : State) (k : Nat) (f : LTile → LTile) : (s.updLt k f).collReads = s.collReads := rfl
@[simp] theorem State.updLt_phaseLen (s : State) (k : Nat) (f : LTile → LTile) : (s.updLt k f).phaseLen = s.phaseLen := rfl
@[simp] theorem State.updLt_novenaCycle (s : State) (k : Nat) (f : LTile → LTile) : (s.updLt k f).novenaCycle = s.novenaCycle := rfl
@[simp] theorem State.updLt_latchedAt (s : State) (k : Nat) (f : LTile → LTile) : (s.updLt k f).latchedAt = s.latchedAt := rfl
@[simp] theorem State.updLt_resident (s : State) (k : Nat) (f : LTile → LTile) : (s.updLt k f).resident = s.resident := rfl
@[simp] theorem State.updLt_hostSide (s : State) (k : Nat) (f : LTile → LTile) : (s.updLt k f).hostSide = s.hostSide := rfl
@[simp] theorem State.updLt_rom (s : State) (k : Nat) (f : LTile → LTile) : (s.updLt k f).rom = s.rom := rfl
@[simp] theorem State.updLt_tempLimit (s : State) (k : Nat) (f : LTile → LTile) : (s.updLt k f).tempLimit = s.tempLimit := rfl
@[simp] theorem State.updLt_ctx_opt_at (s : State) (k : Nat) (f : LTile → LTile) (i : Nat) : (s.updLt k f).ctx? i = s.ctx? i := rfl
@[simp] theorem State.updLt_ctxD_at (s : State) (k : Nat) (f : LTile → LTile) (i : Nat) : (s.updLt k f).ctxD i = s.ctxD i := rfl
@[simp] theorem State.updLt_kernel_opt_at (s : State) (k : Nat) (f : LTile → LTile) (i : Nat) : (s.updLt k f).kernel? i = s.kernel? i := rfl
@[simp] theorem State.updLt_kernelD_at (s : State) (k : Nat) (f : LTile → LTile) (i : Nat) : (s.updLt k f).kernelD i = s.kernelD i := rfl
@[simp] theorem State.updLt_lcore_at (s : State) (k : Nat) (f : LTile → LTile) (i : Nat) : (s.updLt k f).lcore i = s.lcore i := rfl
@[simp] theorem State.updLt_tile_at (s : State) (k : Nat) (f : LTile → LTile) (i : Nat) : (s.updLt k f).tile i = s.tile i := rfl
@[simp] theorem State.updLt_part_at (s : State) (k : Nat) (f : LTile → LTile) (i : Nat) : (s.updLt k f).part i = s.part i := rfl
@[simp] theorem State.updLt_die_at (s : State) (k : Nat) (f : LTile → LTile) (i : Nat) : (s.updLt k f).die i = s.die i := rfl
@[simp] theorem State.updLt_ctrl_at (s : State) (k : Nat) (f : LTile → LTile) (i : Nat) : (s.updLt k f).ctrl i = s.ctrl i := rfl
@[simp] theorem State.updLt_clock_at (s : State) (k : Nat) (f : LTile → LTile) (i : Nat) : (s.updLt k f).clock i = s.clock i := rfl
/-! ## updLc -/

@[simp] theorem State.updLc_sched (s : State) (k : Nat) (f : LCore → LCore) : (s.updLc k f).sched = s.sched := rfl
@[simp] theorem State.updLc_cur (s : State) (k : Nat) (f : LCore → LCore) : (s.updLc k f).cur = s.cur := rfl
@[simp] theorem State.updLc_ev (s : State) (k : Nat) (f : LCore → LCore) : (s.updLc k f).ev = s.ev := rfl
@[simp] theorem State.updLc_free (s : State) (k : Nat) (f : LCore → LCore) : (s.updLc k f).free = s.free := rfl
@[simp] theorem State.updLc_nextId (s : State) (k : Nat) (f : LCore → LCore) : (s.updLc k f).nextId = s.nextId := rfl
@[simp] theorem State.updLc_tbase (s : State) (k : Nat) (f : LCore → LCore) : (s.updLc k f).tbase = s.tbase := rfl
@[simp] theorem State.updLc_bootAt (s : State) (k : Nat) (f : LCore → LCore) : (s.updLc k f).bootAt = s.bootAt := rfl
@[simp] theorem State.updLc_ctxs (s : State) (k : Nat) (f : LCore → LCore) : (s.updLc k f).ctxs = s.ctxs := rfl
@[simp] theorem State.updLc_kernels (s : State) (k : Nat) (f : LCore → LCore) : (s.updLc k f).kernels = s.kernels := rfl
@[simp] theorem State.updLc_ltiles (s : State) (k : Nat) (f : LCore → LCore) : (s.updLc k f).ltiles = s.ltiles := rfl
@[simp] theorem State.updLc_parts (s : State) (k : Nat) (f : LCore → LCore) : (s.updLc k f).parts = s.parts := rfl
@[simp] theorem State.updLc_tiles (s : State) (k : Nat) (f : LCore → LCore) : (s.updLc k f).tiles = s.tiles := rfl
@[simp] theorem State.updLc_dies (s : State) (k : Nat) (f : LCore → LCore) : (s.updLc k f).dies = s.dies := rfl
@[simp] theorem State.updLc_ctrls (s : State) (k : Nat) (f : LCore → LCore) : (s.updLc k f).ctrls = s.ctrls := rfl
@[simp] theorem State.updLc_glob (s : State) (k : Nat) (f : LCore → LCore) : (s.updLc k f).glob = s.glob := rfl
@[simp] theorem State.updLc_dram (s : State) (k : Nat) (f : LCore → LCore) : (s.updLc k f).dram = s.dram := rfl
@[simp] theorem State.updLc_dirty (s : State) (k : Nat) (f : LCore → LCore) : (s.updLc k f).dirty = s.dirty := rfl
@[simp] theorem State.updLc_viewLines (s : State) (k : Nat) (f : LCore → LCore) : (s.updLc k f).viewLines = s.viewLines := rfl
@[simp] theorem State.updLc_clocks (s : State) (k : Nat) (f : LCore → LCore) : (s.updLc k f).clocks = s.clocks := rfl
@[simp] theorem State.updLc_times (s : State) (k : Nat) (f : LCore → LCore) : (s.updLc k f).times = s.times := rfl
@[simp] theorem State.updLc_homes (s : State) (k : Nat) (f : LCore → LCore) : (s.updLc k f).homes = s.homes := rfl
@[simp] theorem State.updLc_past (s : State) (k : Nat) (f : LCore → LCore) : (s.updLc k f).past = s.past := rfl
@[simp] theorem State.updLc_signals (s : State) (k : Nat) (f : LCore → LCore) : (s.updLc k f).signals = s.signals := rfl
@[simp] theorem State.updLc_l2s (s : State) (k : Nat) (f : LCore → LCore) : (s.updLc k f).l2s = s.l2s := rfl
@[simp] theorem State.updLc_copies (s : State) (k : Nat) (f : LCore → LCore) : (s.updLc k f).copies = s.copies := rfl
@[simp] theorem State.updLc_rdcs (s : State) (k : Nat) (f : LCore → LCore) : (s.updLc k f).rdcs = s.rdcs := rfl
@[simp] theorem State.updLc_tlbs (s : State) (k : Nat) (f : LCore → LCore) : (s.updLc k f).tlbs = s.tlbs := rfl
@[simp] theorem State.updLc_moves (s : State) (k : Nat) (f : LCore → LCore) : (s.updLc k f).moves = s.moves := rfl
@[simp] theorem State.updLc_dirtyGranules (s : State) (k : Nat) (f : LCore → LCore) : (s.updLc k f).dirtyGranules = s.dirtyGranules := rfl
@[simp] theorem State.updLc_bars (s : State) (k : Nat) (f : LCore → LCore) : (s.updLc k f).bars = s.bars := rfl
@[simp] theorem State.updLc_saves (s : State) (k : Nat) (f : LCore → LCore) : (s.updLc k f).saves = s.saves := rfl
@[simp] theorem State.updLc_flits (s : State) (k : Nat) (f : LCore → LCore) : (s.updLc k f).flits = s.flits := rfl
@[simp] theorem State.updLc_arrivals (s : State) (k : Nat) (f : LCore → LCore) : (s.updLc k f).arrivals = s.arrivals := rfl
@[simp] theorem State.updLc_taken (s : State) (k : Nat) (f : LCore → LCore) : (s.updLc k f).taken = s.taken := rfl
@[simp] theorem State.updLc_outbox (s : State) (k : Nat) (f : LCore → LCore) : (s.updLc k f).outbox = s.outbox := rfl
@[simp] theorem State.updLc_device (s : State) (k : Nat) (f : LCore → LCore) : (s.updLc k f).device = s.device := rfl
@[simp] theorem State.updLc_routes (s : State) (k : Nat) (f : LCore → LCore) : (s.updLc k f).routes = s.routes := rfl
@[simp] theorem State.updLc_ports (s : State) (k : Nat) (f : LCore → LCore) : (s.updLc k f).ports = s.ports := rfl
@[simp] theorem State.updLc_deadLinks (s : State) (k : Nat) (f : LCore → LCore) : (s.updLc k f).deadLinks = s.deadLinks := rfl
@[simp] theorem State.updLc_groups (s : State) (k : Nat) (f : LCore → LCore) : (s.updLc k f).groups = s.groups := rfl
@[simp] theorem State.updLc_views (s : State) (k : Nat) (f : LCore → LCore) : (s.updLc k f).views = s.views := rfl
@[simp] theorem State.updLc_insts (s : State) (k : Nat) (f : LCore → LCore) : (s.updLc k f).insts = s.insts := rfl
@[simp] theorem State.updLc_collReads (s : State) (k : Nat) (f : LCore → LCore) : (s.updLc k f).collReads = s.collReads := rfl
@[simp] theorem State.updLc_phaseLen (s : State) (k : Nat) (f : LCore → LCore) : (s.updLc k f).phaseLen = s.phaseLen := rfl
@[simp] theorem State.updLc_novenaCycle (s : State) (k : Nat) (f : LCore → LCore) : (s.updLc k f).novenaCycle = s.novenaCycle := rfl
@[simp] theorem State.updLc_latchedAt (s : State) (k : Nat) (f : LCore → LCore) : (s.updLc k f).latchedAt = s.latchedAt := rfl
@[simp] theorem State.updLc_resident (s : State) (k : Nat) (f : LCore → LCore) : (s.updLc k f).resident = s.resident := rfl
@[simp] theorem State.updLc_hostSide (s : State) (k : Nat) (f : LCore → LCore) : (s.updLc k f).hostSide = s.hostSide := rfl
@[simp] theorem State.updLc_rom (s : State) (k : Nat) (f : LCore → LCore) : (s.updLc k f).rom = s.rom := rfl
@[simp] theorem State.updLc_tempLimit (s : State) (k : Nat) (f : LCore → LCore) : (s.updLc k f).tempLimit = s.tempLimit := rfl
@[simp] theorem State.updLc_ctx_opt_at (s : State) (k : Nat) (f : LCore → LCore) (i : Nat) : (s.updLc k f).ctx? i = s.ctx? i := rfl
@[simp] theorem State.updLc_ctxD_at (s : State) (k : Nat) (f : LCore → LCore) (i : Nat) : (s.updLc k f).ctxD i = s.ctxD i := rfl
@[simp] theorem State.updLc_kernel_opt_at (s : State) (k : Nat) (f : LCore → LCore) (i : Nat) : (s.updLc k f).kernel? i = s.kernel? i := rfl
@[simp] theorem State.updLc_kernelD_at (s : State) (k : Nat) (f : LCore → LCore) (i : Nat) : (s.updLc k f).kernelD i = s.kernelD i := rfl
@[simp] theorem State.updLc_ltile_at (s : State) (k : Nat) (f : LCore → LCore) (i : Nat) : (s.updLc k f).ltile i = s.ltile i := rfl
@[simp] theorem State.updLc_tile_at (s : State) (k : Nat) (f : LCore → LCore) (i : Nat) : (s.updLc k f).tile i = s.tile i := rfl
@[simp] theorem State.updLc_part_at (s : State) (k : Nat) (f : LCore → LCore) (i : Nat) : (s.updLc k f).part i = s.part i := rfl
@[simp] theorem State.updLc_die_at (s : State) (k : Nat) (f : LCore → LCore) (i : Nat) : (s.updLc k f).die i = s.die i := rfl
@[simp] theorem State.updLc_ctrl_at (s : State) (k : Nat) (f : LCore → LCore) (i : Nat) : (s.updLc k f).ctrl i = s.ctrl i := rfl
@[simp] theorem State.updLc_clock_at (s : State) (k : Nat) (f : LCore → LCore) (i : Nat) : (s.updLc k f).clock i = s.clock i := rfl
/-! ## updTile -/

@[simp] theorem State.updTile_sched (s : State) (t : Nat) (f : Tile → Tile) : (s.updTile t f).sched = s.sched := rfl
@[simp] theorem State.updTile_cur (s : State) (t : Nat) (f : Tile → Tile) : (s.updTile t f).cur = s.cur := rfl
@[simp] theorem State.updTile_ev (s : State) (t : Nat) (f : Tile → Tile) : (s.updTile t f).ev = s.ev := rfl
@[simp] theorem State.updTile_free (s : State) (t : Nat) (f : Tile → Tile) : (s.updTile t f).free = s.free := rfl
@[simp] theorem State.updTile_nextId (s : State) (t : Nat) (f : Tile → Tile) : (s.updTile t f).nextId = s.nextId := rfl
@[simp] theorem State.updTile_tbase (s : State) (t : Nat) (f : Tile → Tile) : (s.updTile t f).tbase = s.tbase := rfl
@[simp] theorem State.updTile_bootAt (s : State) (t : Nat) (f : Tile → Tile) : (s.updTile t f).bootAt = s.bootAt := rfl
@[simp] theorem State.updTile_ctxs (s : State) (t : Nat) (f : Tile → Tile) : (s.updTile t f).ctxs = s.ctxs := rfl
@[simp] theorem State.updTile_kernels (s : State) (t : Nat) (f : Tile → Tile) : (s.updTile t f).kernels = s.kernels := rfl
@[simp] theorem State.updTile_ltiles (s : State) (t : Nat) (f : Tile → Tile) : (s.updTile t f).ltiles = s.ltiles := rfl
@[simp] theorem State.updTile_lcores (s : State) (t : Nat) (f : Tile → Tile) : (s.updTile t f).lcores = s.lcores := rfl
@[simp] theorem State.updTile_parts (s : State) (t : Nat) (f : Tile → Tile) : (s.updTile t f).parts = s.parts := rfl
@[simp] theorem State.updTile_dies (s : State) (t : Nat) (f : Tile → Tile) : (s.updTile t f).dies = s.dies := rfl
@[simp] theorem State.updTile_ctrls (s : State) (t : Nat) (f : Tile → Tile) : (s.updTile t f).ctrls = s.ctrls := rfl
@[simp] theorem State.updTile_glob (s : State) (t : Nat) (f : Tile → Tile) : (s.updTile t f).glob = s.glob := rfl
@[simp] theorem State.updTile_dram (s : State) (t : Nat) (f : Tile → Tile) : (s.updTile t f).dram = s.dram := rfl
@[simp] theorem State.updTile_dirty (s : State) (t : Nat) (f : Tile → Tile) : (s.updTile t f).dirty = s.dirty := rfl
@[simp] theorem State.updTile_viewLines (s : State) (t : Nat) (f : Tile → Tile) : (s.updTile t f).viewLines = s.viewLines := rfl
@[simp] theorem State.updTile_clocks (s : State) (t : Nat) (f : Tile → Tile) : (s.updTile t f).clocks = s.clocks := rfl
@[simp] theorem State.updTile_times (s : State) (t : Nat) (f : Tile → Tile) : (s.updTile t f).times = s.times := rfl
@[simp] theorem State.updTile_homes (s : State) (t : Nat) (f : Tile → Tile) : (s.updTile t f).homes = s.homes := rfl
@[simp] theorem State.updTile_past (s : State) (t : Nat) (f : Tile → Tile) : (s.updTile t f).past = s.past := rfl
@[simp] theorem State.updTile_signals (s : State) (t : Nat) (f : Tile → Tile) : (s.updTile t f).signals = s.signals := rfl
@[simp] theorem State.updTile_l2s (s : State) (t : Nat) (f : Tile → Tile) : (s.updTile t f).l2s = s.l2s := rfl
@[simp] theorem State.updTile_copies (s : State) (t : Nat) (f : Tile → Tile) : (s.updTile t f).copies = s.copies := rfl
@[simp] theorem State.updTile_rdcs (s : State) (t : Nat) (f : Tile → Tile) : (s.updTile t f).rdcs = s.rdcs := rfl
@[simp] theorem State.updTile_tlbs (s : State) (t : Nat) (f : Tile → Tile) : (s.updTile t f).tlbs = s.tlbs := rfl
@[simp] theorem State.updTile_moves (s : State) (t : Nat) (f : Tile → Tile) : (s.updTile t f).moves = s.moves := rfl
@[simp] theorem State.updTile_dirtyGranules (s : State) (t : Nat) (f : Tile → Tile) : (s.updTile t f).dirtyGranules = s.dirtyGranules := rfl
@[simp] theorem State.updTile_bars (s : State) (t : Nat) (f : Tile → Tile) : (s.updTile t f).bars = s.bars := rfl
@[simp] theorem State.updTile_saves (s : State) (t : Nat) (f : Tile → Tile) : (s.updTile t f).saves = s.saves := rfl
@[simp] theorem State.updTile_flits (s : State) (t : Nat) (f : Tile → Tile) : (s.updTile t f).flits = s.flits := rfl
@[simp] theorem State.updTile_arrivals (s : State) (t : Nat) (f : Tile → Tile) : (s.updTile t f).arrivals = s.arrivals := rfl
@[simp] theorem State.updTile_taken (s : State) (t : Nat) (f : Tile → Tile) : (s.updTile t f).taken = s.taken := rfl
@[simp] theorem State.updTile_outbox (s : State) (t : Nat) (f : Tile → Tile) : (s.updTile t f).outbox = s.outbox := rfl
@[simp] theorem State.updTile_device (s : State) (t : Nat) (f : Tile → Tile) : (s.updTile t f).device = s.device := rfl
@[simp] theorem State.updTile_routes (s : State) (t : Nat) (f : Tile → Tile) : (s.updTile t f).routes = s.routes := rfl
@[simp] theorem State.updTile_ports (s : State) (t : Nat) (f : Tile → Tile) : (s.updTile t f).ports = s.ports := rfl
@[simp] theorem State.updTile_deadLinks (s : State) (t : Nat) (f : Tile → Tile) : (s.updTile t f).deadLinks = s.deadLinks := rfl
@[simp] theorem State.updTile_groups (s : State) (t : Nat) (f : Tile → Tile) : (s.updTile t f).groups = s.groups := rfl
@[simp] theorem State.updTile_views (s : State) (t : Nat) (f : Tile → Tile) : (s.updTile t f).views = s.views := rfl
@[simp] theorem State.updTile_insts (s : State) (t : Nat) (f : Tile → Tile) : (s.updTile t f).insts = s.insts := rfl
@[simp] theorem State.updTile_collReads (s : State) (t : Nat) (f : Tile → Tile) : (s.updTile t f).collReads = s.collReads := rfl
@[simp] theorem State.updTile_phaseLen (s : State) (t : Nat) (f : Tile → Tile) : (s.updTile t f).phaseLen = s.phaseLen := rfl
@[simp] theorem State.updTile_novenaCycle (s : State) (t : Nat) (f : Tile → Tile) : (s.updTile t f).novenaCycle = s.novenaCycle := rfl
@[simp] theorem State.updTile_latchedAt (s : State) (t : Nat) (f : Tile → Tile) : (s.updTile t f).latchedAt = s.latchedAt := rfl
@[simp] theorem State.updTile_resident (s : State) (t : Nat) (f : Tile → Tile) : (s.updTile t f).resident = s.resident := rfl
@[simp] theorem State.updTile_hostSide (s : State) (t : Nat) (f : Tile → Tile) : (s.updTile t f).hostSide = s.hostSide := rfl
@[simp] theorem State.updTile_rom (s : State) (t : Nat) (f : Tile → Tile) : (s.updTile t f).rom = s.rom := rfl
@[simp] theorem State.updTile_tempLimit (s : State) (t : Nat) (f : Tile → Tile) : (s.updTile t f).tempLimit = s.tempLimit := rfl
@[simp] theorem State.updTile_ctx_opt_at (s : State) (t : Nat) (f : Tile → Tile) (i : Nat) : (s.updTile t f).ctx? i = s.ctx? i := rfl
@[simp] theorem State.updTile_ctxD_at (s : State) (t : Nat) (f : Tile → Tile) (i : Nat) : (s.updTile t f).ctxD i = s.ctxD i := rfl
@[simp] theorem State.updTile_kernel_opt_at (s : State) (t : Nat) (f : Tile → Tile) (i : Nat) : (s.updTile t f).kernel? i = s.kernel? i := rfl
@[simp] theorem State.updTile_kernelD_at (s : State) (t : Nat) (f : Tile → Tile) (i : Nat) : (s.updTile t f).kernelD i = s.kernelD i := rfl
@[simp] theorem State.updTile_ltile_at (s : State) (t : Nat) (f : Tile → Tile) (i : Nat) : (s.updTile t f).ltile i = s.ltile i := rfl
@[simp] theorem State.updTile_lcore_at (s : State) (t : Nat) (f : Tile → Tile) (i : Nat) : (s.updTile t f).lcore i = s.lcore i := rfl
@[simp] theorem State.updTile_part_at (s : State) (t : Nat) (f : Tile → Tile) (i : Nat) : (s.updTile t f).part i = s.part i := rfl
@[simp] theorem State.updTile_die_at (s : State) (t : Nat) (f : Tile → Tile) (i : Nat) : (s.updTile t f).die i = s.die i := rfl
@[simp] theorem State.updTile_ctrl_at (s : State) (t : Nat) (f : Tile → Tile) (i : Nat) : (s.updTile t f).ctrl i = s.ctrl i := rfl
@[simp] theorem State.updTile_clock_at (s : State) (t : Nat) (f : Tile → Tile) (i : Nat) : (s.updTile t f).clock i = s.clock i := rfl
/-! ## updPart -/

@[simp] theorem State.updPart_sched (s : State) (p : Nat) (f : Partition → Partition) : (s.updPart p f).sched = s.sched := rfl
@[simp] theorem State.updPart_cur (s : State) (p : Nat) (f : Partition → Partition) : (s.updPart p f).cur = s.cur := rfl
@[simp] theorem State.updPart_ev (s : State) (p : Nat) (f : Partition → Partition) : (s.updPart p f).ev = s.ev := rfl
@[simp] theorem State.updPart_free (s : State) (p : Nat) (f : Partition → Partition) : (s.updPart p f).free = s.free := rfl
@[simp] theorem State.updPart_nextId (s : State) (p : Nat) (f : Partition → Partition) : (s.updPart p f).nextId = s.nextId := rfl
@[simp] theorem State.updPart_tbase (s : State) (p : Nat) (f : Partition → Partition) : (s.updPart p f).tbase = s.tbase := rfl
@[simp] theorem State.updPart_bootAt (s : State) (p : Nat) (f : Partition → Partition) : (s.updPart p f).bootAt = s.bootAt := rfl
@[simp] theorem State.updPart_ctxs (s : State) (p : Nat) (f : Partition → Partition) : (s.updPart p f).ctxs = s.ctxs := rfl
@[simp] theorem State.updPart_kernels (s : State) (p : Nat) (f : Partition → Partition) : (s.updPart p f).kernels = s.kernels := rfl
@[simp] theorem State.updPart_ltiles (s : State) (p : Nat) (f : Partition → Partition) : (s.updPart p f).ltiles = s.ltiles := rfl
@[simp] theorem State.updPart_lcores (s : State) (p : Nat) (f : Partition → Partition) : (s.updPart p f).lcores = s.lcores := rfl
@[simp] theorem State.updPart_tiles (s : State) (p : Nat) (f : Partition → Partition) : (s.updPart p f).tiles = s.tiles := rfl
@[simp] theorem State.updPart_dies (s : State) (p : Nat) (f : Partition → Partition) : (s.updPart p f).dies = s.dies := rfl
@[simp] theorem State.updPart_ctrls (s : State) (p : Nat) (f : Partition → Partition) : (s.updPart p f).ctrls = s.ctrls := rfl
@[simp] theorem State.updPart_glob (s : State) (p : Nat) (f : Partition → Partition) : (s.updPart p f).glob = s.glob := rfl
@[simp] theorem State.updPart_dram (s : State) (p : Nat) (f : Partition → Partition) : (s.updPart p f).dram = s.dram := rfl
@[simp] theorem State.updPart_dirty (s : State) (p : Nat) (f : Partition → Partition) : (s.updPart p f).dirty = s.dirty := rfl
@[simp] theorem State.updPart_viewLines (s : State) (p : Nat) (f : Partition → Partition) : (s.updPart p f).viewLines = s.viewLines := rfl
@[simp] theorem State.updPart_clocks (s : State) (p : Nat) (f : Partition → Partition) : (s.updPart p f).clocks = s.clocks := rfl
@[simp] theorem State.updPart_times (s : State) (p : Nat) (f : Partition → Partition) : (s.updPart p f).times = s.times := rfl
@[simp] theorem State.updPart_homes (s : State) (p : Nat) (f : Partition → Partition) : (s.updPart p f).homes = s.homes := rfl
@[simp] theorem State.updPart_past (s : State) (p : Nat) (f : Partition → Partition) : (s.updPart p f).past = s.past := rfl
@[simp] theorem State.updPart_signals (s : State) (p : Nat) (f : Partition → Partition) : (s.updPart p f).signals = s.signals := rfl
@[simp] theorem State.updPart_l2s (s : State) (p : Nat) (f : Partition → Partition) : (s.updPart p f).l2s = s.l2s := rfl
@[simp] theorem State.updPart_copies (s : State) (p : Nat) (f : Partition → Partition) : (s.updPart p f).copies = s.copies := rfl
@[simp] theorem State.updPart_rdcs (s : State) (p : Nat) (f : Partition → Partition) : (s.updPart p f).rdcs = s.rdcs := rfl
@[simp] theorem State.updPart_tlbs (s : State) (p : Nat) (f : Partition → Partition) : (s.updPart p f).tlbs = s.tlbs := rfl
@[simp] theorem State.updPart_moves (s : State) (p : Nat) (f : Partition → Partition) : (s.updPart p f).moves = s.moves := rfl
@[simp] theorem State.updPart_dirtyGranules (s : State) (p : Nat) (f : Partition → Partition) : (s.updPart p f).dirtyGranules = s.dirtyGranules := rfl
@[simp] theorem State.updPart_bars (s : State) (p : Nat) (f : Partition → Partition) : (s.updPart p f).bars = s.bars := rfl
@[simp] theorem State.updPart_saves (s : State) (p : Nat) (f : Partition → Partition) : (s.updPart p f).saves = s.saves := rfl
@[simp] theorem State.updPart_flits (s : State) (p : Nat) (f : Partition → Partition) : (s.updPart p f).flits = s.flits := rfl
@[simp] theorem State.updPart_arrivals (s : State) (p : Nat) (f : Partition → Partition) : (s.updPart p f).arrivals = s.arrivals := rfl
@[simp] theorem State.updPart_taken (s : State) (p : Nat) (f : Partition → Partition) : (s.updPart p f).taken = s.taken := rfl
@[simp] theorem State.updPart_outbox (s : State) (p : Nat) (f : Partition → Partition) : (s.updPart p f).outbox = s.outbox := rfl
@[simp] theorem State.updPart_device (s : State) (p : Nat) (f : Partition → Partition) : (s.updPart p f).device = s.device := rfl
@[simp] theorem State.updPart_routes (s : State) (p : Nat) (f : Partition → Partition) : (s.updPart p f).routes = s.routes := rfl
@[simp] theorem State.updPart_ports (s : State) (p : Nat) (f : Partition → Partition) : (s.updPart p f).ports = s.ports := rfl
@[simp] theorem State.updPart_deadLinks (s : State) (p : Nat) (f : Partition → Partition) : (s.updPart p f).deadLinks = s.deadLinks := rfl
@[simp] theorem State.updPart_groups (s : State) (p : Nat) (f : Partition → Partition) : (s.updPart p f).groups = s.groups := rfl
@[simp] theorem State.updPart_views (s : State) (p : Nat) (f : Partition → Partition) : (s.updPart p f).views = s.views := rfl
@[simp] theorem State.updPart_insts (s : State) (p : Nat) (f : Partition → Partition) : (s.updPart p f).insts = s.insts := rfl
@[simp] theorem State.updPart_collReads (s : State) (p : Nat) (f : Partition → Partition) : (s.updPart p f).collReads = s.collReads := rfl
@[simp] theorem State.updPart_phaseLen (s : State) (p : Nat) (f : Partition → Partition) : (s.updPart p f).phaseLen = s.phaseLen := rfl
@[simp] theorem State.updPart_novenaCycle (s : State) (p : Nat) (f : Partition → Partition) : (s.updPart p f).novenaCycle = s.novenaCycle := rfl
@[simp] theorem State.updPart_latchedAt (s : State) (p : Nat) (f : Partition → Partition) : (s.updPart p f).latchedAt = s.latchedAt := rfl
@[simp] theorem State.updPart_resident (s : State) (p : Nat) (f : Partition → Partition) : (s.updPart p f).resident = s.resident := rfl
@[simp] theorem State.updPart_hostSide (s : State) (p : Nat) (f : Partition → Partition) : (s.updPart p f).hostSide = s.hostSide := rfl
@[simp] theorem State.updPart_rom (s : State) (p : Nat) (f : Partition → Partition) : (s.updPart p f).rom = s.rom := rfl
@[simp] theorem State.updPart_tempLimit (s : State) (p : Nat) (f : Partition → Partition) : (s.updPart p f).tempLimit = s.tempLimit := rfl
@[simp] theorem State.updPart_ctx_opt_at (s : State) (p : Nat) (f : Partition → Partition) (i : Nat) : (s.updPart p f).ctx? i = s.ctx? i := rfl
@[simp] theorem State.updPart_ctxD_at (s : State) (p : Nat) (f : Partition → Partition) (i : Nat) : (s.updPart p f).ctxD i = s.ctxD i := rfl
@[simp] theorem State.updPart_kernel_opt_at (s : State) (p : Nat) (f : Partition → Partition) (i : Nat) : (s.updPart p f).kernel? i = s.kernel? i := rfl
@[simp] theorem State.updPart_kernelD_at (s : State) (p : Nat) (f : Partition → Partition) (i : Nat) : (s.updPart p f).kernelD i = s.kernelD i := rfl
@[simp] theorem State.updPart_ltile_at (s : State) (p : Nat) (f : Partition → Partition) (i : Nat) : (s.updPart p f).ltile i = s.ltile i := rfl
@[simp] theorem State.updPart_lcore_at (s : State) (p : Nat) (f : Partition → Partition) (i : Nat) : (s.updPart p f).lcore i = s.lcore i := rfl
@[simp] theorem State.updPart_tile_at (s : State) (p : Nat) (f : Partition → Partition) (i : Nat) : (s.updPart p f).tile i = s.tile i := rfl
@[simp] theorem State.updPart_die_at (s : State) (p : Nat) (f : Partition → Partition) (i : Nat) : (s.updPart p f).die i = s.die i := rfl
@[simp] theorem State.updPart_ctrl_at (s : State) (p : Nat) (f : Partition → Partition) (i : Nat) : (s.updPart p f).ctrl i = s.ctrl i := rfl
@[simp] theorem State.updPart_clock_at (s : State) (p : Nat) (f : Partition → Partition) (i : Nat) : (s.updPart p f).clock i = s.clock i := rfl
/-! ## updDie -/

@[simp] theorem State.updDie_sched (s : State) (d : Nat) (f : Die → Die) : (s.updDie d f).sched = s.sched := rfl
@[simp] theorem State.updDie_cur (s : State) (d : Nat) (f : Die → Die) : (s.updDie d f).cur = s.cur := rfl
@[simp] theorem State.updDie_ev (s : State) (d : Nat) (f : Die → Die) : (s.updDie d f).ev = s.ev := rfl
@[simp] theorem State.updDie_free (s : State) (d : Nat) (f : Die → Die) : (s.updDie d f).free = s.free := rfl
@[simp] theorem State.updDie_nextId (s : State) (d : Nat) (f : Die → Die) : (s.updDie d f).nextId = s.nextId := rfl
@[simp] theorem State.updDie_tbase (s : State) (d : Nat) (f : Die → Die) : (s.updDie d f).tbase = s.tbase := rfl
@[simp] theorem State.updDie_bootAt (s : State) (d : Nat) (f : Die → Die) : (s.updDie d f).bootAt = s.bootAt := rfl
@[simp] theorem State.updDie_ctxs (s : State) (d : Nat) (f : Die → Die) : (s.updDie d f).ctxs = s.ctxs := rfl
@[simp] theorem State.updDie_kernels (s : State) (d : Nat) (f : Die → Die) : (s.updDie d f).kernels = s.kernels := rfl
@[simp] theorem State.updDie_ltiles (s : State) (d : Nat) (f : Die → Die) : (s.updDie d f).ltiles = s.ltiles := rfl
@[simp] theorem State.updDie_lcores (s : State) (d : Nat) (f : Die → Die) : (s.updDie d f).lcores = s.lcores := rfl
@[simp] theorem State.updDie_parts (s : State) (d : Nat) (f : Die → Die) : (s.updDie d f).parts = s.parts := rfl
@[simp] theorem State.updDie_tiles (s : State) (d : Nat) (f : Die → Die) : (s.updDie d f).tiles = s.tiles := rfl
@[simp] theorem State.updDie_ctrls (s : State) (d : Nat) (f : Die → Die) : (s.updDie d f).ctrls = s.ctrls := rfl
@[simp] theorem State.updDie_glob (s : State) (d : Nat) (f : Die → Die) : (s.updDie d f).glob = s.glob := rfl
@[simp] theorem State.updDie_dram (s : State) (d : Nat) (f : Die → Die) : (s.updDie d f).dram = s.dram := rfl
@[simp] theorem State.updDie_dirty (s : State) (d : Nat) (f : Die → Die) : (s.updDie d f).dirty = s.dirty := rfl
@[simp] theorem State.updDie_viewLines (s : State) (d : Nat) (f : Die → Die) : (s.updDie d f).viewLines = s.viewLines := rfl
@[simp] theorem State.updDie_clocks (s : State) (d : Nat) (f : Die → Die) : (s.updDie d f).clocks = s.clocks := rfl
@[simp] theorem State.updDie_times (s : State) (d : Nat) (f : Die → Die) : (s.updDie d f).times = s.times := rfl
@[simp] theorem State.updDie_homes (s : State) (d : Nat) (f : Die → Die) : (s.updDie d f).homes = s.homes := rfl
@[simp] theorem State.updDie_past (s : State) (d : Nat) (f : Die → Die) : (s.updDie d f).past = s.past := rfl
@[simp] theorem State.updDie_signals (s : State) (d : Nat) (f : Die → Die) : (s.updDie d f).signals = s.signals := rfl
@[simp] theorem State.updDie_l2s (s : State) (d : Nat) (f : Die → Die) : (s.updDie d f).l2s = s.l2s := rfl
@[simp] theorem State.updDie_copies (s : State) (d : Nat) (f : Die → Die) : (s.updDie d f).copies = s.copies := rfl
@[simp] theorem State.updDie_rdcs (s : State) (d : Nat) (f : Die → Die) : (s.updDie d f).rdcs = s.rdcs := rfl
@[simp] theorem State.updDie_tlbs (s : State) (d : Nat) (f : Die → Die) : (s.updDie d f).tlbs = s.tlbs := rfl
@[simp] theorem State.updDie_moves (s : State) (d : Nat) (f : Die → Die) : (s.updDie d f).moves = s.moves := rfl
@[simp] theorem State.updDie_dirtyGranules (s : State) (d : Nat) (f : Die → Die) : (s.updDie d f).dirtyGranules = s.dirtyGranules := rfl
@[simp] theorem State.updDie_bars (s : State) (d : Nat) (f : Die → Die) : (s.updDie d f).bars = s.bars := rfl
@[simp] theorem State.updDie_saves (s : State) (d : Nat) (f : Die → Die) : (s.updDie d f).saves = s.saves := rfl
@[simp] theorem State.updDie_flits (s : State) (d : Nat) (f : Die → Die) : (s.updDie d f).flits = s.flits := rfl
@[simp] theorem State.updDie_arrivals (s : State) (d : Nat) (f : Die → Die) : (s.updDie d f).arrivals = s.arrivals := rfl
@[simp] theorem State.updDie_taken (s : State) (d : Nat) (f : Die → Die) : (s.updDie d f).taken = s.taken := rfl
@[simp] theorem State.updDie_outbox (s : State) (d : Nat) (f : Die → Die) : (s.updDie d f).outbox = s.outbox := rfl
@[simp] theorem State.updDie_device (s : State) (d : Nat) (f : Die → Die) : (s.updDie d f).device = s.device := rfl
@[simp] theorem State.updDie_routes (s : State) (d : Nat) (f : Die → Die) : (s.updDie d f).routes = s.routes := rfl
@[simp] theorem State.updDie_ports (s : State) (d : Nat) (f : Die → Die) : (s.updDie d f).ports = s.ports := rfl
@[simp] theorem State.updDie_deadLinks (s : State) (d : Nat) (f : Die → Die) : (s.updDie d f).deadLinks = s.deadLinks := rfl
@[simp] theorem State.updDie_groups (s : State) (d : Nat) (f : Die → Die) : (s.updDie d f).groups = s.groups := rfl
@[simp] theorem State.updDie_views (s : State) (d : Nat) (f : Die → Die) : (s.updDie d f).views = s.views := rfl
@[simp] theorem State.updDie_insts (s : State) (d : Nat) (f : Die → Die) : (s.updDie d f).insts = s.insts := rfl
@[simp] theorem State.updDie_collReads (s : State) (d : Nat) (f : Die → Die) : (s.updDie d f).collReads = s.collReads := rfl
@[simp] theorem State.updDie_phaseLen (s : State) (d : Nat) (f : Die → Die) : (s.updDie d f).phaseLen = s.phaseLen := rfl
@[simp] theorem State.updDie_novenaCycle (s : State) (d : Nat) (f : Die → Die) : (s.updDie d f).novenaCycle = s.novenaCycle := rfl
@[simp] theorem State.updDie_latchedAt (s : State) (d : Nat) (f : Die → Die) : (s.updDie d f).latchedAt = s.latchedAt := rfl
@[simp] theorem State.updDie_resident (s : State) (d : Nat) (f : Die → Die) : (s.updDie d f).resident = s.resident := rfl
@[simp] theorem State.updDie_hostSide (s : State) (d : Nat) (f : Die → Die) : (s.updDie d f).hostSide = s.hostSide := rfl
@[simp] theorem State.updDie_rom (s : State) (d : Nat) (f : Die → Die) : (s.updDie d f).rom = s.rom := rfl
@[simp] theorem State.updDie_tempLimit (s : State) (d : Nat) (f : Die → Die) : (s.updDie d f).tempLimit = s.tempLimit := rfl
@[simp] theorem State.updDie_ctx_opt_at (s : State) (d : Nat) (f : Die → Die) (i : Nat) : (s.updDie d f).ctx? i = s.ctx? i := rfl
@[simp] theorem State.updDie_ctxD_at (s : State) (d : Nat) (f : Die → Die) (i : Nat) : (s.updDie d f).ctxD i = s.ctxD i := rfl
@[simp] theorem State.updDie_kernel_opt_at (s : State) (d : Nat) (f : Die → Die) (i : Nat) : (s.updDie d f).kernel? i = s.kernel? i := rfl
@[simp] theorem State.updDie_kernelD_at (s : State) (d : Nat) (f : Die → Die) (i : Nat) : (s.updDie d f).kernelD i = s.kernelD i := rfl
@[simp] theorem State.updDie_ltile_at (s : State) (d : Nat) (f : Die → Die) (i : Nat) : (s.updDie d f).ltile i = s.ltile i := rfl
@[simp] theorem State.updDie_lcore_at (s : State) (d : Nat) (f : Die → Die) (i : Nat) : (s.updDie d f).lcore i = s.lcore i := rfl
@[simp] theorem State.updDie_tile_at (s : State) (d : Nat) (f : Die → Die) (i : Nat) : (s.updDie d f).tile i = s.tile i := rfl
@[simp] theorem State.updDie_part_at (s : State) (d : Nat) (f : Die → Die) (i : Nat) : (s.updDie d f).part i = s.part i := rfl
@[simp] theorem State.updDie_ctrl_at (s : State) (d : Nat) (f : Die → Die) (i : Nat) : (s.updDie d f).ctrl i = s.ctrl i := rfl
@[simp] theorem State.updDie_clock_at (s : State) (d : Nat) (f : Die → Die) (i : Nat) : (s.updDie d f).clock i = s.clock i := rfl
/-! ## updCtrl -/

@[simp] theorem State.updCtrl_sched (s : State) (j : Nat) (f : Ctrl → Ctrl) : (s.updCtrl j f).sched = s.sched := rfl
@[simp] theorem State.updCtrl_cur (s : State) (j : Nat) (f : Ctrl → Ctrl) : (s.updCtrl j f).cur = s.cur := rfl
@[simp] theorem State.updCtrl_ev (s : State) (j : Nat) (f : Ctrl → Ctrl) : (s.updCtrl j f).ev = s.ev := rfl
@[simp] theorem State.updCtrl_free (s : State) (j : Nat) (f : Ctrl → Ctrl) : (s.updCtrl j f).free = s.free := rfl
@[simp] theorem State.updCtrl_nextId (s : State) (j : Nat) (f : Ctrl → Ctrl) : (s.updCtrl j f).nextId = s.nextId := rfl
@[simp] theorem State.updCtrl_tbase (s : State) (j : Nat) (f : Ctrl → Ctrl) : (s.updCtrl j f).tbase = s.tbase := rfl
@[simp] theorem State.updCtrl_bootAt (s : State) (j : Nat) (f : Ctrl → Ctrl) : (s.updCtrl j f).bootAt = s.bootAt := rfl
@[simp] theorem State.updCtrl_ctxs (s : State) (j : Nat) (f : Ctrl → Ctrl) : (s.updCtrl j f).ctxs = s.ctxs := rfl
@[simp] theorem State.updCtrl_kernels (s : State) (j : Nat) (f : Ctrl → Ctrl) : (s.updCtrl j f).kernels = s.kernels := rfl
@[simp] theorem State.updCtrl_ltiles (s : State) (j : Nat) (f : Ctrl → Ctrl) : (s.updCtrl j f).ltiles = s.ltiles := rfl
@[simp] theorem State.updCtrl_lcores (s : State) (j : Nat) (f : Ctrl → Ctrl) : (s.updCtrl j f).lcores = s.lcores := rfl
@[simp] theorem State.updCtrl_parts (s : State) (j : Nat) (f : Ctrl → Ctrl) : (s.updCtrl j f).parts = s.parts := rfl
@[simp] theorem State.updCtrl_tiles (s : State) (j : Nat) (f : Ctrl → Ctrl) : (s.updCtrl j f).tiles = s.tiles := rfl
@[simp] theorem State.updCtrl_dies (s : State) (j : Nat) (f : Ctrl → Ctrl) : (s.updCtrl j f).dies = s.dies := rfl
@[simp] theorem State.updCtrl_glob (s : State) (j : Nat) (f : Ctrl → Ctrl) : (s.updCtrl j f).glob = s.glob := rfl
@[simp] theorem State.updCtrl_dram (s : State) (j : Nat) (f : Ctrl → Ctrl) : (s.updCtrl j f).dram = s.dram := rfl
@[simp] theorem State.updCtrl_dirty (s : State) (j : Nat) (f : Ctrl → Ctrl) : (s.updCtrl j f).dirty = s.dirty := rfl
@[simp] theorem State.updCtrl_viewLines (s : State) (j : Nat) (f : Ctrl → Ctrl) : (s.updCtrl j f).viewLines = s.viewLines := rfl
@[simp] theorem State.updCtrl_clocks (s : State) (j : Nat) (f : Ctrl → Ctrl) : (s.updCtrl j f).clocks = s.clocks := rfl
@[simp] theorem State.updCtrl_times (s : State) (j : Nat) (f : Ctrl → Ctrl) : (s.updCtrl j f).times = s.times := rfl
@[simp] theorem State.updCtrl_homes (s : State) (j : Nat) (f : Ctrl → Ctrl) : (s.updCtrl j f).homes = s.homes := rfl
@[simp] theorem State.updCtrl_past (s : State) (j : Nat) (f : Ctrl → Ctrl) : (s.updCtrl j f).past = s.past := rfl
@[simp] theorem State.updCtrl_signals (s : State) (j : Nat) (f : Ctrl → Ctrl) : (s.updCtrl j f).signals = s.signals := rfl
@[simp] theorem State.updCtrl_l2s (s : State) (j : Nat) (f : Ctrl → Ctrl) : (s.updCtrl j f).l2s = s.l2s := rfl
@[simp] theorem State.updCtrl_copies (s : State) (j : Nat) (f : Ctrl → Ctrl) : (s.updCtrl j f).copies = s.copies := rfl
@[simp] theorem State.updCtrl_rdcs (s : State) (j : Nat) (f : Ctrl → Ctrl) : (s.updCtrl j f).rdcs = s.rdcs := rfl
@[simp] theorem State.updCtrl_tlbs (s : State) (j : Nat) (f : Ctrl → Ctrl) : (s.updCtrl j f).tlbs = s.tlbs := rfl
@[simp] theorem State.updCtrl_moves (s : State) (j : Nat) (f : Ctrl → Ctrl) : (s.updCtrl j f).moves = s.moves := rfl
@[simp] theorem State.updCtrl_dirtyGranules (s : State) (j : Nat) (f : Ctrl → Ctrl) : (s.updCtrl j f).dirtyGranules = s.dirtyGranules := rfl
@[simp] theorem State.updCtrl_bars (s : State) (j : Nat) (f : Ctrl → Ctrl) : (s.updCtrl j f).bars = s.bars := rfl
@[simp] theorem State.updCtrl_saves (s : State) (j : Nat) (f : Ctrl → Ctrl) : (s.updCtrl j f).saves = s.saves := rfl
@[simp] theorem State.updCtrl_flits (s : State) (j : Nat) (f : Ctrl → Ctrl) : (s.updCtrl j f).flits = s.flits := rfl
@[simp] theorem State.updCtrl_arrivals (s : State) (j : Nat) (f : Ctrl → Ctrl) : (s.updCtrl j f).arrivals = s.arrivals := rfl
@[simp] theorem State.updCtrl_taken (s : State) (j : Nat) (f : Ctrl → Ctrl) : (s.updCtrl j f).taken = s.taken := rfl
@[simp] theorem State.updCtrl_outbox (s : State) (j : Nat) (f : Ctrl → Ctrl) : (s.updCtrl j f).outbox = s.outbox := rfl
@[simp] theorem State.updCtrl_device (s : State) (j : Nat) (f : Ctrl → Ctrl) : (s.updCtrl j f).device = s.device := rfl
@[simp] theorem State.updCtrl_routes (s : State) (j : Nat) (f : Ctrl → Ctrl) : (s.updCtrl j f).routes = s.routes := rfl
@[simp] theorem State.updCtrl_ports (s : State) (j : Nat) (f : Ctrl → Ctrl) : (s.updCtrl j f).ports = s.ports := rfl
@[simp] theorem State.updCtrl_deadLinks (s : State) (j : Nat) (f : Ctrl → Ctrl) : (s.updCtrl j f).deadLinks = s.deadLinks := rfl
@[simp] theorem State.updCtrl_groups (s : State) (j : Nat) (f : Ctrl → Ctrl) : (s.updCtrl j f).groups = s.groups := rfl
@[simp] theorem State.updCtrl_views (s : State) (j : Nat) (f : Ctrl → Ctrl) : (s.updCtrl j f).views = s.views := rfl
@[simp] theorem State.updCtrl_insts (s : State) (j : Nat) (f : Ctrl → Ctrl) : (s.updCtrl j f).insts = s.insts := rfl
@[simp] theorem State.updCtrl_collReads (s : State) (j : Nat) (f : Ctrl → Ctrl) : (s.updCtrl j f).collReads = s.collReads := rfl
@[simp] theorem State.updCtrl_phaseLen (s : State) (j : Nat) (f : Ctrl → Ctrl) : (s.updCtrl j f).phaseLen = s.phaseLen := rfl
@[simp] theorem State.updCtrl_novenaCycle (s : State) (j : Nat) (f : Ctrl → Ctrl) : (s.updCtrl j f).novenaCycle = s.novenaCycle := rfl
@[simp] theorem State.updCtrl_latchedAt (s : State) (j : Nat) (f : Ctrl → Ctrl) : (s.updCtrl j f).latchedAt = s.latchedAt := rfl
@[simp] theorem State.updCtrl_resident (s : State) (j : Nat) (f : Ctrl → Ctrl) : (s.updCtrl j f).resident = s.resident := rfl
@[simp] theorem State.updCtrl_hostSide (s : State) (j : Nat) (f : Ctrl → Ctrl) : (s.updCtrl j f).hostSide = s.hostSide := rfl
@[simp] theorem State.updCtrl_rom (s : State) (j : Nat) (f : Ctrl → Ctrl) : (s.updCtrl j f).rom = s.rom := rfl
@[simp] theorem State.updCtrl_tempLimit (s : State) (j : Nat) (f : Ctrl → Ctrl) : (s.updCtrl j f).tempLimit = s.tempLimit := rfl
@[simp] theorem State.updCtrl_ctx_opt_at (s : State) (j : Nat) (f : Ctrl → Ctrl) (i : Nat) : (s.updCtrl j f).ctx? i = s.ctx? i := rfl
@[simp] theorem State.updCtrl_ctxD_at (s : State) (j : Nat) (f : Ctrl → Ctrl) (i : Nat) : (s.updCtrl j f).ctxD i = s.ctxD i := rfl
@[simp] theorem State.updCtrl_kernel_opt_at (s : State) (j : Nat) (f : Ctrl → Ctrl) (i : Nat) : (s.updCtrl j f).kernel? i = s.kernel? i := rfl
@[simp] theorem State.updCtrl_kernelD_at (s : State) (j : Nat) (f : Ctrl → Ctrl) (i : Nat) : (s.updCtrl j f).kernelD i = s.kernelD i := rfl
@[simp] theorem State.updCtrl_ltile_at (s : State) (j : Nat) (f : Ctrl → Ctrl) (i : Nat) : (s.updCtrl j f).ltile i = s.ltile i := rfl
@[simp] theorem State.updCtrl_lcore_at (s : State) (j : Nat) (f : Ctrl → Ctrl) (i : Nat) : (s.updCtrl j f).lcore i = s.lcore i := rfl
@[simp] theorem State.updCtrl_tile_at (s : State) (j : Nat) (f : Ctrl → Ctrl) (i : Nat) : (s.updCtrl j f).tile i = s.tile i := rfl
@[simp] theorem State.updCtrl_part_at (s : State) (j : Nat) (f : Ctrl → Ctrl) (i : Nat) : (s.updCtrl j f).part i = s.part i := rfl
@[simp] theorem State.updCtrl_die_at (s : State) (j : Nat) (f : Ctrl → Ctrl) (i : Nat) : (s.updCtrl j f).die i = s.die i := rfl
@[simp] theorem State.updCtrl_clock_at (s : State) (j : Nat) (f : Ctrl → Ctrl) (i : Nat) : (s.updCtrl j f).clock i = s.clock i := rfl
/-! ## updAll -/

@[simp] theorem State.updAll_sched (s : State) (p : Ctx → Bool) (f : Ctx → Ctx) : (s.updAll p f).sched = s.sched := rfl
@[simp] theorem State.updAll_cur (s : State) (p : Ctx → Bool) (f : Ctx → Ctx) : (s.updAll p f).cur = s.cur := rfl
@[simp] theorem State.updAll_ev (s : State) (p : Ctx → Bool) (f : Ctx → Ctx) : (s.updAll p f).ev = s.ev := rfl
@[simp] theorem State.updAll_free (s : State) (p : Ctx → Bool) (f : Ctx → Ctx) : (s.updAll p f).free = s.free := rfl
@[simp] theorem State.updAll_nextId (s : State) (p : Ctx → Bool) (f : Ctx → Ctx) : (s.updAll p f).nextId = s.nextId := rfl
@[simp] theorem State.updAll_tbase (s : State) (p : Ctx → Bool) (f : Ctx → Ctx) : (s.updAll p f).tbase = s.tbase := rfl
@[simp] theorem State.updAll_bootAt (s : State) (p : Ctx → Bool) (f : Ctx → Ctx) : (s.updAll p f).bootAt = s.bootAt := rfl
@[simp] theorem State.updAll_kernels (s : State) (p : Ctx → Bool) (f : Ctx → Ctx) : (s.updAll p f).kernels = s.kernels := rfl
@[simp] theorem State.updAll_ltiles (s : State) (p : Ctx → Bool) (f : Ctx → Ctx) : (s.updAll p f).ltiles = s.ltiles := rfl
@[simp] theorem State.updAll_lcores (s : State) (p : Ctx → Bool) (f : Ctx → Ctx) : (s.updAll p f).lcores = s.lcores := rfl
@[simp] theorem State.updAll_parts (s : State) (p : Ctx → Bool) (f : Ctx → Ctx) : (s.updAll p f).parts = s.parts := rfl
@[simp] theorem State.updAll_tiles (s : State) (p : Ctx → Bool) (f : Ctx → Ctx) : (s.updAll p f).tiles = s.tiles := rfl
@[simp] theorem State.updAll_dies (s : State) (p : Ctx → Bool) (f : Ctx → Ctx) : (s.updAll p f).dies = s.dies := rfl
@[simp] theorem State.updAll_ctrls (s : State) (p : Ctx → Bool) (f : Ctx → Ctx) : (s.updAll p f).ctrls = s.ctrls := rfl
@[simp] theorem State.updAll_glob (s : State) (p : Ctx → Bool) (f : Ctx → Ctx) : (s.updAll p f).glob = s.glob := rfl
@[simp] theorem State.updAll_dram (s : State) (p : Ctx → Bool) (f : Ctx → Ctx) : (s.updAll p f).dram = s.dram := rfl
@[simp] theorem State.updAll_dirty (s : State) (p : Ctx → Bool) (f : Ctx → Ctx) : (s.updAll p f).dirty = s.dirty := rfl
@[simp] theorem State.updAll_viewLines (s : State) (p : Ctx → Bool) (f : Ctx → Ctx) : (s.updAll p f).viewLines = s.viewLines := rfl
@[simp] theorem State.updAll_clocks (s : State) (p : Ctx → Bool) (f : Ctx → Ctx) : (s.updAll p f).clocks = s.clocks := rfl
@[simp] theorem State.updAll_times (s : State) (p : Ctx → Bool) (f : Ctx → Ctx) : (s.updAll p f).times = s.times := rfl
@[simp] theorem State.updAll_homes (s : State) (p : Ctx → Bool) (f : Ctx → Ctx) : (s.updAll p f).homes = s.homes := rfl
@[simp] theorem State.updAll_past (s : State) (p : Ctx → Bool) (f : Ctx → Ctx) : (s.updAll p f).past = s.past := rfl
@[simp] theorem State.updAll_signals (s : State) (p : Ctx → Bool) (f : Ctx → Ctx) : (s.updAll p f).signals = s.signals := rfl
@[simp] theorem State.updAll_l2s (s : State) (p : Ctx → Bool) (f : Ctx → Ctx) : (s.updAll p f).l2s = s.l2s := rfl
@[simp] theorem State.updAll_copies (s : State) (p : Ctx → Bool) (f : Ctx → Ctx) : (s.updAll p f).copies = s.copies := rfl
@[simp] theorem State.updAll_rdcs (s : State) (p : Ctx → Bool) (f : Ctx → Ctx) : (s.updAll p f).rdcs = s.rdcs := rfl
@[simp] theorem State.updAll_tlbs (s : State) (p : Ctx → Bool) (f : Ctx → Ctx) : (s.updAll p f).tlbs = s.tlbs := rfl
@[simp] theorem State.updAll_moves (s : State) (p : Ctx → Bool) (f : Ctx → Ctx) : (s.updAll p f).moves = s.moves := rfl
@[simp] theorem State.updAll_dirtyGranules (s : State) (p : Ctx → Bool) (f : Ctx → Ctx) : (s.updAll p f).dirtyGranules = s.dirtyGranules := rfl
@[simp] theorem State.updAll_bars (s : State) (p : Ctx → Bool) (f : Ctx → Ctx) : (s.updAll p f).bars = s.bars := rfl
@[simp] theorem State.updAll_saves (s : State) (p : Ctx → Bool) (f : Ctx → Ctx) : (s.updAll p f).saves = s.saves := rfl
@[simp] theorem State.updAll_flits (s : State) (p : Ctx → Bool) (f : Ctx → Ctx) : (s.updAll p f).flits = s.flits := rfl
@[simp] theorem State.updAll_arrivals (s : State) (p : Ctx → Bool) (f : Ctx → Ctx) : (s.updAll p f).arrivals = s.arrivals := rfl
@[simp] theorem State.updAll_taken (s : State) (p : Ctx → Bool) (f : Ctx → Ctx) : (s.updAll p f).taken = s.taken := rfl
@[simp] theorem State.updAll_outbox (s : State) (p : Ctx → Bool) (f : Ctx → Ctx) : (s.updAll p f).outbox = s.outbox := rfl
@[simp] theorem State.updAll_device (s : State) (p : Ctx → Bool) (f : Ctx → Ctx) : (s.updAll p f).device = s.device := rfl
@[simp] theorem State.updAll_routes (s : State) (p : Ctx → Bool) (f : Ctx → Ctx) : (s.updAll p f).routes = s.routes := rfl
@[simp] theorem State.updAll_ports (s : State) (p : Ctx → Bool) (f : Ctx → Ctx) : (s.updAll p f).ports = s.ports := rfl
@[simp] theorem State.updAll_deadLinks (s : State) (p : Ctx → Bool) (f : Ctx → Ctx) : (s.updAll p f).deadLinks = s.deadLinks := rfl
@[simp] theorem State.updAll_groups (s : State) (p : Ctx → Bool) (f : Ctx → Ctx) : (s.updAll p f).groups = s.groups := rfl
@[simp] theorem State.updAll_views (s : State) (p : Ctx → Bool) (f : Ctx → Ctx) : (s.updAll p f).views = s.views := rfl
@[simp] theorem State.updAll_insts (s : State) (p : Ctx → Bool) (f : Ctx → Ctx) : (s.updAll p f).insts = s.insts := rfl
@[simp] theorem State.updAll_collReads (s : State) (p : Ctx → Bool) (f : Ctx → Ctx) : (s.updAll p f).collReads = s.collReads := rfl
@[simp] theorem State.updAll_phaseLen (s : State) (p : Ctx → Bool) (f : Ctx → Ctx) : (s.updAll p f).phaseLen = s.phaseLen := rfl
@[simp] theorem State.updAll_novenaCycle (s : State) (p : Ctx → Bool) (f : Ctx → Ctx) : (s.updAll p f).novenaCycle = s.novenaCycle := rfl
@[simp] theorem State.updAll_latchedAt (s : State) (p : Ctx → Bool) (f : Ctx → Ctx) : (s.updAll p f).latchedAt = s.latchedAt := rfl
@[simp] theorem State.updAll_resident (s : State) (p : Ctx → Bool) (f : Ctx → Ctx) : (s.updAll p f).resident = s.resident := rfl
@[simp] theorem State.updAll_hostSide (s : State) (p : Ctx → Bool) (f : Ctx → Ctx) : (s.updAll p f).hostSide = s.hostSide := rfl
@[simp] theorem State.updAll_rom (s : State) (p : Ctx → Bool) (f : Ctx → Ctx) : (s.updAll p f).rom = s.rom := rfl
@[simp] theorem State.updAll_tempLimit (s : State) (p : Ctx → Bool) (f : Ctx → Ctx) : (s.updAll p f).tempLimit = s.tempLimit := rfl
@[simp] theorem State.updAll_kernel_opt_at (s : State) (p : Ctx → Bool) (f : Ctx → Ctx) (i : Nat) : (s.updAll p f).kernel? i = s.kernel? i := rfl
@[simp] theorem State.updAll_kernelD_at (s : State) (p : Ctx → Bool) (f : Ctx → Ctx) (i : Nat) : (s.updAll p f).kernelD i = s.kernelD i := rfl
@[simp] theorem State.updAll_ltile_at (s : State) (p : Ctx → Bool) (f : Ctx → Ctx) (i : Nat) : (s.updAll p f).ltile i = s.ltile i := rfl
@[simp] theorem State.updAll_lcore_at (s : State) (p : Ctx → Bool) (f : Ctx → Ctx) (i : Nat) : (s.updAll p f).lcore i = s.lcore i := rfl
@[simp] theorem State.updAll_tile_at (s : State) (p : Ctx → Bool) (f : Ctx → Ctx) (i : Nat) : (s.updAll p f).tile i = s.tile i := rfl
@[simp] theorem State.updAll_part_at (s : State) (p : Ctx → Bool) (f : Ctx → Ctx) (i : Nat) : (s.updAll p f).part i = s.part i := rfl
@[simp] theorem State.updAll_die_at (s : State) (p : Ctx → Bool) (f : Ctx → Ctx) (i : Nat) : (s.updAll p f).die i = s.die i := rfl
@[simp] theorem State.updAll_ctrl_at (s : State) (p : Ctx → Bool) (f : Ctx → Ctx) (i : Nat) : (s.updAll p f).ctrl i = s.ctrl i := rfl
@[simp] theorem State.updAll_clock_at (s : State) (p : Ctx → Bool) (f : Ctx → Ctx) (i : Nat) : (s.updAll p f).clock i = s.clock i := rfl
/-! ## setT -/

@[simp] theorem State.setT_sched (s : State) (n : Nat) (t : BitVec 48) : (s.setT n t).sched = s.sched := rfl
@[simp] theorem State.setT_cur (s : State) (n : Nat) (t : BitVec 48) : (s.setT n t).cur = s.cur := rfl
@[simp] theorem State.setT_ev (s : State) (n : Nat) (t : BitVec 48) : (s.setT n t).ev = s.ev := rfl
@[simp] theorem State.setT_free (s : State) (n : Nat) (t : BitVec 48) : (s.setT n t).free = s.free := rfl
@[simp] theorem State.setT_nextId (s : State) (n : Nat) (t : BitVec 48) : (s.setT n t).nextId = s.nextId := rfl
@[simp] theorem State.setT_tbase (s : State) (n : Nat) (t : BitVec 48) : (s.setT n t).tbase = s.tbase := rfl
@[simp] theorem State.setT_bootAt (s : State) (n : Nat) (t : BitVec 48) : (s.setT n t).bootAt = s.bootAt := rfl
@[simp] theorem State.setT_ctxs (s : State) (n : Nat) (t : BitVec 48) : (s.setT n t).ctxs = s.ctxs := rfl
@[simp] theorem State.setT_kernels (s : State) (n : Nat) (t : BitVec 48) : (s.setT n t).kernels = s.kernels := rfl
@[simp] theorem State.setT_ltiles (s : State) (n : Nat) (t : BitVec 48) : (s.setT n t).ltiles = s.ltiles := rfl
@[simp] theorem State.setT_lcores (s : State) (n : Nat) (t : BitVec 48) : (s.setT n t).lcores = s.lcores := rfl
@[simp] theorem State.setT_parts (s : State) (n : Nat) (t : BitVec 48) : (s.setT n t).parts = s.parts := rfl
@[simp] theorem State.setT_tiles (s : State) (n : Nat) (t : BitVec 48) : (s.setT n t).tiles = s.tiles := rfl
@[simp] theorem State.setT_dies (s : State) (n : Nat) (t : BitVec 48) : (s.setT n t).dies = s.dies := rfl
@[simp] theorem State.setT_ctrls (s : State) (n : Nat) (t : BitVec 48) : (s.setT n t).ctrls = s.ctrls := rfl
@[simp] theorem State.setT_glob (s : State) (n : Nat) (t : BitVec 48) : (s.setT n t).glob = s.glob := rfl
@[simp] theorem State.setT_dram (s : State) (n : Nat) (t : BitVec 48) : (s.setT n t).dram = s.dram := rfl
@[simp] theorem State.setT_dirty (s : State) (n : Nat) (t : BitVec 48) : (s.setT n t).dirty = s.dirty := rfl
@[simp] theorem State.setT_viewLines (s : State) (n : Nat) (t : BitVec 48) : (s.setT n t).viewLines = s.viewLines := rfl
@[simp] theorem State.setT_times (s : State) (n : Nat) (t : BitVec 48) : (s.setT n t).times = s.times := rfl
@[simp] theorem State.setT_homes (s : State) (n : Nat) (t : BitVec 48) : (s.setT n t).homes = s.homes := rfl
@[simp] theorem State.setT_past (s : State) (n : Nat) (t : BitVec 48) : (s.setT n t).past = s.past := rfl
@[simp] theorem State.setT_signals (s : State) (n : Nat) (t : BitVec 48) : (s.setT n t).signals = s.signals := rfl
@[simp] theorem State.setT_l2s (s : State) (n : Nat) (t : BitVec 48) : (s.setT n t).l2s = s.l2s := rfl
@[simp] theorem State.setT_copies (s : State) (n : Nat) (t : BitVec 48) : (s.setT n t).copies = s.copies := rfl
@[simp] theorem State.setT_rdcs (s : State) (n : Nat) (t : BitVec 48) : (s.setT n t).rdcs = s.rdcs := rfl
@[simp] theorem State.setT_tlbs (s : State) (n : Nat) (t : BitVec 48) : (s.setT n t).tlbs = s.tlbs := rfl
@[simp] theorem State.setT_moves (s : State) (n : Nat) (t : BitVec 48) : (s.setT n t).moves = s.moves := rfl
@[simp] theorem State.setT_dirtyGranules (s : State) (n : Nat) (t : BitVec 48) : (s.setT n t).dirtyGranules = s.dirtyGranules := rfl
@[simp] theorem State.setT_bars (s : State) (n : Nat) (t : BitVec 48) : (s.setT n t).bars = s.bars := rfl
@[simp] theorem State.setT_saves (s : State) (n : Nat) (t : BitVec 48) : (s.setT n t).saves = s.saves := rfl
@[simp] theorem State.setT_flits (s : State) (n : Nat) (t : BitVec 48) : (s.setT n t).flits = s.flits := rfl
@[simp] theorem State.setT_arrivals (s : State) (n : Nat) (t : BitVec 48) : (s.setT n t).arrivals = s.arrivals := rfl
@[simp] theorem State.setT_taken (s : State) (n : Nat) (t : BitVec 48) : (s.setT n t).taken = s.taken := rfl
@[simp] theorem State.setT_outbox (s : State) (n : Nat) (t : BitVec 48) : (s.setT n t).outbox = s.outbox := rfl
@[simp] theorem State.setT_device (s : State) (n : Nat) (t : BitVec 48) : (s.setT n t).device = s.device := rfl
@[simp] theorem State.setT_routes (s : State) (n : Nat) (t : BitVec 48) : (s.setT n t).routes = s.routes := rfl
@[simp] theorem State.setT_ports (s : State) (n : Nat) (t : BitVec 48) : (s.setT n t).ports = s.ports := rfl
@[simp] theorem State.setT_deadLinks (s : State) (n : Nat) (t : BitVec 48) : (s.setT n t).deadLinks = s.deadLinks := rfl
@[simp] theorem State.setT_groups (s : State) (n : Nat) (t : BitVec 48) : (s.setT n t).groups = s.groups := rfl
@[simp] theorem State.setT_views (s : State) (n : Nat) (t : BitVec 48) : (s.setT n t).views = s.views := rfl
@[simp] theorem State.setT_insts (s : State) (n : Nat) (t : BitVec 48) : (s.setT n t).insts = s.insts := rfl
@[simp] theorem State.setT_collReads (s : State) (n : Nat) (t : BitVec 48) : (s.setT n t).collReads = s.collReads := rfl
@[simp] theorem State.setT_phaseLen (s : State) (n : Nat) (t : BitVec 48) : (s.setT n t).phaseLen = s.phaseLen := rfl
@[simp] theorem State.setT_novenaCycle (s : State) (n : Nat) (t : BitVec 48) : (s.setT n t).novenaCycle = s.novenaCycle := rfl
@[simp] theorem State.setT_latchedAt (s : State) (n : Nat) (t : BitVec 48) : (s.setT n t).latchedAt = s.latchedAt := rfl
@[simp] theorem State.setT_resident (s : State) (n : Nat) (t : BitVec 48) : (s.setT n t).resident = s.resident := rfl
@[simp] theorem State.setT_hostSide (s : State) (n : Nat) (t : BitVec 48) : (s.setT n t).hostSide = s.hostSide := rfl
@[simp] theorem State.setT_rom (s : State) (n : Nat) (t : BitVec 48) : (s.setT n t).rom = s.rom := rfl
@[simp] theorem State.setT_tempLimit (s : State) (n : Nat) (t : BitVec 48) : (s.setT n t).tempLimit = s.tempLimit := rfl
@[simp] theorem State.setT_ctx_opt_at (s : State) (n : Nat) (t : BitVec 48) (i : Nat) : (s.setT n t).ctx? i = s.ctx? i := rfl
@[simp] theorem State.setT_ctxD_at (s : State) (n : Nat) (t : BitVec 48) (i : Nat) : (s.setT n t).ctxD i = s.ctxD i := rfl
@[simp] theorem State.setT_kernel_opt_at (s : State) (n : Nat) (t : BitVec 48) (i : Nat) : (s.setT n t).kernel? i = s.kernel? i := rfl
@[simp] theorem State.setT_kernelD_at (s : State) (n : Nat) (t : BitVec 48) (i : Nat) : (s.setT n t).kernelD i = s.kernelD i := rfl
@[simp] theorem State.setT_ltile_at (s : State) (n : Nat) (t : BitVec 48) (i : Nat) : (s.setT n t).ltile i = s.ltile i := rfl
@[simp] theorem State.setT_lcore_at (s : State) (n : Nat) (t : BitVec 48) (i : Nat) : (s.setT n t).lcore i = s.lcore i := rfl
@[simp] theorem State.setT_tile_at (s : State) (n : Nat) (t : BitVec 48) (i : Nat) : (s.setT n t).tile i = s.tile i := rfl
@[simp] theorem State.setT_part_at (s : State) (n : Nat) (t : BitVec 48) (i : Nat) : (s.setT n t).part i = s.part i := rfl
@[simp] theorem State.setT_die_at (s : State) (n : Nat) (t : BitVec 48) (i : Nat) : (s.setT n t).die i = s.die i := rfl
@[simp] theorem State.setT_ctrl_at (s : State) (n : Nat) (t : BitVec 48) (i : Nat) : (s.setT n t).ctrl i = s.ctrl i := rfl

/-! ## The object that an update changes, and the others of its kind -/

theorem State.updLt_self (s : State) (k : Nat) (f : LTile → LTile) : (s.updLt k f).ltile k = f (s.ltile k) := by
  simp [State.updLt, State.ltile]
theorem State.updLt_other (s : State) (k i : Nat) (f : LTile → LTile) (h : i ≠ k) : (s.updLt k f).ltile i = s.ltile i := by
  simp [State.updLt, State.ltile, Laws.mgetD_mset_ne _ _ _ _ _ h]
theorem State.updLc_self (s : State) (k : Nat) (f : LCore → LCore) : (s.updLc k f).lcore k = f (s.lcore k) := by
  simp [State.updLc, State.lcore]
theorem State.updLc_other (s : State) (k i : Nat) (f : LCore → LCore) (h : i ≠ k) : (s.updLc k f).lcore i = s.lcore i := by
  simp [State.updLc, State.lcore, Laws.mgetD_mset_ne _ _ _ _ _ h]
theorem State.updTile_self (s : State) (k : Nat) (f : Tile → Tile) : (s.updTile k f).tile k = f (s.tile k) := by
  simp [State.updTile, State.tile]
theorem State.updTile_other (s : State) (k i : Nat) (f : Tile → Tile) (h : i ≠ k) : (s.updTile k f).tile i = s.tile i := by
  simp [State.updTile, State.tile, Laws.mgetD_mset_ne _ _ _ _ _ h]
theorem State.updPart_self (s : State) (k : Nat) (f : Partition → Partition) : (s.updPart k f).part k = f (s.part k) := by
  simp [State.updPart, State.part]
theorem State.updPart_other (s : State) (k i : Nat) (f : Partition → Partition) (h : i ≠ k) : (s.updPart k f).part i = s.part i := by
  simp [State.updPart, State.part, Laws.mgetD_mset_ne _ _ _ _ _ h]
theorem State.updDie_self (s : State) (k : Nat) (f : Die → Die) : (s.updDie k f).die k = f (s.die k) := by
  simp [State.updDie, State.die]
theorem State.updDie_other (s : State) (k i : Nat) (f : Die → Die) (h : i ≠ k) : (s.updDie k f).die i = s.die i := by
  simp [State.updDie, State.die, Laws.mgetD_mset_ne _ _ _ _ _ h]
theorem State.updCtrl_self (s : State) (k : Nat) (f : Ctrl → Ctrl) : (s.updCtrl k f).ctrl k = f (s.ctrl k) := by
  simp [State.updCtrl, State.ctrl]
theorem State.updCtrl_other (s : State) (k i : Nat) (f : Ctrl → Ctrl) (h : i ≠ k) : (s.updCtrl k f).ctrl i = s.ctrl i := by
  simp [State.updCtrl, State.ctrl, Laws.mgetD_mset_ne _ _ _ _ _ h]
/-- A clock that has been brought up to the time stays as it is, whatever it is set to. -/
theorem Clock.upTo_set (c : Clock) (now : Nat) (t : BitVec 48) : Clock.upTo { c.upTo now with t := t } now = { c.upTo now with t := t } := by
  unfold Clock.upTo
  split
  · simp [*]
  · have h : (now - (c.tickAt + (now - c.tickAt) / 256 * 256)) / 256 = 0 := by omega
    simp [*]
theorem Clock.upTo_upTo (c : Clock) (now : Nat) : (c.upTo now).upTo now = c.upTo now := Clock.upTo_set c now (c.upTo now).t
theorem State.setT_self (s : State) (n : Nat) (t : BitVec 48) : (s.setT n t).clock n = { s.clock n with t := t } := by
  simp [State.setT, State.clock, Clock.upTo_set]
theorem State.setT_other (s : State) (n i : Nat) (t : BitVec 48) (h : i ≠ n) : (s.setT n t).clock i = s.clock i := by
  simp [State.setT, State.clock, Laws.mgetD_mset_ne _ _ _ _ _ h]
theorem State.upd_self (s : State) (id : Nat) (f : Ctx → Ctx) : (s.upd id f).ctx? id = (s.ctx? id).map f := by
  cases h : s.ctx? id with
  | none => simp [State.upd, h]
  | some c => simp only [State.upd, h]; simp [State.ctx?]
theorem State.upd_other (s : State) (id i : Nat) (f : Ctx → Ctx) (h : i ≠ id) : (s.upd id f).ctx? i = s.ctx? i := by
  unfold State.upd; split
  · simp [State.ctx?, Laws.mget_mset_ne _ _ _ _ h]
  · rfl
theorem State.updK_self (s : State) (k : Nat) (f : Kernel → Kernel) : (s.updK k f).kernel? k = (s.kernel? k).map f := by
  cases h : s.kernel? k with
  | none => simp [State.updK, h]
  | some c => simp only [State.updK, h]; simp [State.kernel?]
theorem State.updK_other (s : State) (k i : Nat) (f : Kernel → Kernel) (h : i ≠ k) : (s.updK k f).kernel? i = s.kernel? i := by
  unfold State.updK; split
  · simp [State.kernel?, Laws.mget_mset_ne _ _ _ _ h]
  · rfl
/-- What `upd` does to a context that exists, as one state. -/
theorem State.upd_eq (s : State) (id : Nat) (c : Ctx) (f : Ctx → Ctx) (h : s.ctx? id = some c) :
    s.upd id f = { s with ctxs := mset id (f c) s.ctxs } := by
  simp [State.upd, h]
theorem State.ctxD_eq (s : State) (id : Nat) (c : Ctx) (h : s.ctx? id = some c) : s.ctxD id = c := by
  simp only [State.ctx?] at h
  simp [State.ctxD, mgetD, h]

end Sys2Proof.Machine
end

