-- ==== Sys2Proof/Laws/Strand.lean ====
section
/-! SUPPORT. What a strand's instruction does before and at its end: everything that `strandOp`, `guard`, completing and parking can do. -/

namespace Sys2Proof.Laws

open Sys2Proof Sys2Proof.Machine

/-- A strand's instruction answers the fault only when no context issues; else a next state. -/
theorem strandOp_cases (s : State) (i : Instr) (f : Nat → Ctx → State) :
    (strandOp s i f = .fault .noIssuingStrand ∧ (s.cur = none ∨ ∃ id, s.cur = some id ∧ s.ctx? id = none)) ∨
    ∃ id c, s.cur = some id ∧ s.ctx? id = some c ∧ strandOp s i f = .next (s.guard id i (f id c)) := by
  unfold strandOp
  cases h : s.cur with
  | none => exact .inl ⟨rfl, .inl rfl⟩
  | some id =>
    cases h' : s.ctx? id with
    | none => exact .inl ⟨by simp [h'], .inr ⟨id, rfl, h'⟩⟩
    | some c => exact .inr ⟨id, c, rfl, h', by simp [h']⟩

/-- What stands before an effect: PRIV, a refusal of a chain stage, shipping home, a pending register, or nothing. -/
theorem guard_cases (s : State) (id : Nat) (i : Instr) (k : State) :
    (supervisorOnly i = true ∧ s.isSupervisor (s.ctxD id) = false ∧ s.guard id i k = s.trap id cPriv 0#64) ∨
    (isPref i = true ∧ s.guard id i k = k) ∨
    (∃ info, (s.ctxD id).stage.isSome = true ∧ stageRefusal i = some info ∧ s.guard id i k = s.trap id cChainForm info) ∨
    ((s.ctxD id).shipped.isSome = true ∧ homeFirst i = true ∧ s.guard id i k = s.goHome id i) ∨
    (∃ p, (s.ctxD id).pendingOf i = some p ∧ p.refused = true ∧ s.guard id i k = s.reportNack id) ∨
    (∃ p, (s.ctxD id).pendingOf i = some p ∧ p.refused = false ∧ s.guard id i k = s.park id i (.pendReg p.d)) ∨
    ((s.ctxD id).pendingOf i = none ∧ s.guard id i k = k) := by
  unfold State.guard
  simp only
  by_cases h0 : (supervisorOnly i && !s.isSupervisor (s.ctxD id)) = true
  · rw [if_pos h0]
    rw [Bool.and_eq_true, Bool.not_eq_true'] at h0
    exact .inl ⟨h0.1, h0.2, rfl⟩
  rw [if_neg h0]
  by_cases h1 : isPref i = true
  · exact .inr (.inl ⟨h1, if_pos h1⟩)
  rw [if_neg h1]
  refine .inr (.inr ?_)
  split
  · rename_i info h
    by_cases hs : (s.ctxD id).stage.isSome
    · rw [if_pos hs] at h
      exact .inl ⟨info, hs, h, rfl⟩
    · rw [if_neg hs] at h; cases h
  · by_cases hh : ((s.ctxD id).shipped.isSome && homeFirst i) = true
    · rw [if_pos hh]
      rw [Bool.and_eq_true] at hh
      exact .inr (.inl ⟨hh.1, hh.2, rfl⟩)
    · rw [if_neg hh]
      cases hp : (s.ctxD id).pendingOf i with
      | none => exact .inr (.inr (.inr (.inr ⟨rfl, by simp⟩)))
      | some p =>
        cases hr : p.refused with
        | true => exact .inr (.inr (.inl ⟨p, rfl, hr, by simp [hr]⟩))
        | false => exact .inr (.inr (.inr (.inl ⟨p, rfl, hr, by simp [hr]⟩)))

/-- When nothing stands before its effect, an instruction has it. -/
theorem strandOp_runs (s : State) (id : Nat) (c : Ctx) (i : Instr) (f : Nat → Ctx → State) (h1 : s.cur = some id)
    (h2 : s.ctx? id = some c) (h0 : supervisorOnly i = true → s.isSupervisor c = true) (h3 : c.stage.isSome = true → stageRefusal i = none)
    (h4 : c.shipped.isSome = true → homeFirst i = false) (h5 : c.pendingOf i = none) : strandOp s i f = .next (f id c) := by
  have hc := State.ctxD_eq s id c h2
  unfold strandOp State.guard
  simp only [h1, h2, hc, h5]
  have hp : (supervisorOnly i && !s.isSupervisor c) = false := by
    cases hi : supervisorOnly i with
    | true => simp [h0 hi]
    | false => rfl
  rw [hp]
  by_cases hs : c.stage.isSome <;> by_cases hh : c.shipped.isSome <;> simp_all

theorem finishG_eq (s : State) (id : Nat) (c : Ctx) (d : Reg) (v : Word) (len : Nat) (h : s.ctx? id = some c) :
    s.finishG id d v len = { s with ctxs := mset id ((c.setG d v).retired (c.pc + w64 len)) s.ctxs } :=
  State.upd_eq s id c _ h
theorem advance_eq (s : State) (id : Nat) (c : Ctx) (len : Nat) (h : s.ctx? id = some c) :
    s.advance id len = { s with ctxs := mset id (c.retired (c.pc + w64 len)) s.ctxs } := State.upd_eq s id c _ h
theorem retire_eq (s : State) (id : Nat) (c : Ctx) (np : Word) (h : s.ctx? id = some c) :
    s.retire id np = { s with ctxs := mset id (c.retired np) s.ctxs } := State.upd_eq s id c _ h

/-- Parking keeps every register of the strand, its PC and its streams, and holds the instruction (R102). -/
theorem parkAt_ctx (s : State) (id : Nat) (c : Ctx) (i : Instr) (w : Wait) (st mk : Nat) (vs : List Word) (h : s.ctx? id = some c) :
    ∃ c', (s.parkAt id i w st mk vs).ctx? id = some c' ∧ c'.run = .parked ∧ c'.wait = w ∧
      c'.held = some { instr := i, sample := c.sample, stage := st, mark := mk, vals := vs } ∧ c'.pc = c.pc ∧ c'.g = c.g ∧ c'.f = c.f ∧
      c'.streams = c.streams ∧ c'.rep = c.rep := by
  unfold State.parkAt
  rw [State.upd_self, h]
  exact ⟨_, rfl, rfl, rfl, rfl, rfl, rfl, rfl, rfl, rfl⟩

/-- Returning from a trap makes the strand READY at the given PC (R408). -/
theorem resumeTrapped_ctx (s : State) (id : Nat) (c : Ctx) (pc : Word) (h : s.ctx? id = some c) :
    (s.resumeTrapped id pc).ctx? id = some { c with run := .ready, pc := pc, trapWaits := false, trapHandle := 0#64 } := by
  unfold State.resumeTrapped
  rw [State.upd_self, h]
  rfl

end Sys2Proof.Laws
end

