-- ==== Sys2Proof/Tests/Slice0.lean ====
section
/-! SUPPORT. Tests of the model: the operand limits, words written out from the encoding tables, single steps whose results are worked out from the rules, and for every statement with hypotheses a state and operands that meet them. -/

set_option Elab.async false
set_option maxRecDepth 8000

namespace Sys2Proof.Tests

open Sys2Proof Sys2Proof.Machine Sys2Proof.Stated

/-! ## Ill-formed terms, one or more for each check -/

/-- R50. -/
theorem test_refuses_shift_count : WellFormed (.shli 1#5 2#5 64#14) = false ∧ WellFormed (.shri 1#5 2#5 64#14) = false ∧ WellFormed (.srai 1#5 2#5 0x3FFF#14) = false := by decide
/-- R59. -/
theorem test_refuses_rep_length : WellFormed (.rep 1#5 0#5) = false := by decide
/-- R56. -/
theorem test_refuses_ld_pair : WellFormed (.ld 3#5 1#5 0#10 false .q) = false ∧ WellFormed (.ldL 3#5 1#5 false .q 0#64) = false := by decide
/-- R56. -/
theorem test_refuses_st_pair : WellFormed (.st 1#5 3#5 0#10 false .q) = false ∧ WellFormed (.stL 1#5 3#5 false .q 0#64) = false := by decide
/-- R59. -/
theorem test_refuses_ldp_size : WellFormed (.ldp 2#5 1#5 0#10 false .w) = false ∧ WellFormed (.ldpL 2#5 1#5 false .b 0#64) = false := by decide
/-- R56. -/
theorem test_refuses_ldp_pair : WellFormed (.ldp 3#5 1#5 0#10 false .d) = false ∧ WellFormed (.ldpL 3#5 1#5 false .q 0#64) = false := by decide
/-- R59. -/
theorem test_refuses_stp_size : WellFormed (.stp 1#5 2#5 0#10 false .h) = false ∧ WellFormed (.stpL 1#5 2#5 false .w 0#64) = false := by decide
/-- R56. -/
theorem test_refuses_stp_pair : WellFormed (.stp 1#5 3#5 0#10 false .d) = false ∧ WellFormed (.stpL 1#5 3#5 false .d 0#64) = false := by decide
/-- R122. -/
theorem test_refuses_ldv_stv_pair : WellFormed (.ldv 3#5 1#5 2#5 false .q) = false ∧ WellFormed (.stv 3#5 1#5 2#5 false .q) = false := by decide
/-- R56. -/
theorem test_refuses_stq_register : WellFormed (.stq 1#5 4#5) = false := by decide
/-- R59. -/
theorem test_refuses_atomic_size : WellFormed (.amoadd 2#5 1#5 4#5 .b) = false ∧ WellFormed (.amoswap 2#5 1#5 4#5 .h) = false ∧ WellFormed (.amoand 2#5 1#5 4#5 .b) = false ∧ WellFormed (.amoor 2#5 1#5 4#5 .h) = false ∧ WellFormed (.amoxor 2#5 1#5 4#5 .b) = false := by decide
/-- R182. -/
theorem test_refuses_atomic_pair : WellFormed (.amomin 3#5 1#5 4#5 .q) = false ∧ WellFormed (.amomax 2#5 1#5 5#5 .q) = false ∧ WellFormed (.amominu 3#5 1#5 4#5 .q) = false ∧ WellFormed (.amomaxu 2#5 1#5 5#5 .q) = false ∧ WellFormed (.cas 3#5 1#5 4#5 .q) = false := by decide
/-- R59. -/
theorem test_refuses_famoadd_type : WellFormed (.famoadd 1#5 2#5 3#5 .rne .e4m3) = false := by decide
/-- R59. -/
theorem test_refuses_fpack_types : WellFormed (.fpack 1#5 2#5 3#5 .f32 .bf16) = false ∧ WellFormed (.fpack 1#5 2#5 3#5 .e4m3 .f32) = false := by decide
/-- R59. -/
theorem test_refuses_funpk_types : WellFormed (.funpk 1#5 2#5 false .bf16 .f32) = false := by decide
/-- R59. -/
theorem test_refuses_fcvt_types : WellFormed (.fcvt 1#5 2#5 false .rne .f16 .f16) = false := by decide
/-- R56. -/
theorem test_refuses_stream_register : WellFormed (.scfg 27#5 1#5 2#5 false 0#2 0#32) = false ∧ WellFormed (.sdim 3#5 1#5) = false ∧ WellFormed (.sen 27#5) = false ∧ WellFormed (.sdis 0#5) = false ∧ WellFormed (.sstat 1#5 27#5) = false := by decide
/-- R251. -/
theorem test_refuses_qtry_pair : WellFormed (.qtry 3#5 0#3) = false := by decide
/-- R60. -/
theorem test_refuses_put_size : WellFormed (.put 1#5 2#5 .q) = false ∧ WellFormed (.putL 1#5 .q 0#64) = false ∧ WellFormed (.putv 1#5 2#5 3#5 .q) = false ∧ WellFormed (.rld 1#5 2#5 .q) = false ∧ WellFormed (.radd 1#5 2#5 .q) = false ∧ WellFormed (.raddL 1#5 .q 0#64) = false := by decide
/-- R192. -/
theorem test_refuses_winset_reserved : WellFormed (.winset 1#5 2#5 0#3 0x1000#32) = false := by decide
/-- R234. -/
theorem test_refuses_mxgang_columns : WellFormed (.mxgang 1#5 2#5 false 12#4 0#3 0#32) = false := by decide
/-- R61. -/
theorem test_refuses_collective_types : WellFormed (.credand 1#5 2#5 3#5 .rne false .f32) = false ∧ WellFormed (.credor 1#5 2#5 3#5 .rne false .f32) = false := by decide
/-- R62. -/
theorem test_refuses_control_register : WellFormed (.crr 1#5 0x13#5) = false ∧ WellFormed (.crw 1#5 2#5 0x1F#5) = false ∧ WellFormed (.crs 1#5 2#5 0x13#5) = false ∧ WellFormed (.crc 1#5 2#5 0x13#5) = false := by decide
/-- R50, R56, R59: the limits themselves are well-formed. -/
theorem test_accepts_limits : WellFormed (.shli 1#5 2#5 63#14) = true ∧ WellFormed (.ldp 30#5 1#5 0#10 false .q) = true ∧ WellFormed (.stq 1#5 24#5) = true ∧
    WellFormed (.sen 28#5) = true ∧ WellFormed (.crr 1#5 0x12#5) = true ∧ WellFormed (.rep 1#5 31#5) = true := by decide
/-! ## Words written out from the encoding tables -/

/-- What the decoder reads from words. -/
def dec (ws : List (BitVec 32)) : Except Reject Instr := decode (Words.ofList ws)
/-- One word given by its fields. -/
def one (x : BitVec 32) : List (BitVec 32) := [x]

/-- R49, the worked encodings of 03_encoding. -/
theorem test_decode_worked : dec [0x00046908#32] = .ok (.addi 9#5 3#5 1#14) ∧
    dec [0x00244364#32] = .ok (.st 2#5 9#5 0#10 false .d) ∧
    dec [0x00006905#32, 0#32, 1#32] = .ok (.addL 9#5 3#5 0x100000000#64) ∧
    dec [0x1C98A480#32] = .ok (.fadd 4#5 5#5 6#5 .dyn .bf16) ∧
    dec [0x304064A0#32] = .ok (.fmulImm 4#5 .e4m3 0x3040#16) ∧
    dec [0xFF907E40#32] = .ok (.beq 3#5 4#5 0x3FFE#14) ∧
    dec [0x00406904#32] = .ok (.add 9#5 3#5 16#5) := by decide
/-- R249-R256, the table of 11_queue. -/
theorem test_decode_queue : dec [0x000049B4#32] = .ok (.qget 9#5 2#3) ∧
    dec [0x00A460B4#32] = .ok (.qput 3#3 9#5) ∧
    dec [0x010049B4#32] = .ok (.qpeek 9#5 2#3) ∧
    dec [0x01804AB4#32] = .ok (.qtry 10#5 2#3) ∧
    dec [0x022869B4#32] = .ok (.qtput 9#5 3#3 10#5) ∧
    dec [0x02AC4AB4#32] = .ok (.qcfg 10#5 2#3 11#5) ∧
    dec [0x030049B4#32] = .ok (.qstat 9#5 2#3) := by decide
/-- R257-R267, the table of 11_queue. -/
theorem test_decode_codelet : dec [0x005689D0#32] = .ok (.clnew 9#5 20#5 21#5) ∧
    dec [0x00A920D0#32] = .ok (.clpub 9#5 10#5) ∧
    dec [0x010120D0#32] = .ok (.cldec 9#5) ∧
    dec [0x018180D0#32] = .ok (.spawn 12#5) ∧
    dec [0x026689D0#32] = .ok (.callat 9#5 20#5 25#5) ∧
    dec [0x028120D0#32] = .ok (.retv 9#5) := by decide
/-- R246, the table of 11_queue. -/
theorem test_decode_channel : dec [0x002D49D4#32] = .ok (.bind 9#5 10#5 11#5) ∧
    dec [0x00AD40D4#32] = .ok (.chpri 10#5 11#5) ∧
    dec [0x010149D4#32] = .ok (.chmask 9#5 10#5) := by decide
/-- R291, the table of 14_message. -/
theorem test_decode_message : dec [0x005069C0#32] = .ok (.send 9#5 3#5 20#5) ∧
    dec [0x00D069C2#32, 0x15#32, 0x10#32] = .ok (.sendt 9#5 3#5 20#5 21#5 16#32) ∧
    dec [0x010000C0#32] = .ok (.done) ∧
    dec [0x01D689C0#32] = .ok (.keep 9#5 20#5 21#5) ∧
    dec [0x020120C0#32] = .ok (.unkeep 9#5) ∧
    dec [0x028000C0#32] = .ok (.irrev) ∧
    dec [0x030149C0#32] = .ok (.gvtr 9#5 10#5) ∧
    dec [0x038149C0#32] = .ok (.anti 9#5 10#5) := by decide
/-- the table of 16_territory. -/
theorem test_decode_territory : dec [0x000149F0#32] = .ok (.tshape 9#5 10#5) ∧
    dec [0x008149F0#32] = .ok (.tupc 9#5 10#5) ∧
    dec [0x010149F0#32] = .ok (.tpress 9#5 10#5) ∧
    dec [0x018149F0#32] = .ok (.tmap 9#5 10#5) ∧
    dec [0x022D49F0#32] = .ok (.tpin 9#5 10#5 11#5) := by decide
/-- the table of 18_chain. -/
theorem test_decode_chain : dec [0x005689D8#32] = .ok (.chain 9#5 20#5 21#5) ∧
    dec [0x008000D8#32] = .ok (.eqpt) ∧
    dec [0x010149D8#32] = .ok (.recoil 9#5 10#5) ∧
    dec [0x018149D8#32] = .ok (.uncoil 9#5 10#5) ∧
    dec [0x020149D8#32] = .ok (.cform 9#5 10#5) := by decide
/-- the table of 20_page. -/
theorem test_decode_page : dec [0x045680F4#32] = .ok (.tlbi 20#5 21#5) ∧
    dec [0x04D689F4#32] = .ok (.pmig 9#5 20#5 21#5) ∧
    dec [0x050289F4#32] = .ok (.pdirty 9#5 20#5) ∧
    dec [0x058280F4#32] = .ok (.pship 20#5) ∧
    dec [0x060289F4#32] = .ok (.phome 9#5 20#5) := by decide
/-- the table of 22_barrier. -/
theorem test_decode_barrier : dec [0x085689EE#32, 0#32, 0x20000#32] = .ok (.binit 9#5 20#5 21#5 0#12 2#12) ∧
    dec [0x088289EC#32] = .ok (.barv 9#5 20#5) ∧
    dec [0x09268AEC#32] = .ok (.bwait 10#5 20#5 9#5) ∧
    dec [0x09A68AEC#32] = .ok (.btest 10#5 20#5 9#5) ∧
    dec [0x0A2E80EC#32] = .ok (.bcnt 20#5 11#5) ∧
    dec [0x0A8289EC#32] = .ok (.bwdraw 9#5 20#5) ∧
    dec [0x0C2680EC#32] = .ok (.waita 20#5 9#5) := by decide
/-- the table of 23_context. -/
theorem test_decode_context : dec [0x000289F8#32] = .ok (.trap 9#5 20#5) ∧
    dec [0x00D4C9F8#32] = .ok (.eret 9#5 6#5 21#5) ∧
    dec [0x012009F8#32] = .ok (.crr 9#5 8#5) ∧
    dec [0x018549F8#32] = .ok (.crw 9#5 10#5 1#5) ∧
    dec [0x030000F8#32] = .ok (.halt) ∧
    dec [0x038C00F8#32] = .ok (.brk 3#5) ∧
    dec [0x040289F8#32] = .ok (.mark 9#5 20#5) ∧
    dec [0x048149FA#32, 0#32, 60000#32] = .ok (.swset 9#5 10#5 60000#32) ∧
    dec [0x080009F8#32] = .ok (.tstamp 9#5 0#5) ∧
    dec [0x088149F8#32] = .ok (.pcntr 9#5 10#5) ∧
    dec [0x092920F8#32] = .ok (.trace 9#5 10#5) := by decide
/-- words of the program listings of 13, 15, 19 and 24. -/
theorem test_decode_listings : dec [0x0073BD04#32] = .ok (.add 29#5 29#5 28#5) ∧
    dec [0xFFA61E54#32] = .ok (.bgeu 16#5 9#5 0x3FFE#14) ∧
    dec [0x008C00F4#32] = .ok (.cfence .core .matrix) ∧
    dec [0x010000F4#32] = .ok (.pfence) ∧
    dec [0xFF8A8A60#32] = .ok (.ld 10#5 20#5 0x3FE#10 false .w) ∧
    dec [0x01AAAB70#32] = .ok (.ldv 11#5 21#5 10#5 false .d) ∧
    dec [0x02000B2C#32] = .ok (.lim 11#5 0x1000#19) ∧
    dec [0x0000112D#32, 0x70000000#32, 0#32] = .ok (.limL 17#5 0x70000000#64) ∧
    dec [0x05F35BE0#32] = .ok (.putv 27#5 26#5 28#5 .d) ∧
    dec [0x0089805C#32] = .ok (.rep 12#5 2#5) ∧
    dec [0x012AA074#32] = .ok (.amoadd 0#5 21#5 10#5 .w) ∧
    dec [0x0094AA24#32] = .ok (.shri 10#5 5#5 37#14) ∧
    dec [0x05AAAC70#32] = .ok (.stv 12#5 21#5 10#5 false .d) ∧
    dec [0x025920E6#32, 0#32, 0x402#32] = .ok (.winset 9#5 22#5 0#3 0x402#32) := by decide
/-- R154, R195, R209, R234: the X forms with a word in their rule. -/
theorem test_decode_xForms : dec [0x00293CB2#32, 0x400#32, 0#32] = .ok (.scfg 28#5 9#5 10#5 false 1#2 0#32) ∧
    dec [0x022920E6#32, 0x800#32, 0x32#32] = .ok (.winset 9#5 10#5 2#3 0x32#32) ∧
    dec [0x100289E0#32] = .ok (.cpy 9#5 20#5) ∧
    dec [0x108289E2#32, 0#32, 0x80#32] = .ok (.cpys 9#5 20#5 128#32) ∧
    dec [0x020289EA#32, 0x4400#32, 0#32] = .ok (.mxgang 9#5 20#5 false 2#4 1#3 0#32) := by decide
/-- R59, R60: major 0x01. -/
theorem test_decode_fields_integer : dec (one (0x000#9 ++ 3#5 ++ 2#5 ++ 1#5 ++ 0x1#6 ++ 0#2)) = .ok (.add 1#5 2#5 3#5) ∧
    dec (one (0x00A#9 ++ 3#5 ++ 2#5 ++ 1#5 ++ 0x1#6 ++ 0#2)) = .ok (.sra 1#5 2#5 3#5) ∧
    dec (one (0x014#9 ++ 3#5 ++ 2#5 ++ 1#5 ++ 0x1#6 ++ 0#2)) = .ok (.div 1#5 2#5 3#5) ∧
    dec (one (0x020#9 ++ 0#5 ++ 2#5 ++ 1#5 ++ 0x1#6 ++ 0#2)) = .ok (.clz 1#5 2#5) ∧
    dec (one (0x02D#9 ++ 3#5 ++ 2#5 ++ 1#5 ++ 0x1#6 ++ 0#2)) = .ok (.bfi 1#5 2#5 3#5) := by decide
/-- R57, R59: majors 0x03, 0x0C, 0x15, 0x16 and 0x17. -/
theorem test_decode_fields_immediate : dec (one (0x2AAA#14 ++ 2#5 ++ 1#5 ++ 0x03#6 ++ 0#2)) = .ok (.andi 1#5 2#5 0x2AAA#14) ∧
    dec (one (0x40001#19 ++ 1#5 ++ 0x0C#6 ++ 0#2)) = .ok (.addpc 1#5 0x40001#19) ∧
    dec (one (0x155#9 ++ 3#5 ++ 2#5 ++ 0x0A#5 ++ 0x15#6 ++ 0#2)) = .ok (.bgeu 2#5 3#5 0x2AAA#14) ∧
    dec (one (0x7FFFF#19 ++ 0#5 ++ 0x16#6 ++ 0#2)) = .ok (.jal 0#5 0x7FFFF#19) ∧
    dec (one (0x000#9 ++ 0#5 ++ 2#5 ++ 1#5 ++ 0x17#6 ++ 0#2)) = .ok (.jalr 1#5 2#5) := by decide
/-- R51, R59: majors 0x1A to 0x1E. -/
theorem test_decode_fields_memory : dec (one (0x200#10 ++ 1#1 ++ 3#3 ++ 2#5 ++ 4#5 ++ 0x1A#6 ++ 0#2)) = .ok (.ldp 4#5 2#5 0x200#10 true .d) ∧
    dec (one (0x010#9 ++ 4#5 ++ 2#5 ++ 0x14#5 ++ 0x1B#6 ++ 0#2)) = .ok (.stp 2#5 4#5 0x021#10 false .q) ∧
    dec (one (0#1 ++ 0x02#5 ++ 0#3 ++ 8#5 ++ 2#5 ++ 0#5 ++ 0x1c#6 ++ 0#2)) = .ok (.stq 2#5 8#5) ∧
    dec (one (0#1 ++ 0x03#5 ++ 1#3 ++ 3#5 ++ 2#5 ++ 0#5 ++ 0x1c#6 ++ 0#2)) = .ok (.prefWr 2#5 3#5) ∧
    dec (one (0x09#5 ++ 0#1 ++ 4#3 ++ 6#5 ++ 2#5 ++ 4#5 ++ 0x1d#6 ++ 0#2)) = .ok (.cas 4#5 2#5 6#5 .q) ∧
    dec (one (0#3 ++ 4#3 ++ 2#3 ++ 3#5 ++ 2#5 ++ 1#5 ++ 0x1e#6 ++ 0#2)) = .ok (.famoadd 1#5 2#5 3#5 .rna .f16) := by decide
/-- R59: majors 0x21 to 0x2A. -/
theorem test_decode_fields_float : dec (one (1#3 ++ 3#3 ++ 4#3 ++ 0#5 ++ 2#5 ++ 1#5 ++ 0x21#6 ++ 0#2)) = .ok (.fsum 1#5 2#5 .rup .e5m2) ∧
    dec (one (6#3 ++ 0#3 ++ 2#3 ++ 3#5 ++ 2#5 ++ 1#5 ++ 0x22#6 ++ 0#2)) = .ok (.fcmplt 1#5 2#5 3#5 .f16) ∧
    dec (one (1#3 ++ 2#3 ++ 0#3 ++ 0#5 ++ 2#5 ++ 1#5 ++ 0x23#6 ++ 0#2)) = .ok (.fmvGF 1#5 2#5) ∧
    dec (one (2#3 ++ 1#3 ++ 0#3 ++ 3#5 ++ 2#5 ++ 1#5 ++ 0x23#6 ++ 0#2)) = .ok (.fpack 1#5 2#5 3#5 .bf16 .f32) ∧
    dec (one (1#3 ++ 3#3 ++ 0#3 ++ 1#5 ++ 2#5 ++ 1#5 ++ 0x24#6 ++ 0#2)) = .ok (.fcvt 1#5 2#5 true .rtz .e4m3 .f32) ∧
    dec (one (7#3 ++ 2#3 ++ 0#3 ++ 0#5 ++ 2#5 ++ 1#5 ++ 0x25#6 ++ 0#2)) = .ok (.fcvti 1#5 2#5 false .dyn .i32 .f32) ∧
    dec (one (0#3 ++ 0#3 ++ 3#3 ++ 0#5 ++ 2#5 ++ 1#5 ++ 0x26#6 ++ 0#2)) = .ok (.fcvtf 1#5 2#5 false .rne .f32 .i64) ∧
    dec (one (0x4000#16 ++ 1#3 ++ 1#5 ++ 0x29#6 ++ 0#2)) = .ok (.fmvImm 1#5 .bf16 0x4000#16) ∧
    dec (one (6#3 ++ 2#3 ++ 0#3 ++ 0#5 ++ 2#5 ++ 1#5 ++ 0x2a#6 ++ 0#2)) = .ok (.ftanh 1#5 2#5 .rdn) := by decide
/-- R60: majors 0x2C, 0x31, 0x38, 0x39, 0x3A, 0x3B and the hint space. -/
theorem test_decode_fields_rest : dec (one (0x004#9 ++ 0#5 ++ 28#5 ++ 1#5 ++ 0x2c#6 ++ 0#2)) = .ok (.sstat 1#5 28#5) ∧
    dec (one (0x000#9 ++ 3#5 ++ 2#5 ++ 1#5 ++ 0x31#6 ++ 0#2)) = .ok (.launch 1#5 2#5 3#5) ∧
    dec (one (0x003#9 ++ 0#5 ++ 2#5 ++ 1#5 ++ 0x31#6 ++ 0#2)) = .ok (.kend 1#5 2#5) ∧
    dec (one (0x012#9 ++ 0#5 ++ 2#5 ++ 1#5 ++ 0x38#6 ++ 0#2)) = .ok (.rld 1#5 2#5 .w) ∧
    dec (one (0x024#9 ++ 0#5 ++ 2#5 ++ 1#5 ++ 0x38#6 ++ 0#2)) = .ok (.cpyq 1#5 2#5) ∧
    dec (one (0x000#9 ++ 3#5 ++ 2#5 ++ 1#5 ++ 0x39#6 ++ 0#2)) = .ok (.pin 1#5 2#5 3#5) ∧
    dec (one (0x001#9 ++ 0#5 ++ 0#5 ++ 0#5 ++ 0x3a#6 ++ 0#2)) = .ok (.mxwait) ∧
    dec (one (0x003#9 ++ 0#5 ++ 2#5 ++ 1#5 ++ 0x3b#6 ++ 0#2)) = .ok (.cstat 1#5 2#5) ∧
    dec (one (0x001#9 ++ 4#5 ++ 1#5 ++ 0#5 ++ 0x3d#6 ++ 0#2)) = .ok (.cfence .put .coll) := by decide
/-- R61: a collective with its qualifiers in XF: CREDMAX, RM RTZ, EXACT, I64. -/
theorem test_decode_collective : dec [0x008#9 ++ 3#5 ++ 2#5 ++ 1#5 ++ 0x3B#6 ++ 2#2, 0#12 ++ 2#3 ++ 1#3 ++ 1#1 ++ 7#3 ++ 0#5 ++ 0#5, 0#32] = .ok (.credmax 1#5 2#5 3#5 .rtz true .i64) := by decide
/-- R64: a hint word of any LEN runs. -/
theorem test_decode_hint : ∃ a b, dec (one (0x1FF#9 ++ 31#5 ++ 31#5 ++ 31#5 ++ 0x3E#6 ++ 0#2)) = .ok (.hint a b) := ⟨_, _, rfl⟩
/-- R65: an unassigned OP and FN, a reserved field, a LEN that disagrees with the map, a literal that is not admitted, a displaced field, a code outside R53,
and a register outside R56 are refused; the all-zero and the all-ones word too (R57). -/
theorem test_decode_refuses : dec (one 0#32) = .error .unassignedOp ∧ dec (one 0xFFFFFFFF#32) = .error .unassignedOp ∧
    dec (one (0x00C#9 ++ 3#5 ++ 2#5 ++ 1#5 ++ 0x01#6 ++ 0#2)) = .error .unassignedFn ∧ dec (one 0x10406904#32) = .error .reservedField ∧
    dec (one (0x001#9 ++ 3#5 ++ 2#5 ++ 1#5 ++ 0x30#6 ++ 0#2)) = .error .lenMismatch ∧ dec [0x008#9 ++ 0#5 ++ 2#5 ++ 1#5 ++ 0x01#6 ++ 1#2, 5#32, 0#32] = .error .lenMismatch ∧
    dec [0x000#9 ++ 3#5 ++ 2#5 ++ 1#5 ++ 0x01#6 ++ 1#2, 5#32, 0#32] = .error .displacedField ∧
    dec (one (0#10 ++ 0#1 ++ 5#3 ++ 2#5 ++ 1#5 ++ 0x18#6 ++ 0#2)) = .error .codeLimit ∧
    dec (one (0x002#9 ++ 0#5 ++ 0#5 ++ 3#5 ++ 0x2C#6 ++ 0#2)) = .error .registerLimit := by decide
/-! ## Small states and helpers -/

/-- A small state: kernel 0 (PLAIN) of one logical tile with one READY strand, context 0, as `withFetchWord` sets it up. -/
def w : State := State.reset.withStrand
/-- It with a change of the strand's context. -/
def wc (f : Ctx → Ctx) : State := w.upd 0 f
/-- It with values in g registers. -/
def wr (l : List (Nat × Nat)) : State := w.upd 0 fun c => l.foldl (fun c e => c.setG (BitVec.ofNat 5 e.1) (BitVec.ofNat 64 e.2)) c
/-- A change of its kernel. -/
def wk (s : State) (f : Kernel → Kernel) : State := s.updK 0 f
/-- Its logical core and logical tile changed. -/
def wl (s : State) (f : LCore → LCore) : State := s.updLc 0 f
def wt (s : State) (f : LTile → LTile) : State := s.updLt 0 f
/-- The parameters of a step set. -/
def we (s : State) (e : EvArgs) : State := { s with ev := e }
/-- A scratchpad access of a PLAIN kernel's strand at its home core. -/
theorem scratch_ok {s : State} {c : Ctx} {ea n al : Nat}
    (h : c.shipped = none ∧ ea + n ≤ s.sOf c ∧ ea + n ≤ 2 ^ 20 ∧ ea % al = 0 ∧ s.ev.flag = false ∧ s.isWarp (lcKid c.alck) = false) : ScratchOk s c ea n al :=
  ⟨h.1, h.2.1, h.2.2.1, h.2.2.2.1, h.2.2.2.2.1, Or.inl h.2.2.2.2.2⟩
/-- A flit with number 7 at tile 0 for kernel 0, with some payload. -/
def fl (lt core chan kind : Nat) (carry : Carry) : Flit :=
  { mkFlit (mkHdr 0 0 0 lt core chan kind false false 0) 5#64 (srcWord 0 0 0 0 0 1 0) 11#64 12#64 13#64 14#64 carry .none with fid := 7, dst := some (0, 0), sender := 1 }
/-- The state with that flit arrived, named by the step. -/
def wa (s : State) (f : Flit) : State := { s with arrivals := [f], ev := { id := 7 } }
/-- The words of a launch header: one logical tile of 16 KiB, its entry table at 0x100001000; and the state with that table in memory. -/
def hdrWords : List Word := [0x100001000#64, 0#64, 0x100000000#64, 16384#64, 0#64, 0#64, 64#64] ++ List.replicate 25 0#64
def wh (s : State) : State := { s with glob := memStore (memPut s.glob 0x40002000 (hdrWords.flatMap fun x => leBytes 8 x.toNat)) 0x40001000 8 0x100000000 }
/-- Firmware places a kernel on tile 1. -/
def fwOk : FwAns := { accept := true, place := [(1, 0)], anchor := 1 }
/-- A kernel 1, HELD, of the same partition, launched by kernel 0. -/
def wchild (s : State) (st : KState) (parent : Nat) : State := { s with kernels := s.kernels ++ [(1, { part := 0, state := st, parent := parent })], ltiles := s.ltiles ++ [(4096, { tile := 1 })] }
/-- The unit of logical core 0 with a record at the head of its queue, at its turn, and scratchpad bytes. -/
def wmu (r : MuRec) (pad : Mem) : State := we (wt (wl w fun l => { l with mu := { l.mu with queue := [r], acc := 1 } }) fun x => { x with scratch := pad }) { id := 0 }
def mr (w0 w1 w2 w3 : Nat) : MuRec := { w0 := BitVec.ofNat 64 w0, w1 := BitVec.ofNat 64 w1, w2 := BitVec.ofNat 64 w2, w3 := BitVec.ofNat 64 w3, w4 := 0#64, w5 := 0#64, w6 := 0#64, w7 := 0#64, frm := 0#4 }
/-- A chain of two stages at cores 0 and 1 of logical tile 0, its area at 0x2000, in a form. -/
def ch2 (f : ChainForm) : Chain := { num := 4, nst := 2, ca := 0x2000, entries := Vector.replicate 8 0x100000000#64, places := (Vector.replicate 8 (0, 0)).set 1 (0, 1), form := f }
def wch (s : State) (f : ChainForm) : State := wk s fun k => { k with chains := [ch2 f] }
/-- A chain's descriptor: two stages, at cores 0 and 1 of logical tile 0. -/
def desc2 (coil p1 : Nat) : List Byte := leBytes 8 (1 + coil * 256 + 0x2000 * 2 ^ 32) ++ leBytes 8 0x100000000 ++ leBytes 8 0x100000004 ++ List.replicate 48 0#8 ++ leBytes 4 0 ++ leBytes 4 p1 ++ List.replicate 48 0#8
/-- Group 9 of kernel 0 on this device, and a group with members. -/
def gname : Nat := 9
def gr (ms : List (Member × BitVec 32)) : Group := { name := 9#64, part := 0, tmo := 2, latest := 3#32, members := ms, history := [(3#32, ms.map (·.1))], views := ms.map (fun x => (x.1, 3#32)), finals := [] }
/-- A barrier record of kernel 0 for logical tile 0 with its table, and the scratchpad that holds it at 64. -/
def bar (phase target c0 c1 pend flags table : Nat) : BarRec :=
  { phase := phase, target := target, cnt := (c0, c1), pend := BitVec.ofNat 64 pend, wd := (0, 0), flags := flags, table := BitVec.ofNat 64 table, part := 0#64 }
def wbar (s : State) (r : BarRec) : State := wt s fun x => { x with scratch := memPut x.scratch 64 r.bytes }
/-- Kernel 0 with pressure enough to take tile 1, whose die moves borders, in the first phase in which tile 1 is a candidate. -/
def wbd : State := { (wk w fun k => { k with loadSum := 1000 }).updDie 0 (fun x => { x with en := true }) with tbase := 100000 }
/-- Tiles 1 and 2 belong to kernel 1, with tile 2 the anchor and tile 1 a leaf. -/
def wbd2 : State :=
  let s : State := { wbd with kernels := wbd.kernels ++ [(1, { part := 0, state := .running, s := 65536, anchor := 2 })], ltiles := wbd.ltiles ++ [(4096, { tile := 2 })] }
  (s.updTile 1 fun x => { x with owner := 1#6, ts := .member, parent := 1#3, depth := 1 }).updTile 2 fun x => { x with owner := 1#6, ts := .member, anchor := true }
/-- A page move of the page at 0x40000000. -/
def mv0 : Move := { part := 0, pteAt := 0x50000000, src := 0x60000000, dst := 0x70000000, size := 256 }
/-- A second strand of kernel 0's logical tile, trapped with a handle. -/
def wtrap (s : State) : State := { s with ctxs := s.ctxs ++ [(1, { id := 1, strand := 1#2, run := .trapped, trapHandle := 0x80000005#64, pc := 0x100000010#64 })] }
/-- The strand holds its instruction with an answer. -/
def wheld (s : State) (i : Instr) (stage : Nat) (vals : List Word) (a : FwAns) : State :=
  s.upd 0 fun c => { c with held := some { instr := i, sample := 0#4, stage := stage, vals := vals, answered := true, ans := a } }
/-- A partition's record changed. -/
def wp (s : State) (f : Partition → Partition) : State := s.updPart 0 f
/-- The flit with its check, at a tile. -/
def fg (f : Flit) : Flit := { f with crc := f.check }
theorem only_copy {s : State} {f : Flit} (h1 : s.arrivals = []) (h2 : (s.lcore f.lck).reorder = []) (h3 : (s.ltile (ltKey f.kid f.lt)).fallout = []) (h4 : s.ordered f = true) : OnlyCopy s f := by
  refine ⟨fun g hg => ?_, fun g hg => ?_, h4⟩
  · rw [h1, h2] at hg; simp at hg
  · rw [h3] at hg; simp at hg
/-- A barrier record of kernel 0 in global memory at 0x100000200, with its table at 0x100000300. -/
def gbar (s : State) (r : BarRec) : State := { s with glob := memPut s.glob 0x40000200 r.bytes }
theorem xl_ok {x : Xl × State} {pa : Nat} (h : x.1 = .ok pa false) : ∃ dt s1, x = (Xl.ok pa dt, s1) := ⟨false, x.2, by rw [← h]⟩
theorem engine_ok {s : State} {c : Ctx} {a pa : Nat} (h : 2 ^ 20 ≤ a ∧ a < 2 ^ 56 ∧ pa + 64 ≤ 2 ^ 48)
    (hx : (s.xlate (s.partOf c.kid) (s.xlUnit c) true (s.coreNo c) a aStore).1 = .ok pa false)
    (hm : (s.xlate (s.partOf c.kid) (s.xlUnit c) true (s.coreNo c) a aStore).2.migrating (s.partOf c.kid) pa = false) :
    EngineReaches s c a pa ((s.xlate (s.partOf c.kid) (s.xlUnit c) true (s.coreNo c) a aStore).2.countEngine c.kid (s.tileOf c) pa 8) :=
  ⟨h.1, h.2.1, h.2.2, false, _, by rw [← hx], hm, rfl⟩
theorem keys_ok {i : Image} {r : BitVec 384 × BitVec 384} (h1 : r.1 = sha384 i.rsaKey) (h2 : r.2 = sha384 i.slhKey) : i.keysMatch r = true := by
  simp [Image.keysMatch, h1, h2]
/-! ## Single steps, their results worked out from the rules -/

/-- The context of the strand after an instruction, when it gives a next state. -/
def after (i : Instr) (s : State) : Option Ctx := match exec i s with | .next t => t.ctx? 0 | _ => none
/-- A g register after an instruction. -/
def gAfter (i : Instr) (s : State) (r : Reg) : Option Word := (after i s).map fun c => c.getG r
/-- Where the instruction leaves the strand's trap registers. -/
def trapAfter (i : Instr) (s : State) : Option (Run × BitVec 8 × Word) := (after i s).map fun c => (c.run, c.ecause, c.einfo)

/-- R107: the sum wraps, and a source may be the destination. -/
theorem test_add_wraps : gAfter (.add 1#5 1#5 2#5) (wr [(1, 2 ^ 64 - 1), (2, 3)]) 1#5 = some 2#64 := by decide +kernel
/-- R107: SEL reads its destination. -/
theorem test_sel_reads_destination : gAfter (.sel 1#5 2#5 3#5) (wr [(1, 7), (2, 20), (3, 30)]) 1#5 = some 20#64 ∧
    gAfter (.sel 1#5 2#5 3#5) (wr [(2, 20), (3, 30)]) 1#5 = some 30#64 := by decide +kernel
/-- R108: the count is b[5:0], and SRA copies the sign. -/
theorem test_sra_count : gAfter (.sra 3#5 1#5 2#5) (wr [(1, 2 ^ 64 - 8), (2, 66)]) 3#5 = some 0xFFFFFFFFFFFFFFFE#64 := by decide +kernel
/-- R109: the high half of a signed and of an unsigned product. -/
theorem test_high_products : gAfter (.mulh 3#5 1#5 1#5) (wr [(1, 2 ^ 64 - 1)]) 3#5 = some 0#64 ∧
    gAfter (.mulhu 3#5 1#5 1#5) (wr [(1, 2 ^ 64 - 1)]) 3#5 = some 0xFFFFFFFFFFFFFFFE#64 := by decide +kernel
/-- R110: division by zero, the overflow, and the sign of a remainder. -/
theorem test_division_corners : gAfter (.div 3#5 1#5 2#5) (wr [(1, 5), (2, 0)]) 3#5 = some 0xFFFFFFFFFFFFFFFF#64 ∧
    gAfter (.div 3#5 1#5 2#5) (wr [(1, 2 ^ 63), (2, 2 ^ 64 - 1)]) 3#5 = some 0x8000000000000000#64 ∧
    gAfter (.rem 3#5 1#5 2#5) (wr [(1, 2 ^ 64 - 7), (2, 2)]) 3#5 = some 0xFFFFFFFFFFFFFFFF#64 := by decide +kernel
/-- R111: counts of zero, and the bytes reversed. -/
theorem test_bit_counts : gAfter (.clz 3#5 1#5) (wr []) 3#5 = some 64#64 ∧ gAfter (.ctz 3#5 1#5) (wr [(1, 40)]) 3#5 = some 3#64 ∧
    gAfter (.bswap 3#5 1#5) (wr [(1, 0x0102030405060708)]) 3#5 = some 0x0807060504030201#64 := by decide +kernel
/-- R112: a width of 8, and a field put in at position 4 with length 8. -/
theorem test_fields : gAfter (.sext 3#5 1#5 2#5) (wr [(1, 0x180), (2, 8)]) 3#5 = some 0xFFFFFFFFFFFFFF80#64 ∧
    gAfter (.bfi 3#5 1#5 2#5) (wr [(1, 0xAB), (2, 0x804), (3, 0xFFFF)]) 3#5 = some 0xFABF#64 := by decide +kernel
/-- R50, R113: IMM14 of ADDI is sign-extended, that of ORI is not. -/
theorem test_immediates : gAfter (.addi 3#5 1#5 0x3FFF#14) (wr [(1, 5)]) 3#5 = some 4#64 ∧ gAfter (.ori 3#5 1#5 0x3FFF#14) (wr []) 3#5 = some 0x3FFF#64 := by decide +kernel
/-- R56: a write to g0 is discarded, and the PC goes on. -/
theorem test_g0 : (after (.addi 0#5 0#5 5#14) (wr [])).map (fun c => (c.getG 0#5, c.pc)) = some (0#64, 0x100000004#64) := by decide +kernel
/-- R116: a branch counts words from its own address. -/
theorem test_branch_back : (after (.beq 0#5 0#5 0x3FFE#14) (wr [])).map (fun c => c.pc) = some 0xFFFFFFF8#64 := by decide +kernel
/-- R118: JALR writes the return address, and an odd target traps MISALIGN with the address. -/
theorem test_jalr : (after (.jalr 1#5 1#5) (wr [(1, 0x100000040)])).map (fun c => (c.getG 1#5, c.pc)) = some (0x100000004#64, 0x100000040#64) ∧
    trapAfter (.jalr 2#5 1#5) (wr [(1, 0x100000042)]) = some (.trapped, 2#8, 0x100000042#64) := by decide +kernel
/-- R121: a load of one byte and of a doubleword from the scratchpad, the lowest byte first. -/
theorem test_load_scratch : let s := wt (wr [(1, 16)]) fun x => { x with scratch := [(16, 0x80#8), (17, 1#8), (24, 9#8)] }
    gAfter (.ld 3#5 1#5 0#10 false .d) s 3#5 = some 0x180#64 ∧ gAfter (.ld 3#5 1#5 1#10 false .d) s 3#5 = some 9#64 := by decide +kernel
/-- R121: a store changes its bytes alone. -/
theorem test_store_scratch : (match exec (.st 1#5 2#5 0#10 false .h) (wt (wr [(1, 16), (2, 0x1234)]) fun x => { x with scratch := [(15, 7#8), (18, 8#8)] }) with
    | .next t => some (t.ltile 0).scratch | _ => none) = some [(15, 7#8), (16, 0x34#8), (17, 0x12#8), (18, 8#8)] := by decide +kernel
/-- R126: a misaligned scratchpad access traps MISALIGN with its address. -/
theorem test_load_misaligned : trapAfter (.ld 3#5 1#5 0#10 false .d) (wr [(1, 20)]) = some (.trapped, 2#8, 20#64) := by decide +kernel
/-- R131: 1.0 + 2.0 in both F32 lanes. -/
theorem test_fadd : (after (.fadd 1#5 2#5 3#5 .rne .f32) (wc fun c => (c.setF 2#5 0x3F8000003F800000#64).setF 3#5 0x4000000040000000#64)).map (fun c => c.getF 1#5) =
    some 0x4040000040400000#64 := by decide +kernel
/-- R182: AMOADD.W writes the sum and answers the old value. -/
theorem test_amoadd : (match exec (.amoadd 3#5 1#5 2#5 .w) (wt (wr [(1, 16), (2, 0xFFFFFFFF)]) fun x => { x with scratch := [(16, 5#8)] }) with
    | .next t => some ((t.ltile 0).scratch, (t.ctxD 0).getG 3#5) | _ => none) = some ([(16, 4#8)], 5#64) := by decide +kernel
/-- R98: CRS sets bits of FFLAGS and answers the old value. -/
theorem test_crs : (after (.crs 3#5 1#5 2#5) (wc fun c => { c.setG 1#5 0x11#64 with fflags := 4#5 })).map (fun c => (c.getG 3#5, c.fflags)) = some (4#64, 0x15#5) := by decide +kernel
/-- R410: BRK traps with its immediate. -/
theorem test_brk : trapAfter (.brk 3#5) (wr []) = some (.trapped, 0x0A#8, 3#64) := by decide +kernel
/-- R46, R99: a word that is no instruction traps ILLEGAL with the word. -/
theorem test_step_illegal : (match step (State.reset.withFetchWord 32 0x10406904) with
    | .next t => (t.ctx? 0).map fun c => (c.run, c.ecause, c.einfo, c.epc == c.pc) | _ => none) = some (.trapped, 1#8, 0x10406904#64, true) := by decide +kernel
/-- A step fetches the word at the PC and runs it: ADDI g9, g3, 1. -/
theorem test_step_addi : (match step (State.reset.withFetchWord 32 0x00046908) with
    | .next t => (t.ctx? 0).map fun c => (c.getG 9#5, c.pc) | _ => none) = some (1#64, 0x100000004#64) := by decide +kernel

/-! ## Witnesses: for every statement with hypotheses, a state and operands that meet them -/

def st0 : State := wr [(1,5)]

theorem witness_GeneralWriteFrame_1 :
    st0.ctx? 0 = some (st0.ctxD 0) := by decide +kernel

def st1 : State := wc fun c => { c with rep := some { count := 2#64, start := c.pc, stop := c.pc + 4#64 } }

theorem witness_GeneralWriteFrame_2 :
    (st1.ctx? 0 = some (st1.ctxD 0)) ∧
    ((st1.ctxD 0).rep = some { count := 2#64, start := (st1.ctxD 0).pc, stop := (st1.ctxD 0).pc + 4#64 }) ∧
    ((st1.ctxD 0).pc + BitVec.ofNat 64 4 = (st1.ctxD 0).pc + 4#64) := by decide +kernel

def st2 : State := wc fun c => { c with rep := some { count := 1#64, start := c.pc, stop := c.pc + 4#64 } }

theorem witness_GeneralWriteFrame_3 :
    ((st2.ctxD 0).rep = some { count := 1#64, start := (st2.ctxD 0).pc, stop := (st2.ctxD 0).pc + 4#64 }) ∧
    ((st2.ctxD 0).pc + BitVec.ofNat 64 4 = (st2.ctxD 0).pc + 4#64) := by decide +kernel

def st3 : State := wc fun c => { c with rep := some { count := 2#64, start := c.pc, stop := c.pc + 8#64 } }

theorem witness_GeneralWriteFrame_4 :
    ((st3.ctxD 0).rep = some { count := 2#64, start := (st3.ctxD 0).pc, stop := (st3.ctxD 0).pc + 8#64 }) ∧
    ((st3.ctxD 0).pc.toNat ≤ ((st3.ctxD 0).pc + BitVec.ofNat 64 4).toNat ∧
    ((st3.ctxD 0).pc + BitVec.ofNat 64 4).toNat < ((st3.ctxD 0).pc + 8#64).toNat) := by decide +kernel

def st4 : State := wc fun c => { c with rep := some { count := 2#64, start := c.pc + 8#64, stop := c.pc + 16#64 } }

theorem witness_GeneralWriteFrame_5 :
    ((st4.ctxD 0).rep = some { count := 2#64, start := (st4.ctxD 0).pc + 8#64, stop := (st4.ctxD 0).pc + 16#64 }) ∧
    (((st4.ctxD 0).pc + BitVec.ofNat 64 4).toNat < ((st4.ctxD 0).pc + 8#64).toNat ∧
    (st4.ctxD 0).pc + BitVec.ofNat 64 4 ≠ (st4.ctxD 0).pc + 16#64) := by decide +kernel

def st5 : State := wr [(1,2^64-1),(2,7)]

theorem witness_ArithmeticAndLogic_1 :
    Runs st5 0 (st5.ctxD 0) (.min 3 1 2) := by decide +kernel

def st6 : State := wr [(1,2^63+5),(2,71)]

theorem witness_ShiftsAndProducts_1 :
    Runs st6 0 (st6.ctxD 0) (.sra 3 1 2) := by decide +kernel

def st7 : State := wr [(1,2^63),(2,3)]

theorem witness_ShiftsAndProducts_2 :
    Runs st7 0 (st7.ctxD 0) (.mulh 3 1 2) := by decide +kernel

def st8 : State := wr [(1,2^63),(2,2^64-1)]

theorem witness_Division_1 :
    Runs st8 0 (st8.ctxD 0) (.div 3 1 2) := by decide +kernel

def st9 : State := wr [(1,2^64-7),(2,2)]

theorem witness_Division_2 :
    Runs st9 0 (st9.ctxD 0) (.rem 3 1 2) := by decide +kernel

def st10 : State := wr [(1,12),(2,0x1004)]

theorem witness_BitOperations_1 :
    Runs st10 0 (st10.ctxD 0) (.bfi 3 1 2) := by decide +kernel

def st11 : State := w

theorem witness_BitOperations_2 :
    Runs st11 0 (st11.ctxD 0) (.clz 3 1) := by decide +kernel

def st12 : State := wr [(1,12)]

theorem witness_Immediates_1 :
    Runs st12 0 (st12.ctxD 0) (.andi 3 1 0x3FFF) := by decide +kernel

def st13 : State := wr [(1,0x100000040)]

theorem witness_ControlFlow_1 :
    (Runs st13 0 (st13.ctxD 0) (.jalr 3 1)) ∧ (((st13.ctxD 0).getG 1).toNat % 4 = 0) := by decide +kernel

def st14 : State := wr [(1,0x100000042)]

theorem witness_ControlFlow_2 :
    (Runs st14 0 (st14.ctxD 0) (.jalr 3 1)) ∧ (((st14.ctxD 0).getG 1).toNat % 4 ≠ 0) := by decide +kernel

def st15 : State := wr [(1,3)]

theorem witness_ControlFlow_3 :
    (Runs st15 0 (st15.ctxD 0) (.rep 1 2)) ∧
    ((st15.ctxD 0).rep = none) ∧
    ((st15.ctxD 0).getG 1 ≠ 0#64) := by decide +kernel

theorem witness_ControlFlow_4 :
    (Runs st11 0 (st11.ctxD 0) (.rep 1 2)) ∧
    ((st11.ctxD 0).rep = none) ∧
    ((st11.ctxD 0).getG 1 = 0#64) := by decide +kernel

theorem witness_ControlFlow_5 :
    (Runs st1 0 (st1.ctxD 0) (.rep 1 2)) ∧ ((st1.ctxD 0).rep.isSome = true) := by decide +kernel

def st18 : State := wl w fun l => { l with bindings := l.bindings.set 14 { bound := true } }

theorem witness_TrapEntry_1 :
    (st18.ctx? 0 = some (st18.ctxD 0)) ∧
    ((st18.ctxD 0).shipped = none) ∧
    (st18.spec (st18.ctxD 0) = false) ∧
    ((st18.ctxD 0).item.chan ≠ 14) ∧
    ((st18.lcore (lcKey (lcKid (st18.ctxD 0).lck) (st18.kernelD (lcKid (st18.ctxD 0).lck)).slt (st18.kernelD (lcKid (st18.ctxD 0).lck)).score)).bindings[14].bound = true) := by decide +kernel

def st19 : State := wc fun c => { c with item := { chan := 14 } }

theorem witness_TrapEntry_2 :
    (st19.ctx? 0 = some (st19.ctxD 0)) ∧
    ((st19.ctxD 0).shipped = none) ∧
    (st19.spec (st19.ctxD 0) = false) ∧
    ((st19.ctxD 0).item.chan = 14) := by decide +kernel

theorem witness_TrapEntry_3 :
    ((st11.ctxD 0).shipped = none) ∧
    (st11.spec (st11.ctxD 0) = false) ∧
    ((st11.lcore (lcKey (lcKid (st11.ctxD 0).lck) (st11.kernelD (lcKid (st11.ctxD 0).lck)).slt (st11.kernelD (lcKid (st11.ctxD 0).lck)).score)).bindings[14].bound = false) := by decide +kernel

def st21 : State := wt (wr [(1,64)]) fun x => { x with scratch := memPut [] 64 [1,2,3] }

theorem witness_ScratchAccesses_1 :
    ((Runs st21 0 (st21.ctxD 0) (.ld 3 1 0 false .d))) ∧
    (ScratchOk st21 (st21.ctxD 0) 64 8 8) ∧
    (IsLoad (.ld 3 1 0 false .d) (st21.ctxD 0) 3 .d 64 4) := ⟨by decide +kernel, scratch_ok (by decide +kernel), Or.inl ⟨1, 0, false, rfl, by decide +kernel, rfl⟩⟩

def st22 : State := wr [(1,65520)]

theorem witness_ScratchAccesses_2 :
    ((Runs st22 0 (st22.ctxD 0) (.ldp 3 1 0 false .d)) ∧
    ((st22.ctxD 0).stageOf ≠ 1)) ∧
    (ScratchOk st22 (st22.ctxD 0) 65520 16 8) ∧
    (IsLoadPair (.ldp 3 1 0 false .d) (st22.ctxD 0) 3 .d 65520 4) := ⟨by decide +kernel, scratch_ok (by decide +kernel), Or.inl ⟨1, 0, false, rfl, by decide +kernel, rfl⟩⟩

def st23 : State := wr [(1,64)]

theorem witness_ScratchAccesses_3 :
    ((Runs st23 0 (st23.ctxD 0) (.st 1 3 0 false .b))) ∧
    (ScratchOk st23 (st23.ctxD 0) 64 1 1) ∧
    (IsStore (.st 1 3 0 false .b) (st23.ctxD 0) 3 .b 64 4) := ⟨by decide +kernel, scratch_ok (by decide +kernel), Or.inl ⟨1, 0, false, rfl, by decide +kernel, rfl⟩⟩

theorem witness_ScratchAccesses_4 :
    ((Runs st23 0 (st23.ctxD 0) (.stp 1 4 0 false .q)) ∧
    ((st23.ctxD 0).stageOf ≠ 1)) ∧
    (ScratchOk st23 (st23.ctxD 0) 64 16 16) ∧
    (IsStorePair (.stp 1 4 0 false .q) (st23.ctxD 0) 4 .q 64 4) := ⟨by decide +kernel, scratch_ok (by decide +kernel), Or.inl ⟨1, 0, false, rfl, by decide +kernel, rfl⟩⟩

def st25 : State := wt (wr [(1,65520)]) fun x => { x with scratch := memPut [] 65528 [7] }

theorem witness_ScratchAccesses_5 :
    ((Runs st25 0 (st25.ctxD 0) (.ld 4 1 0 false .q))) ∧
    (PlainPair (st25.ctxD 0) 4) ∧
    (ScratchOk st25 (st25.ctxD 0) 65520 16 16) ∧
    (IsLoad (.ld 4 1 0 false .q) (st25.ctxD 0) 4 .q 65520 4) := ⟨by decide +kernel, ⟨by decide +kernel, by decide +kernel⟩, scratch_ok (by decide +kernel), Or.inl ⟨1, 0, false, rfl, by decide +kernel, rfl⟩⟩

theorem witness_MemoryReadsBack_1 :
    Memory.wf [(1, 2#8)] = true := by decide +kernel

def st27 : State := wr [(1,0x100000100)]

theorem witness_GlobalAccesses_1 :
    ((Runs st27 0 (st27.ctxD 0) (.ld 3 1 0 false .d)) ∧
    ((st27.spec (st27.ctxD 0) && !(st27.kernelD (st27.ctxD 0).kid).frozen 0x100000100 8) = false) ∧
    (st27.ev.flag = false) ∧
    ((st27.xlate (st27.partOf (st27.ctxD 0).kid) (st27.xlUnit (st27.ctxD 0)) true (st27.coreNo (st27.ctxD 0)) 0x100000100 aLoad).1 = .ok 0x40000100 false) ∧
    (shipTarget (st27.ctxD 0) 0x40000100 = none) ∧
    (apertureCtrl 0x40000100 = none)) ∧
    (IsLoad (.ld 3 1 0 false .d) (st27.ctxD 0) 3 .d 0x100000100 4) := ⟨by decide +kernel, Or.inl ⟨1, 0, false, rfl, by decide +kernel, rfl⟩⟩

def st28 : State := wr [(1,0x100000100),(3,9)]

theorem witness_GlobalAccesses_2 :
    ((Runs st28 0 (st28.ctxD 0) (.st 1 3 0 false .d)) ∧
    (st28.isWarp (st28.ctxD 0).kid = false) ∧
    ((st28.xlate (st28.partOf (st28.ctxD 0).kid) (st28.xlUnit (st28.ctxD 0)) true (st28.coreNo (st28.ctxD 0)) 0x100000100 aStore).1 = .ok 0x40000100 false) ∧
    (st28.migrating (st28.partOf (st28.ctxD 0).kid) 0x40000100 = false) ∧
    (shipTarget (st28.ctxD 0) 0x40000100 = none) ∧
    (apertureCtrl 0x40000100 = none)) ∧
    (IsStore (.st 1 3 0 false .d) (st28.ctxD 0) 3 .d 0x100000100 4) := ⟨by decide +kernel, Or.inl ⟨1, 0, false, rfl, by decide +kernel, rfl⟩⟩

def st29 : State := wk (wr [(1,0x100000100)]) fun k => { k with warp := true }

theorem witness_GlobalAccesses_3 :
    ((Runs st29 0 (st29.ctxD 0) (.ld 3 1 0 false .d)) ∧
    ((st29.spec (st29.ctxD 0) && !(st29.kernelD (st29.ctxD 0).kid).frozen 0x100000100 8) = true)) ∧
    (IsLoad (.ld 3 1 0 false .d) (st29.ctxD 0) 3 .d 0x100000100 4) := ⟨by decide +kernel, Or.inl ⟨1, 0, false, rfl, by decide +kernel, rfl⟩⟩

def st30 : State := wk (wr [(1,0x100000100)]) fun k => { k with warp := true, frozenRanges := [(0x100000100, 0x100000110)] }

theorem witness_GlobalAccesses_4 :
    ((Runs st30 0 (st30.ctxD 0) (.ld 4 1 0 false .q)) ∧
    ((st30.spec (st30.ctxD 0) && !(st30.kernelD (st30.ctxD 0).kid).frozen 0x100000100 16) = false) ∧
    (st30.ev.flag = false) ∧
    ((st30.xlate (st30.partOf (st30.ctxD 0).kid) (st30.xlUnit (st30.ctxD 0)) true (st30.coreNo (st30.ctxD 0)) 0x100000100 aLoad).1 = .ok 0x40000100 false) ∧
    (shipTarget (st30.ctxD 0) 0x40000100 = none) ∧
    (apertureCtrl 0x40000100 = none)) ∧
    (PlainPair (st30.ctxD 0) 4) ∧
    (IsLoad (.ld 4 1 0 false .q) (st30.ctxD 0) 4 .q 0x100000100 4) := ⟨by decide +kernel, ⟨by decide +kernel, by decide +kernel⟩, Or.inl ⟨1, 0, false, rfl, by decide +kernel, rfl⟩⟩

def st31 : State := wk (wr [(1,0x100000100),(3,9)]) fun k => { k with warp := true }

theorem witness_GlobalAccesses_5 :
    ((Runs st31 0 (st31.ctxD 0) (.st 1 3 0 false .d)) ∧
    ((st31.xlate (st31.partOf (st31.ctxD 0).kid) (st31.xlUnit (st31.ctxD 0)) true (st31.coreNo (st31.ctxD 0)) 0x100000100 aStore).1 = .ok 0x40000100 false) ∧
    (st31.migrating (st31.partOf (st31.ctxD 0).kid) 0x40000100 = false) ∧
    (shipTarget (st31.ctxD 0) 0x40000100 = none) ∧
    (apertureCtrl 0x40000100 = none) ∧
    (st31.spec (st31.ctxD 0) = true) ∧
    ((st31.kernelD (st31.ctxD 0).kid).meetsFrozen 0x100000100 8 = false) ∧
    ((st31.lcore (st31.ctxD 0).alck).commitQ.length < 256)) ∧
    (IsStore (.st 1 3 0 false .d) (st31.ctxD 0) 3 .d 0x100000100 4) := ⟨by decide +kernel, Or.inl ⟨1, 0, false, rfl, by decide +kernel, rfl⟩⟩

def st32 : State := wr [(1,65536)]

theorem witness_AddressTraps_1 :
    ((Runs st32 0 (st32.ctxD 0) (.ld 3 1 0 false .b)) ∧
    (65536 < 2 ^ 20) ∧
    ((st32.ctxD 0).shipped = none) ∧
    (st32.sOf (st32.ctxD 0) ≤ 65536)) ∧
    (IsLoad (.ld 3 1 0 false .b) (st32.ctxD 0) 3 .b 65536 4) := ⟨by decide +kernel, Or.inl ⟨1, 0, false, rfl, by decide +kernel, rfl⟩⟩

def st33 : State := wr [(1,65528)]

theorem witness_AddressTraps_2 :
    ((Runs st33 0 (st33.ctxD 0) (.stp 1 4 0 false .q)) ∧
    ((st33.ctxD 0).stageOf ≠ 1) ∧
    (65528 < st33.sOf (st33.ctxD 0)) ∧
    (65528 % 16 ≠ 0)) ∧
    (IsStorePair (.stp 1 4 0 false .q) (st33.ctxD 0) 4 .q 65528 4) := ⟨by decide +kernel, Or.inl ⟨1, 0, false, rfl, by decide +kernel, rfl⟩⟩

def st34 : State := wr [(1,2^56-1)]

theorem witness_AddressTraps_3 :
    ((Runs st34 0 (st34.ctxD 0) (.st 1 3 0 false .h)) ∧
    (2 ^ 56 - 1 < 2 ^ 56) ∧
    ((2 ^ 56 - 1) % 2 ≠ 0)) ∧
    (IsStore (.st 1 3 0 false .h) (st34.ctxD 0) 3 .h (2^56-1) 4) := ⟨by decide +kernel, Or.inl ⟨1, 0, false, rfl, by decide +kernel, rfl⟩⟩

def st35 : State := wc fun c => { c with pend := [{ ctx := 0, d := 1, isCall := true, ref := 0 }] }

theorem witness_AddressTraps_4 :
    (st35.cur = some 0) ∧ (st35.ctx? 0 = some (st35.ctxD 0)) := by decide +kernel

def st36 : State := wr [(1,2^56)]

theorem witness_AddressTraps_5 :
    ((Runs st36 0 (st36.ctxD 0) (.ld 3 1 0 false .d))) ∧
    (IsLoad (.ld 3 1 0 false .d) (st36.ctxD 0) 3 .d (2^56) 4) := ⟨by decide +kernel, Or.inl ⟨1, 0, false, rfl, by decide +kernel, rfl⟩⟩

theorem witness_AddressTraps_6 :
    ((Runs st32 0 (st32.ctxD 0) (.st 1 3 0 false .d)) ∧
    ((st32.ctxD 0).shipped = none) ∧
    (st32.sOf (st32.ctxD 0) ≤ 65536)) ∧
    (IsStore (.st 1 3 0 false .d) (st32.ctxD 0) 3 .d 65536 4) := ⟨by decide +kernel, Or.inl ⟨1, 0, false, rfl, by decide +kernel, rfl⟩⟩

def st38 : State := wr [(1,65535)]

theorem witness_AddressTraps_7 :
    ((Runs st38 0 (st38.ctxD 0) (.ldp 4 1 0 false .q)) ∧
    ((st38.ctxD 0).shipped = none) ∧
    (65535 < st38.sOf (st38.ctxD 0))) ∧
    (IsLoadPair (.ldp 4 1 0 false .q) (st38.ctxD 0) 4 .q 65535 4) := ⟨by decide +kernel, Or.inl ⟨1, 0, false, rfl, by decide +kernel, rfl⟩⟩

def st39 : State := wr [(1,2^20+1)]

theorem witness_AddressTraps_8 :
    ((Runs st39 0 (st39.ctxD 0) (.stp 1 4 0 false .d))) ∧
    (IsStorePair (.stp 1 4 0 false .d) (st39.ctxD 0) 4 .d (2^20+1) 4) := ⟨by decide +kernel, Or.inl ⟨1, 0, false, rfl, by decide +kernel, rfl⟩⟩

theorem witness_AddressTraps_9 :
    Runs st11 0 (st11.ctxD 0) (.prefRd 3 1) := by decide +kernel

def st41 : State := wt (wr [(1,64),(2,5)]) fun x => { x with scratch := memPut [] 64 [255,255,255,255] }

theorem witness_AtomicOperations_1 :
    ((Runs st41 0 (st41.ctxD 0) (.amomin 3 1 2 .w))) ∧
    (ScratchOk st41 (st41.ctxD 0) ((st41.ctxD 0).getG 1).toNat 4 4) := ⟨by decide +kernel, scratch_ok (by decide +kernel)⟩

def st42 : State := wr [(1,0x100000100),(2,5)]

theorem witness_AtomicOperations_2 :
    (Runs st42 0 (st42.ctxD 0) (.amoadd 3 1 2 .q)) ∧
    (st42.isWarp (st42.ctxD 0).kid = false) ∧
    (st42.ev.flag = false) ∧
    ((st42.xlate (st42.partOf (st42.ctxD 0).kid) (st42.xlUnit (st42.ctxD 0)) true (st42.coreNo (st42.ctxD 0)) ((st42.ctxD 0).getG 1).toNat aStore).1 = .ok 0x40000100 false) ∧
    (st42.migrating (st42.partOf (st42.ctxD 0).kid) 0x40000100 = false) ∧
    (shipTarget (st42.ctxD 0) 0x40000100 = none) ∧
    (0x40000100 + 16 < 2 ^ 48) := by decide +kernel

def st43 : State := wk (wr [(1,0x100000100),(2,5)]) fun k => { k with warp := true }

theorem witness_AtomicOperations_3 :
    (Runs st43 0 (st43.ctxD 0) (.amoadd 3 1 2 .q)) ∧
    (st43.spec (st43.ctxD 0) = true) ∧
    (2 ^ 20 ≤ ((st43.ctxD 0).getG 1).toNat ∧
    ((st43.ctxD 0).getG 1).toNat < 2 ^ 56 ∧
    ((st43.ctxD 0).getG 1).toNat % 16 = 0) := by decide +kernel

def st44 : State := wr [(1,64),(2,5)]

theorem witness_AtomicOperations_4 :
    ((Runs st44 0 (st44.ctxD 0) (.cas 3 1 2 .d))) ∧
    (ScratchOk st44 (st44.ctxD 0) ((st44.ctxD 0).getG 1).toNat 8 8) := ⟨by decide +kernel, scratch_ok (by decide +kernel)⟩

def st45 : State := wr [(1,64),(2,0x3F80)]

theorem witness_AtomicOperations_5 :
    ((Runs st45 0 (st45.ctxD 0) (.famoadd 3 1 2 .rne .bf16)) ∧
    ((famoSum .bf16 (modeOf .rne (st45.ctxD 0).sample) (satOf (st45.ctxD 0).sample) (leNat (memBytes (st45.ltile (st45.ctxD 0).ltk).scratch ((st45.ctxD 0).getG 1).toNat 2)) (((st45.ctxD 0).getG 2).toNat % 2 ^ 16)).2 &&& (st45.ctxD 0).fen = 0#5)) ∧
    (ScratchOk st45 (st45.ctxD 0) ((st45.ctxD 0).getG 1).toNat 2 2) := ⟨by decide +kernel, scratch_ok (by decide +kernel)⟩

theorem witness_AtomicOperations_6 :
    ((Runs st42 0 (st42.ctxD 0) (.cas 3 1 2 .w))) ∧
    (GlobalAtomic st42 (st42.ctxD 0) ((st42.ctxD 0).getG 1).toNat 4 0x40000100) := ⟨by decide +kernel, ⟨by decide +kernel, by decide +kernel, by decide +kernel, by decide +kernel, by decide +kernel, xl_ok (by decide +kernel), by decide +kernel, by decide +kernel, by decide +kernel⟩⟩

def st47 : State := wr [(1,0x100000100),(2,0x3F80)]

theorem witness_AtomicOperations_7 :
    ((Runs st47 0 (st47.ctxD 0) (.famoadd 3 1 2 .rne .bf16)) ∧
    ((famoSum .bf16 (modeOf .rne (st47.ctxD 0).sample) (satOf (st47.ctxD 0).sample) (memLoad st47.glob 0x40000100 2) (((st47.ctxD 0).getG 2).toNat % 2 ^ 16)) = (0x3F80, 0#5))) ∧
    (GlobalAtomic st47 (st47.ctxD 0) ((st47.ctxD 0).getG 1).toNat 2 0x40000100) := ⟨by decide +kernel, ⟨by decide +kernel, by decide +kernel, by decide +kernel, by decide +kernel, by decide +kernel, xl_ok (by decide +kernel), by decide +kernel, by decide +kernel, by decide +kernel⟩⟩

def st48 : State := { wc (fun c => { (c.setG 1 0x100000100#64).setG 2 0x7F800000#64 with fen := 0x10#5 }) with glob := memStore w.glob 0x40000100 4 0xFF800000 }

theorem witness_AtomicOperations_8 :
    ((Runs st48 0 (st48.ctxD 0) (.famoadd 3 1 2 .rne .f32)) ∧
    (((famoSum .f32 (modeOf .rne (st48.ctxD 0).sample) (satOf (st48.ctxD 0).sample) (memLoad st48.glob 0x40000100 4) (((st48.ctxD 0).getG 2).toNat % 2 ^ 32))).2 &&& (st48.ctxD 0).fen ≠ 0#5)) ∧
    (MaySend st48 (st48.ctxD 0)) := ⟨by decide +kernel, ⟨by decide +kernel, by decide +kernel, by decide +kernel⟩⟩

def st49 : State := wc fun c => { c with f := (c.f.set 1 0x3F8000003F800000#64).set 2 0x4000000040000000#64 }

theorem witness_FloatOperations_1 :
    (Runs st49 0 (st49.ctxD 0) (.fadd 3 1 2 .rne .f32)) ∧
    ((st49.ctxD 0).fen = 0#5) ∧
    (∀ r ∈ [3#5, 1#5, 2#5], streamOn (st49.ctxD 0).streams r = none) := by decide +kernel

def st50 : State := wc fun c => { c with f := (c.f.set 1 0x7FC0000000000000#64) }

theorem witness_FloatOperations_2 :
    (Runs st50 0 (st50.ctxD 0) (.fcmplt 3 1 2 .f32)) ∧
    (∀ r ∈ [3#5, 1#5, 2#5], streamOn (st50.ctxD 0).streams r = none) := by decide +kernel

def st51 : State := wc fun c => { c with f := (c.f.set 1 77#64) }

theorem witness_FloatOperations_3 :
    (Runs st51 0 (st51.ctxD 0) (.fmvGF 3 1)) ∧
    (streamOn (st51.ctxD 0).streams 1 = none) := by decide +kernel

theorem witness_RoundingIsExact_1 :
    (numOf .f32 0x3F800000 = .fin false 8388608 8388608) ∧
    (0x3F800000 < 2 ^ ET.f32.width) := by decide +kernel

theorem witness_ConversionsAndExceptions_1 :
    (Runs st49 0 (st49.ctxD 0) (.fpack 3 1 2 .bf16 .f32)) ∧
    ((st49.ctxD 0).fen = 0#5) ∧
    (∀ r ∈ [3#5, 1#5, 2#5], streamOn (st49.ctxD 0).streams r = none) ∧
    (2 * ET.bf16.width = ET.f32.width) := by decide +kernel

def st54 : State := wc fun c => { c with f := (c.f.set 1 0x40003F80#64) }

theorem witness_ConversionsAndExceptions_2 :
    (Runs st54 0 (st54.ctxD 0) (.funpk 3 1 false .f32 .bf16)) ∧
    ((st54.ctxD 0).fen = 0#5) ∧
    (∀ r ∈ [3#5, 1#5], streamOn (st54.ctxD 0).streams r = none) ∧
    (ET.f32.width = 2 * ET.bf16.width) := by decide +kernel

def st55 : State := wc fun c => { c with f := (c.f.set 1 0x400000003F800000#64) }

theorem witness_ConversionsAndExceptions_3 :
    (Runs st55 0 (st55.ctxD 0) (.fcvt 3 1 false .rne .f16 .f32)) ∧
    ((st55.ctxD 0).fen = 0#5) ∧
    (∀ r ∈ [3#5, 1#5], streamOn (st55.ctxD 0).streams r = none) := by decide +kernel

def st56 : State := wc fun c => { c with f := (c.f.set 1 0xC000000040400000#64) }

theorem witness_ConversionsAndExceptions_4 :
    (Runs st56 0 (st56.ctxD 0) (.fcvti 3 1 false .rne .i32 .f32)) ∧
    ((st56.ctxD 0).fen = 0#5) ∧
    (∀ r ∈ [3#5, 1#5], streamOn (st56.ctxD 0).streams r = none) := by decide +kernel

def st57 : State := wc fun c => { c with f := (c.f.set 1 0xFFFFFFFE00000003#64) }

theorem witness_ConversionsAndExceptions_5 :
    (Runs st57 0 (st57.ctxD 0) (.fcvtf 3 1 false .rne .f32 .i32)) ∧
    ((st57.ctxD 0).fen = 0#5) ∧
    (∀ r ∈ [3#5, 1#5], streamOn (st57.ctxD 0).streams r = none) := by decide +kernel

theorem witness_RoundingIsExact_2 :
    (RM.rne ≠ .dyn ∧
    0x38 < maxFin .e4m3) ∧
    (numOf .e4m3 0x38 = .fin false 8 8) ∧
    (numOf .e4m3 0x39 = .fin false 9 8) ∧
    (0 < 16 ∧
    8 * 16 < 17 * 8 ∧
    17 * 8 < 9 * 16) ∧
    (2 ^ fracW .e4m3 ≤ 0x38) := by decide +kernel

theorem witness_RoundingIsExact_3 :
    (numOf .e4m3 7 = .fin false 7 512) ∧
    (numOf .e4m3 8 = .fin false 8 512) ∧
    (0 < 1024 ∧
    7 * 1024 < 15 * 512 ∧
    15 * 512 < 8 * 1024) ∧
    (7 + 1 = 2 ^ fracW .e4m3) := by decide +kernel

theorem witness_RoundingIsExact_4 :
    (numOf .e4m3 2 = .fin false 2 512) ∧
    (numOf .e4m3 3 = .fin false 3 512) ∧
    (0 < 1024 ∧
    2 * 1024 < 5 * 512 ∧
    5 * 512 < 3 * 1024) ∧
    (2 + 1 < 2 ^ fracW .e4m3) := by decide +kernel

theorem witness_RoundingIsExact_5 :
    (numOf .f16 (maxFin .f16) = .fin false (2047 * 32) 1) ∧
    (numOf .f16 (maxFin .f16 - 1) = .fin false (2046 * 32) 1) ∧
    (0 < 1 ∧
    2047 * 32 * 1 < 65520 * 1) := by decide +kernel

def st62 : State := wc fun c => { c with f := (c.f.set 1 0x7F7FFFFF7F7FFFFF#64), fen := 0x04#5, fsup := 0x32000#64 }

theorem witness_ConversionsAndExceptions_6 :
    ((Runs st62 0 (st62.ctxD 0) (.fcvt 3 1 false .rne .f16 .f32)) ∧
    ((st62.ctxD 0).fen ≠ 0#5) ∧
    (∀ r ∈ [3#5, 1#5], streamOn (st62.ctxD 0).streams r = none)) ∧
    (MaySend st62 (st62.ctxD 0)) := ⟨by decide +kernel, ⟨by decide +kernel, by decide +kernel, by decide +kernel⟩⟩

def st63 : State := we (wc fun c => { c with run := .parked, wait := .excReturn }) { id := 0 }

theorem witness_ConversionsAndExceptions_7 :
    (st63.ctx? st63.ev.id = some (st63.ctxD 0) ∧
    (st63.ctxD 0).id = st63.ev.id ∧
    (st63.ctxD 0).run = .parked ∧
    (st63.ctxD 0).held = none ∧
    (st63.ctxD 0).spilled = false ∧
    (st63.ctxD 0).switched = false) ∧
    (st63.kernelRuns (st63.ctxD 0).kid = true ∧
    (st63.ctxD 0).wait = .excReturn) := by decide +kernel

def st64 : State := we (wc fun c => { c with run := .parked, wait := .none }) { id := 0 }

theorem witness_ConversionsAndExceptions_8 :
    (st64.ctx? st64.ev.id = some (st64.ctxD 0) ∧
    (st64.ctxD 0).id = st64.ev.id ∧
    (st64.ctxD 0).run = .parked ∧
    (st64.ctxD 0).held = none ∧
    (st64.ctxD 0).spilled = false ∧
    (st64.ctxD 0).switched = false) ∧
    (st64.kernelRuns (st64.ctxD 0).kid = true ∧
    (st64.ctxD 0).wait = .none) := by decide +kernel

def st65 : State := wa (wc fun c => { c with run := .parked, wait := .excReturn }) (fl 0 0 0 0 (.retval {} (.exception 0 1)))

theorem witness_ConversionsAndExceptions_9 :
    st65.ctx? 0 = some (st65.ctxD 0) ∧
    (st65.ctxD 0).wait = .excReturn ∧
    st65.isWarp (fl 0 0 0 0 (.retval {} (.exception 0 1))).kid = false := by decide +kernel

def st66 : State := wc fun c => { c with f := (c.f.set 1 0x7FC00000#64), fen := 0x10#5 }

theorem witness_ConversionsAndExceptions_10 :
    (Runs st66 0 (st66.ctxD 0) (.fcmplt 3 1 2 .f32)) ∧
    (streamOn (st66.ctxD 0).streams 3 = none) ∧
    (streamOn (st66.ctxD 0).streams 1 = none) ∧
    (streamOn (st66.ctxD 0).streams 2 = none) ∧
    (st66.isWarp (st66.ctxD 0).kid = false) ∧
    ((st66.ctxD 0).item.vrt.toNat ≤ 2 ^ 64 - 2) ∧
    ((st66.ctxD 0).fen.getLsbD 4 = true) ∧
    (numOf .f32 (lane 32 ((st66.ctxD 0).getF 1) 0) = .nan) ∧
    ((st66.ctxD 0).kid ≠ 63) ∧
    (lcKid (st66.ctxD 0).lck = (st66.ctxD 0).kid) := by decide +kernel

theorem witness_SpecialFunctions_1 :
    (Runs st11 0 (st11.ctxD 0) (.fexp2 3 1 .rne)) ∧
    ((st11.ctxD 0).held = none) ∧
    (streamOn (st11.ctxD 0).streams 1 = none) ∧
    (streamOn (st11.ctxD 0).streams 3 = none) ∧
    ((st11.sfuQueue (st11.sfuNo (st11.ctxD 0))).length < 16) := by decide +kernel

def st68 : State := w.setSfu 0 (List.replicate 16 7)

theorem witness_SpecialFunctions_2 :
    (Runs st68 0 (st68.ctxD 0) (.fexp2 3 1 .rne)) ∧
    ((st68.ctxD 0).held = none) ∧
    (streamOn (st68.ctxD 0).streams 1 = none) ∧
    (streamOn (st68.ctxD 0).streams 3 = none) ∧
    (16 ≤ (st68.sfuQueue (st68.sfuNo (st68.ctxD 0))).length) := by decide +kernel

def st69 : State := we ((wc fun c => { c with run := .parked, wait := .sfuResult, held := some { instr := .frcp 3 1 .rne, sample := 0#4, stage := 1, vals := [0x4000000040800000#64] } }).setSfu 0 [0]) { id := 0 }

theorem witness_SpecialFunctions_3 :
    (st69.sfuQueue st69.ev.id = [0]) ∧
    (st69.ctx? 0 = some (st69.ctxD 0)) ∧
    ((st69.ctxD 0).wait = .sfuResult) ∧
    (st69.kernelRuns (st69.ctxD 0).kid = true) ∧
    (st69.leasedOut st69.ev.id (st69.partOf (st69.ctxD 0).kid) = false) ∧
    (st69.ev.flag = false) := by decide +kernel

def st70 : State := we ((wc fun c => { c with run := .parked, wait := .sfuResult, held := some { instr := .frcp 3 1 .rne, sample := 0#4, stage := 1, vals := [0x4000000040800000#64] } }).setSfu 0 [0]) { id := 0, flag := true }

theorem witness_SpecialFunctions_4 :
    (st70.sfuQueue st70.ev.id = [0]) ∧
    (st70.ctx? 0 = some (st70.ctxD 0)) ∧
    (st70.kernelRuns (st70.ctxD 0).kid = true) ∧
    (st70.ev.flag = true) := by decide +kernel

def st71 : State := wr [(1,64),(2,0x0004000300020001)]

theorem witness_Streams_1 :
    (Runs st71 0 (st71.ctxD 0) (.scfg 28 1 2 true 3 0#32)) ∧
    (((st71.ctxD 0).getG 1 + (0#32).signExtend 64).toNat % 16 = 0) ∧
    (((st71.ctxD 0).getG 1 + (0#32).signExtend 64).toNat < st71.sOf (st71.ctxD 0)) := by decide +kernel

def st72 : State := wr [(1,65)]

theorem witness_Streams_2 :
    (Runs st72 0 (st72.ctxD 0) (.scfg 28 1 2 true 3 0#32)) ∧
    (((st72.ctxD 0).getG 1 + (0#32).signExtend 64).toNat % 16 ≠ 0) := by decide +kernel

theorem witness_Streams_3 :
    (Runs st32 0 (st32.ctxD 0) (.scfg 28 1 2 true 3 0#32)) ∧
    (((st32.ctxD 0).getG 1 + (0#32).signExtend 64).toNat % 16 = 0) ∧
    (st32.sOf (st32.ctxD 0) ≤ ((st32.ctxD 0).getG 1 + (0#32).signExtend 64).toNat) := by decide +kernel

def st74 : State := wr [(1,4096)]

theorem witness_Streams_4 :
    (Runs st74 0 (st74.ctxD 0) (.sdim 28 1)) ∧
    ((st74.ctxD 0).streams.toList[0]? = some ({} : Stream)) ∧
    (1 ≤ ((st74.ctxD 0).getG 1).toNat / 65536 ^ 0 % 65536 ∧
    ((st74.ctxD 0).getG 1).toNat / 65536 ^ 0 % 65536 ≤ 4096) := by decide +kernel

def st75 : State := wr [(1,4097)]

theorem witness_Streams_5 :
    (Runs st75 0 (st75.ctxD 0) (.sdim 28 1)) ∧
    (4096 < ((st75.ctxD 0).getG 1).toNat / 65536 ^ 0 % 65536) := by decide +kernel

theorem witness_Streams_6 :
    Runs st11 0 (st11.ctxD 0) (.sen 31) := by decide +kernel

theorem witness_Streams_7 :
    Runs st11 0 (st11.ctxD 0) (.sdis 31) := by decide +kernel

def st78 : State := wc fun c => { c with streams := c.streams.set 0 { en := true, base16 := 4#16, stride := Vector.replicate 4 8#16, bound := Vector.replicate 4 1#12 } }

theorem witness_Streams_8 :
    (Runs st78 0 (st78.ctxD 0) (.sstat 3 28)) ∧ ((28#5).toNat ≤ 28) := by decide +kernel

theorem witness_Streams_9 :
    ((Runs st78 0 (st78.ctxD 0) (.fmvFF 3 28)) ∧
    (streamOn (st78.ctxD 0).streams 3 = none) ∧
    (streamOn (st78.ctxD 0).streams 28 = some 0) ∧
    ((st78.ctxD 0).streams[0].dir = false) ∧
    ((st78.ctxD 0).streams[0].ended = false) ∧
    (0 ≤ (st78.ctxD 0).streams[0].addr)) ∧
    (ScratchOk st78 (st78.ctxD 0) (st78.ctxD 0).streams[0].addr.toNat 8 1) := ⟨by decide +kernel, scratch_ok (by decide +kernel)⟩

def st80 : State := wl (wc fun c => { c with q := c.q.set 2 (1 + 4 * 3) }) fun l => { l with ports := l.ports.set 3 { words := [9, 8], reader := some 0 } }

theorem witness_QueueRegisters_1 :
    (Runs st80 0 (st80.ctxD 0) (.qget 3 2)) ∧
    (Runs st80 0 (st80.ctxD 0) (.qpeek 3 2)) ∧
    (Runs st80 0 (st80.ctxD 0) (.qtry 3 2)) ∧
    ((st80.ctxD 0).stage = none) ∧
    (qMode ((st80.ctxD 0).qw 2) = 1) ∧
    ((st80.port (st80.ctxD 0).lck (qPort ((st80.ctxD 0).qw 2))).words = [9, 8]) := by decide +kernel

def st81 : State := wc fun c => { c with q := c.q.set 2 (1 + 4 * 3) }

theorem witness_QueueRegisters_2 :
    (Runs st81 0 (st81.ctxD 0) (.qget 3 2)) ∧
    (Runs st81 0 (st81.ctxD 0) (.qpeek 3 2)) ∧
    (Runs st81 0 (st81.ctxD 0) (.qtry 3 2)) ∧
    ((st81.ctxD 0).stage = none) ∧
    (qMode ((st81.ctxD 0).qw 2) = 1) ∧
    ((st81.port (st81.ctxD 0).lck (qPort ((st81.ctxD 0).qw 2))).words = []) := by decide +kernel

def st82 : State := wc fun c => { c with q := c.q.set 2 (2 + 4 * 3) }

theorem witness_QueueRegisters_3 :
    (Runs st82 0 (st82.ctxD 0) (.qput 2 1)) ∧
    (Runs st82 0 (st82.ctxD 0) (.qtput 3 2 1)) ∧
    ((st82.ctxD 0).stage = none) ∧
    (qMode ((st82.ctxD 0).qw 2) = 2) ∧
    (st82.retxRoom (st82.ctxD 0).lck = true) ∧
    ((st82.port ((st82.ctxD 0).portLc ((st82.ctxD 0).qw 2)) (qPort ((st82.ctxD 0).qw 2))).space ≠ 0) := by decide +kernel

def st83 : State := wl (wc fun c => { c with q := c.q.set 2 (2 + 4 * 3) }) fun l => { l with ports := l.ports.set 3 { words := List.replicate 16 9 } }

theorem witness_QueueRegisters_4 :
    (Runs st83 0 (st83.ctxD 0) (.qtput 3 2 1)) ∧
    ((st83.ctxD 0).stage = none) ∧
    (qMode ((st83.ctxD 0).qw 2) = 2) ∧
    ((st83.port ((st83.ctxD 0).portLc ((st83.ctxD 0).qw 2)) (qPort ((st83.ctxD 0).qw 2))).space = 0) := by decide +kernel

def st84 : State := wk (wr [(1,5)]) fun k => { k with warp := true }

theorem witness_QueueRegisters_5 :
    (Runs st84 0 (st84.ctxD 0) (.qcfg 3 2 1)) ∧
    (st84.isWarp (st84.ctxD 0).kid = true) := by decide +kernel

def st85 : State := wr [(1,1 + 4 * 15)]

theorem witness_QueueRegisters_6 :
    (Runs st85 0 (st85.ctxD 0) (.qcfg 3 7 1)) ∧
    (st85.isWarp (st85.ctxD 0).kid = false) ∧
    (bits ((st85.ctxD 0).getG 1) 21 43 = 0) ∧
    (qMode ((st85.ctxD 0).getG 1) = 1 ∧
    qCore ((st85.ctxD 0).getG 1) = 0 ∧
    qLt ((st85.ctxD 0).getG 1) = 0) ∧
    (qMode ((st85.ctxD 0).qw 7) = 0) ∧
    (st85.endTaken 0 (st85.ctxD 0) ((st85.ctxD 0).getG 1) = false) := by decide +kernel

theorem witness_QueueRegisters_7 :
    (Runs st81 0 (st81.ctxD 0) (.qcfg 3 2 1)) ∧
    ((st81.ctxD 0).getG 1 = 0#64) ∧
    (st81.wordsOut (st81.ctxD 0) ((st81.ctxD 0).qw 2) = false) := by decide +kernel

theorem witness_QueueRegisters_8 :
    Runs st80 0 (st80.ctxD 0) (.qstat 3 2) := by decide +kernel

def st88 : State := wa w (fl 0 0 3 2 (.queueWord 0))

theorem witness_QueueRegisters_9 :
    (st88.arrival? st88.ev.id = some (fl 0 0 3 2 (.queueWord 0))) ∧
    (st88.accessState (fl 0 0 3 2 (.queueWord 0)).part (fl 0 0 3 2 (.queueWord 0)).kid = some .running) ∧
    ((fl 0 0 3 2 (.queueWord 0)).lt < (st88.kernelD (fl 0 0 3 2 (.queueWord 0)).kid).tiles) := by decide +kernel

def st89 : State := wr [(29,5)]

theorem witness_Messages_1 :
    (Runs st89 0 (st89.ctxD 0) (.send 3 29 2)) ∧
    (st89.isWarp (st89.ctxD 0).kid = false) ∧
    ((st89.ctxD 0).kid < 64) := by decide +kernel

def st90 : State := wr [(2,2^32+15*2^33)]

theorem witness_Messages_2 :
    (Runs st90 0 (st90.ctxD 0) (.sendt 3 1 2 4 7)) ∧
    (destChan ((st90.ctxD 0).getG 2) = 15) := by decide +kernel

def st91 : State := wr [(2,2^33),(4,2^64-8)]

theorem witness_Messages_3 :
    (Runs st91 0 (st91.ctxD 0) (.sendt 3 1 2 4 7)) ∧
    (bits ((st91.ctxD 0).getG 2) 0 32 = 0) ∧
    (destChan ((st91.ctxD 0).getG 2) ≠ 15) ∧
    (destLocal ((st91.ctxD 0).getG 2) = false) ∧
    (2 ^ 64 - 1 ≤ ((st91.ctxD 0).getG 4).toNat + (7#32).toNat) := by decide +kernel

def st92 : State := wr [(1,5),(2,2^32+3*2^33)]

theorem witness_Messages_4 :
    (Runs st92 0 (st92.ctxD 0) (.send 3 1 2)) ∧
    (bits ((st92.ctxD 0).getG 2) 0 32 = 0) ∧
    (destChan ((st92.ctxD 0).getG 2) ≠ 15) ∧
    (destLocal ((st92.ctxD 0).getG 2) = true → destLt ((st92.ctxD 0).getG 2) < (st92.kernelD (st92.ctxD 0).kid).tiles) ∧
    ((st92.ctxD 0).item.vrt.toNat < 2 ^ 64 - 1) ∧
    (st92.sendOk (st92.ctxD 0) = true) := by decide +kernel

def st93 : State := wa (wl w fun l => { l with bindings := l.bindings.set 3 { bound := true } }) (fl 0 0 3 0 (.message {} none))

theorem witness_Messages_5 :
    (st93.arrival? st93.ev.id = some (fl 0 0 3 0 (.message {} none))) ∧
    (st93.accessState (fl 0 0 3 0 (.message {} none)).part (fl 0 0 3 0 (.message {} none)).kid = some .running) ∧
    ((fl 0 0 3 0 (.message {} none)).lt < (st93.kernelD (fl 0 0 3 0 (.message {} none)).kid).tiles) ∧
    ((fl 0 0 3 0 (.message {} none)).kind = 0) ∧
    ((fl 0 0 3 0 (.message {} none)).kid ≠ 63) ∧
    ((fl 0 0 3 0 (.message {} none)).chan < 15) ∧
    (st93.isWarp (fl 0 0 3 0 (.message {} none)).kid = false) ∧
    ((st93.lcore (fl 0 0 3 0 (.message {} none)).lck).items.length < 64) ∧
    (((st93.lcore (fl 0 0 3 0 (.message {} none)).lck).bindings.toList.getD (fl 0 0 3 0 (.message {} none)).chan {}).bound = true) := by decide +kernel

def st94 : State := wa w { fl 0 0 3 0 (.message {} none) with hdr := mkHdr 0 0 63 0 0 3 0 false false 0 }

theorem witness_Messages_6 :
    (st94.arrival? st94.ev.id = some ({ fl 0 0 3 0 (.message {} none) with hdr := mkHdr 0 0 63 0 0 3 0 false false 0 })) ∧
    (({ fl 0 0 3 0 (.message {} none) with hdr := mkHdr 0 0 63 0 0 3 0 false false 0 }).kind = 0) ∧
    (({ fl 0 0 3 0 (.message {} none) with hdr := mkHdr 0 0 63 0 0 3 0 false false 0 }).kid = 63) := by decide +kernel

def st95 : State := wa w (fl 0 0 15 0 (.call {} 64 none none))

theorem witness_Messages_7 :
    (st95.arrival? st95.ev.id = some (fl 0 0 15 0 (.call {} 64 none none))) ∧
    (st95.accessState (fl 0 0 15 0 (.call {} 64 none none)).part (fl 0 0 15 0 (.call {} 64 none none)).kid = some .running) ∧
    ((fl 0 0 15 0 (.call {} 64 none none)).lt < (st95.kernelD (fl 0 0 15 0 (.call {} 64 none none)).kid).tiles) ∧
    (st95.isWarp (lcKid (fl 0 0 15 0 (.call {} 64 none none)).lck) = false) ∧
    ((st95.lcore (fl 0 0 15 0 (.call {} 64 none none)).lck).ring.length < 1024) := by decide +kernel

def st96 : State := wa (wc fun c => { c with pend := [{ ctx := 0, d := 9, isCall := true, ref := 4 }] }) (fl 0 0 0 0 (.retval {} (.pendReg 0 9 4)))

theorem witness_Messages_8 :
    (st96.arrival? st96.ev.id = some (fl 0 0 0 0 (.retval {} (.pendReg 0 9 4)))) ∧
    (st96.accessState (fl 0 0 0 0 (.retval {} (.pendReg 0 9 4))).part (fl 0 0 0 0 (.retval {} (.pendReg 0 9 4))).kid = some .running) ∧
    ((fl 0 0 0 0 (.retval {} (.pendReg 0 9 4))).lt < (st96.kernelD (fl 0 0 0 0 (.retval {} (.pendReg 0 9 4))).kid).tiles) ∧
    ((st96.lcore (fl 0 0 0 0 (.retval {} (.pendReg 0 9 4))).lck).antis = []) ∧
    (st96.ctx? 0 = some (st96.ctxD 0)) ∧
    ((st96.ctxD 0).pend.find? (fun q => q.is 0 4 true) = some { ctx := 0, d := 9, isCall := true, ref := 4 }) ∧
    (∀ e ∈ st96.ctxs, e.1 ≠ 0 → e.2.pend.any (fun q => q.is 0 4 true) = false) ∧
    (st96.isWarp (fl 0 0 0 0 (.retval {} (.pendReg 0 9 4))).kid = false) := by decide +kernel

def st97 : State := wa (wl w fun l => { l with items := [{ key := { vrt := 5 } }] }) (fl 0 0 0 1 (.anti { vrt := 5 }))

theorem witness_Messages_9 :
    (st97.arrival? st97.ev.id = some (fl 0 0 0 1 (.anti { vrt := 5 }))) ∧
    (st97.accessState (fl 0 0 0 1 (.anti { vrt := 5 })).part (fl 0 0 0 1 (.anti { vrt := 5 })).kid = some .running) ∧
    ((fl 0 0 0 1 (.anti { vrt := 5 })).lt < (st97.kernelD (fl 0 0 0 1 (.anti { vrt := 5 })).kid).tiles) ∧
    ((st97.lcore (fl 0 0 0 1 (.anti { vrt := 5 })).lck).items.any (fun m => decide (m.key = { vrt := 5 }) && !m.admitted) = true) := by decide +kernel

def st98 : State := wr [(2,2^32+2^40)]

theorem witness_Messages_10 :
    (Runs st98 0 (st98.ctxD 0) (.send 3 1 2)) ∧
    (bits ((st98.ctxD 0).getG 2) 0 32 = 0 ∧
    destChan ((st98.ctxD 0).getG 2) ≠ 15 ∧
    destLocal ((st98.ctxD 0).getG 2) = true) ∧
    ((st98.kernelD (st98.ctxD 0).kid).tiles ≤ destLt ((st98.ctxD 0).getG 2)) := by decide +kernel

def st99 : State := wl (wr [(1,5),(2,2^32+3*2^33)]) fun l => { l with retx := List.replicate 64 (fl 0 0 3 0 (.message {} none)) }

theorem witness_Messages_11 :
    (Runs st99 0 (st99.ctxD 0) (.send 3 1 2)) ∧
    (bits ((st99.ctxD 0).getG 2) 0 32 = 0 ∧
    destChan ((st99.ctxD 0).getG 2) ≠ 15 ∧
    (destLocal ((st99.ctxD 0).getG 2) = true → destLt ((st99.ctxD 0).getG 2) < (st99.kernelD (st99.ctxD 0).kid).tiles)) ∧
    (64 ≤ (st99.lcore (st99.ctxD 0).lck).retx.length) := by decide +kernel

def st100 : State := wk (wc fun c => { (c.setG 2 0x700000000#64).setG 1 5#64 with item := { vrt := 7 } }) fun k => { k with warp := true, keeplog := 4096 }

theorem witness_Messages_12 :
    (Runs st100 0 (st100.ctxD 0) (.send 3 1 2)) ∧
    (st100.isWarp (st100.ctxD 0).kid = true) ∧
    (bits ((st100.ctxD 0).getG 2) 0 32 = 0 ∧
    destChan ((st100.ctxD 0).getG 2) ≠ 15 ∧
    (destLocal ((st100.ctxD 0).getG 2) = true → destLt ((st100.ctxD 0).getG 2) < (st100.kernelD (st100.ctxD 0).kid).tiles)) ∧
    (destKid (st100.ctxD 0).kid ((st100.ctxD 0).getG 2) = (st100.ctxD 0).kid ∧
    st100.destDev ((st100.ctxD 0).getG 2) = st100.device.toNat) ∧
    (st100.sendOk (st100.ctxD 0) = true) ∧
    ((st100.lcore (st100.ctxD 0).alck).logBytes + 32 ≤ (st100.kernelD (lcKid (st100.ctxD 0).alck)).keeplog) := by decide +kernel

def st101 : State := wk (wc fun c => { c.setG 2 0x700000000#64 with item := { vrt := 7 } }) fun k => { k with warp := true, keeplog := 4096 }

theorem witness_Messages_13 :
    (Runs st101 0 (st101.ctxD 0) (.sendt 3 1 2 4 7)) ∧
    (st101.isWarp (st101.ctxD 0).kid = true) ∧
    (bits ((st101.ctxD 0).getG 2) 0 32 = 0 ∧
    destChan ((st101.ctxD 0).getG 2) ≠ 15 ∧
    (destLocal ((st101.ctxD 0).getG 2) = true → destLt ((st101.ctxD 0).getG 2) < (st101.kernelD (st101.ctxD 0).kid).tiles)) ∧
    (destKid (st101.ctxD 0).kid ((st101.ctxD 0).getG 2) = (st101.ctxD 0).kid ∧
    st101.destDev ((st101.ctxD 0).getG 2) = st101.device.toNat) ∧
    (((st101.ctxD 0).getG 4).toNat + (7#32).toNat ≤ (st101.ctxD 0).item.vrt.toNat) := by decide +kernel

def st102 : State := wa (wt (wl (wk { w with ctxs := [] } fun k => { k with warp := true, keeplog := 4096 }) fun l => { l with bindings := l.bindings.set 3 { bound := true }, handled := [{ item := { key := { vrt := 8 }, vrt := 8, chan := 2, p0 := 77 }, workId := 0#64, strand := 0#2, entryAt := 0#64, eff := 0 }], keepLog := [{ by_ := { vrt := 8 }, lt := 0, off := 128, old := List.replicate 64 3#8, slot := none }], outLog := [{ by_ := { vrt := 8 }, hdr := mkHdr 0 0 0 0 0 4 0 false false 0, key := { vrt := 9, seq := 1 }, rto := none }], commitQ := [{ op := .store 0x40000100 [7] 0x100000100#64 false false, by_ := { vrt := 8 }, seqno := 0 }] }) fun x => { x with scratch := memPut [] 128 [9, 9] }) { fl 0 0 3 0 (.message { vrt := 5, seq := 1 } none) with src := srcWord 1 0 0 0 0 1 0 }

theorem witness_Messages_14 :
    ((st102.arrival? st102.ev.id = some ({ fl 0 0 3 0 (.message { vrt := 5, seq := 1 } none) with src := srcWord 1 0 0 0 0 1 0 }) ∧
    st102.accessState ({ fl 0 0 3 0 (.message { vrt := 5, seq := 1 } none) with src := srcWord 1 0 0 0 0 1 0 }).part ({ fl 0 0 3 0 (.message { vrt := 5, seq := 1 } none) with src := srcWord 1 0 0 0 0 1 0 }).kid = some .running ∧
    ({ fl 0 0 3 0 (.message { vrt := 5, seq := 1 } none) with src := srcWord 1 0 0 0 0 1 0 }).lt < (st102.kernelD ({ fl 0 0 3 0 (.message { vrt := 5, seq := 1 } none) with src := srcWord 1 0 0 0 0 1 0 }).kid).tiles ∧
    st102.kernelRuns ({ fl 0 0 3 0 (.message { vrt := 5, seq := 1 } none) with src := srcWord 1 0 0 0 0 1 0 }).kid = true) ∧
    (({ fl 0 0 3 0 (.message { vrt := 5, seq := 1 } none) with src := srcWord 1 0 0 0 0 1 0 }).kind = 0 ∧
    ({ fl 0 0 3 0 (.message { vrt := 5, seq := 1 } none) with src := srcWord 1 0 0 0 0 1 0 }).kid ≠ 63 ∧
    ({ fl 0 0 3 0 (.message { vrt := 5, seq := 1 } none) with src := srcWord 1 0 0 0 0 1 0 }).chan < 15 ∧
    ({ fl 0 0 3 0 (.message { vrt := 5, seq := 1 } none) with src := srcWord 1 0 0 0 0 1 0 }).cut = false) ∧
    (st102.isWarp ({ fl 0 0 3 0 (.message { vrt := 5, seq := 1 } none) with src := srcWord 1 0 0 0 0 1 0 }).kid = true ∧
    st102.inside ({ fl 0 0 3 0 (.message { vrt := 5, seq := 1 } none) with src := srcWord 1 0 0 0 0 1 0 }) { vrt := 5, seq := 1 } = true ∧
    (st102.lcore ({ fl 0 0 3 0 (.message { vrt := 5, seq := 1 } none) with src := srcWord 1 0 0 0 0 1 0 }).lck).antis = []) ∧
    ((st102.lcore ({ fl 0 0 3 0 (.message { vrt := 5, seq := 1 } none) with src := srcWord 1 0 0 0 0 1 0 }).lck).items.length + (st102.lcore ({ fl 0 0 3 0 (.message { vrt := 5, seq := 1 } none) with src := srcWord 1 0 0 0 0 1 0 }).lck).heldIn.length < 64 ∧
    ((st102.lcore ({ fl 0 0 3 0 (.message { vrt := 5, seq := 1 } none) with src := srcWord 1 0 0 0 0 1 0 }).lck).bindings.toList.getD ({ fl 0 0 3 0 (.message { vrt := 5, seq := 1 } none) with src := srcWord 1 0 0 0 0 1 0 }).chan {}).bound = true ∧
    st102.ctxs = []) ∧
    ((st102.kernelD ({ fl 0 0 3 0 (.message { vrt := 5, seq := 1 } none) with src := srcWord 1 0 0 0 0 1 0 }).kid).chains = [] ∧
    (st102.kernelD ({ fl 0 0 3 0 (.message { vrt := 5, seq := 1 } none) with src := srcWord 1 0 0 0 0 1 0 }).kid).cut = none ∧
    (st102.kernelD ({ fl 0 0 3 0 (.message { vrt := 5, seq := 1 } none) with src := srcWord 1 0 0 0 0 1 0 }).kid).lastCut = none) ∧
    ((st102.lcore ({ fl 0 0 3 0 (.message { vrt := 5, seq := 1 } none) with src := srcWord 1 0 0 0 0 1 0 }).lck).handled = [{ item := { key := { vrt := 8 }, vrt := 8, chan := 2, p0 := 77 }, workId := 0#64, strand := 0#2, entryAt := 0#64, eff := 0 }]) ∧
    (Key.lt { vrt := 5, seq := 1 } { vrt := 8 } = true) ∧
    ((st102.ltile 0).codelets = [] ∧
    (List.replicate 64 3#8).length = 64)) ∧
    (Recovers st102 ({ fl 0 0 3 0 (.message { vrt := 5, seq := 1 } none) with src := srcWord 1 0 0 0 0 1 0 }) { vrt := 5, seq := 1 }) := ⟨by decide +kernel, Or.inr (by decide +kernel)⟩

def st103 : State := wr [(1,64),(2,128)]

theorem witness_WarpInstructions_1 :
    (Runs st103 0 (st103.ctxD 0) (.keep 3 1 2)) ∧
    (((st103.ctxD 0).getG 1).toNat % 64 = 0) ∧
    (((st103.ctxD 0).getG 2).toNat % 64 = 0) ∧
    ((st103.ctxD 0).getG 2 ≠ 0#64) ∧
    (((st103.ctxD 0).getG 1).toNat + ((st103.ctxD 0).getG 2).toNat ≤ st103.sOf (st103.ctxD 0)) ∧
    ((st103.ltile (st103.ctxD 0).ltk).keeps[0] = none) ∧
    (∀ r ∈ (st103.ltile (st103.ctxD 0).ltk).keeps.toList, r = none) := by decide +kernel

def st104 : State := wt (wr [(1,64)]) fun x => { x with keeps := x.keeps.set 0 (some (64, 128)) }

theorem witness_WarpInstructions_2 :
    (Runs st104 0 (st104.ctxD 0) (.unkeep 1)) ∧
    ((st104.ltile (st104.ctxD 0).ltk).keeps[0] = some (((st104.ctxD 0).getG 1).toNat, 128)) := by decide +kernel

theorem witness_WarpInstructions_3 :
    (Runs st11 0 (st11.ctxD 0) (.irrev)) ∧ (st11.isWarp (st11.ctxD 0).kid = false) := by decide +kernel

def st106 : State := wk (wc fun c => { c with irrevHits := 2, held := some { instr := .irrev, sample := 0#4 } }) fun k => { k with warp := true }

theorem witness_WarpInstructions_4 :
    (Runs st106 0 (st106.ctxD 0) (.irrev)) ∧
    (st106.isWarp (st106.ctxD 0).kid = true) ∧
    ((st106.ctxD 0).irrevocable = false) ∧
    ((st106.ctxD 0).held.isSome = true) ∧
    (2 ≤ (st106.ctxD 0).irrevHits) := by decide +kernel

def st107 : State := wl (wk w fun k => { k with warp := true }) fun l => { l with gvt := 9 }

theorem witness_WarpInstructions_5 :
    (Runs st107 0 (st107.ctxD 0) (.gvtr 3 1)) ∧ ((st107.ctxD 0).getG 1 = 0#64) := by decide +kernel

def st108 : State := wl (wk (wc fun c => { c.setG 1 5 with item := { vrt := 7 } }) fun k => { k with warp := true }) fun l => { l with gvt := 6 }

theorem witness_WarpInstructions_6 :
    (Runs st108 0 (st108.ctxD 0) (.gvtr 3 1)) ∧
    ((st108.ctxD 0).getG 1 ≠ 0#64) ∧
    (st108.isWarp (st108.ctxD 0).kid = true) ∧
    (((st108.ctxD 0).getG 1).toNat < (st108.ctxD 0).item.vrt.toNat) ∧
    (((st108.ctxD 0).getG 1).toNat < (st108.lcore (st108.ctxD 0).alck).gvt) := by decide +kernel

def st109 : State := wk (wc fun c => { c.setG 1 7 with item := { vrt := 7 } }) fun k => { k with warp := true }

theorem witness_WarpInstructions_7 :
    (Runs st109 0 (st109.ctxD 0) (.gvtr 3 1)) ∧
    (st109.isWarp (st109.ctxD 0).kid = true) ∧
    ((st109.ctxD 0).item.vrt.toNat ≤ ((st109.ctxD 0).getG 1).toNat) := by decide +kernel

theorem witness_WarpInstructions_8 :
    (Runs st15 0 (st15.ctxD 0) (.gvtr 3 1)) ∧
    ((st15.ctxD 0).getG 1 ≠ 0#64) ∧
    (st15.isWarp (st15.ctxD 0).kid = false) := by decide +kernel

theorem witness_WarpInstructions_9 :
    (Runs st15 0 (st15.ctxD 0) (.anti 2 1)) ∧
    (st15.isWarp (st15.ctxD 0).kid = false) := by decide +kernel

def st112 : State := wk (wr [(1,3)]) fun k => { k with warp := true }

theorem witness_WarpInstructions_10 :
    (Runs st112 0 (st112.ctxD 0) (.anti 2 1)) ∧
    (st112.isWarp (st112.ctxD 0).kid = true) ∧
    ((st112.lcore (st112.ctxD 0).alck).outLog = []) ∧
    ((st112.lcore (st112.ctxD 0).alck).commitQ = []) := by decide +kernel

def st113 : State := wl (wk (wr [(1,3)]) fun k => { k with warp := true }) fun l => { l with outLog := [{ by_ := {}, hdr := 0, key := { vrt := 4, seq := 3 }, rto := none }] }

theorem witness_WarpInstructions_11 :
    (Runs st113 0 (st113.ctxD 0) (.anti 2 1)) ∧
    (st113.isWarp (st113.ctxD 0).kid = true) ∧
    ((st113.lcore (st113.ctxD 0).alck).outLog = [{ by_ := {}, hdr := 0, key := { vrt := 4, seq := 3 }, rto := none }]) ∧
    ((st113.ctxD 0).item.key = {}) ∧
    ((st113.ctxD 0).lt = 0 ∧
    (st113.ctxD 0).core = 0 ∧
    (st113.ctxD 0).sendStrand = 0 ∧
    ((st113.ctxD 0).getG 1).toNat = 3) := by decide +kernel

def st114 : State := we (wl (wk w fun k => { k with warp := true, kmin := .key { vrt := 9 } }) fun l => { l with owed := true }) { id := 0 }

theorem witness_WarpInstructions_12 :
    (st114.isWarp (lcKid st114.ev.id) = true) ∧
    ((st114.lcore st114.ev.id).owed = true) ∧
    (st114.kernelRuns (lcKid st114.ev.id) = true) ∧
    ((st114.lcore st114.ev.id).commitQ = []) ∧
    (∀ m ∈ (st114.lcore st114.ev.id).items, m.admitted = false) ∧
    (∀ e ∈ st114.ctxs, e.2.trapWaits = false) := by decide +kernel

def st115 : State := we (wl (wk w fun k => { k with warp := true, kmin := .key { vrt := 9 } }) fun l => { l with owed := true, commitQ := [{ op := .store 0x40000100 [7] 0x100000100#64 false false, by_ := { vrt := 8 }, seqno := 0 }] }) { id := 0 }

theorem witness_WarpInstructions_13 :
    (st115.isWarp (lcKid st115.ev.id) = true) ∧
    ((st115.lcore st115.ev.id).owed = true) ∧
    (st115.kernelRuns (lcKid st115.ev.id) = true) ∧
    ((st115.lcore st115.ev.id).commitQ = [{ op := .store 0x40000100 [7] 0x100000100#64 false false, by_ := { vrt := 8 }, seqno := 0 }]) ∧
    ((st115.kernelD (lcKid st115.ev.id)).kmin = .key { vrt := 9 }) ∧
    (Key.lt { vrt := 8 } { vrt := 9 } = true) ∧
    (apertureCtrl 0x40000100 = none) ∧
    (∀ x ∈ st115.lcores, x.1 ≠ st115.ev.id → x.2.commitQ = []) ∧
    (st115.lcores.map (·.1) = [0]) ∧
    (∀ m ∈ (st115.lcore st115.ev.id).items, m.admitted = false) ∧
    (∀ e ∈ st115.ctxs, e.2.trapWaits = false) := by decide +kernel

def st116 : State := wt (wl (wk (wc fun c => { c.setG 1 192 with item := { vrt := 7, key := { vrt := 7 } } }) fun k => { k with warp := true, keeplog := 4096 }) fun l => { l with keepLog := [] }) fun x => { x with keeps := x.keeps.set 0 (some (128, 128)) }

theorem witness_WarpInstructions_14 :
    ((Runs st116 0 (st116.ctxD 0) (.st 1 3 1 false .d)) ∧
    ((st116.ctxD 0).shipped = none ∧
    200 + 8 ≤ st116.sOf (st116.ctxD 0) ∧
    st116.ev.flag = false ∧
    st116.spec (st116.ctxD 0) = true ∧
    st116.isWarp (lcKid (st116.ctxD 0).alck) = true) ∧
    ((st116.ltile (st116.ctxD 0).ltk).keeps? 200 = true ∧
    (st116.ltile (st116.ctxD 0).ltk).codelets = []) ∧
    ((st116.lcore (st116.ctxD 0).alck).blockKeys = [] ∧
    (st116.lcore (st116.ctxD 0).alck).keepLog = []) ∧
    ((st116.lcore (st116.ctxD 0).alck).kmin.above (st116.ctxD 0).item.key = false) ∧
    ((st116.lcore (st116.ctxD 0).alck).logBytes + 128 ≤ (st116.kernelD (lcKid (st116.ctxD 0).alck)).keeplog)) ∧
    (IsStore (.st 1 3 1 false .d) (st116.ctxD 0) 3 .d 200 4) := ⟨by decide +kernel, Or.inl ⟨1, 1, false, rfl, by decide +kernel, rfl⟩⟩

def st117 : State := wr [(1,0x123456789)]

theorem witness_KernelInstructions_1 :
    (Runs st117 0 (st117.ctxD 0) (.wid 3 1 0)) ∧
    ((st117.kernelD (st117.ctxD 0).kid).widths.toList[0]? = some 64) := by decide +kernel

def st118 : State := wk (wr [(1,0x123456789)]) fun k => { k with widths := #v[32, 16, 8, 8, 0, 0] }

theorem witness_KernelInstructions_2 :
    (Runs st118 0 (st118.ctxD 0) (.wid 3 1 9)) ∧
    ((st118.kernelD (st118.ctxD 0).kid).widths.toList[1]? = some 16) ∧
    ((9#5).toNat % 8 < 6) := by decide +kernel

def st119 : State := wk (wr [(1,0x1234567895)]) fun k => { k with widths := #v[32, 16, 8, 8, 0, 0] }

theorem witness_KernelInstructions_3 :
    Runs st119 0 (st119.ctxD 0) (.wid 3 1 2) := by decide +kernel

theorem witness_KernelInstructions_4 :
    Runs st11 0 (st11.ctxD 0) (.wid 3 1 6) := by decide +kernel

theorem witness_KernelInstructions_5 :
    (Runs st11 0 (st11.ctxD 0) (.kstat 3 1)) ∧
    ((st11.kernel? ((st11.ctxD 0).getG 1).toNat).isSome = true) ∧
    (st11.partOf 0 = st11.partOf (st11.ctxD 0).kid) := by decide +kernel

def st122 : State := wr [(1,63)]

theorem witness_KernelInstructions_6 :
    (Runs st122 0 (st122.ctxD 0) (.kstat 3 1)) ∧
    (st122.kernel? ((st122.ctxD 0).getG 1).toNat = none) := by decide +kernel

theorem witness_KernelInstructions_7 :
    Runs st23 0 (st23.ctxD 0) (.kstat 3 1) := by decide +kernel

def st124 : State := wk w fun k => { k with warp := true }

theorem witness_KernelInstructions_8 :
    (Runs st124 0 (st124.ctxD 0) (.kend 3 1)) ∧
    (st124.isWarp (st124.ctxD 0).kid = true) := by decide +kernel

theorem witness_KernelInstructions_9 :
    (Runs st122 0 (st122.ctxD 0) (.kend 3 1)) ∧
    (st122.isWarp (st122.ctxD 0).kid = false) := by decide +kernel

theorem witness_KernelInstructions_10 :
    (Runs st0 0 (st0.ctxD 0) (.kend 3 1)) ∧
    (st0.isChild ((st0.ctxD 0).getG 1).toNat (st0.ctxD 0).kid = false) := by decide +kernel

def st127 : State := wchild (wr [(1,1)]) .running 0

theorem witness_KernelInstructions_11 :
    (Runs st127 0 (st127.ctxD 0) (.kend 3 1)) ∧
    (st127.isChild ((st127.ctxD 0).getG 1).toNat (st127.ctxD 0).kid = true) ∧
    ((st127.kernelD 1).state = .running) ∧
    (∀ e ∈ st127.ctxs, e.1 = 0 → e.2 = (st127.ctxD 0)) := by decide +kernel

theorem witness_KernelInstructions_12 :
    (Runs st11 0 (st11.ctxD 0) (.kend 3 1)) ∧
    (((st11.ctxD 0).getG 1).toNat = (st11.ctxD 0).kid) ∧
    ((st11.kernelD 0).state = .running) := by decide +kernel

theorem witness_KernelInstructions_13 :
    Runs st124 0 (st124.ctxD 0) (.launch 3 1 2) := by decide +kernel

def st130 : State := wr [(1,128)]

theorem witness_KernelInstructions_14 :
    (Runs st130 0 (st130.ctxD 0) (.launch 3 1 2)) ∧
    (((st130.ctxD 0).getG 1).toNat % 256 ≠ 0) ∧
    (((st130.ctxD 0).getG 1).getLsbD 0 = false) := by decide +kernel

def st131 : State := wchild (wr [(1,3)]) .held 0

theorem witness_KernelInstructions_15 :
    (Runs st131 0 (st131.ctxD 0) (.launch 3 1 2)) ∧
    (st131.putsOut (st131.ctxD 0) = false) ∧
    ((st131.kernelD 1).state = .held) ∧
    (st131.isChild 1 (st131.ctxD 0).kid = true) := by decide +kernel

def st132 : State := wh (wc fun c => { (c.setG 1 0x100002000).setG 2 0 with held := some { instr := .launch 3 1 2, sample := 0#4, stage := 1, vals := hdrWords, answered := true, ans := fwOk } })

theorem witness_KernelInstructions_16 :
    (Runs st132 0 (st132.ctxD 0) (.launch 3 1 2)) ∧
    (st132.isWarp (st132.ctxD 0).kid = false) ∧
    (((st132.ctxD 0).getG 1).toNat % 256 = 0) ∧
    (bits ((st132.ctxD 0).getG 2) 7 25 = 0) ∧
    (((st132.ctxD 0).getG 2).getLsbD 4 = false) ∧
    (hdrField (hdrWords.flatMap fun x => leBytes 8 x.toNat) 0 8 % 128 = 0) ∧
    (st132.entryTable (st132.partOf (st132.ctxD 0).kid) (hdrField (hdrWords.flatMap fun x => leBytes 8 x.toNat) 0 8) = some (0x100000000 :: List.replicate 15 0)) ∧
    (headerBad (hdrWords.flatMap fun x => leBytes 8 x.toNat) (0x100000000 :: List.replicate 15 0) = none) ∧
    (st132.nextKid = some 1) ∧
    (hdrField (hdrWords.flatMap fun x => leBytes 8 x.toNat) 20 4 ≤ 1024 * doubling (hdrField (hdrWords.flatMap fun x => leBytes 8 x.toNat) 24 4)) ∧
    (st132.placeOk (st132.partOf (st132.ctxD 0).kid) (hdrField (hdrWords.flatMap fun x => leBytes 8 x.toNat) 20 4) (doubling (hdrField (hdrWords.flatMap fun x => leBytes 8 x.toNat) 24 4)) fwOk = true) := by decide +kernel

def st133 : State := wr [(1,129)]

theorem witness_KernelInstructions_17 :
    (Runs st133 0 (st133.ctxD 0) (.launch 3 1 2)) ∧
    (st133.isWarp (st133.ctxD 0).kid = false ∧
    ((st133.ctxD 0).getG 1).getLsbD 0 = true ∧
    2 ^ 7 ≤ ((st133.ctxD 0).getG 1).toNat) := by decide +kernel

def st134 : State := wr [(2,128)]

theorem witness_KernelInstructions_18 :
    (Runs st134 0 (st134.ctxD 0) (.launch 3 1 2)) ∧
    (st134.isWarp (st134.ctxD 0).kid = false ∧
    ((st134.ctxD 0).getG 1).toNat % 256 = 0 ∧
    bits ((st134.ctxD 0).getG 2) 7 25 ≠ 0) := by decide +kernel

def st135 : State := wc fun c => { c.setG 1 3 with puts := 1 }

theorem witness_KernelInstructions_19 :
    (Runs st135 0 (st135.ctxD 0) (.launch 3 1 2)) ∧
    (st135.isWarp (st135.ctxD 0).kid = false ∧
    st135.putsOut (st135.ctxD 0) = true ∧
    ((st135.ctxD 0).getG 1).getLsbD 0 = true ∧
    ((st135.ctxD 0).getG 1).toNat < 2 ^ 7) := by decide +kernel

theorem witness_KernelInstructions_20 :
    (Runs st15 0 (st15.ctxD 0) (.launch 3 1 2)) ∧
    (st15.isWarp (st15.ctxD 0).kid = false ∧
    ((st15.ctxD 0).getG 1).toNat = 2 * 1 + 1 ∧
    st15.putsOut (st15.ctxD 0) = false ∧
    (st15.kernelD 1).state ≠ .held) := by decide +kernel

def st137 : State := wt (wr [(1,0),(2,0)]) fun x => { x with scratch := memPut [] 8 [5] }

theorem witness_KernelInstructions_21 :
    ((Runs st137 0 (st137.ctxD 0) (.launch 3 1 2)) ∧
    (st137.isWarp (st137.ctxD 0).kid = false ∧
    ((st137.ctxD 0).getG 1).toNat % 256 = 0 ∧
    bits ((st137.ctxD 0).getG 2) 7 25 = 0 ∧
    ((st137.ctxD 0).getG 2).getLsbD 4 = false ∧
    (st137.ctxD 0).stageOf = 0) ∧
    (st137.putsOut (st137.ctxD 0) = false)) ∧
    (ScratchOk st137 (st137.ctxD 0) ((st137.ctxD 0).getG 1).toNat 256 256) := ⟨by decide +kernel, scratch_ok (by decide +kernel)⟩

def st138 : State := wh (wc fun c => { (c.setG 1 0x100002000).setG 2 0 with held := some { instr := .launch 3 1 2, sample := 0#4, stage := 1, vals := hdrWords.set 0 0x100001001#64, answered := true, ans := fwOk } })

theorem witness_KernelInstructions_22 :
    (Runs st138 0 (st138.ctxD 0) (.launch 3 1 2)) ∧
    (st138.isWarp (st138.ctxD 0).kid = false ∧
    ((st138.ctxD 0).getG 1).toNat % 256 = 0 ∧
    bits ((st138.ctxD 0).getG 2) 7 25 = 0 ∧
    ((st138.ctxD 0).getG 2).getLsbD 4 = false) ∧
    (hdrField ((hdrWords.set 0 0x100001001#64).flatMap fun x => leBytes 8 x.toNat) 0 8 % 128 ≠ 0) := by decide +kernel

def st139 : State := wh (wc fun c => { (c.setG 1 0x100002000).setG 2 0 with held := some { instr := .launch 3 1 2, sample := 0#4, stage := 1, vals := hdrWords, answered := true, ans := { fwOk with value := 1#64 } } })

theorem witness_KernelInstructions_23 :
    (Runs st139 0 (st139.ctxD 0) (.launch 3 1 2)) ∧
    (st139.isWarp (st139.ctxD 0).kid = false ∧
    ((st139.ctxD 0).getG 1).toNat % 256 = 0 ∧
    bits ((st139.ctxD 0).getG 2) 7 25 = 0 ∧
    ((st139.ctxD 0).getG 2).getLsbD 4 = false) ∧
    (hdrField ((hdrWords).flatMap fun x => leBytes 8 x.toNat) 0 8 % 128 = 0) := by decide +kernel

def st140 : State := wh (wc fun c => { (c.setG 1 0x100002000).setG 2 0 with held := some { instr := .launch 3 1 2, sample := 0#4, stage := 1, vals := hdrWords.set 2 0#64, answered := true, ans := fwOk } })

theorem witness_KernelInstructions_24 :
    (Runs st140 0 (st140.ctxD 0) (.launch 3 1 2)) ∧
    (st140.isWarp (st140.ctxD 0).kid = false ∧
    ((st140.ctxD 0).getG 1).toNat % 256 = 0 ∧
    bits ((st140.ctxD 0).getG 2) 7 25 = 0 ∧
    ((st140.ctxD 0).getG 2).getLsbD 4 = false) ∧
    (hdrField ((hdrWords.set 2 0#64).flatMap fun x => leBytes 8 x.toNat) 0 8 % 128 = 0) ∧
    (st140.entryTable (st140.partOf (st140.ctxD 0).kid) (hdrField ((hdrWords.set 2 0#64).flatMap fun x => leBytes 8 x.toNat) 0 8) = some (0x100000000 :: List.replicate 15 0)) ∧
    ((headerBad ((hdrWords.set 2 0#64).flatMap fun x => leBytes 8 x.toNat) (0x100000000 :: List.replicate 15 0)) = some 20) := by decide +kernel

def st141 : State := (fun s : State => { s with kernels := s.kernels ++ (List.range 62).map fun n => (n + 1, ({ state := .running } : Kernel)) }) <| wh (wc fun c => { (c.setG 1 0x100002000).setG 2 0 with held := some { instr := .launch 3 1 2, sample := 0#4, stage := 1, vals := hdrWords, answered := true, ans := fwOk } })

theorem witness_KernelInstructions_25 :
    (Runs st141 0 (st141.ctxD 0) (.launch 3 1 2)) ∧
    (st141.isWarp (st141.ctxD 0).kid = false ∧
    ((st141.ctxD 0).getG 1).toNat % 256 = 0 ∧
    bits ((st141.ctxD 0).getG 2) 7 25 = 0 ∧
    ((st141.ctxD 0).getG 2).getLsbD 4 = false) ∧
    (hdrField ((hdrWords).flatMap fun x => leBytes 8 x.toNat) 0 8 % 128 = 0) ∧
    (st141.entryTable (st141.partOf (st141.ctxD 0).kid) (hdrField ((hdrWords).flatMap fun x => leBytes 8 x.toNat) 0 8) = some (0x100000000 :: List.replicate 15 0)) ∧
    (headerBad ((hdrWords).flatMap fun x => leBytes 8 x.toNat) (0x100000000 :: List.replicate 15 0) = none) ∧
    (st141.nextKid = none) := by decide +kernel

def st142 : State := wh (wc fun c => { (c.setG 1 0x100002000).setG 2 0 with held := some { instr := .launch 3 1 2, sample := 0#4, stage := 1, vals := (hdrWords.set 2 (BitVec.ofNat 64 (2000 * 2 ^ 32))).set 3 1048576#64, answered := true, ans := fwOk } })

theorem witness_KernelInstructions_26 :
    (Runs st142 0 (st142.ctxD 0) (.launch 3 1 2)) ∧
    (st142.isWarp (st142.ctxD 0).kid = false ∧
    ((st142.ctxD 0).getG 1).toNat % 256 = 0 ∧
    bits ((st142.ctxD 0).getG 2) 7 25 = 0 ∧
    ((st142.ctxD 0).getG 2).getLsbD 4 = false) ∧
    (hdrField (((hdrWords.set 2 (BitVec.ofNat 64 (2000 * 2 ^ 32))).set 3 1048576#64).flatMap fun x => leBytes 8 x.toNat) 0 8 % 128 = 0) ∧
    (st142.entryTable (st142.partOf (st142.ctxD 0).kid) (hdrField (((hdrWords.set 2 (BitVec.ofNat 64 (2000 * 2 ^ 32))).set 3 1048576#64).flatMap fun x => leBytes 8 x.toNat) 0 8) = some (0x100000000 :: List.replicate 15 0)) ∧
    (headerBad (((hdrWords.set 2 (BitVec.ofNat 64 (2000 * 2 ^ 32))).set 3 1048576#64).flatMap fun x => leBytes 8 x.toNat) (0x100000000 :: List.replicate 15 0) = none) ∧
    (1024 * doubling (hdrField (((hdrWords.set 2 (BitVec.ofNat 64 (2000 * 2 ^ 32))).set 3 1048576#64).flatMap fun x => leBytes 8 x.toNat) 24 4) < hdrField (((hdrWords.set 2 (BitVec.ofNat 64 (2000 * 2 ^ 32))).set 3 1048576#64).flatMap fun x => leBytes 8 x.toNat) 20 4) := by decide +kernel

def st143 : State := wp (wh (wc fun c => { (c.setG 1 0x100002000).setG 2 0 with held := some { instr := .launch 3 1 2, sample := 0#4, stage := 1, vals := hdrWords, answered := true, ans := { accept := true } } })) fun p => { p with quota := 0 }

theorem witness_KernelInstructions_27 :
    (Runs st143 0 (st143.ctxD 0) (.launch 3 1 2)) ∧
    (st143.isWarp (st143.ctxD 0).kid = false ∧
    ((st143.ctxD 0).getG 1).toNat % 256 = 0 ∧
    bits ((st143.ctxD 0).getG 2) 7 25 = 0 ∧
    ((st143.ctxD 0).getG 2).getLsbD 4 = false) ∧
    (hdrField ((hdrWords).flatMap fun x => leBytes 8 x.toNat) 0 8 % 128 = 0) ∧
    (st143.entryTable (st143.partOf (st143.ctxD 0).kid) (hdrField ((hdrWords).flatMap fun x => leBytes 8 x.toNat) 0 8) = some (0x100000000 :: List.replicate 15 0)) ∧
    (headerBad ((hdrWords).flatMap fun x => leBytes 8 x.toNat) (0x100000000 :: List.replicate 15 0) = none) ∧
    (st143.nextKid = some 1) ∧
    (st143.placeOk (st143.partOf (st143.ctxD 0).kid) (hdrField ((hdrWords).flatMap fun x => leBytes 8 x.toNat) 20 4) (doubling (hdrField ((hdrWords).flatMap fun x => leBytes 8 x.toNat) 24 4)) { accept := true } = false) ∧
    ((st143.part (st143.partOf (st143.ctxD 0).kid)).quota < st143.partTiles (st143.partOf (st143.ctxD 0).kid) + (hdrField ((hdrWords).flatMap fun x => leBytes 8 x.toNat) 20 4 + doubling (hdrField ((hdrWords).flatMap fun x => leBytes 8 x.toNat) 24 4) - 1) / doubling (hdrField ((hdrWords).flatMap fun x => leBytes 8 x.toNat) 24 4)) := by decide +kernel

def st144 : State := we (wchild w .held 63) { id := 0, w0 := 3 }

theorem witness_KernelEvents_1 :
    ((st144.part st144.ev.id).present = true) ∧
    (st144.gangRuns st144.ev.id = true) ∧
    ((st144.kernelD 1).state = .held) ∧
    (st144.isChild 1 63 = true) ∧
    (st144.partOf 1 = st144.ev.id) := by decide +kernel

def st145 : State := we (wh w) { id := 0, w0 := 0x100002000, fw := fwOk }

theorem witness_KernelEvents_2 :
    ((st145.part st145.ev.id).present = true) ∧
    (st145.gangRuns st145.ev.id = true) ∧
    (st145.ev.w0.toNat % 256 = 0) ∧
    (bits st145.ev.w1 7 25 = 0) ∧
    (st145.ev.w1.getLsbD 4 = false) ∧
    (st145.ev.idx = 0) ∧
    (st145.fwRead st145.ev.id 2 st145.ev.w0.toNat 256 = some (hdrWords.flatMap fun x => leBytes 8 x.toNat)) ∧
    (st145.entryTable st145.ev.id (hdrField (hdrWords.flatMap fun x => leBytes 8 x.toNat) 0 8) = some (0x100000000 :: List.replicate 15 0)) ∧
    (headerBad (hdrWords.flatMap fun x => leBytes 8 x.toNat) (0x100000000 :: List.replicate 15 0) = none) ∧
    (st145.nextKid = some 1) ∧
    (st145.placeOk st145.ev.id (hdrField (hdrWords.flatMap fun x => leBytes 8 x.toNat) 20 4) (doubling (hdrField (hdrWords.flatMap fun x => leBytes 8 x.toNat) 24 4)) st145.ev.fw = true) := by decide +kernel

def st146 : State := we w { id := 0 }

theorem witness_KernelEvents_3 :
    ((st146.kernelD 0).state = .running) ∧
    ((st146.kernelD 0).warp = false) ∧
    (st146.kernelRuns st146.ev.id = true) ∧
    (st146.bordersMove st146.ev.id = false) ∧
    (st146.hasStub st146.ev.id = false) ∧
    ((st146.kernelD 0).cut = none) ∧
    ((st146.kernelD 0).swVoid = false) ∧
    ((st146.lcsOf st146.ev.id).all (fun lc => st146.coreIdle lc) = false) := by decide +kernel

def st147 : State := we { w with ctxs := [] } { id := 0 }

theorem witness_KernelEvents_4 :
    (st147.kernelRuns st147.ev.id = true) ∧
    (st147.bordersMove st147.ev.id = false) ∧
    (st147.hasStub st147.ev.id = false) ∧
    ((st147.lcsOf st147.ev.id).all (fun lc => st147.coreIdle lc) = true) ∧
    (((st147.lcores.filter fun e => lcKid e.1 = st147.ev.id).map fun e => e.2.sent).sum = ((st147.lcores.filter fun e => lcKid e.1 = st147.ev.id).map fun e => e.2.received).sum) ∧
    ((st147.kernelD 0).swAgree = false) := by decide +kernel

def st148 : State := wk (we { w with ctxs := [] } { id := 0 }) fun k => { k with swAgree := true }

theorem witness_KernelEvents_5 :
    (st148.kernelRuns st148.ev.id = true) ∧
    (st148.bordersMove st148.ev.id = false) ∧
    (st148.hasStub st148.ev.id = false) ∧
    ((st148.lcsOf st148.ev.id).all (fun lc => st148.coreIdle lc) = true) ∧
    ((st148.kernelD 0).swAgree = true) ∧
    ((st148.kernelD 0).nch = 15) := by decide +kernel

def st149 : State := wk (we w { id := 0 }) fun k => { k with state := .ending }

theorem witness_KernelEvents_6 :
    ((st149.kernelD 0).state = .ending) ∧
    ((st149.kernelD 0).nch = 15) ∧
    (∀ e ∈ st149.kernels, e.2.parent ≠ st149.ev.id) := by decide +kernel

theorem witness_Codelets_1 :
    Runs st11 0 (st11.ctxD 0) (.spawn 28) := by decide +kernel

def st151 : State := wr [(27,64),(28,5),(31,8)]

theorem witness_Codelets_2 :
    (Runs st151 0 (st151.ctxD 0) (.spawn 27)) ∧
    (st151.isWarp (st151.ctxD 0).kid = false) ∧
    (lcKid (st151.ctxD 0).lck = (st151.ctxD 0).kid) ∧
    ((st151.ctxD 0).item.vrt.toNat ≤ 2 ^ 64 - 2) ∧
    ((st151.lcore (st151.ctxD 0).lck).ring.length < 1024) := by decide +kernel

theorem witness_Codelets_3 :
    (Runs st44 0 (st44.ctxD 0) (.callat 9 1 4)) ∧
    (bits ((st44.ctxD 0).getG 4) 20 44 = 0) ∧
    (((st44.ctxD 0).getG 4).getLsbD 15 = false) ∧
    (bits ((st44.ctxD 0).getG 4) 16 4 ≠ 15) ∧
    (bits ((st44.ctxD 0).getG 4) 0 12 < (st44.kernelD (st44.ctxD 0).kid).tiles) ∧
    ((st44.ctxD 0).item.vrt.toNat ≤ 2 ^ 64 - 2) ∧
    (st44.sendOk (st44.ctxD 0) = true) := by decide +kernel

theorem witness_Codelets_4 :
    (Runs st11 0 (st11.ctxD 0) (.retv 1)) ∧ ((st11.ctxD 0).item.ret = none) := by decide +kernel

def st154 : State := wc fun c => { c.setG 1 77 with item := { ret := some (.pendReg 5 9 1), src := srcWord 0 0 0 0 0 2 0 } }

theorem witness_Codelets_5 :
    (Runs st154 0 (st154.ctxD 0) (.retv 1)) ∧
    ((st154.ctxD 0).item.ret = some (.pendReg 5 9 1)) ∧
    ((st154.ctxD 0).returned = false) ∧
    (st154.sendOk (st154.ctxD 0) = true) ∧
    ((st154.ctxD 0).item.vrt.toNat ≤ 2 ^ 64 - 2) := by decide +kernel

theorem witness_Codelets_6 :
    Runs st124 0 (st124.ctxD 0) (.clnew 3 1 2) := by decide +kernel

def st156 : State := wr [(1,32)]

theorem witness_Codelets_7 :
    Runs st156 0 (st156.ctxD 0) (.clnew 3 1 2) := by decide +kernel

def st157 : State := wt (wr [(1,64),(2,9)]) fun x => { x with keeps := x.keeps.set 0 (some (64, 64)) }

theorem witness_Codelets_8 :
    ((Runs st157 0 (st157.ctxD 0) (.clnew 3 1 2)) ∧
    ((st157.ltile (st157.ctxD 0).ltk).inKeep ((st157.ctxD 0).getG 1).toNat = true) ∧
    (lcKid (st157.ctxD 0).alck = (st157.ctxD 0).kid)) ∧
    (ScratchOk st157 (st157.ctxD 0) ((st157.ctxD 0).getG 1).toNat 64 64) := ⟨by decide +kernel, scratch_ok (by decide +kernel)⟩

def st158 : State := wr [(1,64*65536),(2,2^40)]

theorem witness_Codelets_9 :
    (Runs st158 0 (st158.ctxD 0) (.clpub 1 2)) ∧
    (Runs st158 0 (st158.ctxD 0) (.cldec 1)) ∧
    (st158.isWarp (st158.ctxD 0).kid = false) ∧
    (st158.retxRoom (st158.ctxD 0).lck = true) := by decide +kernel

def st159 : State := wr [(1,64*65536),(2,2^40+1)]

theorem witness_Codelets_10 :
    Runs st159 0 (st159.ctxD 0) (.clpub 1 2) := by decide +kernel

theorem witness_Codelets_11 :
    Runs st159 0 (st159.ctxD 0) (.cldec 1) := by decide +kernel

def st161 : State := wt (wa w (fl 0 0 0 6 (.codelet (64*65536) none))) fun x => { x with keeps := x.keeps.set 0 (some (64, 64)), scratch := memStore (memStore x.scratch 64 8 1) 112 8 2 }

theorem witness_Codelets_12 :
    ((fl 0 0 0 6 (.codelet (64*65536) none)).cut = false) ∧
    (st161.arrival? st161.ev.id = some (fl 0 0 0 6 (.codelet (64*65536) none))) ∧
    (st161.accessState (fl 0 0 0 6 (.codelet (64*65536) none)).part (fl 0 0 0 6 (.codelet (64*65536) none)).kid = some .running) ∧
    ((fl 0 0 0 6 (.codelet (64*65536) none)).lt < (st161.kernelD (fl 0 0 0 6 (.codelet (64*65536) none)).kid).tiles) ∧
    (st161.handleOk (fl 0 0 0 6 (.codelet (64*65536) none)).kid (64*65536) = true) ∧
    (leNat (st161.scratchBytes ((fl 0 0 0 6 (.codelet (64*65536) none)).lck / 8) (clOff (64*65536)) 8) = 1) ∧
    (leNat (st161.scratchBytes ((fl 0 0 0 6 (.codelet (64*65536) none)).lck / 8) (clOff (64*65536) + 48) 8) = 2) := by decide +kernel

def st162 : State := wt (wa w (fl 0 0 0 6 (.codelet (64*65536) none))) fun x => { x with keeps := x.keeps.set 0 (some (64, 64)), scratch := memStore (memStore x.scratch 64 8 2) 112 8 2 }

theorem witness_Codelets_13 :
    ((fl 0 0 0 6 (.codelet (64*65536) none)).cut = false) ∧
    (st162.arrival? st162.ev.id = some (fl 0 0 0 6 (.codelet (64*65536) none))) ∧
    (st162.handleOk (fl 0 0 0 6 (.codelet (64*65536) none)).kid (64*65536) = true) := by decide +kernel

def st163 : State := wt (wa w (fl 0 0 0 6 (.codelet (64*65536) (some 3)))) fun x => { x with keeps := x.keeps.set 0 (some (64, 64)), scratch := memStore (memStore x.scratch 64 8 (2^62-1)) 112 8 1 }

theorem witness_Codelets_14 :
    ((fl 0 0 0 6 (.codelet (64*65536) (some 3))).cut = false) ∧
    (st163.arrival? st163.ev.id = some (fl 0 0 0 6 (.codelet (64*65536) (some 3)))) ∧
    (st163.handleOk (fl 0 0 0 6 (.codelet (64*65536) (some 3))).kid (64*65536) = true) := by decide +kernel

def st164 : State := wa w (fl 0 0 0 6 (.codelet (65*65536) none))

theorem witness_Codelets_15 :
    ((fl 0 0 0 6 (.codelet (65*65536) none)).cut = false) ∧
    (st164.arrival? st164.ev.id = some (fl 0 0 0 6 (.codelet (65*65536) none))) ∧
    (st164.accessState (fl 0 0 0 6 (.codelet (65*65536) none)).part (fl 0 0 0 6 (.codelet (65*65536) none)).kid = some .running) ∧
    (st164.handleOk (fl 0 0 0 6 (.codelet (65*65536) none)).kid (65*65536) = false) := by decide +kernel

def st165 : State := we (w.updLc 1 fun l => { l with ring := [{ chan := 15, p0 := 1, entry := some 64 }, { chan := 15, p0 := 2, entry := some 64 }] }) { id := 0 }

theorem witness_Codelets_16 :
    ((st165.kernelD (lcKid st165.ev.id)).state = .running) ∧
    (st165.kernelRuns (lcKid st165.ev.id) = true) ∧
    ((st165.lcore st165.ev.id).ring = []) ∧
    ((st165.lcore st165.ev.id).mask.getLsbD 15 = false) ∧
    (st165.freeStrand st165.ev.id = true) ∧
    ((st165.victims st165.ev.id).getD ((st165.lcore st165.ev.id).stealFrom % max 1 (st165.victims st165.ev.id).length) st165.ev.id = 1) ∧
    ((st165.lcore 1).ring = [{ chan := 15, p0 := 1, entry := some 64 }, { chan := 15, p0 := 2, entry := some 64 }]) ∧
    ((st165.lcore 1).mask.getLsbD 15 = false) := by decide +kernel

def st166 : State := wr [(1,15)]

theorem witness_ChannelsAndDone_1 :
    Runs st166 0 (st166.ctxD 0) (.bind 3 1 2) := by decide +kernel

def st167 : State := wr [(1,14),(2,0x25)]

theorem witness_ChannelsAndDone_2 :
    (Runs st167 0 (st167.ctxD 0) (.bind 3 1 2)) ∧
    (bits ((st167.ctxD 0).getG 2) 8 56 = 0) ∧
    ((st167.lcore (st167.ctxD 0).lck).bindings.toList[14]? = some ({} : Binding)) ∧
    ((st167.kernelD (st167.ctxD 0).kid).entries.toList.getD (bits ((st167.ctxD 0).getG 2) 0 4) 0#64 ≠ 0#64) := by decide +kernel

def st168 : State := wr [(1,16)]

theorem witness_ChannelsAndDone_3 :
    Runs st168 0 (st168.ctxD 0) (.chpri 1 2) := by decide +kernel

def st169 : State := wr [(1,15),(2,4)]

theorem witness_ChannelsAndDone_4 :
    Runs st169 0 (st169.ctxD 0) (.chpri 1 2) := by decide +kernel

def st170 : State := wr [(1,15),(2,1)]

theorem witness_ChannelsAndDone_5 :
    Runs st170 0 (st170.ctxD 0) (.chpri 1 2) := by decide +kernel

def st171 : State := wr [(1,0x18000)]

theorem witness_ChannelsAndDone_6 :
    Runs st171 0 (st171.ctxD 0) (.chmask 3 1) := by decide +kernel

theorem witness_ChannelsAndDone_7 :
    (Runs st11 0 (st11.ctxD 0) (.done)) ∧
    ((st11.ctxD 0).stage = none) ∧
    (st11.isWarp (st11.ctxD 0).kid = false) ∧
    (st11.putsOut (st11.ctxD 0) = false) ∧
    ((st11.ctxD 0).nacks = []) ∧
    (((st11.ctxD 0).q.toList.any fun w => st11.wordsOut (st11.ctxD 0) w) = false) := by decide +kernel

def st173 : State := wc fun c => { c with puts := 1 }

theorem witness_ChannelsAndDone_8 :
    (Runs st173 0 (st173.ctxD 0) (.done)) ∧
    (st173.spec (st173.ctxD 0) = false) ∧
    (st173.putsOut (st173.ctxD 0) = true) := by decide +kernel

def st174 : State := wc fun c => { c with nacks := [9] }

theorem witness_ChannelsAndDone_9 :
    (Runs st174 0 (st174.ctxD 0) (.done)) ∧
    (st174.spec (st174.ctxD 0) = false) ∧
    (st174.putsOut (st174.ctxD 0) = false) ∧
    ((st174.ctxD 0).nacks ≠ []) := by decide +kernel

theorem witness_ChannelsAndDone_10 :
    (Runs st124 0 (st124.ctxD 0) (.done)) ∧
    (st124.isWarp (st124.ctxD 0).kid = true) ∧
    (st124.spec (st124.ctxD 0) = true ∨ st124.putsOut (st124.ctxD 0) = false ∧
    (st124.ctxD 0).nacks = []) ∧
    ((st124.lcore (st124.ctxD 0).alck).mu.hold = none) ∧
    (((st124.ctxD 0).q.toList.any fun w => st124.wordsOut (st124.ctxD 0) w) = false) := by decide +kernel

def st176 : State := we (wl w fun l => { l with ring := [{ chan := 15, p0 := 5, vrt := 9, entry := some 0x100000000 }] }) { id := 0, idx := 0, slot := 1 }

theorem witness_Dispatching_1 :
    (st176.slotFree st176.ev.id st176.ev.idx st176.ev.slot = true) ∧
    ((st176.tile st176.ev.id).debugStops.getLsbD (4 * st176.ev.idx + st176.ev.slot) = false) ∧
    (st176.pickRecord st176.ev.id st176.ev.idx st176.ev.slot = some 0) ∧
    (st176.recordLc st176.ev.id st176.ev.idx ((st176.tile st176.ev.id).binds.toList.getD 0 {}) = some 0) ∧
    ((st176.lcore 0).choose (st176.isWarp (lcKid 0)) st176.tbase = some { chan := 15, p0 := 5, vrt := 9, entry := some 0x100000000 }) := by decide +kernel

def st177 : State := we (wl { w with tbase := 3000000 } fun l => { l with items := [{ chan := 3 }], bindings := l.bindings.set 3 { bound := true } }) { id := 0 }

theorem witness_Dispatching_2 :
    (mget st177.ev.id st177.lcores = some (st177.lcore 0)) ∧
    ((st177.lcore 0).items[0]? = some { chan := 3 }) ∧
    ((st177.lcore 0).chanOn 3 = true) := by decide +kernel

def st178 : State := we ({ w with tbase := 50 }.updTile 0 fun x => { x with binds := x.binds.set 0 { x.binds[0] with slice := 40#32, heldSince := [(1, 10)] } }) { id := 0, idx := 0, slot := 1 }

theorem witness_Dispatching_3 :
    (mget st178.ev.slot (st178.tile st178.ev.id).binds[0].heldSince = some 10) ∧
    ((st178.tile st178.ev.id).binds[0].valid = true) ∧
    ((st178.tile st178.ev.id).binds[0].slice ≠ 0#32) ∧
    (10 + (st178.tile st178.ev.id).binds[0].slice.toNat ≤ st178.tbase) ∧
    ((st178.tile st178.ev.id).binds[0].yields.contains st178.ev.slot = false) := by decide +kernel

def st179 : State := we w { id := 1023, idx := 15, w0 := 0xFFFFFFFFFFFFFFFF, w1 := 7 }

theorem witness_Dispatching_4 :
    st179.ev.id < 1024 := by decide +kernel

def st180 : State := wr [(1,0x2000000040),(2,0x1234)]

theorem witness_RemoteMemory_1 :
    ((Runs st180 0 (st180.ctxD 0) (.put 1 2 .h)) ∧
    (st180.spec (st180.ctxD 0) = false) ∧
    (st180.retxRoom (st180.ctxD 0).lck = true) ∧
    (lcKid (st180.ctxD 0).lck = (st180.ctxD 0).kid)) ∧
    (IsPut (.put 1 2 .h) (st180.ctxD 0) 0x2000000040#64 (.write [0x34#8, 0x12#8]) 4) := ⟨by decide +kernel, Or.inl ⟨1, 2, .h, rfl, by decide +kernel, by decide +kernel, rfl⟩⟩

def st181 : State := wr [(3,0x100),(1,0x2000000040),(2,0x1234)]

theorem witness_RemoteMemory_2 :
    ((Runs st181 0 (st181.ctxD 0) (.putv 3 1 2 .b))) ∧
    (IsPut (.putv 3 1 2 .b) (st181.ctxD 0) 0x2000000140#64 (.write [0x34#8]) 4) := ⟨by decide +kernel, Or.inr (Or.inr (Or.inl ⟨3, 1, 2, .b, rfl, by decide +kernel, by decide +kernel, rfl⟩))⟩

def st182 : State := wk (wr [(1,0x2000000040)]) fun k => { k with warp := true }

theorem witness_RemoteMemory_3 :
    (Runs st182 0 (st182.ctxD 0) (.rld 3 1 .d)) ∧ (st182.spec (st182.ctxD 0) = true) := by decide +kernel

def st183 : State := wr [(1,0xFFFFFFFFFFFFFFFF)]

theorem witness_RemoteMemory_4 :
    (Runs st183 0 (st183.ctxD 0) (.rld 3 1 .d)) ∧
    (st183.spec (st183.ctxD 0) = false) ∧
    (st183.retxRoom (st183.ctxD 0).lck = true) ∧
    (lcKid (st183.ctxD 0).lck = (st183.ctxD 0).kid) := by decide +kernel

def st184 : State := wt (wa w (fl 0 0 0 3 (.access (.write [1#8, 2#8]) 0x2000000FFE#64 0 0))) fun x => { x with windows := x.windows.set 1 { rights := 2#4, size64 := 64#15, base64 := 4#15 } }

theorem witness_RemoteMemory_5 :
    (st184.arrival? st184.ev.id = some (fl 0 0 0 3 (.access (.write [1#8, 2#8]) 0x2000000FFE#64 0 0))) ∧
    ((fl 0 0 0 3 (.access (.write [1#8, 2#8]) 0x2000000FFE#64 0 0)).carry = .access (.write [1#8, 2#8]) 0x2000000FFE#64 0 0) ∧
    (st184.ev.flag = false ∧
    ((fl 0 0 0 3 (.access (.write [1#8, 2#8]) 0x2000000FFE#64 0 0)).cut = false ∨ st184.taken = [])) ∧
    (st184.accessState (fl 0 0 0 3 (.access (.write [1#8, 2#8]) 0x2000000FFE#64 0 0)).part (fl 0 0 0 3 (.access (.write [1#8, 2#8]) 0x2000000FFE#64 0 0)).kid = some .running) ∧
    ((fl 0 0 0 3 (.access (.write [1#8, 2#8]) 0x2000000FFE#64 0 0)).lt < (st184.kernelD (fl 0 0 0 3 (.access (.write [1#8, 2#8]) 0x2000000FFE#64 0 0)).kid).tiles) ∧
    (bits 0x2000000FFE#64 20 17 = 0 ∧
    ((st184.ltile 0).windows[raWin 0x2000000FFE#64 % 8]).size64 ≠ 0#15 ∧
    ((st184.ltile 0).windows[raWin 0x2000000FFE#64 % 8]).rights.getLsbD 1 = true ∧
    (((st184.ltile 0).windows[raWin 0x2000000FFE#64 % 8]).anyk = true ∨ ((st184.ltile 0).windows[raWin 0x2000000FFE#64 % 8]).kida.toNat = 0) ∧
    (((st184.ltile 0).windows[raWin 0x2000000FFE#64 % 8]).devok = true ∨ 0 = st184.device.toNat) ∧
    bits 0x2000000FFE#64 0 20 % 2 = 0 ∧
    bits 0x2000000FFE#64 0 20 + 2 ≤ 64 * ((st184.ltile 0).windows[raWin 0x2000000FFE#64 % 8]).size64.toNat) := by decide +kernel

def st185 : State := wt (wa w (fl 0 0 0 3 (.access (.read 2) 0x2000000FFF#64 0 0))) fun x => { x with windows := x.windows.set 1 { rights := 15#4, size64 := 64#15, base64 := 4#15 } }

theorem witness_RemoteMemory_6 :
    (st185.arrival? st185.ev.id = some (fl 0 0 0 3 (.access (.read 2) 0x2000000FFF#64 0 0))) ∧
    (st185.ev.flag = false ∧
    ((fl 0 0 0 3 (.access (.read 2) 0x2000000FFF#64 0 0)).cut = false ∨ st185.taken = [])) ∧
    (st185.accessState (fl 0 0 0 3 (.access (.read 2) 0x2000000FFF#64 0 0)).part (fl 0 0 0 3 (.access (.read 2) 0x2000000FFF#64 0 0)).kid = some .running) ∧
    ((fl 0 0 0 3 (.access (.read 2) 0x2000000FFF#64 0 0)).lt < (st185.kernelD (fl 0 0 0 3 (.access (.read 2) 0x2000000FFF#64 0 0)).kid).tiles) ∧
    (bits 0x2000000FFF#64 0 20 % 2 ≠ 0) := by decide +kernel

def st186 : State := wt (wa w (fl 0 0 0 3 (.access (.add 2 5) 0x2000000FFE#64 0 0))) fun x => { x with windows := x.windows.set 1 { rights := 4#4, size64 := 64#15, base64 := 4#15 }, scratch := memPut [] (256+0xFFE) [0xFF#8, 0xFF#8] }

theorem witness_RemoteMemory_7 :
    (st186.arrival? st186.ev.id = some (fl 0 0 0 3 (.access (.add 2 5) 0x2000000FFE#64 0 0))) ∧
    (st186.accessState (fl 0 0 0 3 (.access (.add 2 5) 0x2000000FFE#64 0 0)).part (fl 0 0 0 3 (.access (.add 2 5) 0x2000000FFE#64 0 0)).kid = some .running) ∧
    ((fl 0 0 0 3 (.access (.add 2 5) 0x2000000FFE#64 0 0)).lt < (st186.kernelD (fl 0 0 0 3 (.access (.add 2 5) 0x2000000FFE#64 0 0)).kid).tiles) ∧
    (st186.ev.flag = false ∧
    ((fl 0 0 0 3 (.access (.add 2 5) 0x2000000FFE#64 0 0)).cut = false ∨ st186.taken = [])) ∧
    (bits 0x2000000FFE#64 20 17 = 0 ∧
    ((st186.ltile 0).windows[raWin 0x2000000FFE#64 % 8]).size64 ≠ 0#15 ∧
    ((st186.ltile 0).windows[raWin 0x2000000FFE#64 % 8]).rights.getLsbD 2 = true ∧
    (((st186.ltile 0).windows[raWin 0x2000000FFE#64 % 8]).anyk = true ∨ ((st186.ltile 0).windows[raWin 0x2000000FFE#64 % 8]).kida.toNat = 0) ∧
    (((st186.ltile 0).windows[raWin 0x2000000FFE#64 % 8]).devok = true ∨ 0 = st186.device.toNat) ∧
    bits 0x2000000FFE#64 0 20 % 2 = 0 ∧
    bits 0x2000000FFE#64 0 20 + 2 ≤ 64 * ((st186.ltile 0).windows[raWin 0x2000000FFE#64 % 8]).size64.toNat) := by decide +kernel

def st187 : State := wt (wa w (fl 0 0 0 3 (.access (.read 2) 0x2000000FFE#64 0 0))) fun x => { x with windows := x.windows.set 1 { rights := 1#4, size64 := 64#15, base64 := 4#15 }, scratch := memPut [] (256+0xFFE) [0xFF#8, 0xFF#8] }

theorem witness_RemoteMemory_8 :
    (st187.arrival? st187.ev.id = some (fl 0 0 0 3 (.access (.read 2) 0x2000000FFE#64 0 0))) ∧
    (st187.accessState (fl 0 0 0 3 (.access (.read 2) 0x2000000FFE#64 0 0)).part (fl 0 0 0 3 (.access (.read 2) 0x2000000FFE#64 0 0)).kid = some .running) ∧
    ((fl 0 0 0 3 (.access (.read 2) 0x2000000FFE#64 0 0)).lt < (st187.kernelD (fl 0 0 0 3 (.access (.read 2) 0x2000000FFE#64 0 0)).kid).tiles) ∧
    (st187.ev.flag = false ∧
    ((fl 0 0 0 3 (.access (.read 2) 0x2000000FFE#64 0 0)).cut = false ∨ st187.taken = [])) ∧
    (st187.past = []) ∧
    (bits 0x2000000FFE#64 20 17 = 0 ∧
    ((st187.ltile 0).windows[raWin 0x2000000FFE#64 % 8]).size64 ≠ 0#15 ∧
    ((st187.ltile 0).windows[raWin 0x2000000FFE#64 % 8]).rights.getLsbD 0 = true ∧
    (((st187.ltile 0).windows[raWin 0x2000000FFE#64 % 8]).anyk = true ∨ ((st187.ltile 0).windows[raWin 0x2000000FFE#64 % 8]).kida.toNat = 0) ∧
    (((st187.ltile 0).windows[raWin 0x2000000FFE#64 % 8]).devok = true ∨ 0 = st187.device.toNat) ∧
    bits 0x2000000FFE#64 0 20 % 2 = 0 ∧
    bits 0x2000000FFE#64 0 20 + 2 ≤ 64 * ((st187.ltile 0).windows[raWin 0x2000000FFE#64 % 8]).size64.toNat) := by decide +kernel

def st188 : State := wt (wa w (fl 0 0 0 3 (.access (.read 2) 0x2000000FFE#64 0 0))) fun x => { x with windows := x.windows.set 1 { rights := 14#4, size64 := 64#15, base64 := 4#15 } }

theorem witness_RemoteMemory_9 :
    (st188.arrival? st188.ev.id = some (fl 0 0 0 3 (.access (.read 2) 0x2000000FFE#64 0 0))) ∧
    (st188.accessState (fl 0 0 0 3 (.access (.read 2) 0x2000000FFE#64 0 0)).part (fl 0 0 0 3 (.access (.read 2) 0x2000000FFE#64 0 0)).kid = some .running) ∧
    ((fl 0 0 0 3 (.access (.read 2) 0x2000000FFE#64 0 0)).lt < (st188.kernelD (fl 0 0 0 3 (.access (.read 2) 0x2000000FFE#64 0 0)).kid).tiles) ∧
    (st188.ev.flag = false ∧
    ((fl 0 0 0 3 (.access (.read 2) 0x2000000FFE#64 0 0)).cut = false ∨ st188.taken = [])) ∧
    ((st188.ltile 0).windows[raWin 0x2000000FFE#64 % 8].rights.getLsbD 0 = false) := by decide +kernel

def st189 : State := { wr [(1,0x2000000040)] with lcores := [(0, { retx := List.replicate Config.retransmitEntries (fl 0 0 0 3 .idle) })] }

theorem witness_RemoteMemory_10 :
    ((Runs st189 0 (st189.ctxD 0) (.radd 1 2 .d)) ∧
    (st189.spec (st189.ctxD 0) = false) ∧
    (st189.retxRoom (st189.ctxD 0).lck = false)) ∧
    (IsPut (.radd 1 2 .d) (st189.ctxD 0) 0x2000000040#64 (.add 8 65536#64) 4) := ⟨by decide +kernel, Or.inr (Or.inr (Or.inr (Or.inl ⟨1, 2, .d, rfl, by decide +kernel, by decide +kernel, rfl⟩)))⟩

def st190 : State := wa (wc fun c => { c with puts := 2 }) { fl 0 0 0 4 (.ack 3 none) with issuer := .strandPut 0 }

theorem witness_RemoteMemory_11 :
    (st190.arrival? st190.ev.id = some ({ fl 0 0 0 4 (.ack 3 none) with issuer := .strandPut 0 })) ∧
    (st190.ctx? 0 = some (st190.ctxD 0)) := by decide +kernel

def st191 : State := wa (wc fun c => { c with puts := 2 }) { fl 0 0 0 5 (.nack 3 9) with issuer := .strandPut 0 }

theorem witness_RemoteMemory_12 :
    (st191.arrival? st191.ev.id = some ({ fl 0 0 0 5 (.nack 3 9) with issuer := .strandPut 0 })) ∧
    (st191.ctx? 0 = some (st191.ctxD 0)) := by decide +kernel

def st192 : State := wa (wc fun c => { c.setG 4 7 with pend := [{ ctx := 0, d := 4, isCall := false, ref := 3 }] }) { fl 0 0 0 5 (.nack 3 9) with issuer := .strandRld 0 4 }

theorem witness_RemoteMemory_13 :
    (st192.arrival? st192.ev.id = some ({ fl 0 0 0 5 (.nack 3 9) with issuer := .strandRld 0 4 })) ∧
    (st192.ctx? 0 = some (st192.ctxD 0)) ∧
    (st192.pendCtx 0 3 false = some (0, { ctx := 0, d := 4, isCall := false, ref := 3 })) := by decide +kernel

def st193 : State := wa (wc fun c => { c.setG 4 7 with pend := [{ ctx := 0, d := 4, isCall := false, ref := 3 }, { ctx := 0, d := 5, isCall := false, ref := 4 }] }) { fl 0 0 0 4 (.ack 3 (some 0x55)) with issuer := .strandRld 0 4 }

theorem witness_RemoteMemory_14 :
    (st193.arrival? st193.ev.id = some ({ fl 0 0 0 4 (.ack 3 (some 0x55)) with issuer := .strandRld 0 4 })) ∧
    (st193.ctx? 0 = some (st193.ctxD 0)) ∧
    (st193.pendCtx 0 3 false = some (0, { ctx := 0, d := 4, isCall := false, ref := 3 })) := by decide +kernel

theorem witness_Copies_1 :
    ((Runs st72 0 (st72.ctxD 0) (.cpy 3 1))) ∧
    (IsCopy (.cpy 3 1) (st72.ctxD 0) 0 3 65#64 64 4) := ⟨by decide +kernel, Or.inl ⟨1, rfl, rfl, by decide +kernel, rfl, rfl⟩⟩

def st195 : State := wr [(1,65536-64)]

theorem witness_Copies_2 :
    ((Runs st195 0 (st195.ctxD 0) (.cpys 3 1 0)) ∧
    (st195.sOf (st195.ctxD 0) < 65472 + 128)) ∧
    (IsCopy (.cpys 3 1 0) (st195.ctxD 0) 1 3 65472#64 128 12) := ⟨by decide +kernel, Or.inr (Or.inl ⟨1, 0, rfl, rfl, by decide +kernel, rfl, rfl⟩)⟩

def st196 : State := wt (wr [(1,128)]) fun x => { x with scratch := memStore [] (128+40) 8 3 }

theorem witness_Copies_3 :
    ((Runs st196 0 (st196.ctxD 0) (.cpyg 3 1 0xFFFFFFC0))) ∧
    (IsCopy (.cpyg 3 1 0xFFFFFFC0) (st196.ctxD 0) 2 3 64#64 64 12) := ⟨by decide +kernel, Or.inr (Or.inr (Or.inl ⟨1, 0xFFFFFFC0#32, rfl, rfl, by decide +kernel, rfl, rfl⟩))⟩

theorem witness_Copies_4 :
    ((Runs st196 0 (st196.ctxD 0) (.cpy 3 1)) ∧
    ((({ slot := 0, seqno := 0, kind := 0, desc := memBytes (st196.ltile (st196.ctxD 0).ltk).scratch 128 64, descAt := 128#64, frm := (st196.ctxD 0).sample, ctx := 0, state := 1 } : CopyRec)).malformed = true)) ∧
    (ScratchOk st196 (st196.ctxD 0) 128 64 64) := ⟨by decide +kernel, scratch_ok (by decide +kernel)⟩

def st198 : State := wt (wl (wr [(1,128)]) fun l => { l with copySeq := 1025 }) fun x => { x with scratch := memStore (memStore (memStore [] 128 8 65535) 136 8 65504) 144 8 1 }

theorem witness_Copies_5 :
    ((Runs st198 0 (st198.ctxD 0) (.cpy 3 1)) ∧
    ((({ slot := 0, seqno := 0, kind := 0, desc := memBytes (st198.ltile (st198.ctxD 0).ltk).scratch 128 64, descAt := 128#64, frm := (st198.ctxD 0).sample, ctx := 0, state := 1 } : CopyRec)).malformed = false) ∧
    ((({ slot := 0, seqno := 0, kind := 0, desc := memBytes (st198.ltile (st198.ctxD 0).ltk).scratch 128 64, descAt := 128#64, frm := (st198.ctxD 0).sample, ctx := 0, state := 1 } : CopyRec)).sm = 0) ∧
    (∀ x ∈ (({ slot := 0, seqno := 0, kind := 0, desc := memBytes (st198.ltile (st198.ctxD 0).ltk).scratch 128 64, descAt := 128#64, frm := (st198.ctxD 0).sample, ctx := 0, state := 1 } : CopyRec)).ownRanges, firstOutside (st198.sOf (st198.ctxD 0)) x = none) ∧
    (st198.spec (st198.ctxD 0) = false) ∧
    ((({ slot := 0, seqno := 0, kind := 0, desc := memBytes (st198.ltile (st198.ctxD 0).ltk).scratch 128 64, descAt := 128#64, frm := (st198.ctxD 0).sample, ctx := 0, state := 1 } : CopyRec)).snaps = false ∨ (({ slot := 0, seqno := 0, kind := 0, desc := memBytes (st198.ltile (st198.ctxD 0).ltk).scratch 128 64, descAt := 128#64, frm := (st198.ctxD 0).sample, ctx := 0, state := 1 } : CopyRec)).sk = 2) ∧
    ((st198.lcore (st198.ctxD 0).lck).freeSlot = some 0)) ∧
    (ScratchOk st198 (st198.ctxD 0) 128 64 64) := ⟨by decide +kernel, scratch_ok (by decide +kernel)⟩

def st199 : State := wl (wr [(1,67)]) fun l => { l with copies := [{ slot := 3, seqno := 1025, kind := 0, desc := [], descAt := 0#64, frm := 0#4, ctx := 0, state := 2, progress := 5, fl := 3#5, err := 1 }] }

theorem witness_Copies_6 :
    (Runs st199 0 (st199.ctxD 0) (.cpyq 3 1)) ∧
    (((st199.lcore (st199.ctxD 0).lck).copies.find? (fun r => decide (((st199.ctxD 0).getG 1).toNat = r.slot + r.seqno % 1024 * 64))).isSome = true) := by decide +kernel

theorem witness_Copies_7 :
    (Runs st11 0 (st11.ctxD 0) (.cpyq 3 1)) ∧
    ((st11.lcore (st11.ctxD 0).lck).copies.find? (fun r => decide (((st11.ctxD 0).getG 1).toNat = r.slot + r.seqno % 1024 * 64)) = none) := by decide +kernel

theorem witness_Copies_8 :
    (Runs st11 0 (st11.ctxD 0) (.cpyc 3 1)) ∧
    (st11.copyOfId (st11.ctxD 0).lck ((st11.ctxD 0).getG 1) = none) := by decide +kernel

def st202 : State := wl (wr [(1,67)]) fun l => { l with copies := [{ slot := 3, seqno := 1, kind := 0, desc := [], descAt := 0#64, frm := 0#4, ctx := 0, state := 4, progress := 5 }] }

theorem witness_Copies_9 :
    (Runs st202 0 (st202.ctxD 0) (.cpyc 3 1)) ∧
    ((st202.copyOfId (st202.ctxD 0).lck ((st202.ctxD 0).getG 1)).map (·.state) = some 4) := by decide +kernel

def st203 : State := wl (wr [(1,67)]) fun l => { l with copies := [{ slot := 3, seqno := 1, kind := 0, desc := [], descAt := 0#64, frm := 0#4, ctx := 0, state := 1, progress := 5 }] }

theorem witness_Copies_10 :
    (Runs st203 0 (st203.ctxD 0) (.cpyc 3 1)) ∧
    (st203.copyOfId (st203.ctxD 0).lck ((st203.ctxD 0).getG 1) = st203.copy? (st203.ctxD 0).lck 3) ∧
    ((st203.copy? (st203.ctxD 0).lck 3).map (·.state) = some 1) ∧
    ((st203.copy? (st203.ctxD 0).lck 3).map (·.ending) = some 0) ∧
    ((st203.copy? (st203.ctxD 0).lck 3).bind (fun r => st203.copyEntry (st203.ctxD 0).lck r) = none) := by decide +kernel

def st204 : State := we (wt (wl w fun l => { l with copies := [{ slot := 0, seqno := 0, kind := 0, desc := leBytes 8 65534 ++ leBytes 8 2 ++ leBytes 8 2 ++ List.replicate 40 0#8, descAt := 0#64, frm := 0#4, ctx := 0, state := 2 }] }) fun x => { x with scratch := memStore [] 2 2 0x1234 }) { id := 0, idx := 0, picks := [0] }

theorem witness_Copies_11 :
    (st204.kernelRuns 0 = true) ∧
    (st204.leasedOut (st204.ltile 0).tile (st204.partOf 0) = false) ∧
    (st204.copy? 0 0 = some ((st204.copy? 0 0).getD { slot := 9, seqno := 0, kind := 1, desc := [], descAt := 0#64, frm := 0#4, ctx := 0, state := 0 })) ∧
    (((st204.copy? 0 0).getD { slot := 9, seqno := 0, kind := 1, desc := [], descAt := 0#64, frm := 0#4, ctx := 0, state := 0 }).kind = 0 ∧
    ((st204.copy? 0 0).getD { slot := 9, seqno := 0, kind := 1, desc := [], descAt := 0#64, frm := 0#4, ctx := 0, state := 0 }).state = 2 ∧
    ((st204.copy? 0 0).getD { slot := 9, seqno := 0, kind := 1, desc := [], descAt := 0#64, frm := 0#4, ctx := 0, state := 0 }).ending = 0 ∧
    ((st204.copy? 0 0).getD { slot := 9, seqno := 0, kind := 1, desc := [], descAt := 0#64, frm := 0#4, ctx := 0, state := 0 }).err = 0 ∧
    ((st204.copy? 0 0).getD { slot := 9, seqno := 0, kind := 1, desc := [], descAt := 0#64, frm := 0#4, ctx := 0, state := 0 }).sk = 0 ∧
    ((st204.copy? 0 0).getD { slot := 9, seqno := 0, kind := 1, desc := [], descAt := 0#64, frm := 0#4, ctx := 0, state := 0 }).dk = 0 ∧
    ((st204.copy? 0 0).getD { slot := 9, seqno := 0, kind := 1, desc := [], descAt := 0#64, frm := 0#4, ctx := 0, state := 0 }).sm = 0 ∧
    ((st204.copy? 0 0).getD { slot := 9, seqno := 0, kind := 1, desc := [], descAt := 0#64, frm := 0#4, ctx := 0, state := 0 }).cv = false ∧
    ((st204.copy? 0 0).getD { slot := 9, seqno := 0, kind := 1, desc := [], descAt := 0#64, frm := 0#4, ctx := 0, state := 0 }).overlaps = false ∧
    ((st204.copy? 0 0).getD { slot := 9, seqno := 0, kind := 1, desc := [], descAt := 0#64, frm := 0#4, ctx := 0, state := 0 }).snap = none ∧
    ((st204.copy? 0 0).getD { slot := 9, seqno := 0, kind := 1, desc := [], descAt := 0#64, frm := 0#4, ctx := 0, state := 0 }).byKey = none ∧
    ((st204.copy? 0 0).getD { slot := 9, seqno := 0, kind := 1, desc := [], descAt := 0#64, frm := 0#4, ctx := 0, state := 0 }).ahead = [] ∧
    ((st204.copy? 0 0).getD { slot := 9, seqno := 0, kind := 1, desc := [], descAt := 0#64, frm := 0#4, ctx := 0, state := 0 }).pos = 0 ∧
    ((st204.copy? 0 0).getD { slot := 9, seqno := 0, kind := 1, desc := [], descAt := 0#64, frm := 0#4, ctx := 0, state := 0 }).waitFid = [] ∧
    ((st204.copy? 0 0).getD { slot := 9, seqno := 0, kind := 1, desc := [], descAt := 0#64, frm := 0#4, ctx := 0, state := 0 }).stopAt = none ∧
    st204.past = []) ∧
    (((st204.copy? 0 0).getD { slot := 9, seqno := 0, kind := 1, desc := [], descAt := 0#64, frm := 0#4, ctx := 0, state := 0 }).units[0]? = some { elem := 0, off := 0, n := 2 }) ∧
    (((st204.copy? 0 0).getD { slot := 9, seqno := 0, kind := 1, desc := [], descAt := 0#64, frm := 0#4, ctx := 0, state := 0 }).src + 0 + 2 ≤ (st204.kernelD 0).s ∧
    ((st204.copy? 0 0).getD { slot := 9, seqno := 0, kind := 1, desc := [], descAt := 0#64, frm := 0#4, ctx := 0, state := 0 }).dst + 0 + 2 ≤ (st204.kernelD 0).s ∧
    (st204.kernelD 0).s ≤ 2 ^ 20) ∧
    ((st204.lcore 0).commitQ = []) ∧
    (∀ f ∈ st204.flits ++ st204.arrivals ++ st204.taken.map (·.1) ++ (st204.lcore 0).retx, f.issuer ≠ .copyUnit 0 0 0) := by decide +kernel

def st205 : State := we (wl w fun l => { l with copies := [{ slot := 0, seqno := 0, kind := 1, desc := leBytes 8 64 ++ leBytes 8 64 ++ List.replicate 112 0#8, descAt := 0#64, frm := 0#4, ctx := 0, state := 1 }] }) { id := 0, idx := 0 }

theorem witness_Copies_12 :
    (st205.kernelRuns 0 = true) ∧
    (st205.leasedOut (st205.ltile 0).tile (st205.partOf 0) = false) ∧
    (st205.copy? 0 0 = some ((st205.copy? 0 0).getD { slot := 9, seqno := 0, kind := 1, desc := [], descAt := 0#64, frm := 0#4, ctx := 0, state := 0 })) ∧
    (((st205.copy? 0 0).getD { slot := 9, seqno := 0, kind := 1, desc := [], descAt := 0#64, frm := 0#4, ctx := 0, state := 0 }).kind = 1 ∧
    ((st205.copy? 0 0).getD { slot := 9, seqno := 0, kind := 1, desc := [], descAt := 0#64, frm := 0#4, ctx := 0, state := 0 }).state = 1 ∧
    ((st205.copy? 0 0).getD { slot := 9, seqno := 0, kind := 1, desc := [], descAt := 0#64, frm := 0#4, ctx := 0, state := 0 }).ending = 0 ∧
    ((st205.copy? 0 0).getD { slot := 9, seqno := 0, kind := 1, desc := [], descAt := 0#64, frm := 0#4, ctx := 0, state := 0 }).sm = 0 ∧
    ((st205.copy? 0 0).getD { slot := 9, seqno := 0, kind := 1, desc := [], descAt := 0#64, frm := 0#4, ctx := 0, state := 0 }).overlaps = true) ∧
    ((st205.lcore 0).commitQ = []) := by decide +kernel

theorem witness_CachesAndFences_1 :
    (Runs st124 0 (st124.ctxD 0) (.pin 3 1 2)) ∧ (st124.spec (st124.ctxD 0) = true) := by decide +kernel

def st207 : State := wr [(1,0x100000010)]

theorem witness_CachesAndFences_2 :
    (Runs st207 0 (st207.ctxD 0) (.pin 3 1 2)) ∧
    (st207.spec (st207.ctxD 0) = false) ∧
    (bits ((st207.ctxD 0).getG 1) 4 3 ≠ 0) := by decide +kernel

def st208 : State := wr [(1,0x100000009)]

theorem witness_CachesAndFences_3 :
    (Runs st208 0 (st208.ctxD 0) (.pin 3 1 2)) ∧
    (st208.spec (st208.ctxD 0) = false) ∧
    (bits ((st208.ctxD 0).getG 1) 4 3 = 0) ∧
    (8 < bits ((st208.ctxD 0).getG 1) 0 4) := by decide +kernel

def st209 : State := wr [(1,0x100000008),(2,0x100000080)]

theorem witness_CachesAndFences_4 :
    (Runs st209 0 (st209.ctxD 0) (.pin 3 1 2)) ∧
    (st209.spec (st209.ctxD 0) = false) ∧
    (st209.pinRange (st209.partOf (st209.ctxD 0).kid) ((st209.ctxD 0).getG 1) ((st209.ctxD 0).getG 2) = .inr (0x40000000, 0x40000080)) ∧
    ((st209.die (dieOfPa 0x40000000)).freeRetain = some 0) ∧
    ((st209.die (dieOfPa 0x40000000)).waysUsed + bits ((st209.ctxD 0).getG 1) 0 4 ≤ 12) := by decide +kernel

def st210 : State := (wr [(1,0x100000001),(2,0x100000080)]).updDie (dieOfPa 0x40000000) fun x => { x with retain := Vector.replicate 8 (some { base := 0, limit := 0, ways := 1, part := 0, kid := 0 }) }

theorem witness_CachesAndFences_5 :
    (Runs st210 0 (st210.ctxD 0) (.pin 3 1 2)) ∧
    (st210.spec (st210.ctxD 0) = false) ∧
    (st210.pinRange (st210.partOf (st210.ctxD 0).kid) ((st210.ctxD 0).getG 1) ((st210.ctxD 0).getG 2) = .inr (0x40000000, 0x40000080)) ∧
    ((st210.die (dieOfPa 0x40000000)).freeRetain = none) := by decide +kernel

def st211 : State := (wr [(1,31)]).updDie 3 fun x => { x with retain := x.retain.set 7 (some { base := 0, limit := 0, ways := 1, part := 0, kid := 0 }) }

theorem witness_CachesAndFences_6 :
    (Runs st211 0 (st211.ctxD 0) (.unpin 1)) ∧
    (st211.spec (st211.ctxD 0) = false) ∧
    ((st211.die (bits ((st211.ctxD 0).getG 1) 3 2)).retain.toList[bits ((st211.ctxD 0).getG 1) 0 3]? = some (some { base := 0, limit := 0, ways := 1, part := 0, kid := 0 })) := by decide +kernel

theorem witness_CachesAndFences_7 :
    (Runs st124 0 (st124.ctxD 0) (.unpin 1)) ∧ (st124.spec (st124.ctxD 0) = true) := by decide +kernel

def st213 : State := { wr [(1,0x100000100),(2,1)] with dirty := [0x800002, 0x800003], glob := memStore w.glob 0x40000100 8 77 }

theorem witness_CachesAndFences_8 :
    (Runs st213 0 (st213.ctxD 0) (.flsh 1 2)) ∧
    (st213.spec (st213.ctxD 0) = false) ∧
    (Memory.wf st213.glob = true) ∧
    (Memory.wf st213.dram = true) ∧
    (inRanges (st213.rangeLines (st213.partOf (st213.ctxD 0).kid) ((st213.ctxD 0).getG 1) ((st213.ctxD 0).getG 2)) 0x800002 = true) ∧
    (inRanges (st213.rangeLines (st213.partOf (st213.ctxD 0).kid) ((st213.ctxD 0).getG 1) ((st213.ctxD 0).getG 2)) 0x800003 = false) := by decide +kernel

def st214 : State := { wr [(1,0x100000100),(2,1)] with dirty := [0x800003], glob := memStore w.glob 0x40000100 8 77, rdcs := [(0, [{ line := 0x800002, data := [], wts := 0#48, lease := 0#48 }])] }

theorem witness_CachesAndFences_9 :
    (Runs st214 0 (st214.ctxD 0) (.invl 1 2)) ∧
    (st214.spec (st214.ctxD 0) = false) ∧
    (Memory.wf st214.glob = true) ∧
    (Memory.wf st214.dram = true) ∧
    (inRanges (st214.rangeLines (st214.partOf (st214.ctxD 0).kid) ((st214.ctxD 0).getG 1) ((st214.ctxD 0).getG 2)) 0x800002 = true) := by decide +kernel

theorem witness_CachesAndFences_10 :
    Runs st72 0 (st72.ctxD 0) (.winset 1 2 0 0) := by decide +kernel

def st216 : State := wr [(1,64),(2,1)]

theorem witness_CachesAndFences_11 :
    Runs st216 0 (st216.ctxD 0) (.winset 1 2 0 0) := by decide +kernel

def st217 : State := wr [(1,65536-64),(2,64)]

theorem witness_CachesAndFences_12 :
    (Runs st217 0 (st217.ctxD 0) (.winset 1 2 7 0xFFF)) ∧
    (((st217.ctxD 0).getG 1).toNat % 64 = 0 ∧
    ((st217.ctxD 0).getG 2).toNat % 64 = 0 ∧
    ((st217.ctxD 0).getG 2).toNat ≤ 2 ^ 20 ∧
    ((st217.ctxD 0).getG 1).toNat + ((st217.ctxD 0).getG 2).toNat ≤ st217.sOf (st217.ctxD 0) ∧
    st217.isWarp (st217.ctxD 0).kid = false) := by decide +kernel

def st218 : State := wr [(1,2^64-64),(2,0)]

theorem witness_CachesAndFences_13 :
    (Runs st218 0 (st218.ctxD 0) (.winset 1 2 7 0xFFF)) ∧
    (((st218.ctxD 0).getG 1).toNat % 64 = 0 ∧
    ((st218.ctxD 0).getG 2).toNat % 64 = 0 ∧
    (st218.ctxD 0).getG 2 = 0#64) := by decide +kernel

theorem witness_CachesAndFences_14 :
    Runs st11 0 (st11.ctxD 0) (.fence) := by decide +kernel

theorem witness_CachesAndFences_15 :
    Runs st173 0 (st173.ctxD 0) (.cfence .core .put) := by decide +kernel

theorem witness_CachesAndFences_16 :
    (Runs st173 0 (st173.ctxD 0) (.cfence .put .core)) ∧
    (st173.pathDone 0 .put = false) := by decide +kernel

def st222 : State := wl w fun l => { l with copies := [{ slot := 0, seqno := 0, kind := 0, desc := [], descAt := 0#64, frm := 0#4, ctx := 0, state := 2 }] }

theorem witness_CachesAndFences_17 :
    (Runs st222 0 (st222.ctxD 0) (.cfence .copy .core)) ∧
    (st222.pathDone 0 .copy = false) := by decide +kernel

def st223 : State := wl (wc fun c => { c with muMark := 4 }) fun l => { l with mu := { l.mu with done := 4, acc := 5 } }

theorem witness_CachesAndFences_18 :
    (Runs st223 0 (st223.ctxD 0) (.cfence .matrix .core)) ∧
    ((st223.ctxD 0).muMark ≤ (st223.lcore (st223.ctxD 0).lck).mu.done ∧
    (st223.lcore (st223.ctxD 0).lck).mu.marks[(st223.ctxD 0).strand.toNat] ≤ (st223.lcore (st223.ctxD 0).lck).mu.done) := by decide +kernel

theorem witness_CachesAndFences_19 :
    (Runs st11 0 (st11.ctxD 0) (.cfence .coll .core)) ∧
    (∀ e ∈ st11.lcores, ∀ r ∈ e.2.colls, (st11.ctxD 0).issued r.ctx e.1 r.strand = true → r.state = 3 ∨ r.state = 4) := by decide +kernel

theorem witness_CachesAndFences_20 :
    (Runs st11 0 (st11.ctxD 0) (.pfence)) ∧
    (st11.putsOut (st11.ctxD 0) = false ∧
    (st11.ctxD 0).nacks = []) := by decide +kernel

def st226 : State := wc fun c => { c with puts := 1, nacks := [9] }

theorem witness_CachesAndFences_21 :
    (Runs st226 0 (st226.ctxD 0) (.pfence)) ∧ ((st226.ctxD 0).puts ≠ 0) := by decide +kernel

def st227 : State := wc fun c => { c with nacks := [9, 8] }

theorem witness_CachesAndFences_22 :
    (Runs st227 0 (st227.ctxD 0) (.pfence)) ∧
    (st227.putsOut (st227.ctxD 0) = false ∧
    (st227.ctxD 0).nacks = [9, 8] ∧
    (st227.ctxD 0).shipped = none) := by decide +kernel

def st228 : State := wl w fun l => { l with copies := [{ slot := 0, seqno := 0, kind := 0, desc := [], descAt := 0#64, frm := 0#4, ctx := 0, state := 4 }] }

theorem witness_CachesAndFences_23 :
    (Runs st228 0 (st228.ctxD 0) (.cfence .copy .core)) ∧
    (∀ e ∈ st228.lcores, ∀ r ∈ e.2.copies, (st228.ctxD 0).issued r.ctx r.act r.strand = true → r.state = 4 ∨ r.state = 5 ∨ r.state = 6) := by decide +kernel

theorem witness_CachesAndFences_24 :
    (Runs st11 0 (st11.ctxD 0) (.cfence .put .core)) ∧
    (st11.putsOut (st11.ctxD 0) = false ∧
    (st11.ctxD 0).nacks = []) := by decide +kernel

theorem witness_MatrixInstructions_1 :
    (Runs st0 0 (st0.ctxD 0) (.stq 1 0)) ∧
    ((st0.ctxD 0).getG 1 ≠ BitVec.ofNat 64 ((st0.part (st0.partOf (st0.ctxD 0).kid)).qbase + 64 * (8 * (st0.ctxD 0).lt + (st0.ctxD 0).core))) := by decide +kernel

def st231 : State := wc fun c => { c.setG 1 0x200000 with f := c.f.set 31 7#64 }

theorem witness_MatrixInstructions_2 :
    (Runs st231 0 (st231.ctxD 0) (.stq 1 24)) ∧
    ((st231.ctxD 0).getG 1 = BitVec.ofNat 64 ((st231.part (st231.partOf (st231.ctxD 0).kid)).qbase + 64 * (8 * (st231.ctxD 0).lt + (st231.ctxD 0).core)) ∧
    (st231.mu (st231.ctxD 0).lck).memberOf = none ∧
    st231.muFree (st231.ctxD 0).lck = true ∧
    st231.isWarp (st231.ctxD 0).kid = false) ∧
    ((st231.mu (st231.ctxD 0).lck).queue.length < 16 ∧
    (st231.mu (st231.ctxD 0).lck).faulted = false) ∧
    (∀ k ∈ List.range 8, streamOn (st231.ctxD 0).streams (24 + BitVec.ofNat 5 k) = none) := by decide +kernel

def st232 : State := wl w fun l => { l with mu := { l.mu with faulted := true, fl := 31#5, fcause := 2#4, fcmd := 9#4, acc := 70000, done := 70000 } }

theorem witness_MatrixInstructions_3 :
    (Runs st232 0 (st232.ctxD 0) (.mxstat 3 true)) ∧
    ((st232.mu (st232.ctxD 0).lck).leads = [] ∧
    (st232.mu (st232.ctxD 0).lck).memberOf = none ∧
    (st232.mu (st232.ctxD 0).lck).queue.length ≤ 16) := by decide +kernel

def st233 : State := wl w fun l => { l with mu := { l.mu with work := [(3, 5#32)], acc := 4, done := 4 } }

theorem witness_MatrixInstructions_4 :
    (Runs st233 0 (st233.ctxD 0) (.mxswap)) ∧
    ((st233.ctxD 0).held = none ∧
    (st233.mu (st233.ctxD 0).lck).memberOf = none ∧
    st233.muFree (st233.ctxD 0).lck = true) ∧
    ((st233.mu (st233.ctxD 0).lck).faulted = false ∧
    (st233.mu (st233.ctxD 0).lck).leads = [] ∧
    (st233.mu (st233.ctxD 0).lck).swaps = [] ∧
    (st233.mu (st233.ctxD 0).lck).acc ≤ (st233.mu (st233.ctxD 0).lck).done) := by decide +kernel

def st234 : State := wl w fun l => { l with mu := { l.mu with work := [(3, 5#32)], acc := 5, done := 4 } }

theorem witness_MatrixInstructions_5 :
    (Runs st234 0 (st234.ctxD 0) (.mxswap)) ∧
    ((st234.ctxD 0).held = none ∧
    (st234.mu (st234.ctxD 0).lck).memberOf = none ∧
    st234.muFree (st234.ctxD 0).lck = true) ∧
    ((st234.mu (st234.ctxD 0).lck).faulted = false ∧
    (st234.mu (st234.ctxD 0).lck).swaps = [] ∧
    (st234.mu (st234.ctxD 0).lck).done < (st234.mu (st234.ctxD 0).lck).acc) := by decide +kernel

def st235 : State := wl w fun l => { l with mu := { l.mu with acc := 4, done := 4 } }

theorem witness_MatrixInstructions_6 :
    (Runs st235 0 (st235.ctxD 0) (.mxwait)) ∧
    ((st235.ctxD 0).held = none ∧
    (st235.mu (st235.ctxD 0).lck).memberOf = none ∧
    st235.muFree (st235.ctxD 0).lck = true) ∧
    ((st235.mu (st235.ctxD 0).lck).faulted = false ∧
    (st235.mu (st235.ctxD 0).lck).acc ≤ (st235.mu (st235.ctxD 0).lck).done) := by decide +kernel

def st236 : State := wl w fun l => { l with mu := { l.mu with acc := 5, done := 4 } }

theorem witness_MatrixInstructions_7 :
    (Runs st236 0 (st236.ctxD 0) (.mxwait)) ∧
    ((st236.ctxD 0).held = none ∧
    (st236.mu (st236.ctxD 0).lck).memberOf = none ∧
    st236.muFree (st236.ctxD 0).lck = true) ∧
    ((st236.mu (st236.ctxD 0).lck).faulted = false ∧
    (st236.mu (st236.ctxD 0).lck).done < (st236.mu (st236.ctxD 0).lck).acc) := by decide +kernel

def st237 : State := wl w fun l => { l with mu := { l.mu with faulted := true, fcause := 5#4, fInfo := 9#64 } }

theorem witness_MatrixInstructions_8 :
    (Runs st237 0 (st237.ctxD 0) (.mxwait)) ∧
    ((st237.ctxD 0).held = none ∧
    (st237.mu (st237.ctxD 0).lck).memberOf = none ∧
    st237.muFree (st237.ctxD 0).lck = true ∧
    (st237.mu (st237.ctxD 0).lck).faulted = true) := by decide +kernel

def st238 : State := wl w fun l => { l with mu := { l.mu with faulted := true, fcause := 5#4, fInfo := 9#64, acc := 3, work := [(1,1)], queue := [mr 0 0 0 0] } }

theorem witness_MatrixInstructions_9 :
    (Runs st238 0 (st238.ctxD 0) (.mxrst)) ∧
    ((st238.ctxD 0).held = none ∧
    (st238.mu (st238.ctxD 0).lck).memberOf = none ∧
    st238.muFree (st238.ctxD 0).lck = true ∧
    (st238.mu (st238.ctxD 0).lck).leads = [] ∧
    (st238.mu (st238.ctxD 0).lck).swaps = []) := by decide +kernel

theorem witness_MatrixInstructions_10 :
    (Runs st124 0 (st124.ctxD 0) (.mxgang 3 1 false 0 0 0)) ∧
    (st124.isWarp (st124.ctxD 0).kid = true) := by decide +kernel

def st240 : State := wt (wr [(1,64)]) fun x => { x with scratch := memStore [] 64 2 0x1000 }

theorem witness_MatrixInstructions_11 :
    ((Runs st240 0 (st240.ctxD 0) (.mxgang 3 1 false 0 0 0)) ∧
    (st240.isWarp (st240.ctxD 0).kid = false ∧
    (st240.ctxD 0).held = none ∧
    (st240.mu (st240.ctxD 0).lck).memberOf = none ∧
    st240.muFree (st240.ctxD 0).lck = true) ∧
    (st240.gangRefusal (st240.ctxD 0).kid (st240.ctxD 0).lck ((List.range 1).map (fun k => BitVec.ofNat 64 (leNat (memBytes (st240.ltile (st240.ctxD 0).ltk).scratch (64 + 2 * k) 2)))) = some 4)) ∧
    (ScratchOk st240 (st240.ctxD 0) 64 2 2) := ⟨by decide +kernel, scratch_ok (by decide +kernel)⟩

def st241 : State := wt (wr [(1,128)]) fun x => { x with scratch := memStore [] 66 2 0x1000 }

theorem witness_MatrixInstructions_12 :
    ((Runs st241 0 (st241.ctxD 0) (.mxgang 3 1 false 1 0 0xFFFFFFC0)) ∧
    (st241.isWarp (st241.ctxD 0).kid = false ∧
    (st241.ctxD 0).held = none ∧
    (st241.mu (st241.ctxD 0).lck).memberOf = none ∧
    st241.muFree (st241.ctxD 0).lck = true) ∧
    (st241.gangRefusal (st241.ctxD 0).kid (st241.ctxD 0).lck ((List.range 2).map (fun k => BitVec.ofNat 64 (leNat (memBytes (st241.ltile (st241.ctxD 0).ltk).scratch (64 + 2 * k) 2)))) = none) ∧
    ((st241.muTake (st241.ctxD 0).lck).gangIdle (st241.ctxD 0).kid ((List.range 2).map (fun k => BitVec.ofNat 64 (leNat (memBytes (st241.ltile (st241.ctxD 0).ltk).scratch (64 + 2 * k) 2)))) = true)) ∧
    (ScratchOk st241 (st241.ctxD 0) 64 4 2) := ⟨by decide +kernel, scratch_ok (by decide +kernel)⟩

theorem witness_MatrixInstructions_13 :
    (Runs st11 0 (st11.ctxD 0) (.mxgang 3 1 true 1 0 0xFFFFFFC0)) ∧
    (st11.isWarp (st11.ctxD 0).kid = false ∧
    (st11.mu (st11.ctxD 0).lck).memberOf = none ∧
    st11.muFree (st11.ctxD 0).lck = true ∧
    (st11.mu (st11.ctxD 0).lck).queue = []) := by decide +kernel

def st243 : State := wmu (mr 0 0 0 0) []

theorem witness_MatrixUnit_1 :
    (UnitTurn st243 0 (mr 0 0 0 0) []) ∧
    ((mr 0 0 0 0).cmd = 0) ∧
    ((mr 0 0 0 0).check (st243.kernelD 0).s 1 1 = none) := by decide +kernel

def st244 : State := wmu (mr 0x3 0 0 0) []

theorem witness_MatrixUnit_2 :
    (UnitTurn st244 0 (mr 0x3 0 0 0) []) ∧
    ((mr 0x3 0 0 0).cmd = 3) ∧
    ((mr 0x3 0 0 0).check (st244.kernelD 0).s 1 1 = none) := by decide +kernel

def st245 : State := wmu (mr 0x1 1 0 0) []

theorem witness_MatrixUnit_3 :
    (UnitTurn st245 0 (mr 0x1 1 0 0) []) ∧
    (st245.past = []) ∧
    ((mr 0x1 1 0 0).cmd = 1) ∧
    ((mr 0x1 1 0 0).check (st245.kernelD 0).s 1 1 = some 2) := by decide +kernel

def st246 : State := wmu (mr 0x1 65472 0 0) []

theorem witness_MatrixUnit_4 :
    (UnitTurn st246 0 (mr 0x1 65472 0 0) []) ∧
    (st246.past = []) ∧
    ((mr 0x1 65472 0 0).cmd = 1) ∧
    ((mr 0x1 65472 0 0).check (st246.kernelD 0).s 1 1 = some 5) := by decide +kernel

def st247 : State := wmu (mr 0x110101 0 0x1000 0) (memPut (memPut [] 0 [3#8]) 4096 (List.replicate 16 0#8 ++ [1#8]))

theorem witness_MatrixUnit_5 :
    (UnitTurn st247 0 (mr 0x110101 0 0x1000 0) []) ∧
    (st247.past = []) ∧
    ((mr 0x110101 0 0x1000 0).cmd = 1 ∧
    (mr 0x110101 0 0x1000 0).int = true ∧
    (mr 0x110101 0 0x1000 0).sat = false ∧
    (mr 0x110101 0 0x1000 0).kb = 1) ∧
    ((mr 0x110101 0 0x1000 0).check (st247.kernelD 0).s 1 1 = none) := by decide +kernel

def st248 : State := wmu (mr 0x01110102 0 0x1000 0) []

theorem witness_MatrixUnit_6 :
    (UnitTurn st248 0 (mr 0x01110102 0 0x1000 0) []) ∧
    (st248.past = []) ∧
    ((mr 0x01110102 0 0x1000 0).cmd = 2 ∧
    1 < (mr 0x01110102 0 0x1000 0).kb) ∧
    ((mr 0x01110102 0 0x1000 0).check (st248.kernelD 0).s 1 1 = none) := by decide +kernel

def st249 : State := wmu (mr 0x4 (64 + 128 * 2^32) 0 0) (memStore [] (64 + 31 * 128 + 4 * 31) 4 77)

theorem witness_MatrixUnit_7 :
    (UnitTurn st249 0 (mr 0x4 (64 + 128 * 2^32) 0 0) []) ∧
    (st249.past = []) ∧
    ((mr 0x4 (64 + 128 * 2^32) 0 0).cmd = 4) ∧
    ((mr 0x4 (64 + 128 * 2^32) 0 0).check (st249.kernelD 0).s 1 1 = none) := by decide +kernel

def st250 : State := (wmu (mr 0x2805 (64 + 128 * 2^32) 0 0) []).updMu 0 fun m => { m with vis := [(1023, 0x80000001#32)] }

theorem witness_MatrixUnit_8 :
    (UnitTurn st250 0 (mr 0x2805 (64 + 128 * 2^32) 0 0) []) ∧
    ((mr 0x2805 (64 + 128 * 2^32) 0 0).cmd = 5 ∧
    (mr 0x2805 (64 + 128 * 2^32) 0 0).ty = (if (mr 0x2805 (64 + 128 * 2^32) 0 0).tk then 2 else 0)) ∧
    ((mr 0x2805 (64 + 128 * 2^32) 0 0).check (st250.kernelD 0).s 1 1 = none) := by decide +kernel

def st251 : State := (wmu (mr 0x5 (64 + 128 * 2^32) 0 0) []).updMu 0 fun m => { m with vis := [(1023, 0x7FA00001#32), (1022, 0x80000001#32)] }

theorem witness_MatrixUnit_9 :
    (UnitTurn st251 0 (mr 0x5 (64 + 128 * 2^32) 0 0) []) ∧
    ((mr 0x5 (64 + 128 * 2^32) 0 0).cmd = 5 ∧
    (mr 0x5 (64 + 128 * 2^32) 0 0).ty = (if (mr 0x5 (64 + 128 * 2^32) 0 0).tk then 2 else 0)) ∧
    ((mr 0x5 (64 + 128 * 2^32) 0 0).check (st251.kernelD 0).s 1 1 = none) := by decide +kernel

def st252 : State := wmu (mr 0x1006 0 0x8000 0) []

theorem witness_MatrixUnit_10 :
    (UnitTurn st252 0 (mr 0x1006 0 0x8000 0) []) ∧
    (st252.past = []) ∧
    ((mr 0x1006 0 0x8000 0).cmd = 6 ∧
    (mr 0x1006 0 0x8000 0).roleB = false) ∧
    ((mr 0x1006 0 0x8000 0).check (st252.kernelD 0).s 1 1 = none) := by decide +kernel

def st253 : State := wmu (mr 0x1007 0 (0x8000 + 256 * 2^32) 0) []

theorem witness_MatrixUnit_11 :
    (UnitTurn st253 0 (mr 0x1007 0 (0x8000 + 256 * 2^32) 0) []) ∧
    (st253.past = []) ∧
    ((mr 0x1007 0 (0x8000 + 256 * 2^32) 0).cmd = 7 ∧
    (mr 0x1007 0 (0x8000 + 256 * 2^32) 0).roleB = false) ∧
    ((mr 0x1007 0 (0x8000 + 256 * 2^32) 0).check (st253.kernelD 0).s 1 1 = none) := by decide +kernel

def st254 : State := wmu (mr 0x8 0x100 0x1234567890 0) []

theorem witness_MatrixUnit_12 :
    (UnitTurn st254 0 (mr 0x8 0x100 0x1234567890 0) []) ∧
    ((mr 0x8 0x100 0x1234567890 0).cmd = 8) ∧
    ((mr 0x8 0x100 0x1234567890 0).check (st254.kernelD 0).s 1 1 = none) := by decide +kernel

def st255 : State := wmu (mr 0x9 0 0 0) []

theorem witness_MatrixUnit_13 :
    (UnitTurn st255 0 (mr 0x9 0 0 0) []) ∧
    ((mr 0x9 0 0 0).cmd = 9) ∧
    ((mr 0x9 0 0 0).check (st255.kernelD 0).s 1 1 = none) := by decide +kernel

def st256 : State := we w { id := 11, idx := 15, w0 := 0x80000001FFFFFF9F }

theorem witness_FormatWindows_1 :
    (st256.ev.id < 12 ∧
    st256.ev.idx < 16) ∧
    ((st256.ctrl st256.ev.id).wins.toList[st256.ev.idx]? = some ({} : FmtWin)) := by decide +kernel

def st257 : State := we (w.updCtrl 3 fun x => { x with wins := x.wins.set 2 { ebase := 0x50000000#64, elimit := 0x50000400#64, vbase := 0x60000000#64, ctl := 0x8000000100000118#64 } }) { id := 3, idx := 2, slot := 0 }

theorem witness_FormatWindows_2 :
    (st257.ev.id < 12 ∧
    st257.ev.idx < 16) ∧
    ((st257.ctrl st257.ev.id).wins.toList[st257.ev.idx]? = some (({ ebase := 0x50000000#64, elimit := 0x50000400#64, vbase := 0x60000000#64, ctl := 0x8000000100000118#64 } : FmtWin))) ∧
    ((({ ebase := 0x50000000#64, elimit := 0x50000400#64, vbase := 0x60000000#64, ctl := 0x8000000100000118#64 } : FmtWin)).ctl.getLsbD 63 = true ∧
    st257.ev.slot < (({ ebase := 0x50000000#64, elimit := 0x50000400#64, vbase := 0x60000000#64, ctl := 0x8000000100000118#64 } : FmtWin)).blocks) ∧
    (((({ ebase := 0x50000000#64, elimit := 0x50000400#64, vbase := 0x60000000#64, ctl := 0x8000000100000118#64 } : FmtWin)).block st257.glob st257.ev.slot).1.length ≤ (({ ebase := 0x50000000#64, elimit := 0x50000400#64, vbase := 0x60000000#64, ctl := 0x8000000100000118#64 } : FmtWin)).stride) ∧
    ((({ ebase := 0x50000000#64, elimit := 0x50000400#64, vbase := 0x60000000#64, ctl := 0x8000000100000118#64 } : FmtWin)).vbase.toNat % 128 = 0) := by decide +kernel

theorem witness_ChainCreation_1 :
    (Runs st72 0 (st72.ctxD 0) (.chain 3 1 2)) ∧
    (((st72.ctxD 0).getG 1).toNat % 64 ≠ 0) := by decide +kernel

def st259 : State := wr [(1,65472)]

theorem witness_ChainCreation_2 :
    (Runs st259 0 (st259.ctxD 0) (.chain 3 1 2)) ∧
    (((st259.ctxD 0).getG 1).toNat % 64 = 0 ∧
    st259.sOf (st259.ctxD 0) < ((st259.ctxD 0).getG 1).toNat + 128) := by decide +kernel

def st260 : State := wt (wr [(1,65408)]) fun x => { x with scratch := memPut [] 65408 (desc2 0 0x1000) }

theorem witness_ChainCreation_3 :
    ((Runs st260 0 (st260.ctxD 0) (.chain 3 1 2)) ∧
    (st260.isWarp (st260.ctxD 0).kid = false) ∧
    (hdrField (memBytes (st260.ltile (st260.ctxD 0).ltk).scratch ((st260.ctxD 0).getG 1).toNat 128) 0 8 % 8 + 1 = 2 ∧
    hdrField (memBytes (st260.ltile (st260.ctxD 0).ltk).scratch ((st260.ctxD 0).getG 1).toNat 128) 0 8 / 256 % 2 = 0 ∧
    hdrField (memBytes (st260.ltile (st260.ctxD 0).ltk).scratch ((st260.ctxD 0).getG 1).toNat 128) 0 8 / 2 ^ 32 % 2 ^ 20 = 0x2000) ∧
    (descBad (memBytes (st260.ltile (st260.ctxD 0).ltk).scratch ((st260.ctxD 0).getG 1).toNat 128) (st260.kernelD (st260.ctxD 0).kid).tiles = false) ∧
    ((0x2000 + 8704 ≤ (st260.kernelD (st260.ctxD 0).kid).s ∧
    ((List.range 2).map (descAt (memBytes (st260.ltile (st260.ctxD 0).ltk).scratch ((st260.ctxD 0).getG 1).toNat 128))).dedup.length = 2)) ∧
    (∀ p ∈ (List.range 2).map (descAt (memBytes (st260.ltile (st260.ctxD 0).ltk).scratch ((st260.ctxD 0).getG 1).toNat 128)), st260.hostsStage (lcKey (st260.ctxD 0).kid p.1 p.2) = false) ∧
    ((List.range 256).find? (fun n => (st260.kernelD 0).chains.all fun ch => decide (ch.num ≠ n)) = some 0) ∧
    ((st260.ctxD 0).item.vrt.toNat ≤ 2 ^ 64 - 2 ∧
    (st260.lcore (st260.ctxD 0).lck).retx.length + 2 ≤ 64 ∧
    st260.agedSend (st260.ctxD 0) = false ∧
    (st260.ctxD 0).kid < 63 ∧
    lcKid (st260.ctxD 0).alck = (st260.ctxD 0).kid)) ∧
    (ScratchOk st260 (st260.ctxD 0) ((st260.ctxD 0).getG 1).toNat 128 64) := ⟨by decide +kernel, scratch_ok (by decide +kernel)⟩

def st261 : State := wt (wch (wr [(1,128)]) .stake) fun x => { x with scratch := memPut [] 128 (desc2 1 0x3000 |>.set 73 0x20#8) }

theorem witness_ChainCreation_4 :
    ((Runs st261 0 (st261.ctxD 0) (.chain 3 1 2)) ∧
    (st261.isWarp (st261.ctxD 0).kid = false) ∧
    (hdrField (memBytes (st261.ltile (st261.ctxD 0).ltk).scratch ((st261.ctxD 0).getG 1).toNat 128) 0 8 / 256 % 2 = 1) ∧
    (descBad (memBytes (st261.ltile (st261.ctxD 0).ltk).scratch ((st261.ctxD 0).getG 1).toNat 128) (st261.kernelD (st261.ctxD 0).kid).tiles = false) ∧
    (((List.range 2).map (descAt (memBytes (st261.ltile (st261.ctxD 0).ltk).scratch ((st261.ctxD 0).getG 1).toNat 128))).dedup.length = 2) ∧
    (∀ p ∈ (List.range 2).map (descAt (memBytes (st261.ltile (st261.ctxD 0).ltk).scratch ((st261.ctxD 0).getG 1).toNat 128)), st261.hostsStage (lcKey (st261.ctxD 0).kid p.1 p.2) = false) ∧
    (st261.oneTile (st261.ctxD 0).kid ((List.range 2).map (descAt (memBytes (st261.ltile (st261.ctxD 0).ltk).scratch ((st261.ctxD 0).getG 1).toNat 128))) = true) ∧
    ((List.range 256).find? (fun n => (st261.kernelD 0).chains.all fun ch => decide (ch.num ≠ n)) = some 0)) ∧
    (ScratchOk st261 (st261.ctxD 0) ((st261.ctxD 0).getG 1).toNat 128 64) := ⟨by decide +kernel, scratch_ok (by decide +kernel)⟩

def st262 : State := wt (wr [(1,128)]) fun x => { x with scratch := memPut [] 128 (desc2 0 0) }

theorem witness_ChainCreation_5 :
    ((Runs st262 0 (st262.ctxD 0) (.chain 3 1 2)) ∧
    (st262.isWarp (st262.ctxD 0).kid = false) ∧
    (descBad (memBytes (st262.ltile (st262.ctxD 0).ltk).scratch ((st262.ctxD 0).getG 1).toNat 128) (st262.kernelD (st262.ctxD 0).kid).tiles = false) ∧
    (((List.range 2).map (descAt (memBytes (st262.ltile (st262.ctxD 0).ltk).scratch ((st262.ctxD 0).getG 1).toNat 128))).dedup.length ≠ 2)) ∧
    (ScratchOk st262 (st262.ctxD 0) ((st262.ctxD 0).getG 1).toNat 128 64) := ⟨by decide +kernel, scratch_ok (by decide +kernel)⟩

def st263 : State := wt (wr [(1,128)]) fun x => { x with scratch := memPut [] 128 (desc2 0 0x8000) }

theorem witness_ChainCreation_6 :
    ((Runs st263 0 (st263.ctxD 0) (.chain 3 1 2)) ∧
    (st263.isWarp (st263.ctxD 0).kid = false) ∧
    (descBad (memBytes (st263.ltile (st263.ctxD 0).ltk).scratch ((st263.ctxD 0).getG 1).toNat 128) (st263.kernelD (st263.ctxD 0).kid).tiles = true)) ∧
    (ScratchOk st263 (st263.ctxD 0) ((st263.ctxD 0).getG 1).toNat 128 64) := ⟨by decide +kernel, scratch_ok (by decide +kernel)⟩

def st264 : State := wr [(1,256)]

theorem witness_ChainSwitches_1 :
    (Runs st264 0 (st264.ctxD 0) (.recoil 3 1)) ∧
    (255 < ((st264.ctxD 0).getG 1).toNat) := by decide +kernel

def st265 : State := wr [(1,255)]

theorem witness_ChainSwitches_2 :
    (Runs st265 0 (st265.ctxD 0) (.recoil 3 1)) ∧
    (((st265.ctxD 0).getG 1).toNat ≤ 255 ∧
    st265.chain? (st265.ctxD 0).kid ((st265.ctxD 0).getG 1).toNat = none) := by decide +kernel

def st266 : State := wch (wr [(1,4)]) .coil

theorem witness_ChainSwitches_3 :
    (Runs st266 0 (st266.ctxD 0) (.recoil 3 1)) ∧
    (st266.chain? (st266.ctxD 0).kid ((st266.ctxD 0).getG 1).toNat = some (ch2 .coil)) := by decide +kernel

def st267 : State := (wch (wr [(1,4)]) .stake).updK 0 fun k => { k with chains := [{ ch2 .stake with places := (Vector.replicate 8 (0, 0)).set 1 (1, 1) }], tiles := 2 }

theorem witness_ChainSwitches_4 :
    (Runs st267 0 (st267.ctxD 0) (.recoil 3 1)) ∧
    ((st267.chain? (st267.ctxD 0).kid ((st267.ctxD 0).getG 1).toNat).map (·.form) = some .stake) ∧
    (st267.oneTile (st267.ctxD 0).kid ((List.range 2).map ((st267.chain? (st267.ctxD 0).kid 4).getD (ch2 .coil)).at) = true) := by decide +kernel

def st268 : State := { (wch (wr [(1,4)]) .stake).updK 0 fun k => { k with chains := [{ ch2 .stake with places := (Vector.replicate 8 (0, 0)).set 1 (1, 1) }], tiles := 2 } with ltiles := [(0, {}), (1, { tile := 7 })] }

theorem witness_ChainSwitches_5 :
    (Runs st268 0 (st268.ctxD 0) (.recoil 3 1)) ∧
    ((st268.chain? (st268.ctxD 0).kid ((st268.ctxD 0).getG 1).toNat).map (·.form) = some .stake) ∧
    (st268.oneTile (st268.ctxD 0).kid ((List.range 2).map ((st268.chain? (st268.ctxD 0).kid 4).getD (ch2 .coil)).at) = false) := by decide +kernel

def st269 : State := wch (wr [(1,4)]) .stake

theorem witness_ChainSwitches_6 :
    (Runs st269 0 (st269.ctxD 0) (.recoil 3 1)) ∧
    (st269.chain? (st269.ctxD 0).kid ((st269.ctxD 0).getG 1).toNat = some (ch2 .stake)) ∧
    (st269.oneTile (st269.ctxD 0).kid ((List.range 2).map (ch2 .stake).at) = true) := by decide +kernel

def st270 : State := wk (wr [(1,4)]) fun k => { k with warp := true }

theorem witness_ChainSwitches_7 :
    (Runs st270 0 (st270.ctxD 0) (.uncoil 3 1)) ∧
    (((st270.ctxD 0).getG 1).toNat ≤ 255 ∧
    st270.isWarp (st270.ctxD 0).kid = true) := by decide +kernel

def st271 : State := wch (wr [(1,4)]) .toCoil

theorem witness_ChainSwitches_8 :
    (Runs st271 0 (st271.ctxD 0) (.uncoil 3 1)) ∧
    (((st271.ctxD 0).getG 1).toNat ≤ 255 ∧
    st271.isWarp (st271.ctxD 0).kid = false) ∧
    (st271.chain? (st271.ctxD 0).kid ((st271.ctxD 0).getG 1).toNat = some (ch2 .toCoil)) := by decide +kernel

theorem witness_ChainSwitches_9 :
    (Runs st266 0 (st266.ctxD 0) (.uncoil 3 1)) ∧
    (((st266.ctxD 0).getG 1).toNat ≤ 255 ∧
    st266.isWarp (st266.ctxD 0).kid = false) ∧
    (st266.chain? (st266.ctxD 0).kid ((st266.ctxD 0).getG 1).toNat = some (ch2 .coil)) := by decide +kernel

theorem witness_ChainSwitches_10 :
    Runs st264 0 (st264.ctxD 0) (.cform 3 1) := by decide +kernel

theorem witness_ChainSwitches_11 :
    (Runs st265 0 (st265.ctxD 0) (.cform 3 1)) ∧
    (((st265.ctxD 0).getG 1).toNat ≤ 255 ∧
    st265.chain? (st265.ctxD 0).kid ((st265.ctxD 0).getG 1).toNat = none) := by decide +kernel

def st275 : State := wt (wch (wr [(1,4)]) .coil) fun x => { x with scratch := memStore [] (0x2000 + 512 + 1024 + 304) 8 3 }

theorem witness_ChainSwitches_12 :
    (Runs st275 0 (st275.ctxD 0) (.cform 3 1)) ∧
    (((st275.ctxD 0).getG 1).toNat ≤ 255) ∧
    (st275.chain? (st275.ctxD 0).kid ((st275.ctxD 0).getG 1).toNat = some (ch2 .coil)) := by decide +kernel

theorem witness_ChainSwitches_13 :
    (Runs st11 0 (st11.ctxD 0) (.eqpt)) ∧
    ((st11.ctxD 0).shipped = none ∧
    (st11.ctxD 0).stage = none) := by decide +kernel

def st277 : State := wch (wc fun c => { c with stage := some (4, 0) }) .toCoil

theorem witness_ChainSwitches_14 :
    (Runs st277 0 (st277.ctxD 0) (.eqpt)) ∧
    ((st277.ctxD 0).shipped = none ∧
    (st277.ctxD 0).stage = some (4, 0)) ∧
    (st277.chain? (st277.ctxD 0).kid 4 = some (ch2 .toCoil)) := by decide +kernel

def st278 : State := we (wch (wt w fun x => { x with scratch := memStore (memStore [] (0x2000 + 512 + 304) 8 3) (0x2000 + 512 + 1024 + 304) 8 3 }) .toStake) { id := 0, idx := 4 }

theorem witness_ChainSwitches_15 :
    (st278.chain? st278.ev.id st278.ev.idx = some (ch2 .toStake)) ∧
    (st278.kernelRuns st278.ev.id = true) ∧
    (st278.atEquivalence st278.ev.id (ch2 .toStake) = true) ∧
    (∀ j ∈ List.range (ch2 .toStake).nst, st278.ringRoom ((ch2 .toStake).lc st278.ev.id j) = true) := by decide +kernel

theorem witness_GroupMembership_1 :
    (Runs st124 0 (st124.ctxD 0) (.gjoin 3 1 2)) ∧
    (st124.spec (st124.ctxD 0) = true) := by decide +kernel

def st280 : State := wr [(1,0x10009)]

theorem witness_GroupMembership_2 :
    (Runs st280 0 (st280.ctxD 0) (.gjoin 3 1 2)) ∧
    (st280.spec (st280.ctxD 0) = false ∧
    bits ((st280.ctxD 0).getG 1) 16 36 ≠ 0) := by decide +kernel

def st281 : State := wr [(1,9),(2,2^48)]

theorem witness_GroupMembership_3 :
    (Runs st281 0 (st281.ctxD 0) (.gjoin 3 1 2)) ∧
    (st281.spec (st281.ctxD 0) = false ∧
    bits ((st281.ctxD 0).getG 1) 16 36 = 0 ∧
    bits ((st281.ctxD 0).getG 2) 48 16 ≠ 0) := by decide +kernel

def st282 : State := wr [(1,9),(2,5+2^32)]

theorem witness_GroupMembership_4 :
    (Runs st282 0 (st282.ctxD 0) (.gjoin 3 1 2)) ∧
    (st282.spec (st282.ctxD 0) = false ∧
    bits ((st282.ctxD 0).getG 1) 16 36 = 0 ∧
    bits ((st282.ctxD 0).getG 2) 48 16 = 0 ∧
    bits ((st282.ctxD 0).getG 1) 58 6 = st282.device.toNat) ∧
    (st282.group? (st282.partOf (st282.ctxD 0).kid) ((st282.ctxD 0).getG 1) = none ∧
    (st282.kernel? (bits ((st282.ctxD 0).getG 1) 52 6)).map (·.part) = some (st282.partOf (st282.ctxD 0).kid) ∧
    (st282.kernelD 0).state = .running) ∧
    ((st282.groups.filter fun g => decide (g.part = st282.partOf (st282.ctxD 0).kid)).length < 256) := by decide +kernel

def st283 : State := { wr [(1,9)] with groups := [gr [({}, 5)]] }

theorem witness_GroupMembership_5 :
    (Runs st283 0 (st283.ctxD 0) (.gjoin 3 1 2)) ∧
    (st283.spec (st283.ctxD 0) = false ∧
    bits ((st283.ctxD 0).getG 1) 16 36 = 0 ∧
    bits ((st283.ctxD 0).getG 2) 48 16 = 0 ∧
    bits ((st283.ctxD 0).getG 1) 58 6 = st283.device.toNat) ∧
    (st283.group? (st283.partOf (st283.ctxD 0).kid) ((st283.ctxD 0).getG 1) = some (gr [({}, 5)])) ∧
    ((gr [({}, 5)]).has { dev := st283.device.toNat, kid := (st283.ctxD 0).kid, lt := (st283.ctxD 0).lt } = true) := by decide +kernel

def st284 : State := { wr [(1,9),(2,0)] with groups := [gr [({ lt := 1 }, 5)]] }

theorem witness_GroupMembership_6 :
    (Runs st284 0 (st284.ctxD 0) (.gjoin 3 1 2)) ∧
    (st284.spec (st284.ctxD 0) = false ∧
    bits ((st284.ctxD 0).getG 1) 16 36 = 0 ∧
    bits ((st284.ctxD 0).getG 2) 48 16 = 0 ∧
    bits ((st284.ctxD 0).getG 1) 58 6 = st284.device.toNat) ∧
    (st284.group? (st284.partOf (st284.ctxD 0).kid) ((st284.ctxD 0).getG 1) = some (gr [({ lt := 1 }, 5)])) ∧
    ((gr [({ lt := 1 }, 5)]).has { dev := st284.device.toNat, kid := (st284.ctxD 0).kid, lt := (st284.ctxD 0).lt } = false) := by decide +kernel

def st285 : State := wr [(1,9+2^58),(2,5)]

theorem witness_GroupMembership_7 :
    (Runs st285 0 (st285.ctxD 0) (.gjoin 3 1 2)) ∧
    (st285.spec (st285.ctxD 0) = false ∧
    bits ((st285.ctxD 0).getG 1) 16 36 = 0 ∧
    bits ((st285.ctxD 0).getG 2) 48 16 = 0 ∧
    bits ((st285.ctxD 0).getG 1) 58 6 ≠ st285.device.toNat ∧
    (st285.ctxD 0).held = none ∧
    st285.retxRoom (st285.ctxD 0).lck = true) := by decide +kernel

def st286 : State := { wr [(1,9)] with groups := [gr [({ lt := 1 }, 5)]] }

theorem witness_GroupMembership_8 :
    (Runs st286 0 (st286.ctxD 0) (.gleave 3 1)) ∧
    (st286.spec (st286.ctxD 0) = false ∧
    bits ((st286.ctxD 0).getG 1) 16 36 = 0 ∧
    bits ((st286.ctxD 0).getG 1) 58 6 = st286.device.toNat) ∧
    (st286.group? (st286.partOf (st286.ctxD 0).kid) ((st286.ctxD 0).getG 1) = some (gr [({ lt := 1 }, 5)])) ∧
    ((gr [({ lt := 1 }, 5)]).has { dev := st286.device.toNat, kid := (st286.ctxD 0).kid, lt := (st286.ctxD 0).lt } = false) := by decide +kernel

def st287 : State := { wr [(1,9)] with groups := [gr [({}, 1), ({ lt := 1 }, 5)]] }

theorem witness_GroupMembership_9 :
    (Runs st287 0 (st287.ctxD 0) (.gleave 3 1)) ∧
    (st287.spec (st287.ctxD 0) = false ∧
    bits ((st287.ctxD 0).getG 1) 16 36 = 0 ∧
    bits ((st287.ctxD 0).getG 1) 58 6 = st287.device.toNat) ∧
    (st287.group? (st287.partOf (st287.ctxD 0).kid) ((st287.ctxD 0).getG 1) = some (gr [({}, 1), ({ lt := 1 }, 5)])) ∧
    ((gr [({}, 1), ({ lt := 1 }, 5)]).has { dev := st287.device.toNat, kid := (st287.ctxD 0).kid, lt := (st287.ctxD 0).lt } = true) := by decide +kernel

theorem witness_GroupMembership_10 :
    (Runs st286 0 (st286.ctxD 0) (.ggen 3 1)) ∧
    (st286.spec (st286.ctxD 0) = false ∧
    bits ((st286.ctxD 0).getG 1) 16 36 = 0 ∧
    bits ((st286.ctxD 0).getG 1) 58 6 = st286.device.toNat) ∧
    (st286.group? (st286.partOf (st286.ctxD 0).kid) ((st286.ctxD 0).getG 1) = some (gr [({ lt := 1 }, 5)])) := by decide +kernel

def st289 : State := { wr [(1,9)] with groups := [gr [({ lt := 1 }, 5), ({}, 6)]] }

theorem witness_GroupMembership_11 :
    (Runs st289 0 (st289.ctxD 0) (.ggen 3 1)) ∧
    (st289.spec (st289.ctxD 0) = false ∧
    bits ((st289.ctxD 0).getG 1) 16 36 = 0 ∧
    bits ((st289.ctxD 0).getG 1) 58 6 = st289.device.toNat) ∧
    (st289.group? (st289.partOf (st289.ctxD 0).kid) ((st289.ctxD 0).getG 1) = some (gr [({ lt := 1 }, 5), ({}, 6)])) ∧
    ((gr [({ lt := 1 }, 5), ({}, 6)]).has { dev := st289.device.toNat, kid := (st289.ctxD 0).kid, lt := (st289.ctxD 0).lt } = true) := by decide +kernel

theorem witness_CollectiveOperations_1 :
    ((Runs st124 0 (st124.ctxD 0) (.cbcst 3 1 2 .rne .i32)) ∧
    (st124.spec (st124.ctxD 0) = true)) ∧
    (IsColl (.cbcst 3 1 2 .rne .i32) 3 1 2 { kind := 1, dt := .i32, rm := .rne }) := ⟨by decide +kernel, Or.inr (Or.inr (Or.inr (Or.inr (Or.inr (Or.inl ⟨.rne, .i32, rfl, rfl⟩)))))⟩

theorem witness_CollectiveOperations_2 :
    ((Runs st280 0 (st280.ctxD 0) (.cagth 3 1 2 .rne .i32)) ∧
    (st280.spec (st280.ctxD 0) = false ∧
    bits ((st280.ctxD 0).getG 1) 16 36 ≠ 0)) ∧
    (IsColl (.cagth 3 1 2 .rne .i32) 3 1 2 { kind := 2, dt := .i32, rm := .rne }) := ⟨by decide +kernel, Or.inr (Or.inr (Or.inr (Or.inr (Or.inr (Or.inr (Or.inl ⟨.rne, .i32, rfl, rfl⟩))))))⟩

def st292 : State := wr [(1,9),(2,33)]

theorem witness_CollectiveOperations_3 :
    ((Runs st292 0 (st292.ctxD 0) (.credmin 3 1 2 .rne false .i32)) ∧
    (st292.spec (st292.ctxD 0) = false ∧
    bits ((st292.ctxD 0).getG 1) 16 36 = 0 ∧
    ((st292.ctxD 0).getG 2).toNat % 32 ≠ 0)) ∧
    (IsColl (.credmin 3 1 2 .rne false .i32) 3 1 2 { kind := 0, rop := 1, mode := false, dt := .i32, rm := .rne }) := ⟨by decide +kernel, Or.inr (Or.inl ⟨.rne, false, .i32, rfl, rfl⟩)⟩

def st293 : State := wr [(1,9),(2,64)]

theorem witness_CollectiveOperations_4 :
    ((Runs st293 0 (st293.ctxD 0) (.cred 3 1 2 .rne false .i32)) ∧
    (st293.spec (st293.ctxD 0) = false ∧
    bits ((st293.ctxD 0).getG 1) 16 36 = 0 ∧
    hdrField (memBytes (st293.ltile (st293.ctxD 0).ltk).scratch ((st293.ctxD 0).getG 2).toNat 32) 16 8 = 0)) ∧
    (IsColl (.cred 3 1 2 .rne false .i32) 3 1 2 { kind := 0, rop := 0, mode := false, dt := .i32, rm := .rne }) ∧
    (ScratchOk st293 (st293.ctxD 0) ((st293.ctxD 0).getG 2).toNat 32 32) := ⟨by decide +kernel, Or.inl ⟨.rne, false, .i32, rfl, rfl⟩, scratch_ok (by decide +kernel)⟩

def st294 : State := { wt (wl (wr [(1,9),(2,65504)]) fun l => { l with collSeq := 4097 }) fun x => { x with scratch := memPut [] 65504 (leBytes 8 128 ++ leBytes 8 256 ++ leBytes 8 3 ++ leBytes 8 0) } with groups := [gr [({}, 6)]], views := [{ name := 9#64, kid := 0, lt := 0, view := { gen := 3#32, rank := 0, members := [{}] }, count := 5 }] }

theorem witness_CollectiveOperations_5 :
    ((Runs st294 0 (st294.ctxD 0) (.crsct 3 1 2 .rne false .i64)) ∧
    (st294.spec (st294.ctxD 0) = false ∧
    bits ((st294.ctxD 0).getG 1) 16 36 = 0) ∧
    (st294.view? ((st294.ctxD 0).getG 1) (st294.ctxD 0).kid (st294.ctxD 0).lt = some { name := 9#64, kid := 0, lt := 0, view := { gen := 3#32, rank := 0, members := [{}] }, count := 5 }) ∧
    (hdrField (memBytes (st294.ltile (st294.ctxD 0).ltk).scratch ((st294.ctxD 0).getG 2).toNat 32) 0 8 = 128 ∧
    hdrField (memBytes (st294.ltile (st294.ctxD 0).ltk).scratch ((st294.ctxD 0).getG 2).toNat 32) 8 8 = 256 ∧
    hdrField (memBytes (st294.ltile (st294.ctxD 0).ltk).scratch ((st294.ctxD 0).getG 2).toNat 32) 16 8 = 3 ∧
    hdrField (memBytes (st294.ltile (st294.ctxD 0).ltk).scratch ((st294.ctxD 0).getG 2).toNat 32) 24 8 = 0) ∧
    (128 + 1 * 3 * 8 ≤ st294.sOf (st294.ctxD 0) ∧
    256 + 1 * 3 * 8 ≤ st294.sOf (st294.ctxD 0)) ∧
    ((st294.lcore (st294.ctxD 0).lck).freeColl = some 0)) ∧
    (IsColl (.crsct 3 1 2 .rne false .i64) 3 1 2 { kind := 3, mode := false, dt := .i64, rm := .rne }) ∧
    (ScratchOk st294 (st294.ctxD 0) ((st294.ctxD 0).getG 2).toNat 32 32) := ⟨by decide +kernel, Or.inr (Or.inr (Or.inr (Or.inr (Or.inr (Or.inr (Or.inr ⟨.rne, false, .i64, rfl, rfl⟩)))))), scratch_ok (by decide +kernel)⟩

theorem witness_CollectiveOperations_6 :
    (Runs st11 0 (st11.ctxD 0) (.cstat 3 1)) ∧
    (st11.spec (st11.ctxD 0) = false) ∧
    ((st11.lcore (st11.ctxD 0).lck).colls.find? (fun r => decide (((st11.ctxD 0).getG 1).toNat = r.slot + r.seqno % 4096 * 16)) = none) := by decide +kernel

def st296 : State := wl (wr [(1,31)]) fun l => { l with colls := [{ slot := 15, seqno := 4097, ctx := 0, op := { gen := 7#32 }, src := 0, dst := 0, rank := 0, total := 1, state := 3, fin := { err := 2, fl := 9#5, nc1 := 65535, wdr := true } }] }

theorem witness_CollectiveOperations_7 :
    (Runs st296 0 (st296.ctxD 0) (.cstat 3 1)) ∧
    (st296.spec (st296.ctxD 0) = false) ∧
    (((st296.lcore (st296.ctxD 0).lck).colls.find? (fun r => decide (((st296.ctxD 0).getG 1).toNat = r.slot + r.seqno % 4096 * 16))).isSome = true) := by decide +kernel

def st297 : State := we { wt (wl w fun l => { l with colls := [{ slot := 15, seqno := 1, ctx := 0, op := { name := 9#64, gen := 3#32, k := 2, count := 2 }, src := 64, dst := 128, rank := 0, total := 2, state := 1 }] }) (fun x => { x with scratch := memStore [] 68 4 5 }) with groups := [gr [({ lt := 1 }, 5), ({}, 6)]] } { id := 0, slot := 15, flag := true }

theorem witness_CollectiveOperations_8 :
    (st297.ev.flag = true ∧
    st297.kernelRuns (lcKid st297.ev.id) = true) ∧
    ((st297.lcore st297.ev.id).colls.find? (fun r => decide (r.slot = st297.ev.slot) && decide (r.state = 1)) = some (({ slot := 15, seqno := 1, ctx := 0, op := { name := 9#64, gen := 3#32, k := 2, count := 2 }, src := 64, dst := 128, rank := 0, total := 2, state := 1 } : CollRec))) ∧
    ((({ slot := 15, seqno := 1, ctx := 0, op := { name := 9#64, gen := 3#32, k := 2, count := 2 }, src := 64, dst := 128, rank := 0, total := 2, state := 1 } : CollRec)).gone = false ∧
    st297.past = []) ∧
    ((({ slot := 15, seqno := 1, ctx := 0, op := { name := 9#64, gen := 3#32, k := 2, count := 2 }, src := 64, dst := 128, rank := 0, total := 2, state := 1 } : CollRec)).op.kind = 0 ∧
    bits (({ slot := 15, seqno := 1, ctx := 0, op := { name := 9#64, gen := 3#32, k := 2, count := 2 }, src := 64, dst := 128, rank := 0, total := 2, state := 1 } : CollRec)).op.name 58 6 = st297.device.toNat ∧
    (st297.group? (st297.partOf (lcKid st297.ev.id)) (({ slot := 15, seqno := 1, ctx := 0, op := { name := 9#64, gen := 3#32, k := 2, count := 2 }, src := 64, dst := 128, rank := 0, total := 2, state := 1 } : CollRec)).op.name).isSome = true) ∧
    (∀ y ∈ st297.insts, y.name ≠ (({ slot := 15, seqno := 1, ctx := 0, op := { name := 9#64, gen := 3#32, k := 2, count := 2 }, src := 64, dst := 128, rank := 0, total := 2, state := 1 } : CollRec)).op.name) := by decide +kernel

def st298 : State := we { wl w (fun l => { l with colls := [{ slot := 0, seqno := 0, ctx := 0, op := { name := 9#64, gen := 3#32, k := 2, count := 1 }, src := 64, dst := 128, rank := 0, total := 1, state := 2 }] }) with groups := [gr [({}, 6)]], insts := [{ name := 9#64, part := 0, gen := 3#32, k := 2, firstAt := 0, contribs := [{ who := {}, op := { name := 9#64, gen := 3#32, k := 2, count := 1 }, data := [1#8, 2#8, 3#8, 4#8], memErr := false }] }] } { id := 3, slot := 0, idx := 2, w0 := 9 }

theorem witness_CollectiveOperations_9 :
    (st298.insts = [(({ name := 9#64, part := 0, gen := 3#32, k := 2, firstAt := 0, contribs := [{ who := {}, op := { name := 9#64, gen := 3#32, k := 2, count := 1 }, data := [1#8, 2#8, 3#8, 4#8], memErr := false }] } : Inst))]) ∧
    (st298.group? st298.ev.slot st298.ev.w0 = some (gr [({}, 6)])) ∧
    (Group.awaited (gr [({}, 6)]) (({ name := 9#64, part := 0, gen := 3#32, k := 2, firstAt := 0, contribs := [{ who := {}, op := { name := 9#64, gen := 3#32, k := 2, count := 1 }, data := [1#8, 2#8, 3#8, 4#8], memErr := false }] } : Inst)) = [] ∧
    (gr [({}, 6)]).ofGen (({ name := 9#64, part := 0, gen := 3#32, k := 2, firstAt := 0, contribs := [{ who := {}, op := { name := 9#64, gen := 3#32, k := 2, count := 1 }, data := [1#8, 2#8, 3#8, 4#8], memErr := false }] } : Inst)).gen = [{}]) ∧
    ((st298.lcore 0).colls = [(({ slot := 0, seqno := 0, ctx := 0, op := { name := 9#64, gen := 3#32, k := 2, count := 1 }, src := 64, dst := 128, rank := 0, total := 1, state := 2 } : CollRec))]) ∧
    (∀ j ∈ ([1,2,3,4,5,6,7] : List Nat), (st298.lcore (0 + j)).colls = []) ∧
    (st298.kernelRuns 0 = true ∧
    (st298.ctxD 0).spilled = false) := by decide +kernel

def st299 : State := we { w with tbase := 3000000, groups := [gr [({}, 6), ({ lt := 1 }, 7)]], kernels := [(0, { w.kernelD 0 with tiles := 2, state := .running })], insts := [{ name := 9#64, part := 0, gen := 3#32, k := 2, firstAt := 1000000, contribs := [{ who := {}, op := { name := 9#64, gen := 3#32, k := 2, count := 1 }, data := [1#8, 2#8, 3#8, 4#8], memErr := false }] }] } { id := 3, slot := 0, idx := 2, w0 := 9 }

theorem witness_CollectiveOperations_10 :
    (st299.insts.find? (fun x => decide (x.name = st299.ev.w0) && decide (x.part = st299.ev.slot) && decide (x.gen.toNat = st299.ev.id) && decide (x.k = st299.ev.idx)) = some (({ name := 9#64, part := 0, gen := 3#32, k := 2, firstAt := 1000000, contribs := [{ who := {}, op := { name := 9#64, gen := 3#32, k := 2, count := 1 }, data := [1#8, 2#8, 3#8, 4#8], memErr := false }] } : Inst))) ∧
    (st299.group? st299.ev.slot st299.ev.w0 = some (gr [({}, 6), ({ lt := 1 }, 7)])) ∧
    (Group.awaited (gr [({}, 6), ({ lt := 1 }, 7)]) (({ name := 9#64, part := 0, gen := 3#32, k := 2, firstAt := 1000000, contribs := [{ who := {}, op := { name := 9#64, gen := 3#32, k := 2, count := 1 }, data := [1#8, 2#8, 3#8, 4#8], memErr := false }] } : Inst)) = [{ lt := 1 }]) ∧
    ((gr [({}, 6), ({ lt := 1 }, 7)]).tmo ≠ 0 ∧
    (({ name := 9#64, part := 0, gen := 3#32, k := 2, firstAt := 1000000, contribs := [{ who := {}, op := { name := 9#64, gen := 3#32, k := 2, count := 1 }, data := [1#8, 2#8, 3#8, 4#8], memErr := false }] } : Inst)).firstAt + 1000000 * (gr [({}, 6), ({ lt := 1 }, 7)]).tmo ≤ st299.tbase) ∧
    (st299.memberAway { lt := 1 } st299.ev.flag = false) := by decide +kernel

def st300 : State := we { w with tbase := 3000000, groups := [gr [({}, 6), ({ lt := 1 }, 7)]], kernels := [(0, { w.kernelD 0 with tiles := 2, state := .running, restoring := true, failed := [1] })], insts := [{ name := 9#64, part := 0, gen := 3#32, k := 2, firstAt := 1000000, contribs := [{ who := {}, op := { name := 9#64, gen := 3#32, k := 2, count := 1 }, data := [1#8, 2#8, 3#8, 4#8], memErr := false }] }] } { id := 3, slot := 0, idx := 2, w0 := 9, picks := [1] }

theorem witness_CollectiveOperations_11 :
    (st300.insts.find? (fun x => decide (x.name = st300.ev.w0) && decide (x.part = st300.ev.slot) && decide (x.gen.toNat = st300.ev.id) && decide (x.k = st300.ev.idx)) = some (({ name := 9#64, part := 0, gen := 3#32, k := 2, firstAt := 1000000, contribs := [{ who := {}, op := { name := 9#64, gen := 3#32, k := 2, count := 1 }, data := [1#8, 2#8, 3#8, 4#8], memErr := false }] } : Inst))) ∧
    (st300.group? st300.ev.slot st300.ev.w0 = some ((gr [({}, 6), ({ lt := 1 }, 7)])) ∧
    Group.awaited ((gr [({}, 6), ({ lt := 1 }, 7)])) (({ name := 9#64, part := 0, gen := 3#32, k := 2, firstAt := 1000000, contribs := [{ who := {}, op := { name := 9#64, gen := 3#32, k := 2, count := 1 }, data := [1#8, 2#8, 3#8, 4#8], memErr := false }] } : Inst)) = [{ lt := 1 }] ∧
    ((gr [({}, 6), ({ lt := 1 }, 7)])).tmo ≠ 0 ∧
    (({ name := 9#64, part := 0, gen := 3#32, k := 2, firstAt := 1000000, contribs := [{ who := {}, op := { name := 9#64, gen := 3#32, k := 2, count := 1 }, data := [1#8, 2#8, 3#8, 4#8], memErr := false }] } : Inst)).firstAt + 1000000 * ((gr [({}, 6), ({ lt := 1 }, 7)])).tmo ≤ st300.tbase) ∧
    (st300.memberAway { lt := 1 } (st300.ev.picks.contains 1) = true ∧
    bits st300.ev.w0 58 6 = st300.device.toNat ∧
    ((gr [({}, 6), ({ lt := 1 }, 7)])).has { lt := 1 } = true ∧
    ((gr [({}, 6), ({ lt := 1 }, 7)])).members.filter (fun y => decide (y.1 ≠ { lt := 1 })) ≠ []) := by decide +kernel

def st301 : State := we { w with groups := [gr [({}, 6), ({ kid := 1 }, 7)]] } { slot := 0, w0 := 9, member := { kid := 1 }, flag := true }

theorem witness_CollectiveOperations_12 :
    (bits st301.ev.w0 58 6 = st301.device.toNat ∧
    st301.mayWithdraw st301.ev.slot st301.ev.w0 st301.ev.member st301.ev.flag = true) ∧
    (st301.group? st301.ev.slot st301.ev.w0 = some (gr [({}, 6), ({ kid := 1 }, 7)])) ∧
    ((gr [({}, 6), ({ kid := 1 }, 7)]).has st301.ev.member = true ∧
    st301.ev.member.dev = st301.device.toNat) := by decide +kernel

theorem witness_Barriers_1 :
    (Runs st103 0 (st103.ctxD 0) (.binit 3 1 2 0 1)) ∧
    (st103.spec (st103.ctxD 0) = false ∧
    (st103.kernelD (st103.ctxD 0).kid).tiles < 0 + 1 + 1) := by decide +kernel

def st303 : State := wk (wr [(1,64),(2,128)]) fun k => { k with tiles := 2 }

theorem witness_Barriers_2 :
    (Runs st303 0 (st303.ctxD 0) (.binit 3 1 2 1 0)) ∧
    (st303.spec (st303.ctxD 0) = false ∧
    1 + 0 + 1 ≤ (st303.kernelD (st303.ctxD 0).kid).tiles ∧
    (1#12).toNat ≠ (st303.ctxD 0).lt) := by decide +kernel

def st304 : State := wr [(1,65472),(2,65464)]

theorem witness_Barriers_3 :
    (Runs st304 0 (st304.ctxD 0) (.binit 3 1 2 0 0)) ∧
    (st304.spec (st304.ctxD 0) = false ∧
    ((st304.ctxD 0).getG 1).toNat % 64 = 0 ∧
    ((st304.ctxD 0).getG 1).toNat + 64 ≤ st304.sOf (st304.ctxD 0) ∧
    ((st304.ctxD 0).getG 1).toNat + 64 ≤ 2 ^ 20) ∧
    (((st304.ctxD 0).getG 2).toNat % 8 = 0 ∧
    ((st304.ctxD 0).getG 2).toNat + 8 ≤ st304.sOf (st304.ctxD 0) ∧
    ((st304.ctxD 0).getG 2).toNat + 8 * (0 + 1) ≤ ((st304.ctxD 0).getG 1).toNat) ∧
    ((0#12).toNat = (st304.ctxD 0).lt ∧
    (st304.ctxD 0).lt < (st304.kernelD (st304.ctxD 0).kid).tiles ∧
    field4 st304 (st304.ctxD 0) ((st304.ctxD 0).getG 1) 28 / 4 % 2 = 0) ∧
    ((st304.directory (dieOfTile (st304.ltile (st304.ctxD 0).ltk).tile) (st304.ctxD 0).kid).length < 256) := by decide +kernel

def st305 : State := wbar (wr [(1,64)]) (bar 7 0 0 0 0 6 128)

theorem witness_Barriers_4 :
    (Runs st305 0 (st305.ctxD 0) (.barv 3 1)) ∧
    (BarAt st305 (st305.ctxD 0) ((st305.ctxD 0).getG 1) (barOf (memBytes (st305.ltile (st305.ctxD 0).ltk).scratch 64 64))) ∧
    ((st305.ctxD 0).shipped = none ∧
    (barOf (memBytes (st305.ltile (st305.ctxD 0).ltk).scratch 64 64)).flags / 2 % 2 = 1) := by decide +kernel

def st306 : State := wbar (wr [(1,64)]) (bar 7 2 0 0 0 4 128)

theorem witness_Barriers_5 :
    (Runs st306 0 (st306.ctxD 0) (.barv 3 1)) ∧
    (BarAt st306 (st306.ctxD 0) ((st306.ctxD 0).getG 1) (barOf (memBytes (st306.ltile (st306.ctxD 0).ltk).scratch 64 64))) ∧
    (EntryAt st306 (st306.ctxD 0) ((st306.ctxD 0).getG 1) (barOf (memBytes (st306.ltile (st306.ctxD 0).ltk).scratch 64 64)) 128 0#64) ∧
    (arrivedIn 0#64 ((barOf (memBytes (st306.ltile (st306.ctxD 0).ltk).scratch 64 64)).phase + 1) = false) ∧
    ((barOf (memBytes (st306.ltile (st306.ctxD 0).ltk).scratch 64 64)).flags / 2 % 2 = 0 ∧
    parity (setParity (barOf (memBytes (st306.ltile (st306.ctxD 0).ltk).scratch 64 64)).cnt 7 1) (barOf (memBytes (st306.ltile (st306.ctxD 0).ltk).scratch 64 64)).phase ≠ (barOf (memBytes (st306.ltile (st306.ctxD 0).ltk).scratch 64 64)).target) := by decide +kernel

def st307 : State := wbar (wr [(1,64)]) (bar 0xFFFFFFFF 2 0 1 0 4 128)

theorem witness_Barriers_6 :
    (Runs st307 0 (st307.ctxD 0) (.barv 3 1)) ∧
    (BarAt st307 (st307.ctxD 0) ((st307.ctxD 0).getG 1) (barOf (memBytes (st307.ltile (st307.ctxD 0).ltk).scratch 64 64))) ∧
    (EntryAt st307 (st307.ctxD 0) ((st307.ctxD 0).getG 1) (barOf (memBytes (st307.ltile (st307.ctxD 0).ltk).scratch 64 64)) 128 0#64) ∧
    (arrivedIn 0#64 ((barOf (memBytes (st307.ltile (st307.ctxD 0).ltk).scratch 64 64)).phase + 1) = false) ∧
    ((barOf (memBytes (st307.ltile (st307.ctxD 0).ltk).scratch 64 64)).flags / 2 % 2 = 0 ∧
    parity (setParity (barOf (memBytes (st307.ltile (st307.ctxD 0).ltk).scratch 64 64)).cnt 0xFFFFFFFF 2) (barOf (memBytes (st307.ltile (st307.ctxD 0).ltk).scratch 64 64)).phase = (barOf (memBytes (st307.ltile (st307.ctxD 0).ltk).scratch 64 64)).target ∧
    (barOf (memBytes (st307.ltile (st307.ctxD 0).ltk).scratch 64 64)).pend = 0#64 ∧
    (barOf (memBytes (st307.ltile (st307.ctxD 0).ltk).scratch 64 64)).wd = (0, 0) ∧
    (barOf (memBytes (st307.ltile (st307.ctxD 0).ltk).scratch 64 64)).target ≠ 0 ∧
    parity (setParity (barOf (memBytes (st307.ltile (st307.ctxD 0).ltk).scratch 64 64)).cnt 0xFFFFFFFF 2) ((barOf (memBytes (st307.ltile (st307.ctxD 0).ltk).scratch 64 64)).phase + 1) = 0) := by decide +kernel

def st308 : State := wt (wbar (wr [(1,64)]) (bar 7 2 0 1 0 4 128)) fun x => { x with scratch := memStore x.scratch 128 8 (8 + 2^32) }

theorem witness_Barriers_7 :
    (Runs st308 0 (st308.ctxD 0) (.barv 3 1)) ∧
    (BarAt st308 (st308.ctxD 0) ((st308.ctxD 0).getG 1) (barOf (memBytes (st308.ltile (st308.ctxD 0).ltk).scratch 64 64))) ∧
    (EntryAt st308 (st308.ctxD 0) ((st308.ctxD 0).getG 1) (barOf (memBytes (st308.ltile (st308.ctxD 0).ltk).scratch 64 64)) 128 (BitVec.ofNat 64 (8 + 2^32))) ∧
    (arrivedIn (BitVec.ofNat 64 (8 + 2^32)) ((barOf (memBytes (st308.ltile (st308.ctxD 0).ltk).scratch 64 64)).phase + 1) = true ∧
    (barOf (memBytes (st308.ltile (st308.ctxD 0).ltk).scratch 64 64)).flags / 2 % 2 = 0) := by decide +kernel

def st309 : State := wbar (wr [(1,64),(2,2^32)]) (bar 7 2 0 1 0 4 128)

theorem witness_Barriers_8 :
    (Runs st309 0 (st309.ctxD 0) (.bwait 3 1 2)) ∧
    (BarAt st309 (st309.ctxD 0) ((st309.ctxD 0).getG 1) (barOf (memBytes (st309.ltile (st309.ctxD 0).ltk).scratch 64 64))) ∧
    (bits ((st309.ctxD 0).getG 2) 32 32 ≠ 0) := by decide +kernel

def st310 : State := wbar (wr [(1,64),(2,6)]) (bar 7 2 0 1 0 5 128)

theorem witness_Barriers_9 :
    (Runs st310 0 (st310.ctxD 0) (.bwait 3 1 2)) ∧
    (BarAt st310 (st310.ctxD 0) ((st310.ctxD 0).getG 1) (barOf (memBytes (st310.ltile (st310.ctxD 0).ltk).scratch 64 64))) ∧
    (bits ((st310.ctxD 0).getG 2) 32 32 = 0 ∧
    1 ≤ ((barOf (memBytes (st310.ltile (st310.ctxD 0).ltk).scratch 64 64)).phase + 2 ^ 32 - ((st310.ctxD 0).getG 2).toNat % 2 ^ 32) % 2 ^ 32) := by decide +kernel

def st311 : State := wbar (wr [(1,64),(2,7)]) (bar 7 2 0 1 0 4 128)

theorem witness_Barriers_10 :
    (Runs st311 0 (st311.ctxD 0) (.bwait 3 1 2)) ∧
    (BarAt st311 (st311.ctxD 0) ((st311.ctxD 0).getG 1) (barOf (memBytes (st311.ltile (st311.ctxD 0).ltk).scratch 64 64))) ∧
    (bits ((st311.ctxD 0).getG 2) 32 32 = 0 ∧
    ((barOf (memBytes (st311.ltile (st311.ctxD 0).ltk).scratch 64 64)).phase + 2 ^ 32 - ((st311.ctxD 0).getG 2).toNat % 2 ^ 32) % 2 ^ 32 = 0 ∧
    (barOf (memBytes (st311.ltile (st311.ctxD 0).ltk).scratch 64 64)).flags / 2 % 2 = 0) := by decide +kernel

def st312 : State := wbar (wr [(1,64),(2,8)]) (bar 7 2 0 1 0 5 128)

theorem witness_Barriers_11 :
    (Runs st312 0 (st312.ctxD 0) (.btest 3 1 2)) ∧
    (BarAt st312 (st312.ctxD 0) ((st312.ctxD 0).getG 1) (barOf (memBytes (st312.ltile (st312.ctxD 0).ltk).scratch 64 64))) ∧
    (bits ((st312.ctxD 0).getG 2) 32 32 = 0 ∧
    2 ^ 31 ≤ ((barOf (memBytes (st312.ltile (st312.ctxD 0).ltk).scratch 64 64)).phase + 2 ^ 32 - ((st312.ctxD 0).getG 2).toNat % 2 ^ 32) % 2 ^ 32 ∧
    (barOf (memBytes (st312.ltile (st312.ctxD 0).ltk).scratch 64 64)).flags / 2 % 2 = 0) := by decide +kernel

def st313 : State := wbar (wr [(1,64),(2,2^40+1)]) (bar 7 2 0 1 0 4 128)

theorem witness_Barriers_12 :
    (Runs st313 0 (st313.ctxD 0) (.bcnt 1 2)) ∧
    (BarAt st313 (st313.ctxD 0) ((st313.ctxD 0).getG 1) (barOf (memBytes (st313.ltile (st313.ctxD 0).ltk).scratch 64 64))) ∧
    (2 ^ 40 < ((st313.ctxD 0).getG 2).toInt) := by decide +kernel

def st314 : State := wbar (wr [(1,64),(2,2^64-2^40)]) (bar 7 2 0 1 5 4 128)

theorem witness_Barriers_13 :
    (Runs st314 0 (st314.ctxD 0) (.bcnt 1 2)) ∧
    (BarAt st314 (st314.ctxD 0) ((st314.ctxD 0).getG 1) (barOf (memBytes (st314.ltile (st314.ctxD 0).ltk).scratch 64 64))) ∧
    (-(2 ^ 40) ≤ ((st314.ctxD 0).getG 2).toInt ∧
    ((st314.ctxD 0).getG 2).toInt ≤ 2 ^ 40 ∧
    parity (barOf (memBytes (st314.ltile (st314.ctxD 0).ltk).scratch 64 64)).cnt (barOf (memBytes (st314.ltile (st314.ctxD 0).ltk).scratch 64 64)).phase ≠ (barOf (memBytes (st314.ltile (st314.ctxD 0).ltk).scratch 64 64)).target) := by decide +kernel

def st315 : State := wbar (wk (wr [(1,64)]) fun k => { k with tiles := 2 }) { bar 7 2 0 0 0 4 128 with part := 1#64 }

theorem witness_Barriers_14 :
    (Runs st315 0 (st315.ctxD 0) (.bwdraw 3 1)) ∧
    (BarAt st315 (st315.ctxD 0) ((st315.ctxD 0).getG 1) (barOf (memBytes (st315.ltile (st315.ctxD 0).ltk).scratch 64 64))) ∧
    ((st315.ctxD 0).lt < bits (barOf (memBytes (st315.ltile (st315.ctxD 0).ltk).scratch 64 64)).part 0 12) := by decide +kernel

theorem witness_Barriers_15 :
    (Runs st306 0 (st306.ctxD 0) (.bwdraw 3 1)) ∧
    (BarAt st306 (st306.ctxD 0) ((st306.ctxD 0).getG 1) (barOf (memBytes (st306.ltile (st306.ctxD 0).ltk).scratch 64 64))) ∧
    (EntryAt st306 (st306.ctxD 0) ((st306.ctxD 0).getG 1) (barOf (memBytes (st306.ltile (st306.ctxD 0).ltk).scratch 64 64)) 128 0#64) ∧
    (2 ≤ (barOf (memBytes (st306.ltile (st306.ctxD 0).ltk).scratch 64 64)).target ∧
    (barOf (memBytes (st306.ltile (st306.ctxD 0).ltk).scratch 64 64)).flags / 2 % 2 = 0 ∧
    parity (barOf (memBytes (st306.ltile (st306.ctxD 0).ltk).scratch 64 64)).cnt (barOf (memBytes (st306.ltile (st306.ctxD 0).ltk).scratch 64 64)).phase ≠ (barOf (memBytes (st306.ltile (st306.ctxD 0).ltk).scratch 64 64)).target - 1) := by decide +kernel

def st317 : State := wr [(1,0x100000208)]

theorem witness_Barriers_16 :
    (st317.spec (st317.ctxD 0) = false) ∧
    (Runs st317 0 (st317.ctxD 0) (.barv 3 1)) ∧
    (((st317.ctxD 0).getG 1).toNat % 64 ≠ 0 ∧
    (st317.ctxD 0).shipped = none) := by decide +kernel

def st318 : State := wr [(1,0x100000200)]

theorem witness_Barriers_17 :
    ((st318.spec (st318.ctxD 0) = false) ∧
    (Runs st318 0 (st318.ctxD 0) (.bwdraw 3 1)) ∧
    (((st318.ctxD 0).getG 1).toNat % 64 = 0 ∧
    st318.ev.flag = false ∧
    (st318.isWarp (st318.ctxD 0).kid && (st318.kernelD (st318.ctxD 0).kid).meetsFrozen ((st318.ctxD 0).getG 1).toNat 64) = false ∧
    memLoad st318.glob (0x40000200 + 28) 4 / 4 % 2 = 0 ∧
    (st318.ctxD 0).shipped = none)) ∧
    (EngineReaches (st318.handEngine 0) (st318.ctxD 0) 0x100000200 0x40000200 (((st318.handEngine 0).xlate (st318.partOf (st318.ctxD 0).kid) (st318.xlUnit (st318.ctxD 0)) true (st318.coreNo (st318.ctxD 0)) 0x100000200 aStore).2.countEngine (st318.ctxD 0).kid (st318.tileOf (st318.ctxD 0)) 0x40000200 8)) := ⟨by decide +kernel, engine_ok (by decide +kernel) (by decide +kernel) (by decide +kernel)⟩

def st319 : State := gbar (wr [(1,0x100000200),(2,0)]) { bar 7 2 0 0 0 4 0 with table := 0x100000300#64 }

theorem witness_Barriers_18 :
    ((Runs st319 0 (st319.ctxD 0) (.barv 3 1)) ∧
    (bits (barOf (memBytes st319.glob 0x40000200 64)).part 0 12 ≤ (st319.ctxD 0).lt ∧
    (st319.ctxD 0).lt ≤ bits (barOf (memBytes st319.glob 0x40000200 64)).part 0 12 + bits (barOf (memBytes st319.glob 0x40000200 64)).part 16 12 ∧
    (barOf (memBytes st319.glob 0x40000200 64)).table.toNat + 8 * ((st319.ctxD 0).lt - bits (barOf (memBytes st319.glob 0x40000200 64)).part 0 12) = 0x100000300) ∧
    (memLoad st319.glob 0x40000300 8 = 0 ∧
    (barOf (memBytes st319.glob 0x40000200 64)).flags / 2 % 2 = 0 ∧
    arrivedIn 0#64 ((barOf (memBytes st319.glob 0x40000200 64)).phase + 1) = false ∧
    arrivedIn 0#64 (barOf (memBytes st319.glob 0x40000200 64)).phase = false ∧
    parity (setParity (barOf (memBytes st319.glob 0x40000200 64)).cnt 7 1) (barOf (memBytes st319.glob 0x40000200 64)).phase ≠ (barOf (memBytes st319.glob 0x40000200 64)).target)) ∧
    (GlobalBar st319 0 (st319.ctxD 0) ((st319.ctxD 0).getG 1) 0x40000200 (barOf (memBytes st319.glob 0x40000200 64)) (((((st319.handEngine 0)).xlate (((st319.handEngine 0)).partOf (st319.ctxD 0).kid) (((st319.handEngine 0)).xlUnit (st319.ctxD 0)) true (((st319.handEngine 0)).coreNo (st319.ctxD 0)) 0x100000200 aStore).2.countEngine (st319.ctxD 0).kid (((st319.handEngine 0)).tileOf (st319.ctxD 0)) 0x40000200 8))) ∧
    (EngineReaches (((((st319.handEngine 0)).xlate (((st319.handEngine 0)).partOf (st319.ctxD 0).kid) (((st319.handEngine 0)).xlUnit (st319.ctxD 0)) true (((st319.handEngine 0)).coreNo (st319.ctxD 0)) 0x100000200 aStore).2.countEngine (st319.ctxD 0).kid (((st319.handEngine 0)).tileOf (st319.ctxD 0)) 0x40000200 8)) (st319.ctxD 0) 0x100000300 0x40000300 (((((((st319.handEngine 0)).xlate (((st319.handEngine 0)).partOf (st319.ctxD 0).kid) (((st319.handEngine 0)).xlUnit (st319.ctxD 0)) true (((st319.handEngine 0)).coreNo (st319.ctxD 0)) 0x100000200 aStore).2.countEngine (st319.ctxD 0).kid (((st319.handEngine 0)).tileOf (st319.ctxD 0)) 0x40000200 8)).xlate ((((((st319.handEngine 0)).xlate (((st319.handEngine 0)).partOf (st319.ctxD 0).kid) (((st319.handEngine 0)).xlUnit (st319.ctxD 0)) true (((st319.handEngine 0)).coreNo (st319.ctxD 0)) 0x100000200 aStore).2.countEngine (st319.ctxD 0).kid (((st319.handEngine 0)).tileOf (st319.ctxD 0)) 0x40000200 8)).partOf (st319.ctxD 0).kid) ((((((st319.handEngine 0)).xlate (((st319.handEngine 0)).partOf (st319.ctxD 0).kid) (((st319.handEngine 0)).xlUnit (st319.ctxD 0)) true (((st319.handEngine 0)).coreNo (st319.ctxD 0)) 0x100000200 aStore).2.countEngine (st319.ctxD 0).kid (((st319.handEngine 0)).tileOf (st319.ctxD 0)) 0x40000200 8)).xlUnit (st319.ctxD 0)) true ((((((st319.handEngine 0)).xlate (((st319.handEngine 0)).partOf (st319.ctxD 0).kid) (((st319.handEngine 0)).xlUnit (st319.ctxD 0)) true (((st319.handEngine 0)).coreNo (st319.ctxD 0)) 0x100000200 aStore).2.countEngine (st319.ctxD 0).kid (((st319.handEngine 0)).tileOf (st319.ctxD 0)) 0x40000200 8)).coreNo (st319.ctxD 0)) 0x100000300 aStore).2.countEngine (st319.ctxD 0).kid ((((((st319.handEngine 0)).xlate (((st319.handEngine 0)).partOf (st319.ctxD 0).kid) (((st319.handEngine 0)).xlUnit (st319.ctxD 0)) true (((st319.handEngine 0)).coreNo (st319.ctxD 0)) 0x100000200 aStore).2.countEngine (st319.ctxD 0).kid (((st319.handEngine 0)).tileOf (st319.ctxD 0)) 0x40000200 8)).tileOf (st319.ctxD 0)) 0x40000300 8)) := ⟨by decide +kernel, ⟨by decide +kernel, by decide +kernel, by decide +kernel, by decide +kernel, engine_ok (by decide +kernel) (by decide +kernel) (by decide +kernel), rfl, by decide +kernel, by decide +kernel⟩, engine_ok (by decide +kernel) (by decide +kernel) (by decide +kernel)⟩

def st320 : State := gbar (wr [(1,0x100000200),(2,6)]) { bar 7 2 0 0 0 5 0 with table := 0x100000300#64 }

theorem witness_Barriers_19 :
    ((Runs st320 0 (st320.ctxD 0) (.bwait 3 1 2)) ∧
    (bits ((st320.ctxD 0).getG 2) 32 32 = 0 ∧
    1 ≤ ((barOf (memBytes st320.glob 0x40000200 64)).phase + 2 ^ 32 - ((st320.ctxD 0).getG 2).toNat % 2 ^ 32) % 2 ^ 32 ∧
    ((barOf (memBytes st320.glob 0x40000200 64)).phase + 2 ^ 32 - ((st320.ctxD 0).getG 2).toNat % 2 ^ 32) % 2 ^ 32 < 2 ^ 31)) ∧
    (GlobalBar st320 0 (st320.ctxD 0) ((st320.ctxD 0).getG 1) 0x40000200 (barOf (memBytes st320.glob 0x40000200 64)) (((((st320.handEngine 0)).xlate (((st320.handEngine 0)).partOf (st320.ctxD 0).kid) (((st320.handEngine 0)).xlUnit (st320.ctxD 0)) true (((st320.handEngine 0)).coreNo (st320.ctxD 0)) 0x100000200 aStore).2.countEngine (st320.ctxD 0).kid (((st320.handEngine 0)).tileOf (st320.ctxD 0)) 0x40000200 8))) := ⟨by decide +kernel, ⟨by decide +kernel, by decide +kernel, by decide +kernel, by decide +kernel, engine_ok (by decide +kernel) (by decide +kernel) (by decide +kernel), rfl, by decide +kernel, by decide +kernel⟩⟩

def st321 : State := gbar (wr [(1,0x100000200),(2,7)]) { bar 7 2 0 0 0 4 0 with table := 0x100000300#64 }

theorem witness_Barriers_20 :
    ((Runs st321 0 (st321.ctxD 0) (.bwait 3 1 2)) ∧
    (bits ((st321.ctxD 0).getG 2) 32 32 = 0 ∧
    ((barOf (memBytes st321.glob 0x40000200 64)).phase + 2 ^ 32 - ((st321.ctxD 0).getG 2).toNat % 2 ^ 32) % 2 ^ 32 = 0 ∧
    (barOf (memBytes st321.glob 0x40000200 64)).flags / 2 % 2 = 0)) ∧
    (GlobalBar st321 0 (st321.ctxD 0) ((st321.ctxD 0).getG 1) 0x40000200 (barOf (memBytes st321.glob 0x40000200 64)) (((((st321.handEngine 0)).xlate (((st321.handEngine 0)).partOf (st321.ctxD 0).kid) (((st321.handEngine 0)).xlUnit (st321.ctxD 0)) true (((st321.handEngine 0)).coreNo (st321.ctxD 0)) 0x100000200 aStore).2.countEngine (st321.ctxD 0).kid (((st321.handEngine 0)).tileOf (st321.ctxD 0)) 0x40000200 8))) := ⟨by decide +kernel, ⟨by decide +kernel, by decide +kernel, by decide +kernel, by decide +kernel, engine_ok (by decide +kernel) (by decide +kernel) (by decide +kernel), rfl, by decide +kernel, by decide +kernel⟩⟩

def st322 : State := gbar (wr [(1,0x100000200),(2,8)]) { bar 7 2 0 0 0 5 0 with table := 0x100000300#64 }

theorem witness_Barriers_21 :
    ((Runs st322 0 (st322.ctxD 0) (.btest 3 1 2)) ∧
    (bits ((st322.ctxD 0).getG 2) 32 32 = 0 ∧
    2 ^ 31 ≤ ((barOf (memBytes st322.glob 0x40000200 64)).phase + 2 ^ 32 - ((st322.ctxD 0).getG 2).toNat % 2 ^ 32) % 2 ^ 32 ∧
    (barOf (memBytes st322.glob 0x40000200 64)).flags / 2 % 2 = 0)) ∧
    (GlobalBar st322 0 (st322.ctxD 0) ((st322.ctxD 0).getG 1) 0x40000200 (barOf (memBytes st322.glob 0x40000200 64)) (((((st322.handEngine 0)).xlate (((st322.handEngine 0)).partOf (st322.ctxD 0).kid) (((st322.handEngine 0)).xlUnit (st322.ctxD 0)) true (((st322.handEngine 0)).coreNo (st322.ctxD 0)) 0x100000200 aStore).2.countEngine (st322.ctxD 0).kid (((st322.handEngine 0)).tileOf (st322.ctxD 0)) 0x40000200 8))) := ⟨by decide +kernel, ⟨by decide +kernel, by decide +kernel, by decide +kernel, by decide +kernel, engine_ok (by decide +kernel) (by decide +kernel) (by decide +kernel), rfl, by decide +kernel, by decide +kernel⟩⟩

def st323 : State := gbar (wr [(1,0x100000200),(2,9)]) { bar 7 2 0 0 5 4 0 with table := 0x100000300#64 }

theorem witness_Barriers_22 :
    ((Runs st323 0 (st323.ctxD 0) (.bcnt 1 2)) ∧
    (-(2 ^ 40) ≤ ((st323.ctxD 0).getG 2).toInt ∧
    ((st323.ctxD 0).getG 2).toInt ≤ 2 ^ 40 ∧
    parity (barOf (memBytes st323.glob 0x40000200 64)).cnt (barOf (memBytes st323.glob 0x40000200 64)).phase ≠ (barOf (memBytes st323.glob 0x40000200 64)).target)) ∧
    (GlobalBar st323 0 (st323.ctxD 0) ((st323.ctxD 0).getG 1) 0x40000200 (barOf (memBytes st323.glob 0x40000200 64)) (((((st323.handEngine 0)).xlate (((st323.handEngine 0)).partOf (st323.ctxD 0).kid) (((st323.handEngine 0)).xlUnit (st323.ctxD 0)) true (((st323.handEngine 0)).coreNo (st323.ctxD 0)) 0x100000200 aStore).2.countEngine (st323.ctxD 0).kid (((st323.handEngine 0)).tileOf (st323.ctxD 0)) 0x40000200 8))) := ⟨by decide +kernel, ⟨by decide +kernel, by decide +kernel, by decide +kernel, by decide +kernel, engine_ok (by decide +kernel) (by decide +kernel) (by decide +kernel), rfl, by decide +kernel, by decide +kernel⟩⟩

def st324 : State := wt (wr [(1,65528),(2,5)]) fun x => { x with scratch := memStore [] 65528 8 5 }

theorem witness_Barriers_23 :
    ((Runs st324 0 (st324.ctxD 0) (.waita 1 2)) ∧
    (leNat (memBytes (st324.ltile (st324.ctxD 0).ltk).scratch ((st324.ctxD 0).getG 1).toNat 8) = ((st324.ctxD 0).getG 2).toNat)) ∧
    (ScratchOk st324 (st324.ctxD 0) ((st324.ctxD 0).getG 1).toNat 8 8) := ⟨by decide +kernel, scratch_ok (by decide +kernel)⟩

def st325 : State := wr [(1,65528),(2,5)]

theorem witness_Barriers_24 :
    ((Runs st325 0 (st325.ctxD 0) (.waita 1 2)) ∧
    (leNat (memBytes (st325.ltile (st325.ctxD 0).ltk).scratch ((st325.ctxD 0).getG 1).toNat 8) ≠ ((st325.ctxD 0).getG 2).toNat)) ∧
    (ScratchOk st325 (st325.ctxD 0) ((st325.ctxD 0).getG 1).toNat 8 8) := ⟨by decide +kernel, scratch_ok (by decide +kernel)⟩

theorem witness_TerritoryInstructions_1 :
    (Runs st124 0 (st124.ctxD 0) (.tshape 3 1)) ∧ (st124.spec (st124.ctxD 0) = true) := by decide +kernel

def st327 : State := wr [(1,33)]

theorem witness_TerritoryInstructions_2 :
    (Runs st327 0 (st327.ctxD 0) (.tshape 3 1)) ∧
    (st327.spec (st327.ctxD 0) = false ∧
    32 < ((st327.ctxD 0).getG 1).toNat) := by decide +kernel

def st328 : State := { wbd2 with cur := some 0 }

theorem witness_TerritoryInstructions_3 :
    (Runs st328 0 (st328.ctxD 0) (.tshape 3 1)) ∧
    (st328.spec (st328.ctxD 0) = false ∧
    (st328.ctxD 0).getG 1 = 0#64 ∧
    st328.terr (st328.ctxD 0).kid ≠ [] ∧
    (∀ x ∈ st328.terr (st328.ctxD 0).kid, x < 1024) ∧
    (st328.terr (st328.ctxD 0).kid).length < 2048) := by decide +kernel

def st329 : State := wr [(1,1)]

theorem witness_TerritoryInstructions_4 :
    (Runs st329 0 (st329.ctxD 0) (.tshape 3 1)) ∧
    (st329.spec (st329.ctxD 0) = false ∧
    ((st329.ctxD 0).getG 1).toNat = 0 + 1) := by decide +kernel

theorem witness_TerritoryInstructions_5 :
    (Runs st124 0 (st124.ctxD 0) (.tmap 3 1)) ∧ (st124.spec (st124.ctxD 0) = true) := by decide +kernel

theorem witness_TerritoryInstructions_6 :
    (Runs st329 0 (st329.ctxD 0) (.tmap 3 1)) ∧
    (st329.spec (st329.ctxD 0) = false ∧
    (st329.kernelD (st329.ctxD 0).kid).tiles ≤ ((st329.ctxD 0).getG 1).toNat) := by decide +kernel

def st332 : State := wt w fun x => { x with tile := 1023, j := 3, moving := some 5 }

theorem witness_TerritoryInstructions_7 :
    (Runs st332 0 (st332.ctxD 0) (.tmap 3 1)) ∧
    (st332.spec (st332.ctxD 0) = false ∧
    ((st332.ctxD 0).getG 1).toNat < (st332.kernelD (st332.ctxD 0).kid).tiles ∧
    (st332.ltile 0).j < 4 ∧
    (st332.ltile 0).tile < 1024) := by decide +kernel

theorem witness_TerritoryInstructions_8 :
    (Runs st124 0 (st124.ctxD 0) (.tpress 3 1)) ∧ (st124.spec (st124.ctxD 0) = true) := by decide +kernel

def st334 : State := wr [(1,4)]

theorem witness_TerritoryInstructions_9 :
    (Runs st334 0 (st334.ctxD 0) (.tpress 3 1)) ∧
    (st334.spec (st334.ctxD 0) = false ∧
    (st334.ctxD 0).getG 1 = 4#64) := by decide +kernel

def st335 : State := wk (wr [(1,0)]) fun k => { k with pressure := 77 }

theorem witness_TerritoryInstructions_10 :
    (Runs st335 0 (st335.ctxD 0) (.tpress 3 1)) ∧
    (st335.spec (st335.ctxD 0) = false ∧
    (st335.ctxD 0).getG 1 = 0#64) := by decide +kernel

theorem witness_TerritoryInstructions_11 :
    (Runs st0 0 (st0.ctxD 0) (.tpress 3 1)) ∧
    (st0.spec (st0.ctxD 0) = false ∧
    4 < ((st0.ctxD 0).getG 1).toNat) := by decide +kernel

theorem witness_TerritoryInstructions_12 :
    (Runs st124 0 (st124.ctxD 0) (.tupc 3 1)) ∧ (st124.spec (st124.ctxD 0) = true) := by decide +kernel

def st338 : State := wr [(1,0xF0000)]

theorem witness_TerritoryInstructions_13 :
    (Runs st338 0 (st338.ctxD 0) (.tupc 3 1)) ∧
    (st338.spec (st338.ctxD 0) = false ∧
    bits ((st338.ctxD 0).getG 1) 16 4 = 15) := by decide +kernel

def st339 : State := wk (wr [(1,0xEF000)]) fun k => { k with upcall := 6#64 }

theorem witness_TerritoryInstructions_14 :
    (Runs st339 0 (st339.ctxD 0) (.tupc 3 1)) ∧
    (st339.spec (st339.ctxD 0) = false ∧
    bits ((st339.ctxD 0).getG 1) 20 44 = 0 ∧
    bits ((st339.ctxD 0).getG 1) 16 4 ≠ 15 ∧
    bits ((st339.ctxD 0).getG 1) 0 12 < (st339.kernelD 0).tiles) := by decide +kernel

theorem witness_TerritoryInstructions_15 :
    (Runs st124 0 (st124.ctxD 0) (.tpin 3 1 2)) ∧ (st124.spec (st124.ctxD 0) = true) := by decide +kernel

theorem witness_TerritoryInstructions_16 :
    (Runs st329 0 (st329.ctxD 0) (.tpin 3 1 2)) ∧
    (st329.spec (st329.ctxD 0) = false ∧
    (st329.kernelD (st329.ctxD 0).kid).tiles ≤ ((st329.ctxD 0).getG 1).toNat) := by decide +kernel

def st342 : State := wr [(2,2)]

theorem witness_TerritoryInstructions_17 :
    (Runs st342 0 (st342.ctxD 0) (.tpin 3 1 2)) ∧
    (st342.spec (st342.ctxD 0) = false ∧
    ((st342.ctxD 0).getG 1).toNat < (st342.kernelD (st342.ctxD 0).kid).tiles ∧
    1 < ((st342.ctxD 0).getG 2).toNat) := by decide +kernel

def st343 : State := { wk (wr [(2,1)]) (fun k => { k with tiles := 5 }) with ltiles := [(0, {}), (1, { pinned := true }), (2, { pinned := true }), (3, { pinned := true }), (4, { pinned := true })] }

theorem witness_TerritoryInstructions_18 :
    (Runs st343 0 (st343.ctxD 0) (.tpin 3 1 2)) ∧
    (st343.spec (st343.ctxD 0) = false ∧
    (st343.ctxD 0).getG 2 = 1#64 ∧
    (st343.ltile (ltKey (st343.ctxD 0).kid ((st343.ctxD 0).getG 1).toNat)).pinned = false) ∧
    (4 ≤ ((st343.ltsOf (st343.ctxD 0).kid).filter fun l => (st343.ltile l).pinned).length) := by decide +kernel

def st344 : State := wt (wr [(2,1)]) fun x => { x with pinned := true }

theorem witness_TerritoryInstructions_19 :
    (Runs st344 0 (st344.ctxD 0) (.tpin 3 1 2)) ∧
    (st344.spec (st344.ctxD 0) = false ∧
    ((st344.ctxD 0).getG 1).toNat < (st344.kernelD (st344.ctxD 0).kid).tiles ∧
    (st344.ctxD 0).getG 2 = 1#64 ∧
    (st344.ltile (ltKey (st344.ctxD 0).kid ((st344.ctxD 0).getG 1).toNat)).pinned = true) := by decide +kernel

def st345 : State := { w.updTile 0 fun x => { x with ringNs := 2700000, waitSum := 9000, waitCount := 3, spills := 2 } with tbase := 900000 }

theorem witness_BorderMoves_1 :
    st345.novenaCycle < st345.tbase / (1000 * max 1 st345.phaseLen) / 9 := by decide +kernel

def st346 : State := we wbd { id := 1 }

theorem witness_BorderMoves_2 :
    (st346.ev.id < 1024 ∧
    st346.ev.id % 32 % 3 = (st346.tbase / (1000 * max 1 st346.phaseLen)) % 3 ∧
    st346.ev.id / 32 % 3 = (st346.tbase / (1000 * max 1 st346.phaseLen)) / 3 % 3 ∧
    st346.tbase % (1000 * max 1 st346.phaseLen) < 5000) ∧
    (st346.proposes st346.ev.id = some (0, 0)) := by decide +kernel

def st347 : State := we (wbd.updTile 1 fun x => { x with proposal := some (0, 0, 1) }) { id := 1 }

theorem witness_BorderMoves_3 :
    (st347.tbase % (1000 * max 1 st347.phaseLen) < 5000) ∧
    ((st347.tile st347.ev.id).proposal = some (0, 0, st347.tbase / (1000 * max 1 st347.phaseLen))) ∧
    (st347.proposes st347.ev.id = some (0, 0)) ∧
    (st347.grants 0 st347.ev.id 0 = true) ∧
    ((st347.tile st347.ev.id).isFree = true) := by decide +kernel

def st348 : State := we (wbd2.updTile 1 fun x => { x with proposal := some (0, 0, 1) }) { id := 1 }

theorem witness_BorderMoves_4 :
    (st348.proposes st348.ev.id = some (0, 0)) ∧
    ((st348.tile st348.ev.id).proposal = some (0, 0, st348.tbase / (1000 * max 1 st348.phaseLen))) ∧
    (st348.grants 0 st348.ev.id 0 = true) ∧
    ((st348.tile st348.ev.id).isFree = false) ∧
    (st348.grants (st348.tile st348.ev.id).owner.toNat st348.ev.id 0 = true) := by decide +kernel

def st349 : State := we { wbd.updTile 1 fun x => { x with proposal := some (0, 0, 1) } with tbase := 105000 } { id := 1 }

theorem witness_BorderMoves_5 :
    ((st349.tile st349.ev.id).proposal = some (0, 0, 1)) ∧
    (5000 ≤ st349.tbase % (1000 * max 1 st349.phaseLen)) := by decide +kernel

def st350 : State := we (wbd2.updTile 1 fun x => { x with ts := .ceding, ceding := some 0, cedeTo := 0 }) { id := 1 }

theorem witness_BorderMoves_6 :
    ((st350.tile 1).ceding = some 0 ∧
    (st350.tile 1).ts = .ceding ∧
    (st350.tile 1).forced = none ∧
    st350.kernelRuns (st350.tile 1).owner.toNat = true ∧
    (st350.tile 0).owner.toNat = (st350.tile 1).cedeTo ∧
    (st350.tile 1).owner.toNat ≠ (st350.tile 1).cedeTo) ∧
    (st350.hosted st350.ev.id = []) ∧
    ((st350.kernel? 1).isSome = true ∧
    (st350.kernel? 0).isSome = true) := by decide +kernel

def st351 : State := we { (w.updTile 1 fun x => { x with owner := 0#6, ts := .member, depth := 2, parent := 3#3 }) with tbase := 100000 } { id := 1, idx := 2 }

theorem witness_TileEvents_1 :
    (neighbour st351.ev.id st351.ev.idx = some 0 ∧
    st351.ev.id < 1024 ∧
    (st351.tile 1).ts = .member) ∧
    (st351.ev.id % 32 % 3 = (st351.tbase / (1000 * max 1 st351.phaseLen)) % 3 ∧
    st351.ev.id / 32 % 3 = (st351.tbase / (1000 * max 1 st351.phaseLen)) / 3 % 3) ∧
    ((st351.tile 1).anchor = false ∧
    (st351.tile 0).owner = (st351.tile 1).owner ∧
    (st351.tile 0).ts = .member ∧
    (st351.tile 0).depth < (st351.tile 1).depth ∧
    st351.ev.idx ≠ (st351.tile 1).parent.toNat) := by decide +kernel

def st352 : State := we { (w.updTile 1 fun x => { x with owner := 0#6, ts := .member, depth := 1, parent := 2#3 }).updTile 0 (fun x => { x with levLoad := 65 }) with tbase := 2000, ltiles := [(0, { pinned := true }), (1, { j := 1 })] } { id := 0 }

theorem witness_TileEvents_2 :
    ((st352.tile 0).ts = .member ∧
    (st352.tile 0).levAt / 2000 < st352.tbase / 2000 ∧
    (st352.tile 0).levUsed ≠ st352.tbase / 2000 + 1 ∧
    st352.kernelRuns 0 = true ∧
    (st352.tile 0).levSource = false ∧
    (st352.tile 0).levTarget = false) ∧
    (∀ y ∈ st352.terr 0, y < st352.ev.id → st352.levDue y = true → st352.levelMove y = none) ∧
    (2 ≤ (st352.hosted st352.ev.id).length) ∧
    (st352.levelPick st352.ev.id = some 1 ∧
    st352.levelTile st352.ev.id = some 1 ∧
    st352.freeSlotOn (st352.tile 0).owner.toNat 1 = some 0) := by decide +kernel

def st353 : State := we { (w.updTile 1 fun x => { x with owner := 0#6, ts := .member, depth := 1, parent := 2#3, levTarget := true }).updTile 0 (fun x => { x with levSource := true }) with ltiles := [(0, {}), (1, { j := 1, moving := some 1, moveJ := 0 })] } { id := 1 }

theorem witness_TileEvents_3 :
    (st353.ltile 1).moving = some 1 ∧
    st353.kernelRuns (st353.ev.id / 4096) = true ∧
    (st353.kernelD 0).chains = [] ∧
    st353.quiet st353.ev.id = true ∧
    (1 ≠ (st353.ltile 1).tile) ∧
    (st353.ltile 1).tile < 1024 ∧
    st353.taken = [] := by decide +kernel

theorem witness_TileEvents_4 :
    (st146.ev.id < 1024) ∧
    ((st146.tile st146.ev.id).ts ≠ .retired ∧
    (st146.tile st146.ev.id).forced ≠ some true ∧
    (st146.tile st146.ev.id).owner = 0#6 ∧
    st146.kernel? 0 = some (st146.kernelD 0)) ∧
    ((st146.force true st146.ev.id).cutOff 0 st146.ev.id ((st146.force true st146.ev.id).anchorWithout 0 st146.ev.id) = [] ∧
    (st146.tile st146.ev.id).levSource = false ∧
    (st146.tile st146.ev.id).levTarget = false) ∧
    (st146.hosted st146.ev.id ≠ [] ∧
    ((st146.kernelD 0).restoring = true ∨ (st146.force true st146.ev.id).cedePlan 0 st146.ev.id = none)) := by decide +kernel

def st355 : State := we (w.updTile 5 fun x => { x with ts := .retired }) { id := 5 }

theorem witness_TileEvents_5 :
    st355.ev.id < 1024 ∧
    (st355.tile st355.ev.id).forced ≠ some true ∧
    (st355.tile st355.ev.id).ts = .retired := by decide +kernel

def st356 : State := we w { id := 1023 }

theorem witness_TileEvents_6 :
    st356.ev.id < 1024 ∧
    (st356.tile st356.ev.id).forced ≠ some true ∧
    (st356.tile st356.ev.id).ts ≠ .retired ∧
    (st356.tile st356.ev.id).owner = 63#6 := by decide +kernel

def st357 : State := we ((w.updTile 1 fun x => { x with owner := 0#6, ts := .member, depth := 1, parent := 2#3 }).updTile 2 fun x => { x with owner := 0#6, ts := .member, depth := 2, parent := 2#3 }) { id := 1 }

theorem witness_TileEvents_7 :
    (st357.ev.id < 1024 ∧
    (st357.tile st357.ev.id).ts ≠ .retired ∧
    (st357.tile st357.ev.id).forced ≠ some true ∧
    (st357.tile st357.ev.id).owner = 0#6 ∧
    st357.kernel? 0 = some (st357.kernelD 0)) ∧
    ((st357.force true st357.ev.id).cutOff 0 st357.ev.id ((st357.force true st357.ev.id).anchorWithout 0 st357.ev.id) = [2] ∧
    (st357.tile 2).forced = none) := by decide +kernel

def st358 : State := we (w.updTile 1 fun x => { x with owner := 0#6, ts := .member, depth := 1, parent := 2#3 }) { id := 1 }

theorem witness_TileEvents_8 :
    (st358.ev.id < 1024 ∧
    (st358.tile st358.ev.id).ts ≠ .retired ∧
    (st358.tile st358.ev.id).forced ≠ some true ∧
    (st358.tile st358.ev.id).owner = 0#6 ∧
    st358.kernel? 0 = some (st358.kernelD 0)) ∧
    ((st358.force true st358.ev.id).cutOff 0 st358.ev.id ((st358.force true st358.ev.id).anchorWithout 0 st358.ev.id) = [] ∧
    (st358.tile st358.ev.id).levSource = false ∧
    (st358.tile st358.ev.id).levTarget = false) ∧
    (st358.hosted st358.ev.id = [] ∧
    st358.kernelRuns 0 = true ∧
    (st358.kernelD 0).restoring = false) := by decide +kernel

def st359 : State := we { w.updTile 5 (fun x => { x with errors := List.replicate 7 1 }) with tbase := 60000000000 } { id := 5 }

theorem witness_TileEvents_9 :
    (st359.ev.id < 1024) ∧
    (8 ≤ ((st359.tile st359.ev.id).errors.filter (fun a => decide (st359.tbase < a + 60000000000)) ++ [st359.tbase]).length) := by decide +kernel

def st360 : State := we { w.updTile 5 (fun x => { x with errors := List.replicate 7 0 }) with tbase := 60000000000 } { id := 5 }

theorem witness_TileEvents_10 :
    (st360.ev.id < 1024) ∧
    (((st360.tile st360.ev.id).errors.filter (fun a => decide (st360.tbase < a + 60000000000)) ++ [st360.tbase]).length < 8) := by decide +kernel

def st361 : State := we (w.updTile 5 fun x => { x with ts := .retired, errors := [1] }) { id := 5 }

theorem witness_TileEvents_11 :
    (st361.tile st361.ev.id).ts = .retired := by decide +kernel

def st362 : State := { wr [(1,0x100000000),(2,1)] with tlbs := [(0, [{ part := 0, vpn := 0x10000, frame := 0x40000000, w := true, x := true, dt := false, kind := 0 }, { part := 0, vpn := 0x10001, frame := 0x40010000, w := true, x := true, dt := false, kind := 0 }])] }

theorem witness_PageInstructions_1 :
    (Runs st362 0 (st362.ctxD 0) (.tlbi 1 2)) ∧
    (st362.xlatesHeld (st362.ctxD 0) ((st362.ctxD 0).getG 1).toNat ((st362.ctxD 0).getG 2).toNat = false) := by decide +kernel

def st363 : State := wk (wr [(1,9)]) fun k => { k with warp := true }

theorem witness_PageInstructions_2 :
    (Runs st363 0 (st363.ctxD 0) (.pmig 3 1 2)) ∧ (st363.spec (st363.ctxD 0) = true) := by decide +kernel

def st364 : State := wr [(1,0x100000000),(2,12)]

theorem witness_PageInstructions_3 :
    (Runs st364 0 (st364.ctxD 0) (.pmig 3 1 2)) ∧
    (st364.spec (st364.ctxD 0) = false ∧
    11 < ((st364.ctxD 0).getG 2).toNat) := by decide +kernel

def st365 : State := wr [(1,0x100000000),(2,11)]

theorem witness_PageInstructions_4 :
    (Runs st365 0 (st365.ctxD 0) (.pmig 3 1 2)) ∧
    (st365.spec (st365.ctxD 0) = false ∧
    ((st365.ctxD 0).getG 2).toNat ≤ 11 ∧
    ((st365.ctxD 0).getG 1).toNat < 2 ^ 56 ∧
    (st365.ctxD 0).held = none) ∧
    ((st365.xlate (st365.partOf (st365.ctxD 0).kid) (st365.xlUnit (st365.ctxD 0)) true (st365.coreNo (st365.ctxD 0)) ((st365.ctxD 0).getG 1).toNat 4).1 = .ok 0x40000000 false) := by decide +kernel

def st366 : State := wc fun c => { (c.setG 1 0x100000000).setG 2 0 with held := some { instr := .pmig 3 1 2, sample := 0#4, answered := true, ans := { accept := true, frame := 0x80000000 } } }

theorem witness_PageInstructions_5 :
    (Runs st366 0 (st366.ctxD 0) (.pmig 3 1 2)) ∧
    (st366.spec (st366.ctxD 0) = false ∧
    ((st366.ctxD 0).getG 2).toNat ≤ 11) ∧
    ((st366.xlate (st366.partOf (st366.ctxD 0).kid) (st366.xlUnit (st366.ctxD 0)) true (st366.coreNo (st366.ctxD 0)) ((st366.ctxD 0).getG 1).toNat 4).1 = .ok 0x40000000 false) ∧
    (homeOf 0x40000000 = some ((st366.ctxD 0).getG 2).toNat) := by decide +kernel

def st367 : State := wc fun c => { (c.setG 1 0x100000000).setG 2 1 with held := some { instr := .pmig 3 1 2, sample := 0#4, answered := true, ans := { accept := true, frame := 0x1040000000 } } }

theorem witness_PageInstructions_6 :
    (Runs st367 0 (st367.ctxD 0) (.pmig 3 1 2)) ∧
    (st367.spec (st367.ctxD 0) = false ∧
    ((st367.ctxD 0).getG 2).toNat ≤ 11) ∧
    ((st367.xlate (st367.partOf (st367.ctxD 0).kid) (st367.xlUnit (st367.ctxD 0)) true (st367.coreNo (st367.ctxD 0)) ((st367.ctxD 0).getG 1).toNat 4).1 = .ok 0x40000000 false) ∧
    (homeOf 0x40000000 ≠ some ((st367.ctxD 0).getG 2).toNat) ∧
    (frameOk { accept := true, frame := 0x1040000000 } ((st367.ctxD 0).getG 2).toNat (2 ^ 30) = true) ∧
    (st367.pageHeld (st367.partOf (st367.ctxD 0).kid) (((st367.ctxD 0).getG 1).toNat / 2 ^ 30 * 2 ^ 30) 0x40000000 (2 ^ 30) = false) := by decide +kernel

theorem witness_PageInstructions_7 :
    (Runs st363 0 (st363.ctxD 0) (.pdirty 3 1)) ∧ (st363.spec (st363.ctxD 0) = true) := by decide +kernel

def st369 : State := wr [(1,0x100200000)]

theorem witness_PageInstructions_8 :
    (Runs st369 0 (st369.ctxD 0) (.pdirty 3 1)) ∧
    (st369.spec (st369.ctxD 0) = false ∧
    ((st369.ctxD 0).getG 1).toNat % 2 ^ 22 ≠ 0) := by decide +kernel

def st370 : State := { wr [(1,0x100000000)] with dirtyGranules := [0x4000, 0x403F, 0x4040], glob := memStore w.glob (0x10002000 + 8 * 4) 8 (0x40000000 + 0xC3 + 4) }

theorem witness_PageInstructions_9 :
    (Runs st370 0 (st370.ctxD 0) (.pdirty 3 1)) ∧
    (st370.spec (st370.ctxD 0) = false ∧
    ((st370.ctxD 0).getG 1).toNat % 2 ^ 22 = 0) := by decide +kernel

def st371 : State := wr [(1,0xFFFFF)]

theorem witness_PageInstructions_10 :
    (Runs st371 0 (st371.ctxD 0) (.pship 1)) ∧
    (((st371.ctxD 0).getG 1).toNat < 2 ^ 20 ∧
    (st371.ctxD 0).shipped = none) := by decide +kernel

def st372 : State := wr [(1,0x100000000)]

theorem witness_PageInstructions_11 :
    (Runs st372 0 (st372.ctxD 0) (.pship 1)) ∧
    (2 ^ 20 ≤ ((st372.ctxD 0).getG 1).toNat ∧
    ((st372.ctxD 0).getG 1).toNat < 2 ^ 56 ∧
    (st372.ctxD 0).shipped = none ∧
    homeOf 0x40000000 = some 0) ∧
    ((st372.xlate (st372.partOf (st372.ctxD 0).kid) (st372.xlUnit (st372.ctxD 0)) true (st372.coreNo (st372.ctxD 0)) ((st372.ctxD 0).getG 1).toNat 4).1 = .ok 0x40000000 false) := by decide +kernel

theorem witness_PageInstructions_12 :
    (Runs st363 0 (st363.ctxD 0) (.phome 3 1)) ∧ (st363.spec (st363.ctxD 0) = true) := by decide +kernel

theorem witness_PageInstructions_13 :
    (Runs st36 0 (st36.ctxD 0) (.phome 3 1)) ∧
    (st36.spec (st36.ctxD 0) = false ∧
    2 ^ 56 ≤ ((st36.ctxD 0).getG 1).toNat) := by decide +kernel

theorem witness_PageInstructions_14 :
    (Runs st372 0 (st372.ctxD 0) (.phome 3 1)) ∧
    (st372.spec (st372.ctxD 0) = false ∧
    ((st372.ctxD 0).getG 1).toNat < 2 ^ 56 ∧
    (match st372.walk (st372.partOf (st372.ctxD 0).kid) ((st372.ctxD 0).getG 1).toNat with | .leaf _ l _ _ => l | _ => 9) = 2) := by decide +kernel

def st376 : State := wr [(1,0x200000000)]

theorem witness_PageInstructions_15 :
    (Runs st376 0 (st376.ctxD 0) (.phome 3 1)) ∧
    (st376.spec (st376.ctxD 0) = false ∧
    (match st376.walk (st376.partOf (st376.ctxD 0).kid) ((st376.ctxD 0).getG 1).toNat with | .unmapped _ => true | _ => false) = true) := by decide +kernel

def st377 : State := we ((wc fun c => { c with shipWait := true }).updCtrl 11 fun x => { x with waiting := [0], slots := x.slots.set 0 (some 77) }) { id := 11 }

theorem witness_PageEvents_1 :
    ((st377.ctrl st377.ev.id).waiting = [0] ∧
    st377.ev.id < 12 ∧
    st377.ctx? 0 = some (st377.ctxD 0) ∧
    st377.kernelRuns (st377.ctxD 0).kid = true) ∧
    ((List.range 16).find? (fun n => ((st377.ctrl st377.ev.id).slots.toList.getD n none).isNone) = some 1) := by decide +kernel

def st378 : State := we ((wc fun c => { c with shipped := some 177, awayCount := 4096 }).updCtrl 11 fun x => { x with slots := x.slots.set 1 (some 0) }) { id := 0 }

theorem witness_PageEvents_2 :
    st378.ctx? st378.ev.id = some (st378.ctxD 0) ∧
    (st378.ctxD 0).shipped = some 177 ∧
    4096 ≤ (st378.ctxD 0).awayCount ∧
    (st378.ctxD 0).run = .ready := by decide +kernel

def st379 : State := we (w.updDie 3 fun x => { x with pageGen := 0xFFFF#16 }) { id := 3, w0 := 0xFFFF }

theorem witness_PageEvents_3 :
    st379.ev.id < 4 ∧ st379.ev.w0 = (st379.die st379.ev.id).pageGen.setWidth 64 := by decide +kernel

def st380 : State := we { w with moves := [mv0], glob := memStore (memStore w.glob 0x50000000 8 0x600000E3) 0x600000FF 1 9 } { idx := 0 }

theorem witness_PageEvents_4 :
    (st380.moves[st380.ev.idx]? = some mv0) ∧
    (Memory.wf st380.glob = true) ∧
    (mv0.pteAt + 8 ≤ mv0.dst) ∧
    (mv0.dst % 256 = 0 ∧
    mv0.dst < 2 ^ 52) := by decide +kernel

def st381 : State := we { w with moves := [mv0], glob := memStore w.glob 0x50000000 8 0x600000E3 } { idx := 0 }

theorem witness_PageEvents_5 :
    st381.moves[st381.ev.idx]? = some mv0 := by decide +kernel

def st382 : State := we w { id := 0, idx := 4, w0 := 0x50000008, w1 := 0x1234 }

theorem witness_PageEvents_6 :
    (st382.ev.w0.toNat % 8 = 0 ∧
    (homeOf st382.ev.w0.toNat).isSome = true ∧
    apertureCtrl st382.ev.w0.toNat = none ∧
    st382.ev.idx ≤ 4 ∧
    (st382.part st382.ev.id).present = true) ∧
    (∀ x ∈ st382.moves, x.pteAt ≠ st382.ev.w0.toNat) := by decide +kernel

def st383 : State := wk w fun k => { k with slt := 1 }

theorem witness_TrapInstructions_1 :
    (st383.cur = some 0 ∧
    st383.ctx? 0 = some (st383.ctxD 0)) ∧
    (st383.isSupervisor (st383.ctxD 0) = false) := by decide +kernel

theorem witness_TrapInstructions_2 :
    (Runs st342 0 (st342.ctxD 0) (.eret 3 1 2)) ∧
    (((st342.ctxD 0).getG 2).toNat % 4 ≠ 0) := by decide +kernel

def st385 : State := wtrap (wr [(1,0x80000004),(2,0x100000020)])

theorem witness_TrapInstructions_3 :
    (Runs st385 0 (st385.ctxD 0) (.eret 3 1 2)) ∧
    (((st385.ctxD 0).getG 2).toNat % 4 = 0) ∧
    (∀ e ∈ st385.ctxs, e.2.kid = (st385.ctxD 0).kid → e.2.run = .trapped → e.2.trapHandle ≠ (st385.ctxD 0).getG 1) := by decide +kernel

def st386 : State := wtrap (wr [(1,0x80000005),(2,0x100000020)])

theorem witness_TrapInstructions_4 :
    (Runs st386 0 (st386.ctxD 0) (.eret 3 1 2)) ∧
    (((st386.ctxD 0).getG 2).toNat % 4 = 0 ∧
    st386.trapped? (st386.ctxD 0).kid ((st386.ctxD 0).getG 1) = some 1) := by decide +kernel

def st387 : State := wtrap (wr [(1,0x80000005),(2,0)])

theorem witness_TrapInstructions_5 :
    (Runs st387 0 (st387.ctxD 0) (.eret 3 1 2)) ∧
    (((st387.ctxD 0).getG 2).toNat % 4 = 0 ∧
    st387.trapped? (st387.ctxD 0).kid ((st387.ctxD 0).getG 1) = some 1 ∧
    (st387.ctxD 0).getG 2 = 0#64) := by decide +kernel

theorem witness_TrapInstructions_6 :
    Runs st11 0 (st11.ctxD 0) (.trap 3 29) := by decide +kernel

theorem witness_TrapInstructions_7 :
    (Runs st124 0 (st124.ctxD 0) (.trap 3 28)) ∧ (st124.spec (st124.ctxD 0) = true) := by decide +kernel

def st390 : State := wr [(28,1),(31,4)]

theorem witness_TrapInstructions_8 :
    (Runs st390 0 (st390.ctxD 0) (.trap 3 28)) ∧
    (st390.spec (st390.ctxD 0) = false ∧
    (st390.ctxD 0).held = none) := by decide +kernel

def st391 : State := wheld w (.trap 3 28) 1 [] { value := 77 }

theorem witness_TrapInstructions_9 :
    (Runs st391 0 (st391.ctxD 0) (.trap 3 28)) ∧
    (st391.spec (st391.ctxD 0) = false ∧
    ((st391.ctxD 0).held.map (·.stage)) = some 1 ∧
    (st391.ctxD 0).held.map (·.answered) = some true) := by decide +kernel

theorem witness_TrapInstructions_10 :
    Runs st11 0 (st11.ctxD 0) (.brk 31) := by decide +kernel

theorem witness_TrapInstructions_11 :
    (Runs st11 0 (st11.ctxD 0) (.halt)) ∧
    ((st11.part (st11.partOf (st11.ctxD 0).kid)).debugAgent = false) := by decide +kernel

def st394 : State := wp w fun p => { p with debugAgent := true }

theorem witness_TrapInstructions_12 :
    (Runs st394 0 (st394.ctxD 0) (.halt)) ∧
    ((st394.part (st394.partOf (st394.ctxD 0).kid)).debugAgent = true) := by decide +kernel

theorem witness_TrapInstructions_13 :
    Runs st11 0 (st11.ctxD 0) (.hint 3 0) := by decide +kernel

def st396 : State := we w { w0 := 0x30 }

theorem witness_TrapInstructions_14 :
    Runs st396 0 (st396.ctxD 0) (.illegalWord) := by decide +kernel

theorem witness_CutAndSwitchInstructions_1 :
    (Runs st124 0 (st124.ctxD 0) (.mark 3 1)) ∧ (st124.spec (st124.ctxD 0) = true) := by decide +kernel

theorem witness_CutAndSwitchInstructions_2 :
    (Runs st329 0 (st329.ctxD 0) (.mark 3 1)) ∧
    (st329.spec (st329.ctxD 0) = false ∧
    (st329.ctxD 0).getG 1 ≠ 0#64) := by decide +kernel

def st399 : State := wk w fun k => { k with cut := some { id := 0, by_ := none } }

theorem witness_CutAndSwitchInstructions_3 :
    (Runs st399 0 (st399.ctxD 0) (.mark 3 1)) ∧
    (st399.spec (st399.ctxD 0) = false ∧
    (st399.ctxD 0).getG 1 = 0#64 ∧
    (st399.ctxD 0).held = none ∧
    (st399.kernelD 0).cut.isSome = true) := by decide +kernel

theorem witness_CutAndSwitchInstructions_4 :
    (Runs st11 0 (st11.ctxD 0) (.mark 3 1)) ∧
    (st11.spec (st11.ctxD 0) = false ∧
    (st11.ctxD 0).getG 1 = 0#64 ∧
    (st11.ctxD 0).held = none ∧
    (st11.kernelD 0).cut = none ∧
    (st11.kernelD 0).cutSpace = false) := by decide +kernel

def st401 : State := wk w fun k => { k with cutSpace := true, cutNum := 0xFFFFFFFF }

theorem witness_CutAndSwitchInstructions_5 :
    (Runs st401 0 (st401.ctxD 0) (.mark 3 1)) ∧
    (st401.spec (st401.ctxD 0) = false ∧
    (st401.ctxD 0).getG 1 = 0#64 ∧
    (st401.ctxD 0).held = none ∧
    (st401.kernelD 0).cut = none ∧
    (st401.kernelD 0).cutSpace = true) := by decide +kernel

def st402 : State := wheld w (.mark 3 1) 1 [] { accept := false, value := 77 }

theorem witness_CutAndSwitchInstructions_6 :
    (Runs st402 0 (st402.ctxD 0) (.mark 3 1)) ∧
    (st402.spec (st402.ctxD 0) = false ∧
    (st402.ctxD 0).getG 1 = 0#64 ∧
    (st402.ctxD 0).held.map (·.stage) = some 1 ∧
    (st402.ctxD 0).held.map (·.answered) = some true) := by decide +kernel

def st403 : State := wk w fun k => { k with score := 1 }

theorem witness_CutAndSwitchInstructions_7 :
    (st403.cur = some 0 ∧
    st403.ctx? 0 = some (st403.ctxD 0)) ∧
    (st403.isSupervisor (st403.ctxD 0) = false) := by decide +kernel

theorem witness_CutAndSwitchInstructions_8 :
    (Runs st124 0 (st124.ctxD 0) (.swset 3 1 0)) ∧
    (st124.spec (st124.ctxD 0) = true) := by decide +kernel

def st405 : State := wr [(1,49999)]

theorem witness_CutAndSwitchInstructions_9 :
    (Runs st405 0 (st405.ctxD 0) (.swset 3 1 0)) ∧
    (st405.spec (st405.ctxD 0) = false ∧
    (st405.ctxD 0).held = none ∧
    ((st405.ctxD 0).getG 1).toNat < st405.tbase + 50000) := by decide +kernel

theorem witness_CutAndSwitchInstructions_10 :
    (Runs st11 0 (st11.ctxD 0) (.swset 3 1 50000)) ∧
    (st11.spec (st11.ctxD 0) = false ∧
    (st11.ctxD 0).held = none) := by decide +kernel

def st407 : State := wp (wheld w (.swset 3 1 50000) 1 [50000#64] {}) fun p => { p with gang := .armed }

theorem witness_CutAndSwitchInstructions_11 :
    (Runs st407 0 (st407.ctxD 0) (.swset 3 1 50000)) ∧
    (st407.spec (st407.ctxD 0) = false ∧
    (st407.ctxD 0).held.map (·.vals) = some [50000#64] ∧
    (st407.part (st407.partOf (st407.ctxD 0).kid)).gang = .armed) := by decide +kernel

def st408 : State := wheld w (.swset 3 1 50000) 1 [50000#64] {}

theorem witness_CutAndSwitchInstructions_12 :
    (Runs st408 0 (st408.ctxD 0) (.swset 3 1 50000)) ∧
    (st408.spec (st408.ctxD 0) = false ∧
    (st408.ctxD 0).held.map (·.vals) = some [50000#64] ∧
    (st408.part (st408.partOf (st408.ctxD 0).kid)).gang = .running ∧
    (st408.ctxD 0).held.map (·.ans.accept) = some false) := by decide +kernel

def st409 : State := wheld w (.swset 3 1 50000) 1 [50000#64] { accept := true }

theorem witness_CutAndSwitchInstructions_13 :
    (Runs st409 0 (st409.ctxD 0) (.swset 3 1 50000)) ∧
    (st409.spec (st409.ctxD 0) = false ∧
    (st409.ctxD 0).held.map (·.vals) = some [50000#64] ∧
    (st409.part (st409.partOf (st409.ctxD 0).kid)).gang = .running ∧
    (st409.ctxD 0).held.map (·.ans.accept) = some true) := by decide +kernel

def st410 : State := { wheld w (.swset 3 1 50000) 1 [50000#64] { accept := true } with tbase := 1 }

theorem witness_CutAndSwitchInstructions_14 :
    (Runs st410 0 (st410.ctxD 0) (.swset 3 1 50000)) ∧
    (st410.spec (st410.ctxD 0) = false ∧
    (st410.ctxD 0).held.map (·.vals) = some [50000#64] ∧
    (st410.part (st410.partOf (st410.ctxD 0).kid)).gang = .running ∧
    (50000#64).toNat < st410.tbase + 50000 ∧
    (st410.ctxD 0).held.map (·.answered) = some true ∧
    (st410.ctxD 0).held.map (·.stage) = some 1) := by decide +kernel

def st411 : State := wc fun c => { c with scratchReg := 9#64 }

theorem witness_ControlAndWatch_1 :
    Runs st411 0 (st411.ctxD 0) (.crr 3 0x12) := by decide +kernel

theorem witness_ControlAndWatch_2 :
    Runs st11 0 (st11.ctxD 0) (.crr 3 0x13) := by decide +kernel

def st413 : State := wr [(1,0xF)]

theorem witness_ControlAndWatch_3 :
    Runs st413 0 (st413.ctxD 0) (.crw 3 1 1) := by decide +kernel

def st414 : State := wr [(1,0x20005)]

theorem witness_ControlAndWatch_4 :
    Runs st414 0 (st414.ctxD 0) (.crw 3 1 4) := by decide +kernel

def st415 : State := wr [(1,2^40)]

theorem witness_ControlAndWatch_5 :
    Runs st415 0 (st415.ctxD 0) (.crs 3 1 0x0C) := by decide +kernel

theorem witness_ControlAndWatch_6 :
    Runs st415 0 (st415.ctxD 0) (.crc 3 1 0x1F) := by decide +kernel

def st417 : State := { w with tbase := 77 }

theorem witness_ControlAndWatch_7 :
    Runs st417 0 (st417.ctxD 0) (.tstamp 3 0) := by decide +kernel

def st418 : State := w.updTile 0 fun x => { x with clockEvents := 6 }

theorem witness_ControlAndWatch_8 :
    (Runs st418 0 (st418.ctxD 0) (.tstamp 3 1)) ∧ ((st418.ctxD 0).shipped = none) := by decide +kernel

def st419 : State := (wc fun c => { c with shipped := some 177 }).updCtrl 11 fun x => { x with clockEvents := 6 }

theorem witness_ControlAndWatch_9 :
    (Runs st419 0 (st419.ctxD 0) (.tstamp 3 1)) ∧
    ((st419.ctxD 0).shipped = some 177) := by decide +kernel

theorem witness_ControlAndWatch_10 :
    Runs st11 0 (st11.ctxD 0) (.tstamp 3 31) := by decide +kernel

theorem witness_ControlAndWatch_11 :
    (Runs st168 0 (st168.ctxD 0) (.pcntr 3 1)) ∧
    (15 < ((st168.ctxD 0).getG 1).toNat) := by decide +kernel

def st422 : State := (wr [(1,15)]).updTile 0 fun x => { x with banks := x.banks.set 3 (some (0, 0)), counters := x.counters.set 15 8#64 }

theorem witness_ControlAndWatch_12 :
    (Runs st422 0 (st422.ctxD 0) (.pcntr 3 1)) ∧
    (((st422.ctxD 0).getG 1).toNat = 15 ∧
    (st422.tile (st422.ltile (st422.ctxD 0).ltk).tile).banks.toList[15 / 4]? = some (some (st422.partOf (st422.ctxD 0).kid, (st422.ctxD 0).kid))) := by decide +kernel

def st423 : State := (wr [(1,15)]).updTile 0 fun x => { x with banks := x.banks.set 3 (some (0, 1)), counters := x.counters.set 15 8#64 }

theorem witness_ControlAndWatch_13 :
    (Runs st423 0 (st423.ctxD 0) (.pcntr 3 1)) ∧
    ((st423.tile (st423.ltile (st423.ctxD 0).ltk).tile).banks.toList[15 / 4]? ≠ some (some (st423.partOf (st423.ctxD 0).kid, (st423.ctxD 0).kid))) := by decide +kernel

theorem witness_ControlAndWatch_14 :
    (Runs st11 0 (st11.ctxD 0) (.trace 1 2)) ∧
    ((st11.tile (st11.ltile (st11.ctxD 0).ltk).tile).traceKids.contains (st11.ctxD 0).kid = false) := by decide +kernel

def st425 : State := { (wr [(1,5),(2,6)]).updTile 0 (fun x => { x with traceKids := [0], traceRoom := 2, traceAt := some 3 }) with tbase := 10 }

theorem witness_ControlAndWatch_15 :
    (Runs st425 0 (st425.ctxD 0) (.trace 1 2)) ∧
    ((st425.tile (st425.ltile (st425.ctxD 0).ltk).tile).traceKids.contains (st425.ctxD 0).kid = true ∧
    (st425.tile (st425.ltile (st425.ctxD 0).ltk).tile).traceAt = some 3 ∧
    3 ≤ st425.tbase ∧
    (st425.tile (st425.ltile (st425.ctxD 0).ltk).tile).traceLost = 0 ∧
    (st425.tile (st425.ltile (st425.ctxD 0).ltk).tile).traceRoom ≠ 0) := by decide +kernel

def st426 : State := w.updTile 0 fun x => { x with traceKids := [0], traceRoom := 0 }

theorem witness_ControlAndWatch_16 :
    (Runs st426 0 (st426.ctxD 0) (.trace 1 2)) ∧
    ((st426.tile (st426.ltile (st426.ctxD 0).ltk).tile).traceKids.contains (st426.ctxD 0).kid = true ∧
    (st426.tile (st426.ltile (st426.ctxD 0).ltk).tile).traceRoom = 0) := by decide +kernel

def st427 : State := { (wr [(1,5),(2,6)]).updTile 0 (fun x => { x with traceKids := [0], traceRoom := 2, traceAt := some 3, traceLost := 4 }) with tbase := 10 }

theorem witness_ControlAndWatch_17 :
    (Runs st427 0 (st427.ctxD 0) (.trace 1 2)) ∧
    ((st427.tile (st427.ltile (st427.ctxD 0).ltk).tile).traceKids.contains (st427.ctxD 0).kid = true ∧
    (st427.tile (st427.ltile (st427.ctxD 0).ltk).tile).traceAt = some 3 ∧
    3 ≤ st427.tbase ∧
    (st427.tile (st427.ltile (st427.ctxD 0).ltk).tile).traceLost = 4 ∧
    (st427.tile (st427.ltile (st427.ctxD 0).ltk).tile).traceRoom = 2) := by decide +kernel

def st428 : State := { (wr [(1,5),(2,6)]).updTile 0 (fun x => { x with traceKids := [0], traceRoom := 2 }) with tbase := 10 }

theorem witness_ControlAndWatch_18 :
    (Runs st428 0 (st428.ctxD 0) (.trace 1 2)) ∧
    ((st428.tile (st428.ltile (st428.ctxD 0).ltk).tile).traceKids.contains (st428.ctxD 0).kid = true ∧
    (st428.tile (st428.ltile (st428.ctxD 0).ltk).tile).traceAt = none ∧
    (st428.tile (st428.ltile (st428.ctxD 0).ltk).tile).traceLost = 0 ∧
    (st428.tile (st428.ltile (st428.ctxD 0).ltk).tile).traceRoom = 2) := by decide +kernel

def st429 : State := we (wc fun c => { c with run := .parked, wait := .answer, held := some { instr := .launch 3 1 2, sample := 0#4, stage := 1 } }) { id := 0, fw := fwOk }

theorem witness_ParksAndTeams_1 :
    (st429.ctx? st429.ev.id = some (st429.ctxD 0) ∧
    (st429.ctxD 0).id = st429.ev.id ∧
    (st429.ctxD 0).run = .parked ∧
    (st429.ctxD 0).spilled = false ∧
    (st429.ctxD 0).switched = false ∧
    st429.kernelRuns (st429.ctxD 0).kid = true) ∧
    ((st429.ctxD 0).wait = .answer ∧
    (st429.ctxD 0).held.map (·.answered) = some false) := by decide +kernel

def st430 : State := we (wc fun c => { c with run := .parked, wait := .muSpace }) { id := 0 }

theorem witness_ParksAndTeams_2 :
    (st430.ctx? st430.ev.id = some (st430.ctxD 0) ∧
    (st430.ctxD 0).id = st430.ev.id ∧
    (st430.ctxD 0).run = .parked ∧
    (st430.ctxD 0).spilled = false ∧
    (st430.ctxD 0).switched = false ∧
    st430.kernelRuns (st430.ctxD 0).kid = true) ∧
    ((st430.ctxD 0).asks = false ∧
    st430.holds (st430.ctxD 0) = true ∧
    (st430.ctxD 0).wait = .muSpace) := by decide +kernel

def st431 : State := we (wl (wc fun c => { c with run := .parked, wait := .gvt 5 }) fun l => { l with gvt := 5 }) { id := 0 }

theorem witness_ParksAndTeams_3 :
    (st431.ctx? st431.ev.id = some (st431.ctxD 0) ∧
    (st431.ctxD 0).id = st431.ev.id ∧
    (st431.ctxD 0).run = .parked ∧
    (st431.ctxD 0).spilled = false ∧
    (st431.ctxD 0).switched = false ∧
    st431.kernelRuns (st431.ctxD 0).kid = true) ∧
    ((st431.ctxD 0).asks = false ∧
    st431.holds (st431.ctxD 0) = false ∧
    (st431.ctxD 0).wait = .gvt 5) := by decide +kernel

def st432 : State := we (wt (wc fun c => { c with run := .parked, wait := .word 0xFFFF8 5 }) fun x => { x with scratch := memStore [] 0xFFFF8 8 5 }) { id := 0 }

theorem witness_ParksAndTeams_4 :
    (st432.ctx? st432.ev.id = some (st432.ctxD 0) ∧
    (st432.ctxD 0).id = st432.ev.id ∧
    (st432.ctxD 0).run = .parked ∧
    (st432.ctxD 0).spilled = false ∧
    (st432.ctxD 0).switched = false ∧
    st432.kernelRuns (st432.ctxD 0).kid = true) ∧
    ((st432.ctxD 0).asks = false ∧
    st432.holds (st432.ctxD 0) = true ∧
    (st432.ctxD 0).wait = .word 0xFFFF8 5) := by decide +kernel

def st433 : State := we { wtrap (wc fun c => { c with run := .parked, parkedAt := 1, wait := .puts, shipped := some 177 }) with tbase := 20002 } { id := 0 }

theorem witness_ParksAndTeams_5 :
    st433.ctx? st433.ev.id = some (st433.ctxD 0) ∧
    (st433.ctxD 0).run = .parked ∧
    (st433.ctxD 0).spilled = false ∧
    (st433.ctxD 0).switched = false ∧
    (st433.ctxD 0).parkedAt + (st433.ctxD 0).waitlim.toNat < st433.tbase ∧
    st433.kernelRuns (st433.ctxD 0).kid = true := by decide +kernel

def st434 : State := we (wtrap (wc fun c => { c with spilled := true, strand := 1#2 })) { id := 0 }

theorem witness_ParksAndTeams_6 :
    (st434.kernelRuns (st434.ev.id / 4096) = true ∧
    st434.spilledOf st434.ev.id = [0] ∧
    st434.ctx? 0 = some (st434.ctxD 0)) ∧
    (st434.slotFor (st434.ctxD 0) = some 0) := by decide +kernel

theorem witness_Stops_1 :
    (st146.part st146.ev.id).present = true ∧
    (st146.part st146.ev.id).gang = .running := by decide +kernel

def st436 : State := we (wp w fun p => { p with gang := .stopped, gangBefore := .armed }) { id := 0 }

theorem witness_Stops_2 :
    (st436.ev.flag = false ∧
    (st436.part st436.ev.id).gang = .stopped) ∧
    (st436.ctx? 0 = some (st436.ctxD 0) ∧
    (st436.ctxD 0).shipped = none ∧
    (st436.ctxD 0).shipWait = false) := by decide +kernel

def st437 : State := we (wp ((wc fun c => { c with shipped := some 177 }).updCtrl 11 fun x => { x with slots := x.slots.set 1 (some 0) }) fun p => { p with gang := .stopped }) { id := 0 }

theorem witness_Stops_3 :
    (st437.ev.flag = false ∧
    (st437.part st437.ev.id).gang = .stopped) ∧
    (st437.ctx? 0 = some (st437.ctxD 0) ∧
    st437.partOf (st437.ctxD 0).kid = st437.ev.id) := by decide +kernel

def st438 : State := we ((wc fun c => { c with stopped := true }).updTile 0 fun x => { x with debugStops := 3#32 }) { idx := 0, w0 := 1, flag := true }

theorem witness_Stops_4 :
    st438.ev.flag = true ∧
    st438.ctx? 0 = some (st438.ctxD 0) ∧
    (st438.ctxD 0).spilled = false ∧
    (st438.ctxD 0).switched = false ∧
    st438.homeTile (st438.ctxD 0) = st438.ev.idx ∧
    st438.ev.w0.getLsbD (4 * (st438.ctxD 0).homeCore + (st438.ctxD 0).strand.toNat) = true := by decide +kernel

def st439 : State := we ((wc fun c => { c with stopped := true, shipped := some 177 }).updCtrl 11 (fun x => { x with slots := x.slots.set 1 (some 0) }) |>.updTile 0 fun x => { x with debugStops := 1#32 }) { idx := 0, w0 := 1, flag := true }

theorem witness_Stops_5 :
    st439.ev.flag = true ∧
    st439.ctx? 0 = some (st439.ctxD 0) ∧
    (st439.ctxD 0).spilled = false ∧
    (st439.ctxD 0).switched = false ∧
    st439.homeTile (st439.ctxD 0) = st439.ev.idx ∧
    st439.ev.w0.getLsbD (4 * (st439.ctxD 0).homeCore + (st439.ctxD 0).strand.toNat) = true ∧
    (st439.ctxD 0).stopped = true := by decide +kernel

def st440 : State := we (wp w fun p => { p with gang := .stopped }) { id := 0 }

theorem witness_Stops_6 :
    st440.ctx? st440.ev.id = some (st440.ctxD 0) ∧
    (st440.ctxD 0).id = st440.ev.id ∧
    (st440.part (st440.partOf (st440.ctxD 0).kid)).gang = .stopped ∧
    (st440.ctxD 0).run ≠ .trapped ∧
    (st440.ctxD 0).spilled = false ∧
    (st440.ctxD 0).switched = false := by decide +kernel

def st441 : State := we ((wl { w with ctxs := [] } fun l => { l with mu := { l.mu with queue := [mr 0 0 0 0] } }).updTile 0 fun x => { x with debugStops := 1#32 }) { id := 0 }

theorem witness_Stops_7 :
    (st441.part (st441.partOf (lcKid st441.ev.id))).gang = .running ∧
    (st441.kernelD (lcKid st441.ev.id)).state = .running ∧
    st441.muHeld st441.ev.id = true ∧
    (st441.lcore st441.ev.id).mu.queue ≠ [] := by decide +kernel

def st442 : State := we w { id := 1023, w0 := 0x80000000 }

theorem witness_Stops_8 :
    st442.ev.id < 1024 := by decide +kernel

def st443 : State := we (wc fun c => { c with stopped := true }) { id := 0 }

theorem witness_Stops_9 :
    st443.ctx? st443.ev.id = some (st443.ctxD 0) ∧
    (st443.ctxD 0).id = st443.ev.id ∧
    (st443.ctxD 0).stopped = true ∧
    (st443.ctxD 0).run ≠ .trapped ∧
    (st443.ctxD 0).spilled = false ∧
    (st443.ctxD 0).switched = false := by decide +kernel

def st444 : State := we (wl (wc fun c => { c with stopped := true }) fun l => { l with mu := { l.mu with queue := [mr 0 0 0 0] } }) { id := 0 }

theorem witness_Stops_10 :
    st444.ctxs = [(0, (st444.ctxD 0))] ∧
    (st444.ctxD 0).lck = st444.ev.id ∧
    (st444.ctxD 0).stopped = true ∧
    (st444.lcore st444.ev.id).mu.queue ≠ [] := by decide +kernel

def st445 : State := we w { id := 0, bytes := [1#8] }

theorem witness_Stops_11 :
    ((st445.part st445.ev.id).present = true ∧
    (st445.part st445.ev.id).gang ≠ .frozen) ∧
    ((st445.kernel? 0).isSome = true ∧
    (st445.kernelD 0).part = st445.ev.id ∧
    (st445.kernelD 0).state ≠ .ended) := by decide +kernel

def st446 : State := we w { id := 0, w0 := 50000 }

theorem witness_GangSwitches_1 :
    (st446.part st446.ev.id).present = true ∧
    (st446.part st446.ev.id).gang = .running ∧
    st446.tbase + 50000 ≤ st446.ev.w0.toNat := by decide +kernel

def st447 : State := we w { id := 0, w0 := 49999 }

theorem witness_GangSwitches_2 :
    (st447.part st447.ev.id).present = true ∧
    st447.ev.w0.toNat < st447.tbase + 50000 := by decide +kernel

def st448 : State := we (wp w fun p => { p with gang := .armed, switchAt := 10001 }) { id := 0 }

theorem witness_GangSwitches_3 :
    (st448.part st448.ev.id).gang = .armed ∧
    st448.tbase + 10000 < (st448.part st448.ev.id).switchAt := by decide +kernel

def st449 : State := we (wp w fun p => { p with gang := .armed, switchAt := 10000 }) { id := 0 }

theorem witness_GangSwitches_4 :
    (st449.part st449.ev.id).gang = .armed ∧
    (st449.part st449.ev.id).switchAt ≤ st449.tbase + 10000 := by decide +kernel

def st450 : State := we (wp (wc fun c => { c with stopped := true }) fun p => { p with gang := .stopped, gangBefore := .armed, switchAt := 0 }) { id := 0 }

theorem witness_GangSwitches_5 :
    (st450.part st450.ev.id).gang = .stopped ∧
    (st450.part st450.ev.id).gangBefore = .armed ∧
    (st450.part st450.ev.id).switchAt ≤ st450.tbase ∧
    st450.ctx? 0 = some (st450.ctxD 0) ∧
    st450.partOf (st450.ctxD 0).kid = st450.ev.id := by decide +kernel

def st451 : State := we (wp w fun p => { p with gang := .saving }) { id := 0 }

theorem witness_GangSwitches_6 :
    (st451.part st451.ev.id).gang = .saving ∧
    st451.copiesQuiet st451.ev.id = true ∧
    (st451.kernelD 0).state ≠ .ending ∧
    (∀ e ∈ st451.lcores, ∀ r ∈ e.2.copies, r.state ≠ 2) := by decide +kernel

def st452 : State := we ((wp (wk w fun k => { k with state := .switched }) fun p => { p with gang := .switched }).updTile 0 fun _ => {}) { id := 0, fws := [(0, { place := [(5, 3)], anchor := 5 })] }

theorem witness_GangSwitches_7 :
    ((st452.part st452.ev.id).gang = .switched) ∧
    ((st452.kidsOf st452.ev.id).filter (fun k => decide ((st452.kernelD k).state ≠ .ended)) = [0]) ∧
    (st452.placeOk (st452.kernelD 0).part (st452.kernelD 0).tiles (st452.kernelD 0).k { place := [(5, 3)], anchor := 5 } = true) := by decide +kernel

def st453 : State := we { wp (wc fun c => { c with switched := true }) (fun p => { p with gang := .restoring, gangBefore := .stopped }) with saves := [(0, (w.ctxD 0).record true)] } { id := 0 }

theorem witness_GangSwitches_8 :
    ((st453.part st453.ev.id).gang = .restoring ∧
    (st453.part st453.ev.id).gangBefore = .stopped ∧
    st453.ctxs = [(0, (st453.ctxD 0))] ∧
    st453.partOf (st453.ctxD 0).kid = st453.ev.id ∧
    st453.stopMarked 0 = true) ∧
    ((st453.kernel? (st453.ctxD 0).kid).isSome = true ∧
    (st453.kernelD (st453.ctxD 0).kid).state ≠ .ended) := by decide +kernel

def st454 : State := we (wp (wc fun c => { c with switched := true }) fun p => { p with gang := .restoring }) { id := 0 }

theorem witness_GangSwitches_9 :
    (st454.part st454.ev.id).gang = .restoring ∧
    (st454.part st454.ev.id).gangBefore ≠ .stopped := by decide +kernel

def st455 : State := we (wp w fun p => { p with memory := [(0x10000000, 0x100000)] }) { id := 0 }

theorem witness_GangSwitches_10 :
    ((st455.part st455.ev.id).present = true ∧
    (st455.kernel? 0).isSome = true ∧
    (st455.kernelD 0).part = st455.ev.id) ∧
    (memLoad st455.glob 0x10000000 8 ≠ 0) := by decide +kernel

def st456 : State := we (wk w fun k => { k with cutSpace := true }) { id := 0 }

theorem witness_CutsAndRestores_1 :
    (st456.kernel? st456.ev.id).isSome = true ∧
    (st456.kernelD 0).state = .running ∧
    (st456.kernelD 0).cut = none ∧
    (st456.kernelD 0).cutSpace = true ∧
    st456.kernelRuns st456.ev.id = true := by decide +kernel

def st457 : State := we (wk w fun k => { k with cut := some { id := 4, by_ := none, recorded := [7] } }) { id := 0, idx := 0, slot := 0 }

theorem witness_CutsAndRestores_2 :
    (st457.kernel? st457.ev.id).isSome = true ∧
    (st457.kernelD 0).cut = some { id := 4, by_ := none, recorded := [7] } ∧
    st457.ev.idx < (st457.kernelD 0).tiles ∧
    st457.kernelRuns st457.ev.id = true ∧
    st457.taken = [] := by decide +kernel

def st458 : State := we (wk w fun k => { k with cut := some { id := 4, by_ := none } }) { id := 0, idx := 0, slot := 7 }

theorem witness_CutsAndRestores_3 :
    (st458.kernel? st458.ev.id).isSome = true ∧
    (st458.kernelD 0).cut = some { id := 4, by_ := none } ∧
    st458.ev.idx < (st458.kernelD 0).tiles ∧
    st458.ev.slot < 8 ∧
    st458.kernelRuns st458.ev.id = true ∧
    st458.taken = [] := by decide +kernel

def st459 : State := we (wk w fun k => { k with restoring := true, tiles := 5 }) { id := 0 }

theorem witness_CutsAndRestores_4 :
    (st459.kernel? st459.ev.id).isSome = true ∧
    (st459.kernelD 0).restoring = true ∧
    (st459.kernelD 0).state = .running ∧
    st459.gangRuns (st459.kernelD 0).part = true ∧
    (st459.terr st459.ev.id).length < (st459.kernelD 0).least := by decide +kernel

def st460 : State := we (wk w fun k => { k with restoring := true, lastCut := some { id := 4, by_ := none, complete := true, shard := { lts := [(0, { scratch := [⟨9, 1#8⟩] })], ctxs := [{ id := 3, pc := 0x100000040#64, g := Vector.replicate 32 6#64 }] } } }) { id := 0, flag := true }

theorem witness_CutsAndRestores_5 :
    ((st460.kernel? st460.ev.id).isSome = true ∧
    (st460.kernelD 0).restoring = true ∧
    (st460.kernelD 0).state = .running ∧
    st460.gangRuns (st460.kernelD 0).part = true ∧
    (st460.kernelD 0).least ≤ (st460.terr st460.ev.id).length) ∧
    (∀ l ∈ st460.ltsOf st460.ev.id, (st460.ltile l).tile ∈ st460.terr st460.ev.id) ∧
    (st460.ev.flag = true ∧
    (st460.kernelD 0).warp = false ∧
    (∀ e ∈ st460.lcores, e.2.afterCut = [] ∧
    e.2.heldIn = [] ∧
    e.2.colls = []) ∧
    st460.shardsMatch st460.ev.id ((st460.kernelD 0).lastCut.getD { id := 0, by_ := none }) = true) := by decide +kernel

def st461 : State := we { w with flits := [fl 0 0 0 4 (.ack 1 none)] } { id := 7 }

theorem witness_Routing_1 :
    (st461.flit? st461.ev.id = some (fl 0 0 0 4 (.ack 1 none))) ∧
    ((fl 0 0 0 4 (.ack 1 none)).crc ≠ (fl 0 0 0 4 (.ack 1 none)).check) := by decide +kernel

def st462 : State := we ({ w with flits := [fg { fl 0 0 0 4 (.ack 1 none) with hdr := mkHdr 63 0 0 0 0 0 4 false false 0, dst := none }], routes := [(63, 0x8000#16)] }.updPortLink 15 fun p => { p with state := .degraded, replay := List.replicate 64 [] }) { id := 7, idx := 15 }

theorem witness_Routing_2 :
    (st462.flit? st462.ev.id = some (fg { fl 0 0 0 4 (.ack 1 none) with hdr := mkHdr 63 0 0 0 0 0 4 false false 0, dst := none }) ∧
    (fg { fl 0 0 0 4 (.ack 1 none) with hdr := mkHdr 63 0 0 0 0 0 4 false false 0, dst := none }).good = true ∧
    st462.leasedOut (fg { fl 0 0 0 4 (.ack 1 none) with hdr := mkHdr 63 0 0 0 0 0 4 false false 0, dst := none }).at_ (st462.partOf (lcKid (fg { fl 0 0 0 4 (.ack 1 none) with hdr := mkHdr 63 0 0 0 0 0 4 false false 0, dst := none }).sender)) = false) ∧
    ((fg { fl 0 0 0 4 (.ack 1 none) with hdr := mkHdr 63 0 0 0 0 0 4 false false 0, dst := none }).dev ≠ st462.device.toNat ∧
    st462.ev.idx < 16 ∧
    st462.portFor (fg { fl 0 0 0 4 (.ack 1 none) with hdr := mkHdr 63 0 0 0 0 0 4 false false 0, dst := none }).dev st462.ev.idx = true) := by decide +kernel

def st463 : State := we { w with flits := [fg { fl 0 0 0 4 (.ack 1 none) with dst := none, at_ := 5 }] } { id := 7 }

theorem witness_Routing_3 :
    (st463.flit? st463.ev.id = some (fg { fl 0 0 0 4 (.ack 1 none) with dst := none, at_ := 5 }) ∧
    (fg { fl 0 0 0 4 (.ack 1 none) with dst := none, at_ := 5 }).good = true ∧
    st463.leasedOut (fg { fl 0 0 0 4 (.ack 1 none) with dst := none, at_ := 5 }).at_ (st463.partOf (lcKid (fg { fl 0 0 0 4 (.ack 1 none) with dst := none, at_ := 5 }).sender)) = false) ∧
    ((fg { fl 0 0 0 4 (.ack 1 none) with dst := none, at_ := 5 }).dev = st463.device.toNat ∧
    (fg { fl 0 0 0 4 (.ack 1 none) with dst := none, at_ := 5 }).dst = none ∧
    st463.locate (fg { fl 0 0 0 4 (.ack 1 none) with dst := none, at_ := 5 }) = some (0, 0, 0) ∧
    mget (ltKey (fg { fl 0 0 0 4 (.ack 1 none) with dst := none, at_ := 5 }).kid (fg { fl 0 0 0 4 (.ack 1 none) with dst := none, at_ := 5 }).lt) (st463.tile (fg { fl 0 0 0 4 (.ack 1 none) with dst := none, at_ := 5 }).at_).mapCache = none) := by decide +kernel

def st464 : State := we ({ w with flits := [fg { fl 0 0 0 4 (.ack 1 none) with dst := none, at_ := 5 }] }.updTile 5 fun x => { x with mapCache := [(0, 9, 1, 0)] }) { id := 7 }

theorem witness_Routing_4 :
    (st464.flit? st464.ev.id = some (fg { fl 0 0 0 4 (.ack 1 none) with dst := none, at_ := 5 }) ∧
    (fg { fl 0 0 0 4 (.ack 1 none) with dst := none, at_ := 5 }).good = true ∧
    st464.leasedOut (fg { fl 0 0 0 4 (.ack 1 none) with dst := none, at_ := 5 }).at_ (st464.partOf (lcKid (fg { fl 0 0 0 4 (.ack 1 none) with dst := none, at_ := 5 }).sender)) = false) ∧
    ((fg { fl 0 0 0 4 (.ack 1 none) with dst := none, at_ := 5 }).dev = st464.device.toNat ∧
    (fg { fl 0 0 0 4 (.ack 1 none) with dst := none, at_ := 5 }).dst = none ∧
    st464.locate (fg { fl 0 0 0 4 (.ack 1 none) with dst := none, at_ := 5 }) = some (0, 0, 0) ∧
    mget (ltKey (fg { fl 0 0 0 4 (.ack 1 none) with dst := none, at_ := 5 }).kid (fg { fl 0 0 0 4 (.ack 1 none) with dst := none, at_ := 5 }).lt) (st464.tile (fg { fl 0 0 0 4 (.ack 1 none) with dst := none, at_ := 5 }).at_).mapCache = some (9, 1, 0)) := by decide +kernel

def st465 : State := we { w with flits := [fg { fl 0 0 0 4 (.ack 1 none) with at_ := 1023 }] } { id := 7, idx := 4 }

theorem witness_Routing_5 :
    (st465.flit? st465.ev.id = some (fg { fl 0 0 0 4 (.ack 1 none) with at_ := 1023 }) ∧
    (fg { fl 0 0 0 4 (.ack 1 none) with at_ := 1023 }).good = true ∧
    st465.leasedOut (fg { fl 0 0 0 4 (.ack 1 none) with at_ := 1023 }).at_ (st465.partOf (lcKid (fg { fl 0 0 0 4 (.ack 1 none) with at_ := 1023 }).sender)) = false) ∧
    ((fg { fl 0 0 0 4 (.ack 1 none) with at_ := 1023 }).dev = st465.device.toNat ∧
    (fg { fl 0 0 0 4 (.ack 1 none) with at_ := 1023 }).dst = some (0, 0) ∧
    0 ≠ (fg { fl 0 0 0 4 (.ack 1 none) with at_ := 1023 }).at_ ∧
    neighbour (fg { fl 0 0 0 4 (.ack 1 none) with at_ := 1023 }).at_ st465.ev.idx = some 991 ∧
    (min (fg { fl 0 0 0 4 (.ack 1 none) with at_ := 1023 }).at_ 991, max (fg { fl 0 0 0 4 (.ack 1 none) with at_ := 1023 }).at_ 991) ∉ st465.deadLinks) := by decide +kernel

def st466 : State := we { w with flits := [fg { fl 0 0 0 4 (.ack 1 none) with at_ := 1023 }], deadLinks := [(991, 1023)] } { id := 7, idx := 4 }

theorem witness_Routing_6 :
    (st466.flit? st466.ev.id = some (fg { fl 0 0 0 4 (.ack 1 none) with at_ := 1023 }) ∧
    (fg { fl 0 0 0 4 (.ack 1 none) with at_ := 1023 }).good = true ∧
    st466.leasedOut (fg { fl 0 0 0 4 (.ack 1 none) with at_ := 1023 }).at_ (st466.partOf (lcKid (fg { fl 0 0 0 4 (.ack 1 none) with at_ := 1023 }).sender)) = false) ∧
    ((fg { fl 0 0 0 4 (.ack 1 none) with at_ := 1023 }).dev = st466.device.toNat ∧
    (fg { fl 0 0 0 4 (.ack 1 none) with at_ := 1023 }).dst = some (0, 0) ∧
    0 ≠ (fg { fl 0 0 0 4 (.ack 1 none) with at_ := 1023 }).at_ ∧
    neighbour (fg { fl 0 0 0 4 (.ack 1 none) with at_ := 1023 }).at_ st466.ev.idx = some 991 ∧
    (min (fg { fl 0 0 0 4 (.ack 1 none) with at_ := 1023 }).at_ 991, max (fg { fl 0 0 0 4 (.ack 1 none) with at_ := 1023 }).at_ 991) ∈ st466.deadLinks) := by decide +kernel

def st467 : State := we ({ w with flits := [fg { fl 0 0 0 4 (.ack 1 none) with at_ := 9, dst := some (9, 0) }] }.updTile 9 fun x => { x with stubs := [{ lt := 0 }] }) { id := 7 }

theorem witness_Routing_7 :
    (st467.flit? st467.ev.id = some (fg { fl 0 0 0 4 (.ack 1 none) with at_ := 9, dst := some (9, 0) }) ∧
    (fg { fl 0 0 0 4 (.ack 1 none) with at_ := 9, dst := some (9, 0) }).good = true ∧
    st467.leasedOut (fg { fl 0 0 0 4 (.ack 1 none) with at_ := 9, dst := some (9, 0) }).at_ (st467.partOf (lcKid (fg { fl 0 0 0 4 (.ack 1 none) with at_ := 9, dst := some (9, 0) }).sender)) = false) ∧
    ((fg { fl 0 0 0 4 (.ack 1 none) with at_ := 9, dst := some (9, 0) }).dev = st467.device.toNat ∧
    (fg { fl 0 0 0 4 (.ack 1 none) with at_ := 9, dst := some (9, 0) }).dst = some ((fg { fl 0 0 0 4 (.ack 1 none) with at_ := 9, dst := some (9, 0) }).at_, 0) ∧
    (fg { fl 0 0 0 4 (.ack 1 none) with at_ := 9, dst := some (9, 0) }).kind ≠ 9 ∧
    st467.locate (fg { fl 0 0 0 4 (.ack 1 none) with at_ := 9, dst := some (9, 0) }) = some (0, 0, 0) ∧
    0 ≠ (fg { fl 0 0 0 4 (.ack 1 none) with at_ := 9, dst := some (9, 0) }).at_) := by decide +kernel

def st468 : State := we { w with flits := [fg { fl 0 0 0 4 (.ack 1 none) with at_ := 9, dst := some (9, 0) }] } { id := 7 }

theorem witness_Routing_8 :
    (st468.flit? st468.ev.id = some (fg { fl 0 0 0 4 (.ack 1 none) with at_ := 9, dst := some (9, 0) }) ∧
    (fg { fl 0 0 0 4 (.ack 1 none) with at_ := 9, dst := some (9, 0) }).good = true ∧
    st468.leasedOut (fg { fl 0 0 0 4 (.ack 1 none) with at_ := 9, dst := some (9, 0) }).at_ (st468.partOf (lcKid (fg { fl 0 0 0 4 (.ack 1 none) with at_ := 9, dst := some (9, 0) }).sender)) = false) ∧
    ((fg { fl 0 0 0 4 (.ack 1 none) with at_ := 9, dst := some (9, 0) }).dev = st468.device.toNat ∧
    (fg { fl 0 0 0 4 (.ack 1 none) with at_ := 9, dst := some (9, 0) }).dst = some ((fg { fl 0 0 0 4 (.ack 1 none) with at_ := 9, dst := some (9, 0) }).at_, 0) ∧
    (fg { fl 0 0 0 4 (.ack 1 none) with at_ := 9, dst := some (9, 0) }).kind ≠ 9 ∧
    st468.locate (fg { fl 0 0 0 4 (.ack 1 none) with at_ := 9, dst := some (9, 0) }) = some (0, 0, 0) ∧
    0 ≠ (fg { fl 0 0 0 4 (.ack 1 none) with at_ := 9, dst := some (9, 0) }).at_ ∧
    (st468.tile (fg { fl 0 0 0 4 (.ack 1 none) with at_ := 9, dst := some (9, 0) }).at_).stubs = []) := by decide +kernel

def st469 : State := we (w.updTile 9 fun x => { x with stubs := [{ lt := 0, pending := [1023], fwd := true }] }) { id := 9, slot := 0, idx := 1023 }

theorem witness_Routing_9 :
    (st469.tile st469.ev.id).stubs = [{ lt := 0, pending := [1023], fwd := true }] ∧
    st469.staleAt st469.ev.idx st469.ev.slot = false := by decide +kernel

def st470 : State := we { w with flits := [{ fl 0 0 0 9 (.mapHint 0) with at_ := 9, dst := some (9, 0) }] } { id := 7 }

theorem witness_Routing_10 :
    st470.flit? st470.ev.id = some ({ fl 0 0 0 9 (.mapHint 0) with at_ := 9, dst := some (9, 0) }) ∧
    ({ fl 0 0 0 9 (.mapHint 0) with at_ := 9, dst := some (9, 0) }).dst = some (({ fl 0 0 0 9 (.mapHint 0) with at_ := 9, dst := some (9, 0) }).at_, 0) ∧
    mget 0 (st470.tile ({ fl 0 0 0 9 (.mapHint 0) with at_ := 9, dst := some (9, 0) }).at_).mapCache = none := by decide +kernel

def st471 : State := we (w.updTile 9 fun x => { x with stubs := [{ lt := 0, pending := [3, 1023] }] }) { id := 9, slot := 0, idx := 1023 }

theorem witness_Routing_11 :
    (st471.tile st471.ev.id).stubs = [{ lt := 0, pending := [3, 1023] }] ∧
    st471.staleAt st471.ev.idx st471.ev.slot = false ∧
    mget st471.ev.slot (st471.tile st471.ev.idx).mapCache = none := by decide +kernel

def st472 : State := we { w with flits := [fl 0 0 0 4 (.ack 1 none)] } { id := 0 }

theorem witness_Routing_12 :
    st472.ev.id < 1024 := by decide +kernel

def st473 : State := we w { id := 15, idx := 16 }

theorem witness_Routing_13 :
    st473.ev.id < 1024 ∧
    st473.ev.idx < 1024 ∧
    directionTo st473.ev.id st473.ev.idx ≠ 0 ∧
    dieOfTile st473.ev.id ≠ dieOfTile st473.ev.idx ∧
    (min st473.ev.id st473.ev.idx, max st473.ev.id st473.ev.idx) ∉ st473.deadLinks := by decide +kernel

def st474 : State := we { w with flits := [fg (fl 0 0 0 0 (.message {} none))] } { id := 7 }

theorem witness_Acceptance_1 :
    ((AtHome st474 (fg (fl 0 0 0 0 (.message {} none)))) ∧
    ((st474.rxOf (fg (fl 0 0 0 0 (.message {} none)))).has (fg (fl 0 0 0 0 (.message {} none))).chseq = false ∧
    (st474.rxOf (fg (fl 0 0 0 0 (.message {} none)))).ready (fg (fl 0 0 0 0 (.message {} none))).chseq = true)) ∧
    (WorkCarry (fg (fl 0 0 0 0 (.message {} none))).carry) ∧
    (OnlyCopy st474 (fg (fl 0 0 0 0 (.message {} none)))) := ⟨by decide +kernel, ⟨nofun, nofun, nofun, nofun, nofun⟩, only_copy (by decide +kernel) (by decide +kernel) (by decide +kernel) (by decide +kernel)⟩

def st475 : State := we { w with flits := [fg { fl 0 0 0 2 (.queueWord 0) with hdr := mkHdr 0 0 0 0 0 0 2 false false 5 }] } { id := 7 }

theorem witness_Acceptance_2 :
    ((AtHome st475 (fg { fl 0 0 0 2 (.queueWord 0) with hdr := mkHdr 0 0 0 0 0 0 2 false false 5 })) ∧
    ((st475.rxOf (fg { fl 0 0 0 2 (.queueWord 0) with hdr := mkHdr 0 0 0 0 0 0 2 false false 5 })).has (fg { fl 0 0 0 2 (.queueWord 0) with hdr := mkHdr 0 0 0 0 0 0 2 false false 5 }).chseq = false ∧
    (st475.rxOf (fg { fl 0 0 0 2 (.queueWord 0) with hdr := mkHdr 0 0 0 0 0 0 2 false false 5 })).ready (fg { fl 0 0 0 2 (.queueWord 0) with hdr := mkHdr 0 0 0 0 0 0 2 false false 5 }).chseq = false ∧
    1 < (fg { fl 0 0 0 2 (.queueWord 0) with hdr := mkHdr 0 0 0 0 0 0 2 false false 5 }).kind ∧
    (st475.lcore (fg { fl 0 0 0 2 (.queueWord 0) with hdr := mkHdr 0 0 0 0 0 0 2 false false 5 }).lck).reorder.length < 16)) ∧
    (WorkCarry (fg { fl 0 0 0 2 (.queueWord 0) with hdr := mkHdr 0 0 0 0 0 0 2 false false 5 }).carry) ∧
    (OnlyCopy st475 (fg { fl 0 0 0 2 (.queueWord 0) with hdr := mkHdr 0 0 0 0 0 0 2 false false 5 })) := ⟨by decide +kernel, ⟨nofun, nofun, nofun, nofun, nofun⟩, only_copy (by decide +kernel) (by decide +kernel) (by decide +kernel) (by decide +kernel)⟩

def st476 : State := we { w with flits := [fg { fl 0 0 0 2 (.queueWord 0) with hdr := mkHdr 0 0 0 0 0 0 2 false false 0xFFFF }] } { id := 7 }

theorem witness_Acceptance_3 :
    ((AtHome st476 (fg { fl 0 0 0 2 (.queueWord 0) with hdr := mkHdr 0 0 0 0 0 0 2 false false 0xFFFF })) ∧
    ((st476.rxOf (fg { fl 0 0 0 2 (.queueWord 0) with hdr := mkHdr 0 0 0 0 0 0 2 false false 0xFFFF })).has (fg { fl 0 0 0 2 (.queueWord 0) with hdr := mkHdr 0 0 0 0 0 0 2 false false 0xFFFF }).chseq = true)) ∧
    (OnlyCopy st476 (fg { fl 0 0 0 2 (.queueWord 0) with hdr := mkHdr 0 0 0 0 0 0 2 false false 0xFFFF })) := ⟨by decide +kernel, only_copy (by decide +kernel) (by decide +kernel) (by decide +kernel) (by decide +kernel)⟩

def st477 : State := we { wl w (fun l => { l with answers := [{ stream := streamFrom (fg { fl 0 0 7 3 (.access (.write [5#8]) 64 0 0) with hdr := mkHdr 0 0 0 0 0 7 3 false false 0xFFFF }), num := 0xFFFF#16, value := none, refused := true }] }) with flits := [fg { fl 0 0 7 3 (.access (.write [5#8]) 64 0 0) with hdr := mkHdr 0 0 0 0 0 7 3 false false 0xFFFF }] } { id := 7 }

theorem witness_Acceptance_4 :
    ((AtHome st477 ((fg { fl 0 0 7 3 (.access (.write [5#8]) 64 0 0) with hdr := mkHdr 0 0 0 0 0 7 3 false false 0xFFFF }))) ∧
    ((st477.rxOf ((fg { fl 0 0 7 3 (.access (.write [5#8]) 64 0 0) with hdr := mkHdr 0 0 0 0 0 7 3 false false 0xFFFF }))).has ((fg { fl 0 0 7 3 (.access (.write [5#8]) 64 0 0) with hdr := mkHdr 0 0 0 0 0 7 3 false false 0xFFFF })).chseq = true ∧
    (st477.lcore ((fg { fl 0 0 7 3 (.access (.write [5#8]) 64 0 0) with hdr := mkHdr 0 0 0 0 0 7 3 false false 0xFFFF })).lck).answers.map (·.refused) = [true])) ∧
    (WorkCarry ((fg { fl 0 0 7 3 (.access (.write [5#8]) 64 0 0) with hdr := mkHdr 0 0 0 0 0 7 3 false false 0xFFFF })).carry) ∧
    (OnlyCopy st477 ((fg { fl 0 0 7 3 (.access (.write [5#8]) 64 0 0) with hdr := mkHdr 0 0 0 0 0 7 3 false false 0xFFFF }))) := ⟨by decide +kernel, ⟨nofun, nofun, nofun, nofun, nofun⟩, only_copy (by decide +kernel) (by decide +kernel) (by decide +kernel) (by decide +kernel)⟩

def st478 : State := we { wl w (fun l => { l with answers := [{ stream := streamFrom (fg { fl 0 0 7 3 (.access (.write [5#8]) 64 0 0) with hdr := mkHdr 0 0 0 0 0 7 3 false false 0xFFFF }), num := 0xFFFF#16, value := none, refused := false }] }) with flits := [fg { fl 0 0 7 3 (.access (.write [5#8]) 64 0 0) with hdr := mkHdr 0 0 0 0 0 7 3 false false 0xFFFF }] } { id := 7 }

theorem witness_Acceptance_5 :
    ((AtHome st478 ((fg { fl 0 0 7 3 (.access (.write [5#8]) 64 0 0) with hdr := mkHdr 0 0 0 0 0 7 3 false false 0xFFFF }))) ∧
    ((st478.rxOf ((fg { fl 0 0 7 3 (.access (.write [5#8]) 64 0 0) with hdr := mkHdr 0 0 0 0 0 7 3 false false 0xFFFF }))).has ((fg { fl 0 0 7 3 (.access (.write [5#8]) 64 0 0) with hdr := mkHdr 0 0 0 0 0 7 3 false false 0xFFFF })).chseq = true ∧
    (st478.lcore ((fg { fl 0 0 7 3 (.access (.write [5#8]) 64 0 0) with hdr := mkHdr 0 0 0 0 0 7 3 false false 0xFFFF })).lck).answers.map (·.refused) = [false])) ∧
    (WorkCarry ((fg { fl 0 0 7 3 (.access (.write [5#8]) 64 0 0) with hdr := mkHdr 0 0 0 0 0 7 3 false false 0xFFFF })).carry) ∧
    (OnlyCopy st478 ((fg { fl 0 0 7 3 (.access (.write [5#8]) 64 0 0) with hdr := mkHdr 0 0 0 0 0 7 3 false false 0xFFFF }))) := ⟨by decide +kernel, ⟨nofun, nofun, nofun, nofun, nofun⟩, only_copy (by decide +kernel) (by decide +kernel) (by decide +kernel) (by decide +kernel)⟩

def st479 : State := we { wl w (fun l => { l with answers := [{ stream := streamFrom (fg { fl 0 0 0 6 (.codelet 64 none) with hdr := mkHdr 0 0 0 0 0 0 6 false false 0xFFFF }), num := 0xFFFF#16, value := none, refused := true }] }) with flits := [fg { fl 0 0 0 6 (.codelet 64 none) with hdr := mkHdr 0 0 0 0 0 0 6 false false 0xFFFF }] } { id := 7 }

theorem witness_Acceptance_6 :
    ((AtHome st479 ((fg { fl 0 0 0 6 (.codelet 64 none) with hdr := mkHdr 0 0 0 0 0 0 6 false false 0xFFFF }))) ∧
    ((st479.rxOf ((fg { fl 0 0 0 6 (.codelet 64 none) with hdr := mkHdr 0 0 0 0 0 0 6 false false 0xFFFF }))).has ((fg { fl 0 0 0 6 (.codelet 64 none) with hdr := mkHdr 0 0 0 0 0 0 6 false false 0xFFFF })).chseq = true ∧
    (st479.lcore ((fg { fl 0 0 0 6 (.codelet 64 none) with hdr := mkHdr 0 0 0 0 0 0 6 false false 0xFFFF })).lck).answers.map (·.refused) = [true])) ∧
    (WorkCarry ((fg { fl 0 0 0 6 (.codelet 64 none) with hdr := mkHdr 0 0 0 0 0 0 6 false false 0xFFFF })).carry) ∧
    (OnlyCopy st479 ((fg { fl 0 0 0 6 (.codelet 64 none) with hdr := mkHdr 0 0 0 0 0 0 6 false false 0xFFFF }))) := ⟨by decide +kernel, ⟨nofun, nofun, nofun, nofun, nofun⟩, only_copy (by decide +kernel) (by decide +kernel) (by decide +kernel) (by decide +kernel)⟩

def st480 : State := we { wl w (fun l => { l with retx := (List.range 65).map fun n => { fl 0 0 0 0 (.message {} none) with fid := 100 + n } }) with tbase := 44, flits := [fg (fl 0 0 0 4 (.ack 103 none))] } { id := 7 }

theorem witness_Acceptance_7 :
    (AtHome st480 (fg (fl 0 0 0 4 (.ack 103 none)))) ∧
    (((st480.lcore (fg (fl 0 0 0 4 (.ack 103 none))).lck).retx.find? (fun g => g.fid = 103)).map (·.issuer) = some .none) ∧
    (((st480.lcore (fg (fl 0 0 0 4 (.ack 103 none))).lck).retx.map fun x => x.fid).Nodup) ∧
    (((st480.lcore (fg (fl 0 0 0 4 (.ack 103 none))).lck).retx.take 64).any (fun g => g.fid = 103) = true ∧
    (st480.lcore (fg (fl 0 0 0 4 (.ack 103 none))).lck).retx[64]?.map (·.fid) = some 164) := by decide +kernel

def st481 : State := we { wl w (fun l => { l with retx := [{ fl 0 0 0 0 (.message {} none) with fid := 3 }] }) with flits := [fg (fl 0 0 0 4 (.ack 3 none))] } { id := 7 }

theorem witness_Acceptance_8 :
    (AtHome st481 (fg (fl 0 0 0 4 (.ack 3 none)))) ∧
    (((st481.lcore (fg (fl 0 0 0 4 (.ack 3 none))).lck).retx.find? (fun g => g.fid = 3)).map (·.issuer) = some .none) := by decide +kernel

def st482 : State := we { w with flits := [fg (fl 0 0 0 4 (.ack 3 none))] } { id := 7 }

theorem witness_Acceptance_9 :
    (AtHome st482 (fg (fl 0 0 0 4 (.ack 3 none)))) ∧
    (∀ o ∈ (st482.lcore (fg (fl 0 0 0 4 (.ack 3 none))).lck).retx, o.fid ≠ 3) := by decide +kernel

def st483 : State := we { wl w (fun l => { l with retx := [{ fl 0 0 0 0 (.message {} none) with fid := 3, sentAt := 5 }] }) with tbase := 2005 } { id := 0, idx := 3 }

theorem witness_Acceptance_10 :
    (((st483.lcore st483.ev.id).retx.take 64).find? (fun g => g.fid = st483.ev.idx)).map (·.sentAt) = some 5 ∧
    5 + 2000 ≤ st483.tbase ∧
    st483.kernelRuns (lcKid st483.ev.id) = true := by decide +kernel

def st484 : State := we { wl w (fun l => { l with retx := [{ fl 0 0 0 0 (.message {} none) with fid := 3, sentAt := 5 }] }) with tbase := 2004 } { id := 0, idx := 3 }

theorem witness_Acceptance_11 :
    (((st484.lcore st484.ev.id).retx.take 64).find? (fun g => g.fid = st484.ev.idx)).map (·.sentAt) = some 5 ∧
    st484.tbase < 5 + 2000 := by decide +kernel

def st485 : State := we (w.updPortLink 0 fun p => { p with state := .up }) { id := 0, idx := 1023, flits := beatOf (fg { fl 0 0 0 4 (.ack 3 none) with src := srcWord 0 63 0 0 0 0 0 }) }

theorem witness_DeviceLinks_1 :
    (st485.ports.toList[st485.ev.id]?).map (·.state) = some .up ∧
    st485.ev.idx < 1024 ∧
    st485.ev.flits = beatOf ((fg { fl 0 0 0 4 (.ack 3 none) with src := srcWord 0 63 0 0 0 0 0 })) ∧
    st485.ev.flag = false ∧
    ((fg { fl 0 0 0 4 (.ack 3 none) with src := srcWord 0 63 0 0 0 0 0 })).good = true ∧
    ((fg { fl 0 0 0 4 (.ack 3 none) with src := srcWord 0 63 0 0 0 0 0 })).carry.fits ((fg { fl 0 0 0 4 (.ack 3 none) with src := srcWord 0 63 0 0 0 0 0 })).kind = true := by decide +kernel

def st486 : State := we (w.updPortLink 0 fun p => { p with state := .up }) { id := 0, idx := 1023, flits := beatOf (fl 0 0 0 4 (.ack 3 none)) }

theorem witness_DeviceLinks_2 :
    (st486.ports.toList[st486.ev.id]?).map (·.state) = some .up ∧
    st486.ev.idx < 1024 ∧
    st486.ev.flits = beatOf (fl 0 0 0 4 (.ack 3 none)) ∧
    st486.ev.flag = false ∧
    (fl 0 0 0 4 (.ack 3 none)).good = false := by decide +kernel

def st487 : State := we (w.updPortLink 15 fun p => { p with state := .degraded }) { id := 15, idx := 1023, flits := beatOf (fg { fl 0 0 0 4 (.ack 3 none) with src := srcWord 0 63 0 0 0 0 0 }), flag := true }

theorem witness_DeviceLinks_3 :
    (st487.ports.toList[st487.ev.id]?).map (·.state) = some .degraded ∧
    st487.ev.idx < 1024 ∧
    st487.ev.flits.length = 4 ∧
    st487.ev.flag = true := by decide +kernel

def st488 : State := we (w.updPortLink 15 fun p => { p with state := .degraded, replay := [[], [fl 0 0 0 4 (.ack 3 none)]] }) { id := 15, idx := 1 }

theorem witness_DeviceLinks_4 :
    (st488.ports.toList[st488.ev.id]?).map (·.state) = some .degraded ∧
    st488.ev.idx < 2 := by decide +kernel

def st489 : State := we w { id := 15 }

theorem witness_DeviceLinks_5 :
    (st489.ports.toList[st489.ev.id]?).map (·.state) = some .down := by decide +kernel

def st490 : State := we ({ w with tbase := 99999999 }.updPortLink 15 fun p => { p with state := .train }) { id := 15, idx := 4 }

theorem witness_DeviceLinks_6 :
    (st490.ports.toList[st490.ev.id]?).map (·.state) = some .train ∧
    st490.tbase < 0 + 100000000 ∧
    st490.ev.idx = 4 := by decide +kernel

def st491 : State := we ({ w with tbase := 99999999 }.updPortLink 15 fun p => { p with state := .train }) { id := 15, idx := 3 }

theorem witness_DeviceLinks_7 :
    (st491.ports.toList[st491.ev.id]?).map (·.state) = some .train ∧
    st491.tbase < 0 + 100000000 ∧
    st491.ev.idx = 3 := by decide +kernel

def st492 : State := we ({ w with tbase := 99999999 }.updPortLink 15 fun p => { p with state := .train }) { id := 15, idx := 1 }

theorem witness_DeviceLinks_8 :
    (st492.ports.toList[st492.ev.id]?).map (·.state) = some .train ∧
    st492.tbase < 0 + 100000000 ∧
    st492.ev.idx < 2 := by decide +kernel

def st493 : State := we ({ w with tbase := 100000000 }.updPortLink 15 fun p => { p with state := .train }) { id := 15 }

theorem witness_DeviceLinks_9 :
    (st493.ports.toList[st493.ev.id]?).map (·.state) = some .train ∧
    0 + 100000000 ≤ st493.tbase := by decide +kernel

def st494 : State := we ({ w with tbase := 5 }.updPortLink 15 fun p => { p with state := .up, replays := List.replicate 17 0 }) { id := 15 }

theorem witness_DeviceLinks_10 :
    (st494.ports.toList[st494.ev.id]?).map (fun p => (p.state, (p.replays.filter fun a => decide (st494.tbase < a + 1000000)).length)) = some (.up, 17) := by decide +kernel

def st495 : State := we (w.updPortLink 15 fun p => { p with state := .up }) { id := 15 }

theorem witness_DeviceLinks_11 :
    (st495.ports.toList[st495.ev.id]?).map (·.state) = some .up := by decide +kernel

theorem witness_DeviceLinks_12 :
    (st495.ports.toList[st495.ev.id]?).isSome = true := by decide +kernel

def st497 : State := we { w with dram := memStore [] (2^40+65) 1 9, hostSide := { w.hostSide with ready := true, hdmBase := 2^40, hdmLimit := 2^40 + 0x1000 } } { id := 2^40+64, idx := 64 }

theorem witness_DeviceLinks_13 :
    st497.hostSide.ready = true ∧
    st497.ev.idx ≤ 64 ∧
    st497.hdmOk st497.ev.id st497.ev.idx = true := by decide +kernel

def st498 : State := we { w with hostSide := { w.hostSide with ready := true, hdmBase := 2^40, hdmLimit := 2^40 + 0x1000 } } { id := 2^40+64, bytes := [1#8, 2#8] }

theorem witness_DeviceLinks_14 :
    st498.hostSide.ready = true ∧
    st498.ev.bytes.length ≤ 64 ∧
    st498.hdmOk st498.ev.id st498.ev.bytes.length = true := by decide +kernel

def st499 : State := we w { id := 64, idx := 8 }

theorem witness_DeviceLinks_15 :
    st499.hostSide.ready = false := by decide +kernel

def st500 : State := we { w with tbase := 600, clocks := [(8239, { t := 0xFFFFFFFFFFFF#48 })] } { id := 8239 }

theorem witness_ClocksAndLeases_1 :
    st500.ev.id < 8240 ∧
    mget st500.ev.id st500.clocks = some { t := 0xFFFFFFFFFFFF#48 } := by decide +kernel

def st501 : State := we { w with tbase := 600, clocks := [(7, { t := 9#48, stopped := true })] } { id := 7 }

theorem witness_ClocksAndLeases_2 :
    st501.ev.id < 8240 ∧
    mget st501.ev.id st501.clocks = some { t := 9#48, stopped := true } := by decide +kernel

def st502 : State := we { w with times := [(2 ^ 46, 5#48, 0x20000000000#48)], homes := [(4, 0x20000000000#48, 7#48)] } { id := 4 }

theorem witness_ClocksAndLeases_3 :
    (st502.home st502.ev.id).1 = 0x20000000000#48 ∧
    homeKey (2 ^ 46) = st502.ev.id ∧
    homeKey (2 ^ 46 + 1) = st502.ev.id ∧
    homeKey 5 ≠ st502.ev.id := by decide +kernel

def st503 : State := we { w with tbase := 600 } { id := 0 }

theorem witness_ClocksAndLeases_4 :
    st503.ev.id < 8240 ∧
    (st503.clock st503.ev.id).stopped = false ∧
    st503.ctx? 0 = some (st503.ctxD 0) ∧
    st503.coreNo (st503.ctxD 0) = st503.ev.id := by decide +kernel

def st504 : State := we { w with tbase := 600, clocks := [(8191, { t := 9#48, stopped := true, tickAt := 88 })] } { id := 8191 }

theorem witness_ClocksAndLeases_5 :
    st504.ev.id < 8192 ∧
    (st504.clock st504.ev.id).stopped = true ∧
    (st504.clock st504.ev.id).tickAt < 256 := by decide +kernel

def st505 : State := we ({ w with tempLimit := 90 }.updDie 3 fun x => { x with mhz := 600 }) { id := 3, w0 := 91 }

theorem witness_ClocksAndLeases_6 :
    st505.ev.id < 4 ∧
    600 ≤ (st505.die st505.ev.id).mhz ∧
    st505.tempLimit < st505.ev.w0.toNat := by decide +kernel

def st506 : State := we (w.updDie 3 fun x => { x with mhz := 500 }) { id := 3, w0 := 91 }

theorem witness_ClocksAndLeases_7 :
    st506.ev.id < 4 ∧ (st506.die st506.ev.id).mhz < 600 := by decide +kernel

def st507 : State := we { w with tempLimit := 90 } { id := 3, w0 := 90 }

theorem witness_ClocksAndLeases_8 :
    st507.ev.id < 4 ∧ st507.ev.w0.toNat ≤ st507.tempLimit := by decide +kernel

def st508 : State := we (({ w with tbase := 100 }.updTile 6 fun x => { x with leased := some (1, 100) }).updTile 7 fun x => { x with leased := some (0, 170) }) { id := 0, picks := [5, 6, 7], w0 := 50 }

theorem witness_ClocksAndLeases_9 :
    (st508.part st508.ev.id).present = true ∧
    st508.ev.picks = [5, 6, 7] ∧
    (st508.tile 5).leased = none ∧
    (st508.tile 6).leased = some (1, 100) ∧
    (st508.tile 7).leased = some (0, 170) ∧
    100 ≤ st508.tbase := by decide +kernel

def st509 : State := we ({ w with tbase := 100 }.updTile 6 fun x => { x with leased := some (1, 101) }) { id := 0, picks := [5, 6], w0 := 50 }

theorem witness_ClocksAndLeases_10 :
    (st509.part st509.ev.id).present = true ∧
    (6 : Nat) ∈ st509.ev.picks ∧
    (st509.tile 6).leased = some (1, 101) ∧
    1 ≠ st509.ev.id ∧
    st509.tbase < 101 := by decide +kernel

def st510 : State := we { ((wp w fun p => { p with leases := [([5], 150), ([6], 151)] }).updTile 5 (fun x => { x with leased := some (0, 150) })).updTile 6 (fun x => { x with leased := some (0, 151) }) with tbase := 150 } { id := 0 }

theorem witness_ClocksAndLeases_11 :
    (st510.tile 5).leased = some (st510.ev.id, 150) ∧
    150 ≤ st510.tbase ∧
    (st510.tile 6).leased = some (st510.ev.id, 151) := by decide +kernel

def st511 : State := we { w with rom := (sha384 [], sha384 []) } { image := { selfTest := true, fetched := true, format := true, rsa := true, slhDsa := true, version := 7#16, parts := List.replicate 16 { quota := 9, root := 4096, qbase := 0x400000, memory := [], l2Quota := [1, 2, 3], rdcQuota := [] } } }

theorem witness_ManagementEvents_1 :
    (((st511.ev.image).selfTest = true ∧
    (st511.ev.image).fetched = true ∧
    (st511.ev.image).format = true ∧
    PartsFit (st511.ev.image) ∧
    (st511.ev.image).rsa = true ∧
    (st511.ev.image).slhDsa = true)) ∧
    ((st511.ev.image).keysMatch st511.rom = true) := ⟨by decide +kernel, keys_ok rfl rfl⟩

def st512 : State := we { w with rom := (sha384 [], sha384 []) } { image := { selfTest := true, fetched := true, format := true, rsa := true, parts := [{ quota := 9, root := 4096, qbase := 0x400000, memory := [], l2Quota := [1, 2, 3], rdcQuota := [] }] } }

theorem witness_ManagementEvents_2 :
    (((st512.ev.image).selfTest = true ∧
    (st512.ev.image).fetched = true ∧
    (st512.ev.image).format = true ∧
    PartsFit (st512.ev.image) ∧
    (st512.ev.image).rsa = true ∧
    (st512.ev.image).slhDsa = false)) ∧
    ((st512.ev.image).keysMatch st512.rom = true) := ⟨by decide +kernel, keys_ok rfl rfl⟩

def st513 : State := we w { image := { selfTest := true, fetched := true, format := true, parts := [{ quota := 9, root := 4096, qbase := 0x300000, memory := [], l2Quota := [1, 2, 3], rdcQuota := [] }] } }

theorem witness_ManagementEvents_3 :
    (st513.ev.image).selfTest = true ∧
    (st513.ev.image).fetched = true ∧
    (st513.ev.image).format = true ∧
    ¬PartsFit (st513.ev.image) := by decide +kernel

def st514 : State := we w { image := {} }

theorem witness_ManagementEvents_4 :
    st514.ev.image.selfTest = false := by decide +kernel

def st515 : State := we { w with hostSide := { w.hostSide with ready := true, version := 0x102#16 } } { bytes := List.replicate 32 3#8 }

theorem witness_ManagementEvents_5 :
    st515.hostSide.ready = true ∧ st515.ev.bytes.length = 32 := by decide +kernel

def st516 : State := we { (wc fun c => { c with held := some { instr := .trap 3 4, sample := 0#4, stage := 1 }, run := .parked, wait := .answer }) with resident := [{ part := 0, item := {}, ctx := some 0 }] } { idx := 0, fw := { value := 8 } }

theorem witness_ManagementEvents_6 :
    (st516.resident[st516.ev.idx]?).map (·.ctx) = some (some 0) ∧
    (st516.resident[st516.ev.idx]?).map (·.notice) = some false ∧
    st516.gangRuns 0 = true ∧
    st516.ctx? 0 = some (st516.ctxD 0) ∧
    (st516.ctxD 0).held.isSome = true := by decide +kernel

def st517 : State := we { w with resident := [{ part := 0, item := { p3 := 15 }, ctx := none }] } { idx := 0 }

theorem witness_ManagementEvents_7 :
    (st517.resident[st517.ev.idx]?).map (fun r => (r.ctx, bits r.item.p3 0 4)) = some (none, 15) ∧
    st517.gangRuns 0 = true := by decide +kernel

def st518 : State := we { w with resident := [{ part := 0, item := { p3 := 3, src := srcWord 0 5 7 0 0 2 9 }, ctx := none }] } { idx := 0, answers := [(0, 21)] }

theorem witness_ManagementEvents_8 :
    (st518.resident[st518.ev.idx]?).map (fun r => (r.ctx, r.notice, bits r.item.p3 0 4)) = some (none, false, 3) ∧
    st518.gangRuns 0 = true ∧
    (st518.lcore (lcKey 63 0 0)).retx.length < 64 := by decide +kernel

def st519 : State := we { wtrap w with resident := [{ part := 0, item := { p3 := 0x80000005 }, ctx := some 1, notice := true }] } { idx := 0, fw := { accept := true, value := 0x100000040 } }

theorem witness_ManagementEvents_9 :
    (st519.resident[st519.ev.idx]?).map (fun r => (r.ctx, r.notice, r.item.p3)) = some (some 1, true, 0x80000005) ∧
    st519.gangRuns 0 = true ∧
    (st519.ctxD 1).run = .trapped ∧
    (st519.ctxD 1).trapHandle = 0x80000005 := by decide +kernel

def st520 : State := we { w with hostSide := { w.hostSide with ready := true } } { fwreg := .borderConfig 3, w0 := 0x8000020000000000#64 }

theorem witness_ManagementEvents_10 :
    st520.hostSide.ready = true ∧ st520.ev.fwreg = .borderConfig 3 := by decide +kernel

def st521 : State := we { w with hostSide := { w.hostSide with ready := true } } { fwreg := .phaseLength, w0 := 9 }

theorem witness_ManagementEvents_11 :
    st521.hostSide.ready = true ∧ st521.ev.fwreg = .phaseLength := by decide +kernel

def st522 : State := we { w with hostSide := { w.hostSide with ready := true } } { fwreg := .claim 0, w0 := 0x1FFFF }

theorem witness_ManagementEvents_12 :
    st522.hostSide.ready = true ∧
    st522.ev.fwreg = .claim 0 ∧
    (st522.kernel? 0).isSome = true := by decide +kernel

def st523 : State := we { w.updCtrl 11 (fun x => { x with wins := x.wins.set 15 { err := 7#3 } }) with hostSide := { w.hostSide with ready := true } } { fwreg := .winErr 11 15, w0 := 5 }

theorem witness_ManagementEvents_13 :
    st523.hostSide.ready = true ∧
    st523.ev.fwreg = .winErr 11 15 ∧
    (st523.ctrl 11).wins.toList[15]? = some { err := 7#3 } := by decide +kernel

def st524 : State := we { w with kernels := [], hostSide := { w.hostSide with ready := true } } { fwreg := .qbase 0, w0 := BitVec.ofNat 64 (2^56 - 2^21) }

theorem witness_ManagementEvents_14 :
    st524.hostSide.ready = true ∧
    st524.ev.fwreg = .qbase 0 ∧
    (st524.part 0).present = true ∧
    st524.ev.w0.toNat % 2 ^ 21 = 0 ∧
    st524.ev.w0.toNat ≤ 2 ^ 56 - 2 ^ 21 ∧
    st524.kernels = [] := by decide +kernel

def st525 : State := we { w with hostSide := { w.hostSide with ready := true } } { fwreg := .root 0, w0 := 0x3800 }

theorem witness_ManagementEvents_15 :
    st525.hostSide.ready = true ∧
    st525.ev.fwreg = .root 0 ∧
    (st525.part 0).present = true ∧
    st525.ev.w0.toNat % 2048 = 0 := by decide +kernel

def st526 : State := we { w with hostSide := { w.hostSide with ready := true } } { fwreg := .debugAgent 0, w0 := 3 }

theorem witness_ManagementEvents_16 :
    st526.hostSide.ready = true ∧
    st526.ev.fwreg = .debugAgent 0 ∧
    (st526.part 0).present = true := by decide +kernel

def st527 : State := we { w with hostSide := { w.hostSide with ready := true } } { fwreg := .route 63, w0 := 0x18000 }

theorem witness_ManagementEvents_17 :
    st527.hostSide.ready = true ∧ st527.ev.fwreg = .route 63 := by decide +kernel

def st528 : State := we w { fwreg := .phaseLength, w0 := 9, bytes := List.replicate 32 3#8 }

theorem witness_ManagementEvents_18 :
    st528.hostSide.ready = false ∧ st528.ev.bytes.length = 32 := by decide +kernel

theorem witness_StepRunsDecoded_1 :
    (st0.sched = [] ∧
    st0.cur = some 0 ∧
    (st0.passTime 1).issues 0 = true) ∧
    ((st0.ctxD 0).held = none) := by decide +kernel

def st530 : State := { w with glob := memStore w.glob 0x40000000 4 0x00240908 }

theorem witness_StepRunsDecoded_2 :
    (st530.ctx? 0 = some (st530.ctxD 0) ∧
    (st530.ctxD 0).shipped = none ∧
    (st530.ctxD 0).pc.toNat % 4 = 0 ∧
    2 ^ 20 ≤ (st530.ctxD 0).pc.toNat ∧
    (st530.ctxD 0).pc.toNat < 2 ^ 56 ∧
    st530.ev.fetchErr = none) ∧
    ((st530.xlate (st530.partOf (st530.ctxD 0).kid) (st530.xlUnit (st530.ctxD 0)) true (st530.coreNo (st530.ctxD 0)) (st530.ctxD 0).pc.toNat aFetch).1 = .ok 0x40000000 false) ∧
    (shipTarget (st530.ctxD 0) 0x40000000 = none ∧
    apertureCtrl 0x40000000 = none ∧
    (∀ e ∈ (st530.ctxD 0).oldWords, e.1 ≠ 0x40000000)) ∧
    (findLease (lineOf 0x40000000) (mgetD [] (st530.coreNo (st530.ctxD 0)) st530.copies) = none ∧
    findLease (lineOf 0x40000000) (mgetD [] (dieOfCore (st530.coreNo (st530.ctxD 0))) st530.rdcs) = none ∧
    memLoad st530.glob 0x40000000 4 % 4 = 0) := by decide +kernel

def st531 : State := { w with sched := [{ dt := 0, who := .event .sweep {} }] }

theorem witness_StepRunsDecoded_3 :
    st531.sched = [{ dt := 0, who := .event .sweep {} }] ∧ encode .sweep = [] := by decide +kernel

def st532 : State := { wmu (mr 0x3 0 0 0) [] with sched := [{ dt := 5, who := .unit 0 false }] }

theorem witness_StepRunsDecoded_4 :
    st532.sched = [{ dt := 5, who := .unit 0 false }] ∧
    unitCommand (({ st532 with sched := [] } : State).passTime 5) 0 = some .mzero := by decide +kernel

def st533 : State := wc fun c => { c with run := .parked }

theorem witness_StepRunsDecoded_5 :
    st533.sched = [] ∧ st533.cur = some 0 ∧ (st533.passTime 1).issues 0 = false := by decide +kernel

def st534 : State := State.reset

theorem witness_StepRunsDecoded_6 :
    st534.sched = [] ∧ st534.cur = none := by decide +kernel

theorem witness_CurrentStrandMayIssue_1 :
    Safety.curIssues st11 = true := by decide +kernel

def st536 : State := wt w fun x => { x with scratch := memPut [] 64 [1,2] }

theorem witness_MemoriesStayCanonical_1 :
    Safety.memoriesWf st536 = true := by decide +kernel

theorem witness_DecodeEncode_1 :
    WellFormed (.addi 9 3 1) = true ∧ encode (.addi 9 3 1) ≠ [] := by decide +kernel


end Sys2Proof.Tests
end

section
/-! Integer register operations (R107-R112): what each result function of the model gives, in the words of the rules. -/

namespace Sys2Proof.Laws

open Sys2Proof Sys2Proof.Machine

/-! ### Comparisons and selections (R107) -/

theorem selVal_eq (d a b : Word) : selVal d a b = if d ≠ 0#64 then a else b := by
  rw [selVal, ite_not]
theorem minS_eq (a b : Word) : minS a b = if a.toInt ≤ b.toInt then a else b := by
  simp only [minS, BitVec.slt_iff_toInt_lt, ← Int.not_le, ite_not]
/-- The model tests a < b where the rule tests a ≤ b: on equal operands either choice is the same word. -/
theorem maxS_eq (a b : Word) : maxS a b = if a.toInt ≤ b.toInt then b else a := by
  simp only [maxS, BitVec.slt_iff_toInt_lt]
  rcases Int.lt_trichotomy a.toInt b.toInt with h | h | h
  · rw [if_pos h, if_pos h.le]
  · rw [if_neg h.not_lt, if_pos h.le, BitVec.toInt_inj.mp h]
  · rw [if_neg h.le.not_gt, if_neg h.not_ge]
theorem minU_eq (a b : Word) : minU a b = if a.toNat ≤ b.toNat then a else b := by
  simp only [minU, BitVec.ult_iff_lt, BitVec.lt_def, ← Nat.not_le, ite_not]
theorem maxU_eq (a b : Word) : maxU a b = if a.toNat ≤ b.toNat then b else a := by
  simp only [maxU, BitVec.ult_iff_lt, BitVec.lt_def]
  rcases Nat.lt_trichotomy a.toNat b.toNat with h | h | h
  · rw [if_pos h, if_pos h.le]
  · rw [if_neg h.not_lt, if_pos h.le, BitVec.toNat_inj.mp h]
  · rw [if_neg h.le.not_gt, if_neg h.not_ge]
theorem boolWord_slt (a b : Word) : boolWord (a.slt b) = if a.toInt < b.toInt then 1#64 else 0#64 := by
  simp only [boolWord, BitVec.slt_iff_toInt_lt]
theorem boolWord_ult (a b : Word) : boolWord (a.ult b) = if a.toNat < b.toNat then 1#64 else 0#64 := by
  simp only [boolWord, BitVec.ult_iff_lt, BitVec.lt_def]
theorem boolWord_eq (a b : Word) : boolWord (a = b) = if a = b then 1#64 else 0#64 := by
  simp only [boolWord, decide_eq_true_eq]

/-! ### Shifts (R108) -/

theorem bits_zero_six (w : Word) : bits w 0 6 = w.toNat % 64 := by
  simp [bits]
theorem shlVal_eq (a b : Word) : shlVal a b = a <<< (b.toNat % 64) := by rw [shlVal, bits_zero_six]
theorem shrVal_eq (a b : Word) : shrVal a b = a >>> (b.toNat % 64) := by rw [shrVal, bits_zero_six]
theorem sraVal_eq (a b : Word) : sraVal a b = a.sshiftRight (b.toNat % 64) := by rw [sraVal, bits_zero_six]
theorem rotrVal_eq (a b : Word) : rotrVal a b = (a >>> (b.toNat % 64)) ||| (a <<< (64 - b.toNat % 64)) := by
  rw [rotrVal, bits_zero_six, BitVec.rotateRight_def, Nat.mod_mod]

/-! ### Products (R109) -/

/-- A field of a number's word is the number's quotient, cut to the field. -/
theorem extract_ofNat {w s k : Nat} (n : Nat) (h : s + k ≤ w) :
    (BitVec.ofNat w n).extractLsb' s k = BitVec.ofNat k (n / 2 ^ s) := by
  apply BitVec.eq_of_getLsbD_eq
  intro i hi
  have hw : s + i < w := by omega
  simp only [BitVec.getLsbD_extractLsb', BitVec.getLsbD_ofNat, Nat.testBit_div_two_pow, hi, hw, Nat.add_comm i s, decide_true,
    Bool.true_and]
/-- Bits 127:64 of an integer's two's complement form. -/
theorem extract_high_ofInt (z : Int) : (BitVec.ofInt 128 z).extractLsb' 64 64 = BitVec.ofInt 64 (z / 2 ^ 64) := by
  apply BitVec.eq_of_toNat_eq
  simp only [BitVec.extractLsb'_toNat, BitVec.toNat_ofInt, Nat.shiftRight_eq_div_pow]
  omega
theorem mul_eq_low_half (a b : Word) : a * b = (a.setWidth 128 * b.setWidth 128).extractLsb' 0 64 := by
  apply BitVec.eq_of_toNat_eq
  simp
theorem mulhVal_eq (a b : Word) : mulhVal a b = (a.signExtend 128 * b.signExtend 128).extractLsb' 64 64 := by
  have hprod : a.signExtend 128 * b.signExtend 128 = BitVec.ofInt 128 (a.toInt * b.toInt) := (BitVec.ofInt_mul ..).symm
  rw [hprod, extract_high_ofInt, mulhVal]
theorem mulhuVal_eq (a b : Word) : mulhuVal a b = (a.setWidth 128 * b.setWidth 128).extractLsb' 64 64 := by
  have hprod : a.setWidth 128 * b.setWidth 128 = BitVec.ofNat 128 (a.toNat * b.toNat) := by
    rw [BitVec.ofNat_mul, BitVec.ofNat_toNat, BitVec.ofNat_toNat]
  rw [hprod, extract_ofNat _ (by decide), mulhuVal, w64]

/-! ### Quotients and remainders (R110) -/

/-- The one quotient outside INT64, -2^63 by -1, wraps to the value that the rule names. -/
theorem divVal_eq (a b : Word) : divVal a b = Stated.quotS a b := by
  unfold divVal Stated.quotS
  split
  · rfl
  · split
    · next h => rw [h.1, h.2]; rfl
    · rfl
theorem remVal_eq (a b : Word) : remVal a b = Stated.remS a b := by
  unfold remVal Stated.remS
  split
  · rfl
  · split
    · next h => rw [h.1, h.2]; rfl
    · rw [Int.tmod_def, Int.mul_comm]
theorem divuVal_eq (a b : Word) : divuVal a b = Stated.quotU a b := rfl
theorem remuVal_eq (a b : Word) : remuVal a b = Stated.remU a b := by
  rw [remuVal, Stated.remU, Nat.mod_eq_sub_div_mul, w64]

/-! ### Counts of bits (R111) -/

theorem clzVal_toNat {a : Word} (ha : a ≠ 0#64) : (clzVal a).toNat = 63 - a.toNat.log2 := by
  rw [clzVal, if_neg ha, w64, BitVec.toNat_ofNat, Nat.mod_eq_of_lt (by omega)]
/-- The highest set bit of a non-zero word stands at its logarithm. -/
theorem clzVal_spec (a : Word) : (clzVal a).toNat ≤ 64 ∧
    (∀ i, i < 64 → 64 ≤ (clzVal a).toNat + i → a.getLsbD i = false) ∧
    ((clzVal a).toNat < 64 → a.getLsbD (63 - (clzVal a).toNat) = true) := by
  by_cases ha : a = 0#64
  · subst ha; simp [clzVal]
  · have hne : a.toNat ≠ 0 := BitVec.toNat_ne.mp ha
    have htop : a.toNat.log2 < 64 := (Nat.log2_lt hne).mpr a.isLt
    simp only [clzVal_toNat ha, ← BitVec.testBit_toNat]
    refine ⟨by omega, fun i _ hi => ?_, fun _ => ?_⟩
    · exact Nat.testBit_lt_two_pow (Nat.lt_log2_self.trans_le (Nat.pow_le_pow_right (by decide) (by omega)))
    · rw [show 63 - (63 - a.toNat.log2) = a.toNat.log2 by omega]
      exact Nat.testBit_log2 hne
theorem ctzVal_spec (a : Word) : (ctzVal a).toNat ≤ 64 ∧ (∀ i, i < (ctzVal a).toNat → a.getLsbD i = false) ∧
    ((ctzVal a).toNat < 64 → a.getLsbD (ctzVal a).toNat = true) := by
  unfold ctzVal
  cases hf : (List.range 64).find? fun i => a.getLsbD i with
  | none =>
    have hz : ∀ i < 64, a.getLsbD i = false := by simpa using List.find?_range_eq_none.mp hf
    exact ⟨by decide, hz, fun h => absurd h (by decide)⟩
  | some k =>
    obtain ⟨hk, hmem, hlow⟩ := List.find?_range_eq_some.mp hf
    have hlt : k < 64 := List.mem_range.mp hmem
    have hv : (w64 ((some k).getD 64)).toNat = k := Nat.mod_eq_of_lt (hlt.trans (by decide))
    rw [hv]
    exact ⟨hlt.le, fun i hi => by simpa using hlow i hi, fun _ => hk⟩
theorem popcVal_toNat (a : Word) : (popcVal a).toNat = ((List.range 64).filter fun i => a.getLsbD i).length := by
  have hle : (List.range 64).countP (fun i => a.getLsbD i) ≤ 64 := List.countP_le_length
  rw [popcVal, w64, BitVec.toNat_ofNat, Nat.mod_eq_of_lt (by omega), List.countP_eq_length_filter]

/-! ### Permutations of bits (R111) -/

theorem testBit_two_mul_add_bit (n : Nat) (b : Bool) (i : Nat) :
    (2 * n + bit b).testBit i = if i = 0 then b else n.testBit (i - 1) := by
  cases i with
  | zero => cases b <;> simp [bit, Nat.testBit_zero]
  | succ i =>
    have hhalf : (2 * n + bit b) / 2 = n := by unfold bit; split <;> omega
    simp [Nat.testBit_add_one, hhalf]
/-- Bits appended one after another, the first ending up highest: BREV's fold. -/
theorem testBit_foldl_bits (f : Nat → Bool) (k i : Nat) :
    ((List.range k).foldl (fun n j => 2 * n + bit (f j)) 0).testBit i = (decide (i < k) && f (k - 1 - i)) := by
  induction k generalizing i with
  | zero => simp
  | succ k ih =>
    rw [List.range_succ, List.foldl_concat, testBit_two_mul_add_bit]
    cases i with
    | zero => simp
    | succ i => simp [ih, show k - (i + 1) = k - 1 - i by omega]
theorem brevVal_getLsbD (a : Word) (i : Nat) (hi : i < 64) : (brevVal a).getLsbD i = a.getLsbD (63 - i) := by
  rw [brevVal, w64, BitVec.getLsbD_ofNat, testBit_foldl_bits]
  simp [hi]

@[simp] theorem length_leBytes (n v : Nat) : (leBytes n v).length = n := by
  induction n generalizing v with
  | zero => rfl
  | succ n ih => rw [leBytes, List.length_cons, ih]
theorem getElem?_leBytes {n i : Nat} (v : Nat) (hi : i < n) : (leBytes n v)[i]? = some (BitVec.ofNat 8 (v / 256 ^ i)) := by
  induction n generalizing v i with
  | zero => omega
  | succ n ih =>
    cases i with
    | zero => simp [leBytes]
    | succ i => rw [leBytes, List.getElem?_cons_succ, ih _ (by omega), Nat.div_div_eq_div_mul, Nat.pow_succ']
theorem ofNat_leNat_div {l : List Byte} {i : Nat} {b : Byte} (h : l[i]? = some b) : BitVec.ofNat 8 (leNat l / 256 ^ i) = b := by
  induction l generalizing i with
  | nil => simp at h
  | cons x t ih =>
    cases i with
    | zero =>
      obtain rfl : x = b := by simpa using h
      apply BitVec.eq_of_toNat_eq
      simp [leNat, Nat.mod_eq_of_lt x.isLt]
    | succ i =>
      have hdiv : leNat (x :: t) / 256 = leNat t := by
        rw [leNat, Nat.add_mul_div_left _ _ (by decide), Nat.div_eq_of_lt x.isLt, Nat.zero_add]
      rw [Nat.pow_succ', ← Nat.div_div_eq_div_mul, hdiv]
      exact ih (by simpa using h)
theorem bswapVal_byte (a : Word) (i : Nat) (hi : i < 8) :
    (bswapVal a).extractLsb' (8 * i) 8 = a.extractLsb' (8 * (7 - i)) 8 := by
  have hbyte : (leBytes 8 a.toNat).reverse[i]? = some (BitVec.ofNat 8 (a.toNat / 256 ^ (7 - i))) := by
    rw [List.getElem?_reverse (by rwa [length_leBytes]), length_leBytes, getElem?_leBytes _ (by omega)]
  have hpow (k : Nat) : 2 ^ (8 * k) = 256 ^ k := pow_mul 2 8 k
  calc (bswapVal a).extractLsb' (8 * i) 8
      = BitVec.ofNat 8 (leNat (leBytes 8 a.toNat).reverse / 256 ^ i) := by
        rw [bswapVal, w64, extract_ofNat _ (by omega), hpow]
    _ = BitVec.ofNat 8 (a.toNat / 256 ^ (7 - i)) := ofNat_leNat_div hbyte
    _ = (BitVec.ofNat 64 a.toNat).extractLsb' (8 * (7 - i)) 8 := by rw [extract_ofNat _ (by omega), hpow]
    _ = a.extractLsb' (8 * (7 - i)) 8 := by rw [BitVec.ofNat_toNat, BitVec.setWidth_eq]

/-! ### Fields (R112) -/

theorem width64_bits (w : Word) (lo : Nat) : width64 (bits w lo 6) = Stated.fieldLen w lo := rfl
theorem fieldLen_pos (w : Word) (lo : Nat) : 0 < Stated.fieldLen w lo := by unfold Stated.fieldLen; split <;> omega
theorem fieldLen_le (w : Word) (lo : Nat) : Stated.fieldLen w lo ≤ 64 := by unfold Stated.fieldLen; split <;> omega

/-- Shifting a field of width n to the top and back: below bit n the word's own bits, from there on copies of bit n - 1. -/
theorem sextVal_getLsbD (a b : Word) (i : Nat) (hi : i < 64) :
    (sextVal a b).getLsbD i = a.getLsbD (min i (Stated.fieldLen b 0 - 1)) := by
  have hpos := fieldLen_pos b 0
  have hle := fieldLen_le b 0
  simp only [sextVal, width64_bits]
  generalize Stated.fieldLen b 0 = n at hpos hle ⊢
  rw [BitVec.getLsbD_sshiftRight, BitVec.msb_eq_getLsbD_last]
  by_cases hin : i < n
  · rw [if_pos (by omega), BitVec.getLsbD_shiftLeft, show min i (n - 1) = i by omega]
    simp [hi, show 64 - n + i < 64 by omega]
  · rw [if_neg (by omega), BitVec.getLsbD_shiftLeft, show min i (n - 1) = n - 1 by omega]
    simp [hi, show ¬ 63 < 64 - n by omega, show 63 - (64 - n) = n - 1 by omega]
theorem zextVal_getLsbD (a b : Word) (i : Nat) :
    (zextVal a b).getLsbD i = (a.getLsbD i && decide (i < Stated.fieldLen b 0)) := by
  have hle := fieldLen_le b 0
  simp only [zextVal, width64_bits]
  generalize Stated.fieldLen b 0 = n at hle ⊢
  rw [BitVec.getLsbD_ushiftRight, BitVec.getLsbD_shiftLeft]
  simp [show 64 - n + i < 64 ↔ i < n by omega, Bool.and_comm]
theorem bfxVal_getLsbD (a b : Word) (i : Nat) (hi : i < 64) :
    (bfxVal a b).getLsbD i = (a.getLsbD (b.toNat % 64 + i) && decide (i < Stated.fieldLen b 8)) := by
  rw [bfxVal, width64_bits, bits_zero_six, w64, BitVec.getLsbD_ofNat, Nat.testBit_mod_two_pow, Nat.testBit_div_two_pow,
    BitVec.testBit_toNat]
  simp [hi, Bool.and_comm, Nat.add_comm]
/-- BFI's mask. -/
theorem getLsbD_fieldMask {i : Nat} (pos len : Nat) (hi : i < 64) :
    (w64 ((2 ^ len - 1) * 2 ^ pos)).getLsbD i = decide (pos ≤ i ∧ i < pos + len) := by
  rw [w64, BitVec.getLsbD_ofNat, Nat.testBit_mul_two_pow, Nat.testBit_two_pow_sub_one, Bool.eq_iff_iff]
  simp only [hi, decide_true, Bool.true_and, Bool.and_eq_true, decide_eq_true_eq]
  omega
theorem bfiVal_getLsbD (d a b : Word) (i : Nat) (hi : i < 64) :
    (bfiVal d a b).getLsbD i =
      if b.toNat % 64 ≤ i ∧ i < b.toNat % 64 + Stated.fieldLen b 8 then a.getLsbD (i - b.toNat % 64) else d.getLsbD i := by
  simp only [bfiVal, width64_bits, bits_zero_six, BitVec.getLsbD_or, BitVec.getLsbD_and, BitVec.getLsbD_not,
    getLsbD_fieldMask _ _ hi, BitVec.getLsbD_shiftLeft]
  by_cases h : b.toNat % 64 ≤ i ∧ i < b.toNat % 64 + Stated.fieldLen b 8
  · simp [h, hi]
  · simp only [if_neg h, decide_eq_false h, hi, decide_true, Bool.not_false, Bool.and_true, Bool.true_and, Bool.and_false,
      Bool.or_false]

end Sys2Proof.Laws
end

section
/-! The forms of the integer register operations in major 0x01: from an operation's arm of `exec` to the form that the rules state, and the
words of the major that are refused (R59, R65). -/

namespace Sys2Proof.Laws

open Sys2Proof Sys2Proof.Machine

theorem strandOp_of_runs {s : State} {id : Nat} {c : Ctx} {i : Instr} (h : Stated.Runs s id c i) (f : Nat → Ctx → State) :
    strandOp s i f = .next (f id c) := by
  obtain ⟨hcur, hctx, hstage, hhome, hpend, hsup⟩ := h
  exact strandOp_runs s id c i f hcur hctx hsup hstage hhome hpend

/-- `g` is the result as the model computes it, `f` the result as the rule states it; the word and the arm of `exec` are read off the model. -/
theorem regForm_of_result {mk : Reg → Reg → Reg → Instr} {fn : BitVec 9} {f g : Word → Word → Word → Word}
    (hg : ∀ d a b, g d a b = f d a b)
    (hword : ∀ d a b, encode (mk d a b) = [mkR fn b a d 0x01#6 0#2] := by intros; rfl)
    (harm : ∀ d a b s, exec (mk d a b) s =
      strandOp s (mk d a b) fun id c => s.finishG id d (g (c.getG d) (c.getG a) (c.getG b)) 4 := by intros; rfl) :
    Stated.RegForm mk fn f := by
  refine fun d a b => ⟨hword d a b, fun s id c hr => ?_⟩
  rw [harm, strandOp_of_runs hr, hg]
theorem litForm_of_result {mk : Reg → Reg → Word → Instr} {fn : BitVec 9} {f g : Word → Word → Word → Word}
    (hg : ∀ d a b, g d a b = f d a b)
    (hword : ∀ d a lit, encode (mk d a lit) = litWords (mkR fn 0#5 a d 0x01#6 1#2) lit := by intros; rfl)
    (harm : ∀ d a lit s, exec (mk d a lit) s =
      strandOp s (mk d a lit) fun id c => s.finishG id d (g (c.getG d) (c.getG a) lit) 12 := by intros; rfl) :
    Stated.LitForm mk fn f := by
  refine fun d a lit => ⟨hword d a lit, fun s id c hr => ?_⟩
  rw [harm, strandOp_of_runs hr, hg]
theorem oneForm_of_result {mk : Reg → Reg → Instr} {fn : BitVec 9} {p : Word → Word → Prop} {g : Word → Word}
    (hg : ∀ a, p a (g a))
    (hword : ∀ d a, encode (mk d a) = [mkR fn 0#5 a d 0x01#6 0#2] := by intros; rfl)
    (harm : ∀ d a s, exec (mk d a) s = strandOp s (mk d a) fun id c => s.finishG id d (g (c.getG a)) 4 := by intros; rfl) :
    Stated.OneForm mk fn p := by
  refine fun d a => ⟨hword d a, fun s id c hr => ⟨g (c.getG a), hg _, ?_⟩⟩
  rw [harm, strandOp_of_runs hr]

/-- R59: an operation of major 0x01 without a literal form is refused with a literal. -/
theorem decode_literal_refused {fn : BitVec 9} (hlit : litOp fn.toNat = none) (d a b : Reg) (lit : Word) :
    decode (Words.ofList (litWords (mkR fn b a d 0x01#6 1#2) lit)) = .error .lenMismatch := by
  refine (decode_01 _ (fOp_mkR ..)).trans ?_
  simp [decInt, Words.ofList, litWords, hlit]
/-- R65: a one-operand operation of major 0x01 is refused with a non-zero B. -/
theorem decode_nonzero_B_refused {fn : BitVec 9} {mk : Reg → Reg → Instr} (hlit : litOp fn.toNat = none)
    (hreg3 : regOp3 fn.toNat = none) (hreg2 : regOp2 fn.toNat = some mk) (d a : Reg) {b : Reg} (hb : b ≠ 0#5) :
    decode (Words.ofList [mkR fn b a d 0x01#6 0#2]) = .error .reservedField := by
  refine (decode_01 _ (fOp_mkR ..)).trans ?_
  simp [decInt, Words.ofList, hlit, hreg3, hreg2, hb]

end Sys2Proof.Laws
end

section
/-! The statements on integer register operations (R107-R112), settled. -/

namespace Sys2Proof.Laws

open Sys2Proof Sys2Proof.Machine

/-- Settles O2: the plain operations by their arms alone, SEL, the minima and maxima and the comparisons through their result lemmas. -/
theorem arithmeticAndLogic : Obligations.ArithmeticAndLogic :=
  ⟨regForm_of_result fun _ _ _ => rfl, litForm_of_result fun _ _ _ => rfl,
   regForm_of_result fun _ _ _ => rfl, litForm_of_result fun _ _ _ => rfl,
   regForm_of_result fun _ _ _ => rfl, litForm_of_result fun _ _ _ => rfl,
   regForm_of_result fun _ _ _ => rfl, litForm_of_result fun _ _ _ => rfl,
   regForm_of_result fun _ _ _ => rfl, litForm_of_result fun _ _ _ => rfl,
   regForm_of_result fun _ _ _ => rfl, litForm_of_result fun _ _ _ => rfl,
   regForm_of_result fun _ _ _ => rfl, litForm_of_result fun _ _ _ => rfl,
   regForm_of_result selVal_eq, litForm_of_result selVal_eq,
   regForm_of_result fun _ => minS_eq, litForm_of_result fun _ => minS_eq,
   regForm_of_result fun _ => maxS_eq, litForm_of_result fun _ => maxS_eq,
   regForm_of_result fun _ => minU_eq, litForm_of_result fun _ => minU_eq,
   regForm_of_result fun _ => maxU_eq, litForm_of_result fun _ => maxU_eq,
   regForm_of_result fun _ => boolWord_slt, litForm_of_result fun _ => boolWord_slt,
   regForm_of_result fun _ => boolWord_ult, litForm_of_result fun _ => boolWord_ult,
   regForm_of_result fun _ => boolWord_eq, litForm_of_result fun _ => boolWord_eq⟩

theorem litOp_shift {fn : BitVec 9} (h : fn = 0x008#9 ∨ fn = 0x009#9 ∨ fn = 0x00A#9 ∨ fn = 0x00B#9) : litOp fn.toNat = none := by
  rcases h with rfl | rfl | rfl | rfl <;> rfl

/-- Settles O3: the products through the 128-bit form of the exact product; the shifts' function codes have no literal form. -/
theorem shiftsAndProducts : Obligations.ShiftsAndProducts :=
  ⟨regForm_of_result fun _ => shlVal_eq, regForm_of_result fun _ => shrVal_eq,
   regForm_of_result fun _ => sraVal_eq, regForm_of_result fun _ => rotrVal_eq,
   regForm_of_result fun _ => mul_eq_low_half, litForm_of_result fun _ => mul_eq_low_half,
   regForm_of_result fun _ => mulhVal_eq, litForm_of_result fun _ => mulhVal_eq,
   regForm_of_result fun _ => mulhuVal_eq, litForm_of_result fun _ => mulhuVal_eq,
   fun _ d a b lit _ hfn => by rw [decode_literal_refused (litOp_shift hfn)]; exact nofun⟩

/-- Settles O4: the model's truncating quotient and remainder already give the overflow case that the rule lists by itself. -/
theorem division : Obligations.Division :=
  ⟨regForm_of_result fun _ => divVal_eq, litForm_of_result fun _ => divVal_eq,
   regForm_of_result fun _ => divuVal_eq, litForm_of_result fun _ => divuVal_eq,
   regForm_of_result fun _ => remVal_eq, litForm_of_result fun _ => remVal_eq,
   regForm_of_result fun _ => remuVal_eq, litForm_of_result fun _ => remuVal_eq⟩

/-- R111's five function codes name one-operand operations and nothing else. -/
theorem oneOperand_codes {fn : BitVec 9} (h : fn = 0x020#9 ∨ fn = 0x021#9 ∨ fn = 0x022#9 ∨ fn = 0x023#9 ∨ fn = 0x024#9) :
    litOp fn.toNat = none ∧ regOp3 fn.toNat = none ∧ ∃ mk, regOp2 fn.toNat = some mk := by
  rcases h with rfl | rfl | rfl | rfl | rfl <;> exact ⟨rfl, rfl, _, rfl⟩

/-- Settles O5: each operation's result read bit by bit, and the refusal of a non-zero B by the decoder. -/
theorem bitOperations : Obligations.BitOperations := by
  refine ⟨⟨oneForm_of_result clzVal_spec, oneForm_of_result ctzVal_spec, oneForm_of_result popcVal_toNat,
    oneForm_of_result brevVal_getLsbD, oneForm_of_result bswapVal_byte, fun fn d a b i hfn hb => ?_,
    fun s id c hr => strandOp_of_runs hr _⟩, fun d a b => ⟨rfl, rfl, rfl, rfl⟩, fun s id c d a b =>
    ⟨fun hr => ⟨_, strandOp_of_runs hr _, sextVal_getLsbD _ _⟩, fun hr => ⟨_, strandOp_of_runs hr _, fun i _ => zextVal_getLsbD _ _ i⟩,
      fun hr => ⟨_, strandOp_of_runs hr _, bfxVal_getLsbD _ _⟩, fun hr => ⟨_, strandOp_of_runs hr _, bfiVal_getLsbD _ _ _⟩⟩⟩
  obtain ⟨hlit, hreg3, mk, hreg2⟩ := oneOperand_codes hfn
  rw [decode_nonzero_B_refused hlit hreg3 hreg2 d a hb]
  exact nofun

end Sys2Proof.Laws
end
